-- ==== Sys2Proof/Word.lean ====
section
/-!
DEFINITION. Word.lean: the machine's word types and the plainest arithmetic on them (R10, R11, R15).
-/

namespace Sys2Proof

/-- One byte (R11: values in memory are little-endian sequences of bytes). -/
abbrev Byte := BitVec 8
/-- A 32-bit instruction word, vector lane or team control register. -/
abbrev Word := BitVec 32
/-- A 64-bit uniform register, address or operand. -/
abbrev Dword := BitVec 64
/-- The full 1,024-bit lane mask of a team (R42). -/
abbrev Mask := BitVec 1024

/-- Bits `[lo+n-1 : lo]` of a natural number (R11). -/
def bitsAt (x lo n : Nat) : Nat := x / 2 ^ lo % 2 ^ n

/-- Two's-complement reading of an `n`-bit field (R15 SignExtend). -/
def signOf (n x : Nat) : Int := if x < 2 ^ (n - 1) then (x : Int) else (x : Int) - 2 ^ n

/-- The `n`-bit field that holds a two's-complement integer (the inverse of `signOf`). -/
def fieldOf (n : Nat) (x : Int) : Nat := (x % 2 ^ n).toNat

/-- Round `x` up to a multiple of `m`. -/
def roundUpTo (m x : Nat) : Nat := (x + m - 1) / m * m

end Sys2Proof
end

