-- ==== Sys2Proof/Config.lean ====
section
/-!
DEFINITION. Config.lean: what the manual leaves open. Every constant here has no body: nothing can be proved of its
value. Each is applied to the plain counter `oracle` of the state (a fresh value at each use) or to the operands.
-/

namespace Sys2Proof

/-- A free choice between two permitted outcomes: applied to the state's counter and to a number that says which
choice of the step it is. DESIGN CHOICE, log entry 1. -/
opaque Config.freeBool : Nat → Nat → Bool

/-- A free number, for results the manual does not state. -/
opaque Config.freeNat : Nat → Nat → Nat

/-- Which of the two representable neighbours a faithful function gives (R115): a function of the operation, the
element type and the operand alone, since one input always gives one result. DESIGN CHOICE, log entry 4. -/
opaque Config.faithfulUp : Nat → Nat → Nat → Bool

/-- The fixed hash of a line address that indexes the read-set signature (R256). -/
opaque Config.lineHash : Nat → Nat

/-- The home slice of a local line (R29): a fixed hash that nothing but an error of a slice's own structures shows.
DESIGN CHOICE, log entry 24. -/
opaque Config.homeSlice : Nat → Nat

/-- The digests and versions of the firmware images loaded (R303). -/
opaque Config.firmware : List Nat

/-- The Vendor ID of PF0 (R289). -/
opaque Config.vendorId : BitVec 16

/-- What stands in the configuration space of a function where the manual names no register: by function and byte. -/
opaque Config.configByte : Nat → Nat → BitVec 8

/-- The digest that a signed report carries (R7, R303): of the fields, under the device's identity key.
DESIGN CHOICE, log entry 66. -/
opaque Config.signature : List Nat → BitVec 512

end Sys2Proof
end

