-- ==== Sys2Proof/Syntax.lean ====
section
/-!
DEFINITION. Syntax.lean: the names of things (R41 to R60, R84 to R110) and the ONE inductive `Instr`: one
constructor for every row of the opcode table, the 156 encoded instructions first and the 144 device events after.
-/

namespace Sys2Proof

/-- The ten conditions of ICMP and SCMP (R104). -/
inductive Cond where
  | eq | ne | lt | le | gt | ge | ltu | leu | gtu | geu
deriving DecidableEq, Repr

/-- The eight conditions of FCMP (R104). -/
inductive FCond where
  | eq | ne | lt | le | gt | ge | ord | uno
deriving DecidableEq, Repr

/-- The floating element types of FCVT (R105). -/
inductive FTy where
  | f32 | f16 | bf16 | f64 | dm8
deriving DecidableEq, Repr

/-- The integer types of F2I and I2F (R105). -/
inductive ITy where
  | s8 | s16 | s32 | s64 | n8 | n16 | n32 | n64
deriving DecidableEq, Repr

/-- The seven scopes of FLUSH, INVAL and FENCE (R108), smallest first (R206). -/
inductive Scope where
  | team | core | cluster | gang | device | pool | fabric
deriving DecidableEq, Repr

/-- The twelve atomic operations (R107); `xchg` is no operation of RED. -/
inductive AtomOp where
  | add | and | or | xor | minS | maxS | minU | maxU | xchg | fadd | fmin | fmax
deriving DecidableEq, Repr

/-- The width and extension of LD (R92, opcodes 0x60 to 0x66). -/
inductive LdW where
  | b8 | s8 | b16 | s16 | b32 | b64 | b128
deriving DecidableEq, Repr

/-- The width of ST (R92, opcodes 0x68 to 0x6C). -/
inductive StW where
  | b8 | b16 | b32 | b64 | b128
deriving DecidableEq, Repr

/-- The index forms of the memory rows of R107: SUB 0, 1 and 2. -/
inductive Index where
  | absent | x1 | scaled
deriving DecidableEq, Repr

/-- The FENCE sub-operations (R107). -/
inductive FenceKind where
  | full | release | acquire
deriving DecidableEq, Repr

/-- Which lines FLUSH and INVAL act on (R107). -/
inductive LineSel where
  | cursor | bounds | held
deriving DecidableEq, Repr

/-- The eight KGET fields (R106). -/
inductive KField where
  | cur | base | top | len | perm | gen | otype | state
deriving DecidableEq, Repr

/-- A team's name on the device: its gang's ticket (R51), its core's place in the gang (R48) and its index in the
workgroup (R45). Tickets are unique among live gangs, so the name is too. -/
structure TeamId where
  ticket : Nat
  gx : Nat
  gy : Nat
  idx : Nat
deriving DecidableEq, Repr

/-- A workgroup's name: its gang's ticket and its place in the gang (R46, R48). -/
structure WgId where
  ticket : Nat
  gx : Nat
  gy : Nat
deriving DecidableEq, Repr

/-- One mailbox command area after its opcode (R291): bytes 2 and 3, SEQ, and the seven parameters. -/
structure Mail where
  reserved : BitVec 16
  seq : BitVec 32
  p0 : Dword
  p1 : Dword
  p2 : Dword
  p3 : Dword
  p4 : Dword
  p5 : Dword
  p6 : Dword
deriving DecidableEq, Repr

/-- One fabric packet header (R296), field by field; `zeros` is its reserved bytes 22, 23, 37 to 39 and 44 to 47. -/
structure FabHdr where
  kind : BitVec 8
  flags : BitVec 8
  dst : BitVec 16
  src : BitVec 16
  sctx : BitVec 8
  op : BitVec 8
  address : Dword
  reqid : BitVec 48
  sent : Dword
  ticket : Word
  tags : BitVec 8
  check : Word
  mask : BitVec 128
  zeros : BitVec 72
deriving DecidableEq, Repr

/-- The containment choices of R272. -/
inductive Choice where
  | resume | skip | restart | kill
deriving DecidableEq, Repr

/-- The structures whose uncorrectable errors R281 tells apart. -/
inductive ErrSite where
  /-- A line of the L2 or of a scratchpad bank, by its line key. -/
  | line (line : Nat)
  /-- A cluster cache's copy of a line. -/
  | clusterLine (cluster line : Nat)
  /-- A line of the line-check region, by the 4 KiB block of local memory it covers. -/
  | checkRegion (block : Nat)
  /-- A line of the tag region, by the 16 KiB block of local memory it covers. -/
  | tagRegion (block : Nat)
  /-- A page table of level 3 to 1 of a context. -/
  | pageTable (ctx level va : Nat)
  /-- A level 0 entry of a context, by page. -/
  | leaf (ctx page : Nat)
  /-- The sharer tracking of the home slice that holds a line. -/
  | sharers (line : Nat)
  /-- A router merge buffer, by the request it holds. -/
  | mergeBuffer (k : Nat)
  /-- Register file, tile file, accumulator store or control store of a team's context slot. -/
  | coreState (t : TeamId)
deriving DecidableEq, Repr

/-- Where a host request lands: a device physical address through CXL or a BAR (R300), or a function's register page. -/
inductive HostTarget where
  | device (frameAddr : Nat)
  | notifyReg (fn vq : Nat)
  | mailbox (offset : Nat)
deriving DecidableEq, Repr

/-- The instructions and events of the device: one constructor per row of the opcode table (R92 to R110 for the
encoded ones; the other rows are steps the device takes by itself or at an outside input). Register fields are
register numbers; `i`, `off` immediates and offsets as the integers they stand for; `la` the lookahead count. -/
inductive Instr where
  -- control (R101)
  | bra (off : Int)
  | brc (all : Bool) (p : Nat) (off : Int)
  | brd (neg : Bool) (p : Nat) (off : Int)
  | call (off : Int)
  | mark (off : Int)
  | nop
  | ret (a : Nat)
  | join
  | exit
  | yield
  | rte
  | bkpt
  | trap (code : Nat)
  -- mode, predicate and lane (R102)
  | setmode (b : Nat)
  | setfmt (b : Nat)
  | pand (d a b : Nat)
  | por (d a b : Nat)
  | pxor (d a b : Nat)
  | pnot (d a : Nat)
  | rflLane (d a : Nat) (wide : Bool)
  | shflIdx (d a b : Nat)
  | shflUp (d a b : Nat)
  | shflDown (d a b : Nat)
  | shflXor (d a b : Nat)
  | voteAny (d a : Nat)
  | voteAll (d a : Nat)
  | voteCount (d a : Nat)
  -- vector integer (R103, R104); wide = the 64-bit class
  | iadd (wide : Bool) (d a b : Nat)
  | iaddI (d a : Nat) (i : Int)
  | isub (wide : Bool) (d a b : Nat)
  | imul (wide : Bool) (d a b : Nat)
  | imulI (d a : Nat) (i : Int)
  | imulh (wide : Bool) (d a b : Nat)
  | imulhUnsigned (wide : Bool) (d a b : Nat)
  | imad (wide : Bool) (d a b : Nat)
  | imin (wide : Bool) (d a b : Nat) (unsigned : Bool)
  | imax (wide : Bool) (d a b : Nat) (unsigned : Bool)
  | iabs (wide : Bool) (d a : Nat)
  | and (wide : Bool) (d a b : Nat)
  | andI (d a : Nat) (i : Int)
  | andn (wide : Bool) (d a b : Nat)
  | or (wide : Bool) (d a b : Nat)
  | orI (d a : Nat) (i : Int)
  | xor (wide : Bool) (d a b : Nat)
  | xorI (d a : Nat) (i : Int)
  | shl (wide : Bool) (d a b : Nat)
  | shlI (d a : Nat) (i : Int)
  | shr (wide : Bool) (d a b : Nat)
  | shrI (d a : Nat) (i : Int)
  | sar (wide : Bool) (d a b : Nat)
  | sarI (d a : Nat) (i : Int)
  | bfx (wide : Bool) (d a b : Nat) (unsigned : Bool)
  | bfi (wide : Bool) (d a b : Nat)
  | popc (wide : Bool) (d a : Nat)
  | clz (wide : Bool) (d a : Nat)
  | mov (wide : Bool) (d b : Nat)
  | movi (d : Nat) (i : Int)
  | icmp (wide : Bool) (d a b : Nat) (c : Cond)
  | sel (d a b : Nat) (wide neg : Bool) (p : Nat)
  -- uniform integer (R103, R104); wide = UINT64 (0x30), else UINT32 (0x33)
  | sadd (wide : Bool) (d a b : Nat)
  | saddI (d a : Nat) (i : Int)
  | ssub (wide : Bool) (d a b : Nat)
  | smul (wide : Bool) (d a b : Nat)
  | smulI (d a : Nat) (i : Int)
  | smulh (wide : Bool) (d a b : Nat)
  | smulhUnsigned (wide : Bool) (d a b : Nat)
  | smad (wide : Bool) (d a b : Nat)
  | smin (wide : Bool) (d a b : Nat) (unsigned : Bool)
  | smax (wide : Bool) (d a b : Nat) (unsigned : Bool)
  | sand (wide : Bool) (d a b : Nat)
  | sandI (d a : Nat) (i : Int)
  | sor (wide : Bool) (d a b : Nat)
  | sorI (d a : Nat) (i : Int)
  | sxor (wide : Bool) (d a b : Nat)
  | sxorI (d a : Nat) (i : Int)
  | sshl (wide : Bool) (d a b : Nat)
  | sshlI (d a : Nat) (i : Int)
  | sshr (wide : Bool) (d a b : Nat)
  | sshrI (d a : Nat) (i : Int)
  | ssar (wide : Bool) (d a b : Nat)
  | ssarI (d a : Nat) (i : Int)
  | sbfx (wide : Bool) (d a b : Nat) (unsigned : Bool)
  | smov (wide : Bool) (d b : Nat)
  | smovi (d : Nat) (i : Int)
  | scmp64 (d a b : Nat) (c : Cond)
  | scmp32 (d a b : Nat) (c : Cond)
  | ssel (d a b : Nat) (all : Bool) (p : Nat)
  -- floating (R105)
  | fadd (d a b : Nat)
  | fsub (d a b : Nat)
  | fmul (d a b : Nat)
  | fma (d a b : Nat)
  | fmin (d a b : Nat)
  | fmax (d a b : Nat)
  | fabs (d a : Nat)
  | fneg (d a : Nat)
  | frint (d a : Nat)
  | fclass (d a : Nat)
  | fcmp (d a b : Nat) (c : FCond)
  | fcvt (d a : Nat) (src dst : FTy)
  | f2i (d a : Nat) (t : ITy)
  | i2f (d a : Nat) (t : ITy)
  | frcp (d a la : Nat)
  | frsq (d a la : Nat)
  | fsqrt (d a la : Nat)
  | fdiv (d a b la : Nat)
  | fexp2 (d a la : Nat)
  | flog2 (d a la : Nat)
  | fsin (d a la : Nat)
  | fcos (d a la : Nat)
  -- capabilities (R106); lane = the CAPL class
  | kinc (lane : Bool) (d a b : Nat)
  | kincI (lane : Bool) (d a : Nat) (i : Int)
  | kset (lane : Bool) (d a b : Nat)
  | kbnd (lane : Bool) (d a b : Nat)
  | kprm (lane : Bool) (d a b : Nat)
  | kseal (lane : Bool) (d a b : Nat)
  | kopen (lane : Bool) (d a b : Nat)
  | kget (lane : Bool) (d a : Nat) (f : KField)
  | ksub (lane : Bool) (d a b : Nat)
  | kmov (lane : Bool) (d a : Nat)
  | kclr (lane : Bool) (d : Nat)
  | ksweep (lane : Bool) (d a la : Nat)
  -- memory and ordering (R107, R108)
  | ld (w : LdW) (d a b : Nat) (ix : Index) (la : Nat)
  | st (w : StW) (d a b : Nat) (ix : Index) (la : Nat)
  | ldc (d a b : Nat) (ix : Index) (la : Nat)
  | stc (d a b : Nat) (ix : Index) (la : Nat)
  | ldu (wide : Bool) (d a b : Nat) (ix : Index) (la : Nat)
  | stu (wide : Bool) (d a b : Nat) (ix : Index) (la : Nat)
  | ldcu (d a b : Nat) (ix : Index) (la : Nat)
  | stcu (d a b : Nat) (ix : Index) (la : Nat)
  | pref (a b : Nat) (indexed : Bool) (la : Nat)
  | flush (c : Scope) (a : Nat) (sel : LineSel) (la : Nat)
  | inval (c : Scope) (a : Nat) (sel : LineSel) (la : Nat)
  | fence (c : Scope) (k : FenceKind) (la : Nat)
  | drain (la : Nat)
  | atom (wide : Bool) (op : AtomOp) (d a b la : Nat)
  | cas (wide : Bool) (d a b la : Nat)
  | red (wide : Bool) (op : AtomOp) (d a b la : Nat)
  | cadd (d a b : Nat) (returns : Bool) (la : Nat)
  | cwait (d a b : Nat) (timed : Bool) (la : Nat)
  | job (a b la : Nat)
  | task (a b la : Nat)
  | launch (a b la : Nat)
  -- matrix (R107, R109)
  | mma (acc tile map : Nat) (reuse pair overwrite : Bool) (la : Nat)
  | mza (acc la : Nat)
  | mldt (d a b : Nat) (colMajor : Bool) (la : Nat)
  | mlda (d a b la : Nat)
  | msta (d a b : Nat) (toAtype : Bool) (la : Nat)
  | mmap (d a la : Nat)
  | mchk (d la : Nat)
  -- system (R110) and prefixes (R76)
  | sysr (d b : Nat)
  | sysw (a b : Nat)
  | tlbinv (a : Nat)
  | tlbinvAll
  | pgmap (d a : Nat)
  | imm (payload : Nat)
  | uni (s : Nat)
  -- events of teams and of the matrix engine
  | longLatencyComplete (t : TeamId) (k : Nat)
  | matrixQueueExecute (g : WgId)
  | pairingRequest (g : WgId)
  | pairingReply (g : WgId)
  | pairTimeout (g : WgId)
  | trapEntry (t : TeamId)
  | containmentFreeze (ctx : Nat)
  | eventLost (ctx : Nat)
  | resume (m : Mail)
  | skip (m : Mail)
  | restart (m : Mail)
  | kill (m : Mail)
  | trapEsc (v : Dword)
  | bankMode (bank : Nat) (v : Dword)
  | bankSwitchComplete (core bank : Nat)
  | sweepCtl (v : Dword)
  | revCtl (n : Nat) (v : Dword)
  | injCtl (v : Dword)
  | systemRegisterWrite (num inst : Nat) (v : Dword)
  | sweepPassStart (ctx : Nat)
  | sweepRegisterSweep (g : WgId)
  | sweepMemoryScan (ctx : Nat)
  | sweepPassEnd (ctx : Nat)
  | monitorWake (t : TeamId)
  | cwaitPoll (t : TeamId)
  | cwaitTimeout (t : TeamId)
  | mergeBufferSend (k : Nat)
  | remoteRetransmit (id : Nat)
  | atomIndet (id : Nat)
  | movedRefusal (id : Nat)
  -- gangs, cores and queues
  | gangRetire (ticket : Nat)
  | dispatch
  | preempt
  | dispatchHold (launchId : Nat)
  | slotSwitch (core : Nat)
  | streamOut (ticket : Nat)
  | streamIn (ticket : Nat)
  | notify (fn vq port : Nat)
  | packetFetch (slot : Nat)
  | nopPacket (slot : Nat)
  | launchPacket (slot : Nat)
  | jobPacket (slot : Nat)
  | waitctr (slot : Nat)
  | waitctrTimeout (slot num : Nat)
  | addctr (slot : Nat)
  | taskPacket (slot : Nat)
  | marker (slot : Nat)
  | packetComplete (slot num : Nat)
  | phaseDrainComplete (ctx : Nat)
  -- engines
  | copy (e : Nat)
  | copy2d (e : Nat)
  | fill (e : Nat)
  | gather (e : Nat)
  | redscat (e : Nat)
  | allgath (e : Nat)
  | publish (e : Nat)
  | cin (e : Nat)
  | cout (e : Nat)
  | jobComplete (e : Nat)
  -- further steps the device owes itself
  | ctxSaveComplete (ctx : Nat)
  | migrationMove (ctx page : Nat)
  | watchdog (launchId : Nat)
  | syncLost
  | transitRestart
  | wake (part : Nat)
  | expanderTimeout (n : Nat)
  -- the management mailbox
  | ctxCreate (m : Mail)
  | ctxDestroy (m : Mail)
  | ctxSave (m : Mail)
  | ctxRestore (m : Mail)
  | queueCreate (m : Mail)
  | queueReset (m : Mail)
  | queueDestroy (m : Mail)
  | notifyStage1 (m : Mail)
  | notifyStage2 (m : Mail)
  | funcOwner (m : Mail)
  | capMint (m : Mail)
  | capClear (m : Mail)
  | frameGrant (m : Mail)
  | frameReclaim (m : Mail)
  | quotaSet (m : Mail)
  | pageMap (m : Mail)
  | remoteGrant (m : Mail)
  | pageState (m : Mail)
  | peerGrant (m : Mail)
  | peerRevoke (m : Mail)
  | extentBind (m : Mail)
  | migrate (m : Mail)
  | freeze (m : Mail)
  | delegate (m : Mail)
  | viralEnter (m : Mail)
  | viralClear (m : Mail)
  | orrery (m : Mail)
  | nocWeight (m : Mail)
  | partition (m : Mail)
  | debugState (m : Mail)
  | debugAccess (m : Mail)
  | inject (m : Mail)
  | reset (m : Mail)
  -- the device, its errors and its links
  | bringUp (signatureOk : Bool) (failedClusters : List Nat) (homesOk memoryOk : Bool)
  | transitMismatch
  | uncorrectableError (site : ErrSite)
  | l1ParityError (core line : Nat)
  | timingDetection (t : TeamId) (stage : Nat)
  | expLinkDown (n : Nat)
  | cxlViralIndication (fn : Nat)
  | linkSurpriseLoss (port : Nat)
  | backInvalidationSnoop (line : Nat)
  | hostRead (port fn : Nat) (addr len : Nat) (tagged : Bool := false)
  | hostWrite (port fn : Nat) (addr : Nat) (data : List Byte) (poison : Bool := false) (tags : Option (BitVec 8) := none)
  | functionLevelReset (fn : Nat)
  | tdispStop (fn : Nat)
  | ideStreamLoss (port : Nat)
  | spdmRequest (fn : Nat) (nonce : BitVec 256)
  | keySlotBind (fn keyId : Nat) (key : BitVec 256)
  | extentAdd (num firstFrame ctx : Nat) (expander : Option Nat := none)
  | extentRelease (num : Nat) (expander : Option (Nat × Nat) := none)
  | taskImageArrival (fn : Nat) (image : List Byte)
  | taskStatusReturn (slot num status : Nat)
  | fabricLinkBringup (port peer : Nat) (roundTripNs : Nat)
  | fabricPause (port vc : Nat)
  | fabricResume (port vc : Nat)
  | fabricRead (h : FabHdr)
  | fabricWrite (h : FabHdr) (data : List Byte)
  | fabricAtomic (h : FabHdr) (data : List Byte)
  | fabricCounterAdd (h : FabHdr) (data : List Byte)
  | publishPayload (h : FabHdr) (data : List Byte)
  | publishVersionAdd (h : FabHdr) (data : List Byte)
  | fabricResponse (h : FabHdr) (data : List Byte)
  | fabricAcknowledgement (h : FabHdr)
  | clockSync (ns : Nat)
  | clusterRetention (cluster : Nat)
  | clusterOff (cluster : Nat)
  | deviceIdle
  | expanderAdd (n : Nat)
  | clockGating (part : Nat)
  | ideKeyManagement (port : Nat)
  | tdispRun (fn : Nat)
  | taskKeyInstall (ctx expander fn : Nat) (key : BitVec 256) (salt : Word)
  | backInvalidationResponse (holder line : Nat)
  | mailboxMalformed (opcode : BitVec 16) (m : Mail)
  | fabricHeaderDrop (h : FabHdr)
  | linkLevelRetry (port : Nat)
  | hostLinkTraining (port rate width : Nat)
deriving DecidableEq, Repr

end Sys2Proof
end

