-- ==== Sys2Proof/WellFormed.lean ====
section
/-!
DEFINITION. WellFormed.lean: what the encoding admits for each instruction (R68, R95, R99, R101 to R110): register
classes, immediate ranges and the codes that raise ILLEGAL. Allocation and pair alignment are decided when the
instruction executes (R98), and so are no part of it.
-/

namespace Sys2Proof

/-- v, s: 0 to 63 (R95). -/
def okV (r : Nat) : Bool := r < 64
/-- p: 0 to 7 (R95). -/
def okP (r : Nat) : Bool := r < 8
/-- A capability operand: c0 to c15 as 0 to 15, q0 to q7 as 16 to 23 (R95). -/
def okK (r : Nat) : Bool := r < 24
/-- A capability operand of the uniform class (R95). -/
def okC (r : Nat) : Bool := r < 16
/-- A capability operand of the lane class (R95). -/
def okQ (r : Nat) : Bool := 16 ≤ r && r < 24
/-- A capability destination of CAPU or CAPL (R106). -/
def okKd (lane : Bool) (r : Nat) : Bool := if lane then okQ r else okC r
/-- A capability source of CAPU or CAPL (R106). -/
def okKa (lane : Bool) (r : Nat) : Bool := if lane then okK r else okC r
/-- A lookahead count (R68). -/
def okLa (n : Nat) : Bool := n < 16
/-- A 12-bit signed immediate (R68). -/
def okI (i : Int) : Bool := -2048 ≤ i && i < 2048
/-- A 20-bit signed word offset (R68). -/
def okOff (o : Int) : Bool := -524288 ≤ o && o < 524288
/-- B of a memory instruction: a register number, and 0 where there is no index (R107). -/
def okIx (ix : Index) (b : Nat) : Bool := okV b && (ix != .absent || b == 0)
/-- A operand of FLUSH and INVAL: a c register, and 0 for all lines held (R107). -/
def okSel (sel : LineSel) (a : Nat) : Bool := okC a && (sel != .held || a == 0)

def ok3 (d a b : Nat) : Bool := okV d && okV a && okV b
def ok2 (d a : Nat) : Bool := okV d && okV a
def ok2i (d a : Nat) (i : Int) : Bool := okV d && okV a && okI i

/-- True of the instructions the encoding admits. An event carries no encoding and is always well formed, but for a
bank, port or virtual channel number out of range. -/
def Instr.wf : Instr → Bool
  | .bra o | .call o | .mark o => okOff o
  | .brc _ p o => okP p && okOff o
  | .brd n p o => okP p && okOff o && !(n && p == 0)
  | .ret a => okV a
  | .trap c => c < 4096
  | .setmode b | .setfmt b => okV b
  | .pand d a b | .por d a b | .pxor d a b => okP d && okP a && okP b
  | .pnot d a => okP d && okP a
  | .rflLane d a _ => ok2 d a
  | .shflIdx d a b | .shflUp d a b | .shflDown d a b | .shflXor d a b => ok3 d a b
  | .voteAny d a | .voteAll d a | .voteCount d a => okV d && okP a
  | .iadd _ d a b | .isub _ d a b | .imul _ d a b | .imulh _ d a b | .imulhUnsigned _ d a b | .imad _ d a b
  | .imin _ d a b _ | .imax _ d a b _ | .and _ d a b | .andn _ d a b | .or _ d a b | .xor _ d a b
  | .shl _ d a b | .shr _ d a b | .sar _ d a b | .bfx _ d a b _ | .bfi _ d a b => ok3 d a b
  | .iaddI d a i | .imulI d a i | .andI d a i | .orI d a i | .xorI d a i | .shlI d a i | .shrI d a i
  | .sarI d a i => ok2i d a i
  | .iabs _ d a | .popc _ d a | .clz _ d a => ok2 d a
  | .mov _ d b => ok2 d b
  | .movi d i => okV d && okI i
  | .icmp _ d a b _ => okP d && okV a && okV b
  | .sel d a b _ n p => ok3 d a b && okP p && !(n && p == 0)
  | .sadd _ d a b | .ssub _ d a b | .smul _ d a b | .smulh _ d a b | .smulhUnsigned _ d a b | .smad _ d a b
  | .smin _ d a b _ | .smax _ d a b _ | .sand _ d a b | .sor _ d a b | .sxor _ d a b | .sshl _ d a b
  | .sshr _ d a b | .ssar _ d a b | .sbfx _ d a b _ => ok3 d a b
  | .saddI d a i | .smulI d a i | .sandI d a i | .sorI d a i | .sxorI d a i | .sshlI d a i | .sshrI d a i
  | .ssarI d a i => ok2i d a i
  | .smov _ d b => ok2 d b
  | .smovi d i => okV d && okI i
  | .scmp64 d a b _ | .scmp32 d a b _ => okP d && okV a && okV b
  | .ssel d a b _ p => ok3 d a b && okP p
  | .fadd d a b | .fsub d a b | .fmul d a b | .fma d a b | .fmin d a b | .fmax d a b => ok3 d a b
  | .fabs d a | .fneg d a | .frint d a | .fclass d a => ok2 d a
  | .fcmp d a b _ => okP d && okV a && okV b
  | .fcvt d a s t => ok2 d a && s != t
  | .f2i d a _ | .i2f d a _ => ok2 d a
  | .frcp d a l | .frsq d a l | .fsqrt d a l | .fexp2 d a l | .flog2 d a l | .fsin d a l | .fcos d a l =>
      ok2 d a && okLa l
  | .fdiv d a b l => ok3 d a b && okLa l
  | .kinc l d a b | .kset l d a b | .kbnd l d a b | .kprm l d a b => okKd l d && okKa l a && okV b
  | .kincI l d a i => okKd l d && okKa l a && okI i
  | .kseal l d a b | .kopen l d a b => okKd l d && okKa l a && okKa l b
  | .kget l d a _ => okV d && okKa l a
  | .ksub l d a b => okV d && okKa l a && okKa l b
  | .kmov l d a => okKd l d && okKa l a
  | .kclr l d => okKd l d
  | .ksweep l d a la => okKd l d && okKa l a && okLa la
  | .ld _ d a b ix l | .st _ d a b ix l => okV d && okK a && okIx ix b && okLa l
  | .ldc d a b ix l | .stc d a b ix l => okQ d && okK a && okIx ix b && okLa l
  | .ldu _ d a b ix l | .stu _ d a b ix l => okV d && okC a && okIx ix b && okLa l
  | .ldcu d a b ix l | .stcu d a b ix l => okC d && okC a && okIx ix b && okLa l
  | .pref a b ixd l => okK a && okIx (if ixd then .x1 else .absent) b && okLa l
  | .flush _ a s l | .inval _ a s l => okSel s a && okLa l
  | .fence _ _ l | .drain l => okLa l
  | .atom _ _ d a b l | .cas _ d a b l => okV d && okK a && okV b && okLa l
  | .red _ op d a b l => okV d && okK a && okV b && okLa l && op != .xchg
  | .cadd d a b rv l | .cwait d a b rv l => okV d && okC a && okV b && okLa l && (rv || d == 0)
  | .job a b l | .task a b l | .launch a b l => okC a && okV b && okLa l
  | .mma c t m _ _ _ l => c < 8 && t < 16 && m < 16 && okLa l
  | .mza c l => c < 8 && okLa l
  | .mldt d a b _ l => d < 16 && okC a && okV b && okLa l
  | .mlda d a b l | .msta d a b _ l => d < 8 && okC a && okV b && okLa l
  | .mmap d a l => d < 16 && okV a && okLa l
  | .mchk d l => okV d && okLa l
  | .sysr d b => ok2 d b
  | .sysw a b => ok2 a b
  | .tlbinv a => okV a
  | .pgmap d a => ok2 d a
  | .imm p => p < 16777216
  | .uni s => okV s
  | .bankMode b _ => b < 16
  | .bankSwitchComplete _ b => b < 4
  | .notify _ _ port | .ideStreamLoss port | .linkSurpriseLoss port | .ideKeyManagement port
  | .hostLinkTraining port _ _ => port < 2
  | .fabricPause port vc | .fabricResume port vc => port < 128 && vc < 4
  | .linkLevelRetry port | .fabricLinkBringup port _ _ => port < 128
  | _ => true

end Sys2Proof
end

