-- ==== Sys2Proof/Decode.lean ====
section
/-!
DEFINITION. Decode.lean: the decoder, total on any word and rejecting by name (R68, R92 to R110), and after it the
encoder, written from the same tables. A word is a natural number below 2^32, cut into the opcode and four fields.
-/

namespace Sys2Proof

/-- Why a word is no instruction; each raises ILLEGAL at step 1 of R78. -/
inductive DecodeError where
  /-- The primary opcode is unallocated (R92). -/
  | opcode
  /-- The function code, SUB, VAR, COND, scope or field code is unallocated (R101 to R109). -/
  | code
  /-- A field that must be zero is not (R95). -/
  | reserved
  /-- A register field names a register outside its class (R95). -/
  | register
  /-- A UNI prefix with a non-zero PAYLOAD[17:0] (R76). -/
  | payload
  /-- The bytes end before the word does. -/
  | short
deriving DecidableEq, Repr

/-- The fields of the three-register format (R68), which every other format regroups: OP, D, A, B, FN. -/
structure Fields where
  op : Nat
  d : Nat
  a : Nat
  b : Nat
  fn : Nat
deriving DecidableEq, Repr

/-- Cut a word into its fields (R68). -/
def Fields.ofWord (w : Nat) : Fields :=
  ⟨w / 16777216 % 256, w / 262144 % 64, w / 4096 % 64, w / 64 % 64, w % 64⟩

/-- The word of five fields (R68). -/
def Fields.toWord (f : Fields) : Nat := f.op * 16777216 + f.d * 262144 + f.a * 4096 + f.b * 64 + f.fn

/-- The long-latency SUB and LA of a field group (R68). -/
def Fields.sub (f : Fields) : Nat := f.fn / 16
def Fields.la (f : Fields) : Nat := f.fn % 16
/-- IMM12 as a signed integer (R68). -/
def Fields.imm12 (f : Fields) : Int := signOf 12 (f.b * 64 + f.fn)
/-- COND and OFF20 of the branch format (R68). -/
def Fields.cond (f : Fields) : Nat := f.d / 4
def Fields.off20 (f : Fields) : Int := signOf 20 (f.d % 4 * 262144 + f.a * 4096 + f.b * 64 + f.fn)

/-- `i` if its static checks hold, else the error. -/
def need (c : Bool) (e : DecodeError) (i : Instr) : Except DecodeError Instr := if c then .ok i else .error e

/-- `i` if the reserved fields are zero and the registers are in class (R95): ILLEGAL by either name. -/
def check (zero : Bool) (regs : Bool) (i : Instr) : Except DecodeError Instr :=
  if zero then (if regs then .ok i else .error .register) else .error .reserved

def Cond.ofCode : Nat → Option Cond
  | 0 => some .eq | 1 => some .ne | 2 => some .lt | 3 => some .le | 4 => some .gt | 5 => some .ge
  | 6 => some .ltu | 7 => some .leu | 8 => some .gtu | 9 => some .geu | _ => none
def Cond.code : Cond → Nat
  | .eq => 0 | .ne => 1 | .lt => 2 | .le => 3 | .gt => 4 | .ge => 5 | .ltu => 6 | .leu => 7 | .gtu => 8 | .geu => 9

def FCond.ofCode : Nat → Option FCond
  | 0 => some .eq | 1 => some .ne | 2 => some .lt | 3 => some .le | 4 => some .gt | 5 => some .ge
  | 6 => some .ord | 7 => some .uno | _ => none
def FCond.code : FCond → Nat
  | .eq => 0 | .ne => 1 | .lt => 2 | .le => 3 | .gt => 4 | .ge => 5 | .ord => 6 | .uno => 7

def FTy.ofCode : Nat → Option FTy
  | 0 => some .f32 | 1 => some .f16 | 2 => some .bf16 | 3 => some .f64 | 4 => some .dm8 | _ => none
def FTy.code : FTy → Nat
  | .f32 => 0 | .f16 => 1 | .bf16 => 2 | .f64 => 3 | .dm8 => 4

def ITy.ofCode : Nat → Option ITy
  | 0 => some .s8 | 1 => some .s16 | 2 => some .s32 | 3 => some .s64
  | 4 => some .n8 | 5 => some .n16 | 6 => some .n32 | 7 => some .n64 | _ => none
def ITy.code : ITy → Nat
  | .s8 => 0 | .s16 => 1 | .s32 => 2 | .s64 => 3 | .n8 => 4 | .n16 => 5 | .n32 => 6 | .n64 => 7

def Scope.ofCode : Nat → Option Scope
  | 0 => some .team | 1 => some .core | 2 => some .cluster | 3 => some .gang | 4 => some .device
  | 5 => some .pool | 6 => some .fabric | _ => none
def Scope.code : Scope → Nat
  | .team => 0 | .core => 1 | .cluster => 2 | .gang => 3 | .device => 4 | .pool => 5 | .fabric => 6

def Index.ofCode : Nat → Option Index
  | 0 => some .absent | 1 => some .x1 | 2 => some .scaled | _ => none
def Index.code : Index → Nat
  | .absent => 0 | .x1 => 1 | .scaled => 2

def FenceKind.ofCode : Nat → Option FenceKind
  | 0 => some .full | 1 => some .release | 2 => some .acquire | _ => none
def FenceKind.code : FenceKind → Nat
  | .full => 0 | .release => 1 | .acquire => 2

def LineSel.ofCode : Nat → Option LineSel
  | 0 => some .cursor | 1 => some .bounds | 2 => some .held | _ => none
def LineSel.code : LineSel → Nat
  | .cursor => 0 | .bounds => 1 | .held => 2

def KField.ofCode : Nat → Option KField
  | 0 => some .cur | 1 => some .base | 2 => some .top | 3 => some .len
  | 4 => some .perm | 5 => some .gen | 6 => some .otype | 7 => some .state | _ => none
def KField.code : KField → Nat
  | .cur => 0 | .base => 1 | .top => 2 | .len => 3 | .perm => 4 | .gen => 5 | .otype => 6 | .state => 7

/-- The atomic operation of an opcode's group (0 A, 1 M, 2 X) and SUB (R107). -/
def AtomOp.ofCode : Nat → Nat → Option AtomOp
  | 0, 0 => some .add | 0, 1 => some .and | 0, 2 => some .or | 0, 3 => some .xor
  | 1, 0 => some .minS | 1, 1 => some .maxS | 1, 2 => some .minU | 1, 3 => some .maxU
  | 2, 0 => some .xchg | 2, 1 => some .fadd | 2, 2 => some .fmin | 2, 3 => some .fmax
  | _, _ => none
def AtomOp.group : AtomOp → Nat
  | .add | .and | .or | .xor => 0
  | .minS | .maxS | .minU | .maxU => 1
  | .xchg | .fadd | .fmin | .fmax => 2
def AtomOp.sub : AtomOp → Nat
  | .add | .minS | .xchg => 0
  | .and | .maxS | .fadd => 1
  | .or | .minU | .fmin => 2
  | .xor | .maxU | .fmax => 3

def LdW.ofCode : Nat → Option LdW
  | 0 => some .b8 | 1 => some .s8 | 2 => some .b16 | 3 => some .s16 | 4 => some .b32 | 5 => some .b64
  | 6 => some .b128 | _ => none
def LdW.code : LdW → Nat
  | .b8 => 0 | .s8 => 1 | .b16 => 2 | .s16 => 3 | .b32 => 4 | .b64 => 5 | .b128 => 6

def StW.ofCode : Nat → Option StW
  | 0 => some .b8 | 1 => some .b16 | 2 => some .b32 | 3 => some .b64 | 4 => some .b128 | _ => none
def StW.code : StW → Nat
  | .b8 => 0 | .b16 => 1 | .b32 => 2 | .b64 => 3 | .b128 => 4

/-- One bit as a Bool. -/
def bit1 (n : Nat) : Bool := n == 1
/-- A Bool as one bit. -/
def nat1 (b : Bool) : Nat := if b then 1 else 0

/-- Opcodes 0x01 to 0x07: branches, CTRL and TRAP (R101). -/
def decodeControl (f : Fields) : Except DecodeError Instr :=
  match f.op with
  | 0x01 => need (f.cond == 0) .code (.bra f.off20)
  | 0x02 => .ok (.brc (bit1 (f.cond / 8)) (f.cond % 8) f.off20)
  | 0x03 => need (f.cond != 8) .code (.brd (bit1 (f.cond / 8)) (f.cond % 8) f.off20)
  | 0x04 => need (f.cond == 0) .code (.call f.off20)
  | 0x05 => need (f.cond == 0) .code (.mark f.off20)
  | 0x06 =>
    match f.fn with
    | 0 => check (f.d == 0 && f.a == 0 && f.b == 0) true .nop
    | 1 => check (f.d == 0 && f.b == 0) true (.ret f.a)
    | 2 => check (f.d == 0 && f.a == 0 && f.b == 0) true .join
    | 3 => check (f.d == 0 && f.a == 0 && f.b == 0) true .exit
    | 4 => check (f.d == 0 && f.a == 0 && f.b == 0) true .yield
    | 5 => check (f.d == 0 && f.a == 0 && f.b == 0) true .rte
    | 6 => check (f.d == 0 && f.a == 0 && f.b == 0) true .bkpt
    | _ => .error .code
  | 0x07 => check (f.d == 0 && f.a == 0) true (.trap (f.b * 64 + f.fn))
  | _ => .error .opcode

/-- Opcodes 0x10 to 0x12: MODESET, PRED and LANE (R102). -/
def decodeMode (f : Fields) : Except DecodeError Instr :=
  match f.op with
  | 0x10 =>
    match f.fn with
    | 0 => check (f.d == 0 && f.a == 0) true (.setmode f.b)
    | 1 => check (f.d == 0 && f.a == 0) true (.setfmt f.b)
    | _ => .error .code
  | 0x11 =>
    match f.fn with
    | 0 => check true (okP f.d && okP f.a && okP f.b) (.pand f.d f.a f.b)
    | 1 => check true (okP f.d && okP f.a && okP f.b) (.por f.d f.a f.b)
    | 2 => check true (okP f.d && okP f.a && okP f.b) (.pxor f.d f.a f.b)
    | 3 => check (f.b == 0) (okP f.d && okP f.a) (.pnot f.d f.a)
    | _ => .error .code
  | 0x12 =>
    match f.fn with
    | 0 => check (f.b == 0) true (.rflLane f.d f.a false)
    | 1 => check (f.b == 0) true (.rflLane f.d f.a true)
    | 2 => .ok (.shflIdx f.d f.a f.b)
    | 3 => .ok (.shflUp f.d f.a f.b)
    | 4 => .ok (.shflDown f.d f.a f.b)
    | 5 => .ok (.shflXor f.d f.a f.b)
    | 6 => check (f.b == 0) (okP f.a) (.voteAny f.d f.a)
    | 7 => check (f.b == 0) (okP f.a) (.voteAll f.d f.a)
    | 8 => check (f.b == 0) (okP f.a) (.voteCount f.d f.a)
    | _ => .error .code
  | _ => .error .opcode

/-- INT32 and INT64 function codes (R103). -/
def decodeVecInt (w : Bool) (f : Fields) : Except DecodeError Instr :=
  match f.fn with
  | 0x00 => .ok (.iadd w f.d f.a f.b)
  | 0x01 => .ok (.isub w f.d f.a f.b)
  | 0x02 => .ok (.imul w f.d f.a f.b)
  | 0x03 => .ok (.imulh w f.d f.a f.b)
  | 0x04 => .ok (.imulhUnsigned w f.d f.a f.b)
  | 0x05 => .ok (.imad w f.d f.a f.b)
  | 0x06 => .ok (.imin w f.d f.a f.b false)
  | 0x07 => .ok (.imin w f.d f.a f.b true)
  | 0x08 => .ok (.imax w f.d f.a f.b false)
  | 0x09 => .ok (.imax w f.d f.a f.b true)
  | 0x0A => check (f.b == 0) true (.iabs w f.d f.a)
  | 0x0B => .ok (.and w f.d f.a f.b)
  | 0x0C => .ok (.andn w f.d f.a f.b)
  | 0x0D => .ok (.or w f.d f.a f.b)
  | 0x0E => .ok (.xor w f.d f.a f.b)
  | 0x0F => .ok (.shl w f.d f.a f.b)
  | 0x10 => .ok (.shr w f.d f.a f.b)
  | 0x11 => .ok (.sar w f.d f.a f.b)
  | 0x12 => .ok (.bfx w f.d f.a f.b false)
  | 0x13 => .ok (.bfx w f.d f.a f.b true)
  | 0x14 => .ok (.bfi w f.d f.a f.b)
  | 0x15 => check (f.b == 0) true (.popc w f.d f.a)
  | 0x16 => check (f.b == 0) true (.clz w f.d f.a)
  | 0x17 => check (f.a == 0) true (.mov w f.d f.b)
  | _ => .error .code

/-- Opcodes 0x20 to 0x2F: vector integer (R103, R104). -/
def decodeVec (f : Fields) : Except DecodeError Instr :=
  match f.op with
  | 0x20 => decodeVecInt false f
  | 0x21 => decodeVecInt true f
  | 0x22 =>
    match Cond.ofCode f.fn with
    | some c => check true (okP f.d) (.icmp false f.d f.a f.b c)
    | none => .error .code
  | 0x23 =>
    match Cond.ofCode f.fn with
    | some c => check true (okP f.d) (.icmp true f.d f.a f.b c)
    | none => .error .code
  | 0x24 =>
    if f.fn / 32 = 0 then
      need (!(bit1 (f.fn / 8 % 2) && f.fn % 8 == 0)) .code
        (.sel f.d f.a f.b (bit1 (f.fn / 16 % 2)) (bit1 (f.fn / 8 % 2)) (f.fn % 8))
    else .error .code
  | 0x27 => check (f.a == 0) true (.movi f.d f.imm12)
  | 0x28 => .ok (.iaddI f.d f.a f.imm12)
  | 0x29 => .ok (.imulI f.d f.a f.imm12)
  | 0x2A => .ok (.andI f.d f.a f.imm12)
  | 0x2B => .ok (.orI f.d f.a f.imm12)
  | 0x2C => .ok (.xorI f.d f.a f.imm12)
  | 0x2D => .ok (.shlI f.d f.a f.imm12)
  | 0x2E => .ok (.shrI f.d f.a f.imm12)
  | 0x2F => .ok (.sarI f.d f.a f.imm12)
  | _ => .error .opcode

/-- UINT64 and UINT32 function codes (R103). -/
def decodeUniInt (w : Bool) (f : Fields) : Except DecodeError Instr :=
  match f.fn with
  | 0x00 => .ok (.sadd w f.d f.a f.b)
  | 0x01 => .ok (.ssub w f.d f.a f.b)
  | 0x02 => .ok (.smul w f.d f.a f.b)
  | 0x03 => .ok (.smulh w f.d f.a f.b)
  | 0x04 => .ok (.smulhUnsigned w f.d f.a f.b)
  | 0x05 => .ok (.smad w f.d f.a f.b)
  | 0x06 => .ok (.smin w f.d f.a f.b false)
  | 0x07 => .ok (.smin w f.d f.a f.b true)
  | 0x08 => .ok (.smax w f.d f.a f.b false)
  | 0x09 => .ok (.smax w f.d f.a f.b true)
  | 0x0B => .ok (.sand w f.d f.a f.b)
  | 0x0D => .ok (.sor w f.d f.a f.b)
  | 0x0E => .ok (.sxor w f.d f.a f.b)
  | 0x0F => .ok (.sshl w f.d f.a f.b)
  | 0x10 => .ok (.sshr w f.d f.a f.b)
  | 0x11 => .ok (.ssar w f.d f.a f.b)
  | 0x12 => .ok (.sbfx w f.d f.a f.b false)
  | 0x13 => .ok (.sbfx w f.d f.a f.b true)
  | 0x17 => check (f.a == 0) true (.smov w f.d f.b)
  | _ => .error .code

/-- Opcodes 0x30 to 0x3F: uniform integer (R103, R104). -/
def decodeUni (f : Fields) : Except DecodeError Instr :=
  match f.op with
  | 0x30 => decodeUniInt true f
  | 0x31 =>
    match Cond.ofCode f.fn with
    | some c => check true (okP f.d) (.scmp64 f.d f.a f.b c)
    | none => .error .code
  | 0x32 => need (f.fn / 16 == 0) .code (.ssel f.d f.a f.b (bit1 (f.fn / 8 % 2)) (f.fn % 8))
  | 0x33 => decodeUniInt false f
  | 0x34 =>
    match Cond.ofCode f.fn with
    | some c => check true (okP f.d) (.scmp32 f.d f.a f.b c)
    | none => .error .code
  | 0x37 => check (f.a == 0) true (.smovi f.d f.imm12)
  | 0x38 => .ok (.saddI f.d f.a f.imm12)
  | 0x39 => .ok (.smulI f.d f.a f.imm12)
  | 0x3A => .ok (.sandI f.d f.a f.imm12)
  | 0x3B => .ok (.sorI f.d f.a f.imm12)
  | 0x3C => .ok (.sxorI f.d f.a f.imm12)
  | 0x3D => .ok (.sshlI f.d f.a f.imm12)
  | 0x3E => .ok (.sshrI f.d f.a f.imm12)
  | 0x3F => .ok (.ssarI f.d f.a f.imm12)
  | _ => .error .opcode

/-- Opcodes 0x40 to 0x49: floating (R105, R107). -/
def decodeFloat (f : Fields) : Except DecodeError Instr :=
  match f.op with
  | 0x40 =>
    match f.fn with
    | 0 => .ok (.fadd f.d f.a f.b)
    | 1 => .ok (.fsub f.d f.a f.b)
    | 2 => .ok (.fmul f.d f.a f.b)
    | 3 => .ok (.fma f.d f.a f.b)
    | 4 => .ok (.fmin f.d f.a f.b)
    | 5 => .ok (.fmax f.d f.a f.b)
    | 6 => check (f.b == 0) true (.fabs f.d f.a)
    | 7 => check (f.b == 0) true (.fneg f.d f.a)
    | 8 => check (f.b == 0) true (.frint f.d f.a)
    | 9 => check (f.b == 0) true (.fclass f.d f.a)
    | _ => .error .code
  | 0x41 =>
    match FCond.ofCode f.fn with
    | some c => check true (okP f.d) (.fcmp f.d f.a f.b c)
    | none => .error .code
  | 0x42 =>
    match FTy.ofCode (f.fn / 8), FTy.ofCode (f.fn % 8) with
    | some s, some t => if s = t then .error .code else check (f.b == 0) true (.fcvt f.d f.a s t)
    | _, _ => .error .code
  | 0x43 =>
    match ITy.ofCode f.fn with
    | some t => check (f.b == 0) true (.f2i f.d f.a t)
    | none => .error .code
  | 0x44 =>
    match ITy.ofCode f.fn with
    | some t => check (f.b == 0) true (.i2f f.d f.a t)
    | none => .error .code
  | 0x48 =>
    match f.sub with
    | 0 => check (f.b == 0) true (.frcp f.d f.a f.la)
    | 1 => check (f.b == 0) true (.frsq f.d f.a f.la)
    | 2 => check (f.b == 0) true (.fsqrt f.d f.a f.la)
    | 3 => .ok (.fdiv f.d f.a f.b f.la)
    | _ => .error .code
  | 0x49 =>
    match f.sub with
    | 0 => check (f.b == 0) true (.fexp2 f.d f.a f.la)
    | 1 => check (f.b == 0) true (.flog2 f.d f.a f.la)
    | 2 => check (f.b == 0) true (.fsin f.d f.a f.la)
    | 3 => check (f.b == 0) true (.fcos f.d f.a f.la)
    | _ => .error .code
  | _ => .error .opcode

/-- CAPU and CAPL function codes (R106). -/
def decodeCap (l : Bool) (f : Fields) : Except DecodeError Instr :=
  match f.fn with
  | 0 => check true (okKd l f.d && okKa l f.a) (.kinc l f.d f.a f.b)
  | 1 => check true (okKd l f.d && okKa l f.a) (.kset l f.d f.a f.b)
  | 2 => check true (okKd l f.d && okKa l f.a) (.kbnd l f.d f.a f.b)
  | 3 => check true (okKd l f.d && okKa l f.a) (.kprm l f.d f.a f.b)
  | 4 => check true (okKd l f.d && okKa l f.a && okKa l f.b) (.kseal l f.d f.a f.b)
  | 5 => check true (okKd l f.d && okKa l f.a && okKa l f.b) (.kopen l f.d f.a f.b)
  | 6 =>
    match KField.ofCode f.b with
    | some g => check true (okKa l f.a) (.kget l f.d f.a g)
    | none => .error .code
  | 7 => check true (okKa l f.a && okKa l f.b) (.ksub l f.d f.a f.b)
  | 8 => check (f.b == 0) (okKd l f.d && okKa l f.a) (.kmov l f.d f.a)
  | 9 => check (f.a == 0 && f.b == 0) (okKd l f.d) (.kclr l f.d)
  | _ => .error .code

/-- Opcodes 0x50 to 0x59: capabilities (R106). -/
def decodeCaps (f : Fields) : Except DecodeError Instr :=
  match f.op with
  | 0x50 => decodeCap false f
  | 0x51 => decodeCap true f
  | 0x52 => check true (okKd false f.d && okKa false f.a) (.kincI false f.d f.a f.imm12)
  | 0x53 => check true (okKd true f.d && okKa true f.a) (.kincI true f.d f.a f.imm12)
  | 0x58 => check (f.b == 0 && f.sub == 0) (okKd false f.d && okKa false f.a) (.ksweep false f.d f.a f.la)
  | 0x59 => check (f.b == 0 && f.sub == 0) (okKd true f.d && okKa true f.a) (.ksweep true f.d f.a f.la)
  | _ => .error .opcode

/-- A memory row of R107: its index form, with B zero where there is none. -/
def memRow (f : Fields) (regs : Bool) (k : Index → Instr) : Except DecodeError Instr :=
  match Index.ofCode f.sub with
  | some ix => check (ix != .absent || f.b == 0) regs (k ix)
  | none => .error .code

/-- Opcodes 0x60 to 0x6F: lane memory (R107). -/
def decodeMem (f : Fields) : Except DecodeError Instr :=
  if f.op = 0x6E then memRow f (okQ f.d && okK f.a) fun ix => .ldc f.d f.a f.b ix f.la
  else if f.op = 0x6F then memRow f (okQ f.d && okK f.a) fun ix => .stc f.d f.a f.b ix f.la
  else if f.op < 0x68 then
    match LdW.ofCode (f.op - 0x60) with
    | some w => memRow f (okK f.a) fun ix => .ld w f.d f.a f.b ix f.la
    | none => .error .opcode
  else
    match StW.ofCode (f.op - 0x68) with
    | some w => memRow f (okK f.a) fun ix => .st w f.d f.a f.b ix f.la
    | none => .error .opcode

/-- Opcodes 0x70 to 0x7C: uniform memory and ordering (R107, R108). -/
def decodeOrder (f : Fields) : Except DecodeError Instr :=
  match f.op with
  | 0x70 => memRow f (okC f.a) fun ix => .ldu false f.d f.a f.b ix f.la
  | 0x71 => memRow f (okC f.a) fun ix => .ldu true f.d f.a f.b ix f.la
  | 0x72 => memRow f (okC f.a) fun ix => .stu false f.d f.a f.b ix f.la
  | 0x73 => memRow f (okC f.a) fun ix => .stu true f.d f.a f.b ix f.la
  | 0x74 => memRow f (okC f.d && okC f.a) fun ix => .ldcu f.d f.a f.b ix f.la
  | 0x75 => memRow f (okC f.d && okC f.a) fun ix => .stcu f.d f.a f.b ix f.la
  | 0x78 =>
    match f.sub with
    | 0 => check (f.d == 0 && f.b == 0) (okK f.a) (.pref f.a f.b false f.la)
    | 1 => check (f.d == 0) (okK f.a) (.pref f.a f.b true f.la)
    | _ => .error .code
  | 0x79 =>
    match Scope.ofCode (f.d % 8), LineSel.ofCode f.sub with
    | some c, some sel =>
      check (f.d / 8 == 0 && f.b == 0 && (sel != .held || f.a == 0)) (okC f.a) (.flush c f.a sel f.la)
    | _, _ => .error .code
  | 0x7A =>
    match Scope.ofCode (f.d % 8), LineSel.ofCode f.sub with
    | some c, some sel =>
      check (f.d / 8 == 0 && f.b == 0 && (sel != .held || f.a == 0)) (okC f.a) (.inval c f.a sel f.la)
    | _, _ => .error .code
  | 0x7B =>
    match Scope.ofCode (f.d % 8), FenceKind.ofCode f.sub with
    | some c, some k => check (f.d / 8 == 0 && f.b == 0 && f.a == 0) true (.fence c k f.la)
    | _, _ => .error .code
  | 0x7C =>
    if f.sub = 0 then check (f.d == 0 && f.a == 0 && f.b == 0) true (.drain f.la) else .error .code
  | _ => .error .opcode

/-- Opcodes 0x80 to 0x8E: atomics and reductions (R107). -/
def decodeAtom (f : Fields) : Except DecodeError Instr :=
  let g := f.op % 4
  let wide := bit1 (f.op / 4 % 2)
  if f.op / 8 = 16 then
    if g = 3 then
      if f.sub = 0 then check true (okK f.a) (.cas wide f.d f.a f.b f.la) else .error .code
    else
      match AtomOp.ofCode g f.sub with
      | some op => check true (okK f.a) (.atom wide op f.d f.a f.b f.la)
      | none => .error .code
  else
    if g = 3 then .error .opcode
    else
      match AtomOp.ofCode g f.sub with
      | some op => if op = .xchg then .error .code else check true (okK f.a) (.red wide op f.d f.a f.b f.la)
      | none => .error .code

/-- Opcodes 0x90 to 0x9A: counters and submission (R107). The old value of CADD and the report of CWAIT need D only
in the form that returns one. -/
def decodeSubmit (f : Fields) : Except DecodeError Instr :=
  match f.op with
  | 0x90 =>
    match f.sub with
    | 0 => check (f.d == 0) (okC f.a) (.cadd f.d f.a f.b false f.la)
    | 1 => check true (okC f.a) (.cadd f.d f.a f.b true f.la)
    | _ => .error .code
  | 0x91 =>
    match f.sub with
    | 0 => check (f.d == 0) (okC f.a) (.cwait f.d f.a f.b false f.la)
    | 1 => check true (okC f.a) (.cwait f.d f.a f.b true f.la)
    | _ => .error .code
  | 0x98 => if f.sub = 0 then check (f.d == 0) (okC f.a) (.job f.a f.b f.la) else .error .code
  | 0x99 => if f.sub = 0 then check (f.d == 0) (okC f.a) (.task f.a f.b f.la) else .error .code
  | 0x9A => if f.sub = 0 then check (f.d == 0) (okC f.a) (.launch f.a f.b f.la) else .error .code
  | _ => .error .opcode

/-- Opcodes 0xA0 to 0xAC: matrix (R68, R107, R109). -/
def decodeMatrix (f : Fields) : Except DecodeError Instr :=
  match f.op with
  | 0xA0 =>
    if f.b % 4 * 4 + f.fn / 16 = 0 then
      need (f.b / 4 % 8 < 2) .code
        (.mma (f.d / 8) (f.d % 8 * 2 + f.a / 32) (f.a / 2 % 16) (bit1 (f.a % 2)) (bit1 (f.b / 32))
          (bit1 (f.b / 4 % 8)) f.la)
    else .error .reserved
  | 0xA1 => check (f.d % 8 == 0 && f.a == 0 && f.b == 0 && f.sub == 0) true (.mza (f.d / 8) f.la)
  | 0xA8 =>
    if f.sub / 2 = 0 then check true (f.d < 16 && okC f.a) (.mldt f.d f.a f.b (bit1 f.sub) f.la) else .error .code
  | 0xA9 => if f.sub = 0 then check true (f.d < 8 && okC f.a) (.mlda f.d f.a f.b f.la) else .error .code
  | 0xAA =>
    if f.sub / 2 = 0 then check true (f.d < 8 && okC f.a) (.msta f.d f.a f.b (bit1 f.sub) f.la) else .error .code
  | 0xAB => if f.sub = 0 then check (f.b == 0) (f.d < 16) (.mmap f.d f.a f.la) else .error .code
  | 0xAC => if f.sub = 0 then check (f.a == 0 && f.b == 0) true (.mchk f.d f.la) else .error .code
  | _ => .error .opcode

/-- Opcodes 0xE0 to 0xE2: system (R110). -/
def decodeSystem (f : Fields) : Except DecodeError Instr :=
  match f.op with
  | 0xE0 =>
    match f.fn with
    | 0 => check (f.a == 0) true (.sysr f.d f.b)
    | 1 => check (f.d == 0) true (.sysw f.a f.b)
    | _ => .error .code
  | 0xE1 =>
    match f.fn with
    | 0 => check (f.d == 0 && f.b == 0) true (.tlbinv f.a)
    | 1 => check (f.d == 0 && f.a == 0 && f.b == 0) true .tlbinvAll
    | _ => .error .code
  | 0xE2 =>
    match f.fn with
    | 0 => check (f.b == 0) true (.pgmap f.d f.a)
    | _ => .error .code
  | _ => .error .opcode

/-- Opcodes 0xFE and 0xFF: prefixes (R76). -/
def decodePrefix (f : Fields) : Except DecodeError Instr :=
  match f.op with
  | 0xFE => .ok (.imm (f.d * 262144 + f.a * 4096 + f.b * 64 + f.fn))
  | 0xFF => need (f.a == 0 && f.b == 0 && f.fn == 0) .payload (.uni f.d)
  | _ => .error .opcode

/-- The decoder over fields: the primary opcode map (R92). -/
def decodeFields (f : Fields) : Except DecodeError Instr :=
  match f.op / 16 with
  | 0x0 => decodeControl f
  | 0x1 => decodeMode f
  | 0x2 => decodeVec f
  | 0x3 => decodeUni f
  | 0x4 => decodeFloat f
  | 0x5 => decodeCaps f
  | 0x6 => decodeMem f
  | 0x7 => decodeOrder f
  | 0x8 => decodeAtom f
  | 0x9 => decodeSubmit f
  | 0xA => decodeMatrix f
  | 0xE => decodeSystem f
  | 0xF => decodePrefix f
  | _ => .error .opcode

/-- The decoder over one 32-bit word. -/
def decodeWord (w : Nat) : Except DecodeError Instr := decodeFields (Fields.ofWord w)

/-- A word from its four bytes, lowest address first (R11, R68). -/
def wordOfBytes (b0 b1 b2 b3 : Byte) : Nat :=
  b0.toNat + 256 * b1.toNat + 65536 * b2.toNat + 16777216 * b3.toNat

/-- The decoder over bytes: one word and the bytes after it. -/
def decodeBytes : List Byte → Except DecodeError (Instr × List Byte)
  | b0 :: b1 :: b2 :: b3 :: rest =>
    match decodeWord (wordOfBytes b0 b1 b2 b3) with
    | .ok i => .ok (i, rest)
    | .error e => .error e
  | _ => .error .short

/-- The instruction the decoder reads from a table row's word (bit 0 the least significant bit of the first word): the
word is laid out as its four little-endian bytes and given to `decodeBytes`. -/
def decodeTableWord (_nbits w : Nat) : Option Instr :=
  match decodeBytes [BitVec.ofNat 8 w, BitVec.ofNat 8 (w / 256), BitVec.ofNat 8 (w / 65536),
      BitVec.ofNat 8 (w / 16777216)] with
  | .ok (i, _) => some i
  | .error _ => none

/-! ## The encoder, from the same tables -/

/-- Three-register format (R68). -/
def enc3 (op d a b fn : Nat) : Fields := ⟨op, d, a, b, fn⟩
/-- Long-latency format (R68). -/
def encL (op d a b sub la : Nat) : Fields := ⟨op, d, a, b, sub * 16 + la⟩
/-- Short-immediate format (R68). -/
def encI (op d a : Nat) (i : Int) : Fields := ⟨op, d, a, fieldOf 12 i / 64, fieldOf 12 i % 64⟩
/-- Branch format (R68). -/
def encB (op cond : Nat) (off : Int) : Fields :=
  let o := fieldOf 20 off
  ⟨op, cond * 4 + o / 262144, o / 4096 % 64, o / 64 % 64, o % 64⟩

/-- The vector integer opcode of a width (R103). -/
def opVec (w : Bool) : Nat := if w then 0x21 else 0x20
/-- The uniform integer opcode of a width (R103). -/
def opUni (w : Bool) : Nat := if w then 0x30 else 0x33
/-- The capability opcode of a class (R106). -/
def opCap (l : Bool) : Nat := if l then 0x51 else 0x50

/-- The fields of an encoded instruction; none for an event, which has no encoding. -/
def encodeFields : Instr → Option Fields
  | .bra o => some (encB 0x01 0 o)
  | .brc k p o => some (encB 0x02 (nat1 k * 8 + p) o)
  | .brd n p o => some (encB 0x03 (nat1 n * 8 + p) o)
  | .call o => some (encB 0x04 0 o)
  | .mark o => some (encB 0x05 0 o)
  | .nop => some (enc3 0x06 0 0 0 0)
  | .ret a => some (enc3 0x06 0 a 0 1)
  | .join => some (enc3 0x06 0 0 0 2)
  | .exit => some (enc3 0x06 0 0 0 3)
  | .yield => some (enc3 0x06 0 0 0 4)
  | .rte => some (enc3 0x06 0 0 0 5)
  | .bkpt => some (enc3 0x06 0 0 0 6)
  | .trap c => some ⟨0x07, 0, 0, c / 64, c % 64⟩
  | .setmode b => some (enc3 0x10 0 0 b 0)
  | .setfmt b => some (enc3 0x10 0 0 b 1)
  | .pand d a b => some (enc3 0x11 d a b 0)
  | .por d a b => some (enc3 0x11 d a b 1)
  | .pxor d a b => some (enc3 0x11 d a b 2)
  | .pnot d a => some (enc3 0x11 d a 0 3)
  | .rflLane d a w => some (enc3 0x12 d a 0 (nat1 w))
  | .shflIdx d a b => some (enc3 0x12 d a b 2)
  | .shflUp d a b => some (enc3 0x12 d a b 3)
  | .shflDown d a b => some (enc3 0x12 d a b 4)
  | .shflXor d a b => some (enc3 0x12 d a b 5)
  | .voteAny d a => some (enc3 0x12 d a 0 6)
  | .voteAll d a => some (enc3 0x12 d a 0 7)
  | .voteCount d a => some (enc3 0x12 d a 0 8)
  | .iadd w d a b => some (enc3 (opVec w) d a b 0x00)
  | .iaddI d a i => some (encI 0x28 d a i)
  | .isub w d a b => some (enc3 (opVec w) d a b 0x01)
  | .imul w d a b => some (enc3 (opVec w) d a b 0x02)
  | .imulI d a i => some (encI 0x29 d a i)
  | .imulh w d a b => some (enc3 (opVec w) d a b 0x03)
  | .imulhUnsigned w d a b => some (enc3 (opVec w) d a b 0x04)
  | .imad w d a b => some (enc3 (opVec w) d a b 0x05)
  | .imin w d a b u => some (enc3 (opVec w) d a b (0x06 + nat1 u))
  | .imax w d a b u => some (enc3 (opVec w) d a b (0x08 + nat1 u))
  | .iabs w d a => some (enc3 (opVec w) d a 0 0x0A)
  | .and w d a b => some (enc3 (opVec w) d a b 0x0B)
  | .andI d a i => some (encI 0x2A d a i)
  | .andn w d a b => some (enc3 (opVec w) d a b 0x0C)
  | .or w d a b => some (enc3 (opVec w) d a b 0x0D)
  | .orI d a i => some (encI 0x2B d a i)
  | .xor w d a b => some (enc3 (opVec w) d a b 0x0E)
  | .xorI d a i => some (encI 0x2C d a i)
  | .shl w d a b => some (enc3 (opVec w) d a b 0x0F)
  | .shlI d a i => some (encI 0x2D d a i)
  | .shr w d a b => some (enc3 (opVec w) d a b 0x10)
  | .shrI d a i => some (encI 0x2E d a i)
  | .sar w d a b => some (enc3 (opVec w) d a b 0x11)
  | .sarI d a i => some (encI 0x2F d a i)
  | .bfx w d a b u => some (enc3 (opVec w) d a b (0x12 + nat1 u))
  | .bfi w d a b => some (enc3 (opVec w) d a b 0x14)
  | .popc w d a => some (enc3 (opVec w) d a 0 0x15)
  | .clz w d a => some (enc3 (opVec w) d a 0 0x16)
  | .mov w d b => some (enc3 (opVec w) d 0 b 0x17)
  | .movi d i => some (encI 0x27 d 0 i)
  | .icmp w d a b c => some (enc3 (0x22 + nat1 w) d a b c.code)
  | .sel d a b w n p => some (enc3 0x24 d a b (nat1 w * 16 + nat1 n * 8 + p))
  | .sadd w d a b => some (enc3 (opUni w) d a b 0x00)
  | .saddI d a i => some (encI 0x38 d a i)
  | .ssub w d a b => some (enc3 (opUni w) d a b 0x01)
  | .smul w d a b => some (enc3 (opUni w) d a b 0x02)
  | .smulI d a i => some (encI 0x39 d a i)
  | .smulh w d a b => some (enc3 (opUni w) d a b 0x03)
  | .smulhUnsigned w d a b => some (enc3 (opUni w) d a b 0x04)
  | .smad w d a b => some (enc3 (opUni w) d a b 0x05)
  | .smin w d a b u => some (enc3 (opUni w) d a b (0x06 + nat1 u))
  | .smax w d a b u => some (enc3 (opUni w) d a b (0x08 + nat1 u))
  | .sand w d a b => some (enc3 (opUni w) d a b 0x0B)
  | .sandI d a i => some (encI 0x3A d a i)
  | .sor w d a b => some (enc3 (opUni w) d a b 0x0D)
  | .sorI d a i => some (encI 0x3B d a i)
  | .sxor w d a b => some (enc3 (opUni w) d a b 0x0E)
  | .sxorI d a i => some (encI 0x3C d a i)
  | .sshl w d a b => some (enc3 (opUni w) d a b 0x0F)
  | .sshlI d a i => some (encI 0x3D d a i)
  | .sshr w d a b => some (enc3 (opUni w) d a b 0x10)
  | .sshrI d a i => some (encI 0x3E d a i)
  | .ssar w d a b => some (enc3 (opUni w) d a b 0x11)
  | .ssarI d a i => some (encI 0x3F d a i)
  | .sbfx w d a b u => some (enc3 (opUni w) d a b (0x12 + nat1 u))
  | .smov w d b => some (enc3 (opUni w) d 0 b 0x17)
  | .smovi d i => some (encI 0x37 d 0 i)
  | .scmp64 d a b c => some (enc3 0x31 d a b c.code)
  | .scmp32 d a b c => some (enc3 0x34 d a b c.code)
  | .ssel d a b k p => some (enc3 0x32 d a b (nat1 k * 8 + p))
  | .fadd d a b => some (enc3 0x40 d a b 0)
  | .fsub d a b => some (enc3 0x40 d a b 1)
  | .fmul d a b => some (enc3 0x40 d a b 2)
  | .fma d a b => some (enc3 0x40 d a b 3)
  | .fmin d a b => some (enc3 0x40 d a b 4)
  | .fmax d a b => some (enc3 0x40 d a b 5)
  | .fabs d a => some (enc3 0x40 d a 0 6)
  | .fneg d a => some (enc3 0x40 d a 0 7)
  | .frint d a => some (enc3 0x40 d a 0 8)
  | .fclass d a => some (enc3 0x40 d a 0 9)
  | .fcmp d a b c => some (enc3 0x41 d a b c.code)
  | .fcvt d a s t => some (enc3 0x42 d a 0 (s.code * 8 + t.code))
  | .f2i d a t => some (enc3 0x43 d a 0 t.code)
  | .i2f d a t => some (enc3 0x44 d a 0 t.code)
  | .frcp d a l => some (encL 0x48 d a 0 0 l)
  | .frsq d a l => some (encL 0x48 d a 0 1 l)
  | .fsqrt d a l => some (encL 0x48 d a 0 2 l)
  | .fdiv d a b l => some (encL 0x48 d a b 3 l)
  | .fexp2 d a l => some (encL 0x49 d a 0 0 l)
  | .flog2 d a l => some (encL 0x49 d a 0 1 l)
  | .fsin d a l => some (encL 0x49 d a 0 2 l)
  | .fcos d a l => some (encL 0x49 d a 0 3 l)
  | .kinc l d a b => some (enc3 (opCap l) d a b 0)
  | .kincI l d a i => some (encI (0x52 + nat1 l) d a i)
  | .kset l d a b => some (enc3 (opCap l) d a b 1)
  | .kbnd l d a b => some (enc3 (opCap l) d a b 2)
  | .kprm l d a b => some (enc3 (opCap l) d a b 3)
  | .kseal l d a b => some (enc3 (opCap l) d a b 4)
  | .kopen l d a b => some (enc3 (opCap l) d a b 5)
  | .kget l d a g => some (enc3 (opCap l) d a g.code 6)
  | .ksub l d a b => some (enc3 (opCap l) d a b 7)
  | .kmov l d a => some (enc3 (opCap l) d a 0 8)
  | .kclr l d => some (enc3 (opCap l) d 0 0 9)
  | .ksweep l d a la => some (encL (0x58 + nat1 l) d a 0 0 la)
  | .ld w d a b ix la => some (encL (0x60 + w.code) d a b ix.code la)
  | .st w d a b ix la => some (encL (0x68 + w.code) d a b ix.code la)
  | .ldc d a b ix la => some (encL 0x6E d a b ix.code la)
  | .stc d a b ix la => some (encL 0x6F d a b ix.code la)
  | .ldu w d a b ix la => some (encL (0x70 + nat1 w) d a b ix.code la)
  | .stu w d a b ix la => some (encL (0x72 + nat1 w) d a b ix.code la)
  | .ldcu d a b ix la => some (encL 0x74 d a b ix.code la)
  | .stcu d a b ix la => some (encL 0x75 d a b ix.code la)
  | .pref a b ixd la => some (encL 0x78 0 a b (nat1 ixd) la)
  | .flush c a sel la => some (encL 0x79 c.code a 0 sel.code la)
  | .inval c a sel la => some (encL 0x7A c.code a 0 sel.code la)
  | .fence c k la => some (encL 0x7B c.code 0 0 k.code la)
  | .drain la => some (encL 0x7C 0 0 0 0 la)
  | .atom w op d a b la => some (encL (0x80 + nat1 w * 4 + op.group) d a b op.sub la)
  | .cas w d a b la => some (encL (0x83 + nat1 w * 4) d a b 0 la)
  | .red w op d a b la => some (encL (0x88 + nat1 w * 4 + op.group) d a b op.sub la)
  | .cadd d a b r la => some (encL 0x90 d a b (nat1 r) la)
  | .cwait d a b t la => some (encL 0x91 d a b (nat1 t) la)
  | .job a b la => some (encL 0x98 0 a b 0 la)
  | .task a b la => some (encL 0x99 0 a b 0 la)
  | .launch a b la => some (encL 0x9A 0 a b 0 la)
  | .mma c t m r p v la =>
      some ⟨0xA0, c * 8 + t / 2, t % 2 * 32 + m * 2 + nat1 r, nat1 p * 32 + nat1 v * 4, la⟩
  | .mza c la => some ⟨0xA1, c * 8, 0, 0, la⟩
  | .mldt d a b cm la => some (encL 0xA8 d a b (nat1 cm) la)
  | .mlda d a b la => some (encL 0xA9 d a b 0 la)
  | .msta d a b ta la => some (encL 0xAA d a b (nat1 ta) la)
  | .mmap d a la => some (encL 0xAB d a 0 0 la)
  | .mchk d la => some (encL 0xAC d 0 0 0 la)
  | .sysr d b => some (enc3 0xE0 d 0 b 0)
  | .sysw a b => some (enc3 0xE0 0 a b 1)
  | .tlbinv a => some (enc3 0xE1 0 a 0 0)
  | .tlbinvAll => some (enc3 0xE1 0 0 0 1)
  | .pgmap d a => some (enc3 0xE2 d a 0 0)
  | .imm p => some ⟨0xFE, p / 262144 % 64, p / 4096 % 64, p / 64 % 64, p % 64⟩
  | .uni s => some (enc3 0xFF s 0 0 0)
  | _ => none

/-- The words of an instruction: one for an encoded row, none for an event. -/
def encode (i : Instr) : List Word :=
  match encodeFields i with
  | some f => [BitVec.ofNat 32 f.toWord]
  | none => []

/-- True of the rows that have an encoding (the first 156 of the table). -/
def Instr.encoded (i : Instr) : Bool := (encodeFields i).isSome

end Sys2Proof
end

