-- ==== Sys2Proof/Machine/Store.lean ====
section
/-!
DEFINITION. Machine/Store.lean: finite maps as plain data. A map is a list of (key, value) pairs with keys strictly
rising; `put` keeps out entries that equal what an unlisted key reads as, so equal maps are equal lists.
-/

namespace Sys2Proof.Machine

/-- A finite map from naturals: pairs with keys strictly rising. -/
abbrev SMap (α : Type) := List (Nat × α)

namespace SMap

/-- The value listed at a key. -/
def find? {α : Type} : SMap α → Nat → Option α
  | [], _ => none
  | (k, x) :: rest, n => if n = k then some x else find? rest n

/-- The value at a key; `d` where none is listed. -/
def getD {α : Type} (m : SMap α) (n : Nat) (d : α) : α := (m.find? n).getD d

/-- List a value at a key, in place. -/
def insert {α : Type} : SMap α → Nat → α → SMap α
  | [], n, x => [(n, x)]
  | (k, y) :: rest, n, x =>
    if n < k then (n, x) :: (k, y) :: rest
    else if n = k then (n, x) :: rest
    else (k, y) :: insert rest n x

/-- Drop a key. -/
def erase {α : Type} (m : SMap α) (n : Nat) : SMap α := m.filter fun x => x.1 != n

/-- Write a value where an unlisted key reads as `d`. -/
def put {α : Type} [DecidableEq α] (d : α) (m : SMap α) (n : Nat) (x : α) : SMap α :=
  if x = d then m.erase n else m.insert n x

/-- Change the value at a key, if one is listed. -/
def modify {α : Type} (m : SMap α) (n : Nat) (f : α → α) : SMap α :=
  m.map fun (k, x) => if k = n then (k, f x) else (k, x)

/-- The canonical form: keys strictly rise and no value equals the default. -/
def wf {α : Type} [DecidableEq α] (d : α) : SMap α → Bool
  | [] => true
  | [(_, x)] => x != d
  | (k, x) :: (k', x') :: rest => k < k' && x != d && wf d ((k', x') :: rest)

end SMap
end Sys2Proof.Machine
end

