-- ==== Sys2Proof/Machine/State.lean ====
section
/-!
DEFINITION. Machine/State.lean: the state of the device as plain data, the reasons a step can stop, and the state
after warm reset.
-/

namespace Sys2Proof.Machine

/-! ## Capabilities and registers -/

/-- A capability: 128 bits and a tag (R153). -/
structure Cap where
  tag : Bool
  bits : BitVec 128
deriving DecidableEq, Repr

/-- The null capability (R153). -/
def Cap.null : Cap := ⟨false, 0⟩

/-- The four privilege levels, lowest first (R97). -/
inductive Priv where
  | user | super | firm | boot
deriving DecidableEq, Repr

/-- JOIN or PATH, the kind of a divergence stack entry (R59). -/
inductive EntryKind where
  | join | path
deriving DecidableEq, Repr

/-- One entry of the divergence stack (R59). -/
structure StackEntry where
  kind : EntryKind
  addr : Dword
  mask : Mask
  mode : Word
  fmt : Word
deriving DecidableEq, Repr

/-- One register a long-latency instruction is still to write, with the values it will write (R72, R73): per lane for
the lane classes. A value is absent where it does not write, or has not arrived from a peer device yet. -/
inductive Dest where
  | v (r : Nat) (vals : List (Option Word))
  | q (r : Nat) (vals : List (Option Cap))
  | s (r : Nat) (val : Option Dword)
  | c (r : Nat) (val : Option Cap)
deriving DecidableEq, Repr

/-- One faulting lane of a memory instruction (R195). -/
structure LaneFault where
  lane : Nat
  cause : Nat
  ea : Dword
  write : Bool
  malformed : Bool
  level : Nat
deriving DecidableEq, Repr

/-- What a long-latency instruction will put into its destinations when its data arrives. -/
inductive LoadForm where
  /-- A plain lane load of `n` bytes (R389); `signed` for the s8 and s16 forms. -/
  | lane (n : Nat) (signed : Bool)
  /-- A lane capability load (R391). -/
  | capLane (keepTag : Bool)
  /-- A uniform load of `n` bytes (R393). -/
  | uniform (n : Nat)
  /-- A uniform capability load (R392). -/
  | capUniform (keepTag : Bool)
  /-- The old value of an atomic (R213), of `n` bytes. -/
  | atom (n : Nat)
  /-- The old value of CADD (R219). -/
  | cadd
  /-- A CWAIT's read of a counter on a peer (R220); `last` for the read made once its timeout has expired (R58). -/
  | cwait (last : Bool)
  /-- Bytes that the requester collects itself once they have arrived: a card, an instruction word, a transfer. -/
  | gather
  /-- Nothing: a write, RED or CADD without return. -/
  | nothing
  /-- A PREF's line (R410): for the caches alone. -/
  | pref
deriving DecidableEq, Repr

/-- A long-latency instruction that has issued and not written its destinations (R72 to R75). -/
structure Pending where
  id : Nat
  /-- Instructions still inside the lookahead window (R73); 0 once the window has closed. -/
  window : Nat
  dests : List Dest
  /-- The sticky flags it merges when it completes (R72). -/
  flags : Word
  /-- Identifiers of remote requests it still waits for (R217, R297). -/
  waits : List Nat
  /-- Lanes whose remote request failed, for the one trap it takes once every lane has settled (R217). -/
  faults : List LaneFault
  /-- The address of its first word, its instruction word and its words, for that trap (R268); whether it is a uniform
  instruction (R159), and whether the team has gone on past it. -/
  pc : Dword
  insn : Word
  words : Nat
  uniform : Bool
  advanced : Bool
  /-- Lanes of its destinations, by place in `dests`, that a later instruction inside the window wrote for good (R74). -/
  drops : List (Nat × Mask)
  /-- Its lanes' reads of expander memory, by expander, as the faults they become if it is lost first (R280). -/
  far : List (Nat × LaneFault)
  /-- The lanes it writes, and the unmapped pages its lanes met (R195). -/
  lanes : Mask
  pages : List Nat
deriving DecidableEq, Repr

/-- What is left of a lookahead window whose instruction has written its results already (R73, R74): the instructions
still inside it, and the registers it wrote. -/
structure Past where
  window : Nat
  dests : List Dest
deriving DecidableEq, Repr

/-- The record of one trap (R268). -/
structure TrapRec where
  pc : Dword
  cause : Word
  rec0 : Dword
  rec1 : Dword
  rec2 : Dword
  rec3 : Dword
  faultCtl : Word
  faultRec : List Dword
  faultLane : List Word
  replay : Mask
  /-- Words of the trapped instruction with its prefixes; 0 for an asynchronous cause (R196, R267). -/
  words : Nat
  /-- Where the team goes on after the trapped instruction, when later instructions had executed before its lanes were
  detected (R75, R217); none when it is the instruction after it. -/
  cont : Option Dword
  /-- FLAGS bits its event record carries beside DOUBLE, ASYNC and VIRAL (R270): OVERQUOTA. -/
  flags : Nat
  /-- The lanes that REPLAY_MASK may name (R196): those the trap found. -/
  faulted : Mask
deriving DecidableEq, Repr

/-- No trap yet: every trap register at its reset value (R268). -/
def TrapRec.empty : TrapRec := ⟨0, 0, 0, 0, 0, 0, 0, [], [], 0, 0, none, 0, 0⟩

/-- What trap entry sets aside (R266). -/
structure Saved where
  active : Mask
  mode : Word
  fmt : Word
  c13 : Cap
  codeCap : Cap
  priv : Priv
deriving DecidableEq, Repr

/-- A team asleep in CWAIT (R57, R58, R220). -/
structure Sleep where
  /-- The counter's address and its place in memory. -/
  ea : Dword
  key : Nat
  /-- The GEN of the capability the wait was checked against (R157, R188). -/
  gen : Nat
  target : Dword
  /-- The timeout left at `since`, none for an untimed wait. -/
  limit : Option Nat
  /-- The timebase when the limit was last computed. -/
  since : Nat
  /-- The register that takes the report, in the timed form. -/
  dest : Option Nat
  window : Nat
  /-- Whether a monitor was free (R57). -/
  monitor : Bool
  /-- The timebase at the last re-read, and whether the next one is due without a monitor's wake (R57, R188). -/
  polled : Nat
  again : Bool
  /-- A re-read on resumption or after the timeout has been started at a peer and not answered (R58, R65). -/
  asked : Bool
  /-- Words of the CWAIT and its prefixes, and its instruction word. -/
  words : Nat
  insn : Word
deriving DecidableEq, Repr

/-- Prefixes read and not yet consumed by their instruction (R76, R78): empty between steps. -/
structure Latch where
  imm : Option Nat
  uni : Option Nat
  words : Nat
  /-- What the instruction, once it completes, takes from results still outstanding (R74): instruction, destination, lanes. -/
  drops : List (Nat × Nat × Mask)
deriving DecidableEq, Repr

/-- No prefix. -/
def Latch.empty : Latch := ⟨none, none, 0, []⟩

/-- Why a team does not issue. -/
inductive RunState where
  /-- It may issue (R56). -/
  | ready
  /-- Asleep in CWAIT (R57). -/
  | asleep
  /-- Held at a paired MMA until its handshake ends (R148). -/
  | pairing
  /-- A trap has been raised and waits for outstanding results (R75). -/
  | trapping
  /-- Stopped with a containment trap of its own (R269). -/
  | contained
  /-- A speculative team that met an operation it may not do (R257). -/
  | parked
  /-- Every lane has exited and the stack is empty (R60). -/
  | retired
deriving DecidableEq, Repr

/-- A team: one program counter, its registers and its control state (R41, R45, R80, R85). -/
structure Team where
  id : TeamId
  ctx : Nat
  width : Nat
  /-- Allocated vector and lane-capability registers (R80). -/
  nv : Nat
  nq : Nat
  run : RunState
  pc : Dword
  active : Mask
  exited : Mask
  /-- The divergence stack, top first (R59). -/
  stack : List StackEntry
  /-- The most entries the stack has held: those beyond have never been written (R62). -/
  deep : Nat
  /-- DSTK_CTL.WHY and SPILLED (R62). -/
  why : Nat
  spilled : Nat
  mode : Word
  fmt : Word
  flags : Word
  priv : Priv
  codeCap : Cap
  /-- Vector registers: register number to lane values (R80). -/
  v : SMap (List Word)
  q : SMap (List Cap)
  s : SMap Dword
  c : SMap Cap
  p : SMap Mask
  latch : Latch
  pending : List Pending
  /-- Windows still open whose instructions have written their results (R73, R74). -/
  past : List Past
  trap : TrapRec
  saved : Option Saved
  /-- The inner trap state of a DOUBLE containment trap (R269), and whether it is a failed handler entry. -/
  inner : Option TrapRec
  innerEntry : Bool
  /-- The lanes a re-executed instruction acts on, after RTE or a containment choice (R196, R267). -/
  replay : Option Mask
  /-- Where the team goes on after that re-execution, if not at the next instruction (R75). -/
  cont : Option Dword
  /-- Unique pages that PGMAP mapped while an instruction replays (R195). -/
  replayPages : List Nat
  sleep : Option Sleep
  /-- A trap waiting for outstanding results (R75). -/
  trapNext : Option TrapRec
  /-- Asynchronous traps that a parked team takes once it may go on (R257, R261). -/
  asyncNext : List TrapRec
  /-- Lines that the firewall refused to a speculative team: their owners are noticed once its trap is raised (R261, R300). -/
  owedNotes : List Nat
  /-- It has tried to issue and waits for a register still awaited: it is not ready (R56, R245). -/
  stalled : Bool
deriving DecidableEq, Repr

/-! ## Memory -/

/-- An L1's or a cluster cache's copy of part of one line (R25, R27, R179): its bytes, which are valid, which are not yet at
the next level, and its tags. -/
structure Copy where
  data : BitVec 1024
  valid : BitVec 128
  dirty : BitVec 128
  tags : BitVec 8
  /-- Which contexts wrote the bytes that are not yet at the next level (R225). -/
  writers : SMap (BitVec 128)
deriving DecidableEq, Repr

/-- The four modes of a bank (R26). -/
inductive BankMode where
  | cache | scratch | fifo | shadow
deriving DecidableEq, Repr

/-- One SRAM bank of a core (R181 to R184). -/
structure Bank where
  mode : BankMode
  owner : Option WgId
  slot : Nat
  /-- The mode a switch in progress goes to (R182). -/
  switching : Option BankMode
  /-- BANK_MODE.RESULT (R183). -/
  result : Nat
  /-- Held by firmware (R181). -/
  firm : Bool
  fifo : List (BitVec 128)
deriving DecidableEq, Repr

/-- A bank after warm reset: cluster-cache mode (R26). -/
def Bank.reset : Bank := ⟨.cache, none, 0, none, 0, false, []⟩

/-- The two context slots and four banks of one core (R24, R26, R63). -/
structure CoreState where
  issuing : Option WgId
  shadow : Option WgId
  banks : List Bank
deriving DecidableEq, Repr

/-- A core after warm reset. -/
def CoreState.reset : CoreState := ⟨none, none, [Bank.reset, Bank.reset, Bank.reset, Bank.reset]⟩

/-! ## Contexts -/

/-- A range of host, expander or peer frames the host runtime has granted (R192, REMOTE_GRANT of R292). -/
structure RemoteGrant where
  loc : Nat
  peer : Nat
  first : Nat
  count : Nat
deriving DecidableEq, Repr

/-- A peer grant (R297, PEER_GRANT of R292). -/
structure PeerGrant where
  src : Nat
  sctx : Nat
  first : Nat
  count : Nat
  ticket : Nat
deriving DecidableEq, Repr

/-- One event record (R270): its 64 bytes but for PHASE. -/
structure EventRec where
  kind : Nat
  cause : Nat
  status : Nat
  flags : Nat
  queue : Nat
  ctx : Nat
  tag : Nat
  ticket : Nat
  number : Nat
  address : Dword
  pc : Dword
  whr : Dword
  detail : Dword
  time : Nat
deriving DecidableEq, Repr

/-- An entry of a TLB (R190): an aligned group of 16 pages of a context, the frame its page 0 would have, the attributes
they share in their places of a page-table entry, and which pages are valid. -/
structure TlbEntry where
  ctx : Nat
  group : Nat
  base : Nat
  attrs : BitVec 128
  mask : BitVec 16
deriving DecidableEq, Repr

/-- A context (R186 to R199, R266 to R272, R292). -/
structure Ctx where
  /-- Creation block (R292). -/
  function : Nat
  confidential : Bool
  viralPolicy : Bool
  partition : Nat
  capLog2 : Nat
  evtLog2 : Nat
  quota : Nat
  window : Nat
  evtRing : Nat
  evtCtl : Nat
  supBase : Nat
  supLen : Nat
  codeBase : Nat
  codeLen : Nat
  trapVec : Dword
  watchdog : Nat
  /-- Level-0 entries by page number VA[56:16], and the entries of levels 3 to 1, by the level of the table they name and
  index prefix (R186, R187). -/
  ptes : SMap (BitVec 128)
  tables : SMap (BitVec 128)
  /-- The place of the root table, its address / 16384: 32 KiB (R186). -/
  root : Nat
  /-- The context's free frames (R192), and its reserve (R198). -/
  pool : List Nat
  reserve : List Nat
  remote : List RemoteGrant
  peers : List PeerGrant
  /-- The revocation list (R171). -/
  revBase : SMap Dword
  revCtl : SMap Dword
  /-- Event queue: WRITTEN, and records it could not write (R270). -/
  evtWritten : Nat
  evtLost : Nat
  /-- Records the device owes the event queue: those of containment traps, NOTICEs and stopped queues (R269, R270). -/
  evtDue : List EventRec
  /-- Containment (R269, R272). -/
  frozen : Bool
  killed : Bool
  viral : Bool
  /-- Outbound writes dropped since the context became viral (R279). -/
  dropped : Nat
  delegates : List Nat
  /-- Context save (R248): a save is running; the context is saved. -/
  saving : Bool
  saved : Bool
deriving DecidableEq, Repr

/-! ## Workgroups, gangs and launches -/

/-- A run of consecutive bytes of memory: the key of its first byte (see `mem`) and its length. -/
structure Piece where
  key : Nat
  len : Nat
  /-- Its page is shared-coherent (R222). -/
  coh : Bool
deriving DecidableEq, Repr

/-- What a matrix queue entry does (R132, R138, R140, R141, R144, R151). -/
inductive MOp where
  | mma (acc tile map : Nat) (reuse pair overwrite : Bool)
  | mza (acc : Nat)
  | mldt (tile : Nat) (colMajor : Bool)
  | mlda (acc : Nat)
  | msta (acc : Nat) (toAtype : Bool)
  | mmap (m : Nat) (d : BitVec 128)
  | mchk (pendingId : Nat)
deriving DecidableEq, Repr

/-- One entry of a matrix queue (R133): the operation, its team, MODE and FMT as read at issue, the translations it
holds (R138), and where its instruction stands. -/
structure MEntry where
  op : MOp
  team : TeamId
  mode : Word
  fmt : Word
  ea : Dword
  pieces : List Piece
  pc : Dword
  insn : Word
  window : Nat
deriving DecidableEq, Repr

/-- The paired handshake of the MMA at the head of a queue (R148). -/
inductive PairPhase where
  /-- No request is out. -/
  | quiet
  /-- The request has been sent and the partner has not answered. -/
  | waiting
  /-- The partner has compared and reserved; both engines run at the next execute. -/
  | reserved
deriving DecidableEq, Repr

/-- A workgroup: the context slot's shared state (R24, R46, R132 to R151). -/
structure Workgroup where
  id : WgId
  ctx : Nat
  core : Nat
  /-- Tile bytes by 2048·t + offset, accumulator bytes by 4096·a + offset (R137). -/
  tiles : SMap Byte
  accs : SMap Byte
  /-- Operand maps (R141), as executed and as last issued. -/
  maps : SMap (BitVec 128)
  mapsIssued : SMap (BitVec 128)
  queue : List MEntry
  /-- The REUSE latch: the tile it holds (R145). -/
  reuse : Option Nat
  /-- MCHK status (R151). -/
  mchk : Dword
  pair : PairPhase
  /-- Cycles that a waiting request has stood at the head, but for those since `pairSince` (R148). -/
  pairRun : Nat
  pairSince : Nat
  /-- Sweep stamp (R175) and the sweep-pending mark (R173). -/
  stamp : Nat
  sweepPending : Bool
  banksSwept : Bool
  /-- FIFO banks set aside while streamed out: segment slot and entries (R246). -/
  fifos : SMap (List (BitVec 128))
deriving DecidableEq, Repr

/-- Where a gang stands (R55, R63 to R66). -/
inductive GangPhase where
  /-- Its workgroups hold issuing slots. -/
  | running
  /-- Suspended in the shadow slots of its rectangle. -/
  | shadow
  /-- Chosen as a victim and not yet streamed out. -/
  | leaving
  /-- Streamed to its save area. -/
  | streamed
  /-- Placed again and not yet streamed in. -/
  | entering
deriving DecidableEq, Repr

/-- What a launch's descriptor gives every gang (R235). -/
structure Shape where
  entry : Dword
  width : Nat
  nteam : Nat
  w : Nat
  h : Nat
  nv : Nat
  nq : Nat
  scratch : Nat
deriving DecidableEq, Repr

/-- A gang (R48 to R55). -/
structure Gang where
  ticket : Nat
  ctx : Nat
  launch : Nat
  index : Nat
  x : Nat
  y : Nat
  z : Nat
  ox : Nat
  oy : Nat
  priority : Nat
  shape : Shape
  phase : GangPhase
  /-- Order of suspension, oldest first (R242). -/
  since : Nat
  /-- The timebase at stream-out (R246). -/
  outAt : Nat
  /-- It was suspended by its own context's save (R55, R248). -/
  saved : Bool
  /-- The speculation it belongs to (R253). -/
  spec : Option Nat
  /-- The frames of its save area (R246), and whether its state stands in them. -/
  area : List Nat
deriving DecidableEq, Repr

/-- Cores whose slots a pre-emption is freeing, and the candidate that will enter them (R244): a suspended gang's ticket, or for 0 a
launch. -/
structure Promise where
  ticket : Nat
  launch : Nat
  cores : List Nat
deriving DecidableEq, Repr

/-- A launch (R53, R234 to R236). -/
structure Launch where
  id : Nat
  ctx : Nat
  queue : Nat
  /-- The packet's number in its queue (R271), its TAG, and whether it came through the inlet. -/
  number : Nat
  tag : Nat
  priority : Nat
  gx : Nat
  gy : Nat
  gz : Nat
  /-- The next undispatched linear index (R53), and restarted indices that go first (R272). -/
  next : Nat
  again : List Nat
  shape : Shape
  code : Cap
  args : Cap
  /-- The timebase when it started (R286), and when its next gang began to wait (R242). -/
  started : Nat
  waiting : Option Nat
  /-- It has waited 1 ms and holds back later launches of its priority (R242). -/
  holds : Bool
  /-- Its watchdog has gone off (R286). -/
  overran : Bool
  spec : Option Nat
  /-- Where the frame of its argument block came from (R87): 0 frames of no owner, 1 the context's pool, 2 its extent reserve. -/
  argFrom : Nat
deriving DecidableEq, Repr

/-! ## Queues, packets and engines -/

/-- What a started packet waits for (R231). -/
inductive PacketWait where
  | notStarted
  | launch (id : Nat)
  | job
  /-- A counter (R239): the capability and the place last found for it, the target, the timebase of the timeout, and that of the last
  read. -/
  | counter (k : Cap) (key : Nat) (target : Dword) (deadline : Option Nat) (polled : Nat)
  | task
  | marker
  | drain
  /-- Nothing more: its completion is due, with this status (R232), and the CAUSE its record carries (R238). -/
  | done (status cause : Nat)
deriving DecidableEq, Repr

/-- A packet fetched or taken from the inlet (R228 to R231). -/
structure Packet where
  num : Nat
  inlet : Bool
  image : List Byte
  wait : PacketWait
  /-- The counter it adds to at completion (R231). -/
  ctr : Option Cap
  /-- The SEQ of the task it came from, on a Bilran L that owes a status (R453). -/
  task : Option Nat
  /-- The number of the packet its queue took before it, if any (R231). -/
  after : Option Nat
deriving DecidableEq, Repr

/-- One Orrery history entry (R249). -/
structure HistEntry where
  kernel : Cap
  shape : List Byte
  granules : List Cap
deriving DecidableEq, Repr

/-- A queue in its slot (R227 to R236, R249). -/
structure Queue where
  ctx : Nat
  number : Nat
  ring : Nat
  report : Nat
  priority : Nat
  log2n : Nat
  idx : Nat
  phase : Bool
  fetched : Nat
  retired : Nat
  stopped : Bool
  stopStatus : Nat
  stopTag : Nat
  stopNumber : Nat
  /-- The fetcher is scanning; a notify arrived meanwhile (R229). -/
  scanning : Bool
  latched : Bool
  /-- Images waiting in the inlet (R236), each with the SEQ of the task it came from, if it did (R294). -/
  inlet : List (List Byte × Option Nat)
  inletTaken : Nat
  packets : List Packet
  /-- The number of the packet taken last. -/
  lastTaken : Option Nat
  /-- A report that waits for its page to be writable (R188, R229): 0, or after a fetch the packet's number plus one. -/
  owed : Option Nat
  history : List HistEntry
deriving DecidableEq, Repr

/-- The nine job kinds (R237). -/
inductive Oper where
  | copy | copy2d | fill | gather | redscat | allgath | publish | cin | cout
deriving DecidableEq, Repr

/-- A job card in an engine queue (R237, R238). -/
structure Job where
  /-- Submission order (R36) and its index in the engine's queue (R271). -/
  seq : Nat
  /-- The engine whose queue it is in. -/
  engine : Nat
  index : Nat
  ctx : Nat
  oper : Oper
  ctr : Cap
  src : Cap
  dst : Cap
  aux : Cap
  snarrow : Nat
  dnarrow : Nat
  len : Nat
  p1 : Nat
  p2 : Nat
  amount : Dword
  tag : Nat
  ticket : Nat
  super : Bool
  /-- The queue slot and number of the JOB packet that submitted it; none for a JOB instruction. -/
  packet : Option (Nat × Nat)
  started : Bool
  /-- The key and the AUX descriptor whose CTR has been compared and recorded (R460). -/
  keyed : Option (BitVec 256 × List Byte)
  /-- A PUBLISH has sent its payload (R224). -/
  paid : Bool
  /-- The status it ends with, once its work is done (R232), and the CAUSE its record carries (R238). -/
  ended : Option Nat
  cause : Nat
deriving DecidableEq, Repr

/-! ## Atomics in flight, the fabric and the host -/

/-- A reduction held in a router merge buffer (R215). -/
structure Merge where
  id : Nat
  ctx : Nat
  key : Nat
  n : Nat
  op : AtomOp
  operand : Dword
  team : TeamId
  lane : Nat
  pendingId : Nat
  ea : Dword
  /-- Its page is shared-coherent (R222). -/
  coh : Bool
  /-- The timebase when the buffer took it: it is sent on within 64 cycles. -/
  since : Nat
deriving DecidableEq, Repr

/-- One lane's share of a request for a line (R193): its address, the bytes of the line that are its own, and what they become. -/
structure Share where
  lane : Nat
  ea : Dword
  off : Nat
  len : Nat
  form : LoadForm
deriving DecidableEq, Repr

/-- An outstanding request to a peer (R217, R297). -/
structure Remote where
  id : Nat
  hdr : FabHdr
  data : List Byte
  team : TeamId
  lane : Nat
  pendingId : Nat
  form : LoadForm
  ea : Dword
  /-- Domain clock when first sent (R217), and whether it has been sent again. -/
  sent : Nat
  again : Bool
  /-- Held because synchronisation is lost (R298). -/
  held : Bool
  /-- Refused with MOVED while its page migrates (R199). -/
  moved : Bool
  /-- A read's line once it has arrived, its eight tags as a last byte; a single byte is the cause of a failure. -/
  got : Option (List Byte)
  /-- The engine whose job it belongs to, if no team's (R237). -/
  engine : Option Nat
  /-- The lanes of one instruction that share it, where it is a load's or a store's (R193). -/
  shares : List Share
  /-- Caches, as `copies` numbers holders, that may no longer keep what it answers: it could be older than what they owe (R203,
  R207). -/
  stale : List Nat
deriving DecidableEq, Repr

/-- A page migration between its freeze and its move (R199), for the mailbox command whose SEQ it answers. -/
structure Migration where
  ctx : Nat
  page : Nat
  loc : Nat
  peer : Nat
  frame : Nat
  /-- The old home's first byte, once it has been frozen (R199 step 3). -/
  frozen : Option Nat
deriving DecidableEq, Repr

/-- An entry of the dedupe window (R217). -/
structure Dedupe where
  id : Nat
  src : Nat
  sent : Nat
  result : List Byte
deriving DecidableEq, Repr

/-- A snoop sent to holders of a shared-coherent line and not fully answered (R223). -/
structure Snoop where
  line : Nat
  holders : List Nat
  /-- The write that waits: byte mask, data and tags, as a write-back of this copy. -/
  held : Copy
  /-- The write makes the check of a whole line by itself (R274). -/
  made : Bool
  /-- It arrived with poison marked (R277). -/
  bad : Bool
deriving DecidableEq, Repr

/-- A host's read of device memory that waits (R223): the function it came through, its place and length, and whether it asks for
the tags. -/
structure HostAsk where
  fn : Nat
  addr : Nat
  len : Nat
  tagged : Bool
deriving DecidableEq, Repr

/-- A fabric port (R295). -/
structure FabPort where
  up : Bool
  peer : Nat
  roundTrip : Nat
  reducedRate : Bool
  keyed : Bool
  /-- Channels the other end has paused, and those on which this end has sent PAUSE. -/
  paused : List Nat
  halted : List Nat
  retries : Nat
  /-- Packets held back on paused channels, oldest first. -/
  waiting : List (FabHdr × List Byte)
deriving DecidableEq, Repr

/-- A host port (R288). -/
structure HostPort where
  up : Bool
  rate : Nat
  width : Nat
  ide : Bool
  ideKeys : Bool
deriving DecidableEq, Repr

/-- The TDISP state of a function (R301). -/
inductive Tdisp where
  | unlocked | run | error
deriving DecidableEq, Repr

/-- A tenant key slot (R302, R460). -/
structure KeySlot where
  fn : Nat
  key : BitVec 256
  lastCin : Option Nat
  lastCout : Option Nat
deriving DecidableEq, Repr

/-- A task key (R294): on a Bilran H bound to a context and an expander, on a Bilran L to a context and a function. -/
structure TaskKey where
  ctx : Nat
  expander : Nat
  fn : Nat
  key : BitVec 256
  salt : Word
  /-- The last SEQ sent and the last SEQ accepted under it. -/
  sent : Nat
  accepted : Option Nat
deriving DecidableEq, Repr

/-- The debug states of a partition (R305). -/
inductive Debug where
  | locked | tenant | vendor
deriving DecidableEq, Repr

/-- The power states of a partition or cluster (R306). -/
inductive Power where
  | running | gated | retention | off
deriving DecidableEq, Repr

/-- A partition (R305, R306). -/
structure Partition where
  clusters : List Nat
  test : Bool
  debug : Debug
  power : Power
deriving DecidableEq, Repr

/-- A dynamic capacity extent of a Bilran L (R198, R293). -/
structure Extent where
  ctx : Nat
  first : Nat
  /-- Bound to pages or placed in the reserve by EXTENT_BIND. -/
  bound : Bool
  released : Bool
deriving DecidableEq, Repr

/-- A running speculation (R252 to R260). -/
structure Spec where
  id : Nat
  ctx : Nat
  queue : Nat
  launch : Nat
  kernel : Cap
  shape : List Byte
  granules : List Cap
  dontCare : List Byte
  argg : Nat
  hmask : Nat
  quota : Nat
  /-- Shadow lines by line key (R254). -/
  shadow : SMap Copy
  /-- The exact read set and the lines in the signature (R256), by line key. -/
  reads : List Nat
  signature : List Nat
  /-- Pages whose translation it walked (R258). -/
  walked : List Nat
  /-- What its accesses would do to level-0 entries (R189), kept back until a claim (R259): page, the entry used, ACC and DIRTY. -/
  marks : List (Nat × BitVec 128 × BitVec 128)
deriving DecidableEq, Repr

/-- The mailbox's response area (R291). -/
structure Response where
  status : Nat
  seq : Word
  q : List Dword
deriving DecidableEq, Repr

/-- What the device sends outside: the last things written to its links, as plain data (newest first). -/
inductive Output where
  /-- An MSI-X interrupt of a function and vector (R270, R290). -/
  | msix (fn vector : Nat)
  /-- The completion of a host read: its data, or Completer Abort, or CXL poison (R277, R300). -/
  | hostData (fn addr : Nat) (data : List Byte)
  | hostAbort (fn addr : Nat)
  | hostPoison (fn addr : Nat)
  /-- Configuration Request Retry Status (R308). -/
  | hostRetry (fn addr : Nat)
  /-- A fabric packet (R296). -/
  | packet (hdr : FabHdr) (data : List Byte)
  /-- A retried flit, and PAUSE and RESUME sent for a virtual channel (R295). -/
  | linkRetry (port : Nat)
  | pause (port vc : Nat)
  | resume (port vc : Nat)
  /-- A line of a Bilran L with its eight tags, as a Bilran H reads it over CXL.mem (R293). -/
  | memData (fn addr : Nat) (data : List Byte) (tags : List Nat)
  /-- A host request refused with MOVED (R199). -/
  | hostMoved (fn addr : Nat)
  /-- A signed attestation report (R303): its fields and the signature. -/
  | report (fields : List Nat) (signature : BitVec 512)
  /-- A task image sent to an expander's BAR4, or a task's status sent back (R294). -/
  | task (expander : Nat) (image : List Byte)
  | taskStatus (fn seq status : Nat)
  /-- A back-invalidation snoop sent, and the response to one received (R223). -/
  | snoop (holder line : Nat)
  | snoopDone (line : Nat)
deriving DecidableEq, Repr

/-! ## The device -/

/-- Why the machine stops for good. -/
inductive Fault where
  /-- An event of the agenda is no event: an encoded instruction stands there. Raised by step; safe. -/
  | strayInstruction
deriving DecidableEq, Repr

/-- Why a step is refused. -/
inductive Refusal where
  /-- No meaning yet, by mnemonic. Raised by exec alone; safe. -/
  | notModelled (mnemonic : String)
deriving DecidableEq, Repr

/-- The whole device. Memory is one canonical list of (key, byte): the key of a byte is its address plus 2^64 times
its region: 0 local memory, 1 host memory, 2 + n expander n, 300 + n peer n, 10000 + t the gang window of ticket t
(R180, R50). Unlisted bytes read as 0. -/
structure State where
  /-- Events that are due, oldest first: follow-up steps the device owes itself, and inputs from outside. -/
  agenda : List Instr
  /-- The team that issues next, and the other teams, longest ready first (R245). -/
  team : Team
  others : List Team
  /-- The model's own counter of free choices (no register of the device). -/
  oracle : Nat
  /-- Core cycles since warm reset (R58). -/
  timebase : Nat
  mem : List Host.Cell
  /-- Tag bits by granule (key / 16), poison and line-check errors by line (key / 128) (R185). -/
  tags : SMap Bool
  poison : SMap Bool
  checkErr : SMap Word
  /-- Copies by holder and line, line + 2^128 * holder: cluster caches 0 to 79, and the L1 of core n as 100 + n (R25, R27,
  R179). -/
  copies : SMap Copy
  /-- Translation caches (R190), by agent: core n's first-level TLB, 1000 + n cluster n's, 2000 + n engine n's, and 3000 for
  the command processor and firmware. -/
  tlbs : SMap (List TlbEntry)
  ctxs : SMap Ctx
  /-- The owning context of each local frame plus one; 0 for none (R300). Frames firmware keeps for itself own 257. -/
  owner : SMap Nat
  /-- Firmware's reserve for page tables (R192): places of 16 KiB in local memory, by address / 16384. -/
  tableFree : List Nat
  cores : SMap CoreState
  /-- The pre-emption under way (R244). -/
  promised : Option Promise
  wgs : List Workgroup
  gangs : List Gang
  launches : List Launch
  nextLaunch : Nat
  nextOrder : Nat
  queues : SMap Queue
  engines : SMap (List Job)
  nextJob : Nat
  /-- Notify tables and ownership (R240, R241). -/
  stage1 : SMap Word
  stage2 : SMap Word
  fnOwner : SMap Nat
  notifyDrop : Dword
  /-- Sweeps (R173, R177). -/
  sweepClock : Dword
  sweepDone : Dword
  sweepActive : Bool
  sweepAgain : Bool
  /-- The entries valid when the pass started, as 32·context + n. -/
  sweepEntries : List Nat
  sweepScanned : Bool
  /-- Phase drain (R226). -/
  phaseAck : Bool
  phaseBusy : Bool
  phaseResult : Bool
  phaseDone : Dword
  /-- Devices of the fabric domain, its lowest device number (R226, R298), and the timebase at which the idle tree was last false. -/
  domain : Nat
  domainRoot : Nat
  busyAt : Nat
  /-- Speculations (R252). -/
  specs : List Spec
  nextSpec : Nat
  /-- Atomics held in router merge buffers (R215). -/
  merges : List Merge
  nextMerge : Nat
  /-- Requests to peers, and the dedupe window for requests from peers (R217), oldest first. -/
  remotes : List Remote
  nextReq : Nat
  dedupe : List Dedupe
  domainClock : Nat
  /-- Nanoseconds the domain clock still has to gain, by running fast, or to lose (R298). -/
  clockBehind : Int
  lastSync : Nat
  syncLost : Bool
  snoops : List Snoop
  /-- Peer requests and host reads that wait for a snoop of their line to be answered (R223). -/
  heldReqs : List (FabHdr × List Byte)
  heldHost : List HostAsk
  /-- Shared-coherent lines other agents hold copies of: host side (0) and requesters (R223), as line lists. -/
  sharers : SMap (List Nat)
  /-- Expanders: attached, and lost (R280). -/
  expAttached : List Nat
  expLost : List Nat
  /-- Extents of expanders that have been released: expander and first frame (R198). -/
  expReleased : List (Nat × Nat)
  ports : SMap FabPort
  deviceNumber : Nat
  hdrDropped : Nat
  hostPorts : SMap HostPort
  tdisp : SMap Tdisp
  keySlots : SMap KeySlot
  taskKeys : List TaskKey
  partitions : SMap Partition
  clusterPower : SMap Power
  /-- Clusters to be turned off whose gangs are still streaming out (R306). -/
  closing : List Nat
  extents : SMap Extent
  /-- Device registers: DEVICE_INFO (R3), CLUSTER_MAP (R20), NOC_WEIGHT (R32), TIMING_STAT (R282), the injector (R283),
  STEST_PASS (R284). -/
  deviceInfo : Word
  clusterMap : SMap Word
  nocWeight : Word
  timingStat : SMap Dword
  injCtl : Word
  injSeed : Dword
  injRate : Word
  stestPass : SMap Dword
  /-- ORRERY_CTL by context, 4 where never written, and ORRERY_STAT by 16 * context + k (R263). -/
  orreryCtl : SMap Word
  orreryStat : SMap Dword
  /-- Teams whose next instruction replays after a first timing detection (R282). -/
  timingArmed : List TeamId
  /-- L1 parity errors counted for system software (R25), by core. -/
  parityCount : SMap Nat
  /-- The Transit pair (R34, R285), and the choices that wait for it to restart, by context. -/
  transitStopped : Bool
  chosen : List (Nat × Choice)
  lastMismatch : Option Nat
  deviceFault : Bool
  /-- Bring-up status and power state (R289, R309). -/
  bringUp : Nat
  pstate : Nat
  /-- A warm reset has been requested and its preamble is due (R307). -/
  resetDue : Bool
  /-- The mailbox (R291): command area bytes, response, BUSY. -/
  mailArea : SMap Byte
  response : Response
  /-- BUSY, as the SEQ of the command that runs. -/
  mailBusy : Option Word
  migration : Option Migration
  /-- Local frames whose pages have moved away and that no page has taken since (R199, R200). -/
  movedAway : List Nat
  /-- What the device has sent, newest first. -/
  out : List Output
deriving DecidableEq, Repr

/-- No team: nothing issues until the distributor places one (R243). Every register reads as a team's start state
gives it (R45), with no live lane. DESIGN CHOICE, log entry 8. -/
def Team.idle : Team :=
  { id := ⟨0, 0, 0, 0⟩, ctx := 0, width := 32, nv := 8, nq := 0, run := .retired, pc := 0, active := 0, exited := 0,
    stack := [], deep := 0, why := 0, spilled := 0, mode := 0, fmt := 0, flags := 0, priv := .user, codeCap := Cap.null,
    v := [], q := [], s := [], c := [], p := [], latch := Latch.empty, pending := [], past := [], trap := TrapRec.empty,
    saved := none, inner := none, innerEntry := false, replay := none, cont := none, replayPages := [], sleep := none,
    trapNext := none, asyncNext := [], owedNotes := [], stalled := false }

/-- The device right after warm reset: bring-up in progress (R289, R309), no context, no team, every register at the
value its map gives. DESIGN CHOICE, log entry 7. DESIGN CHOICE, log entry 38. -/
def State.reset : State :=
  { agenda := [], team := Team.idle, others := [], oracle := 0, timebase := 0, mem := [], tags := [], poison := [],
    checkErr := [], copies := [], ctxs := [], owner := [], tlbs := [], tableFree := [], cores := [], promised := none, wgs := [], gangs := [],
    launches := [], nextLaunch := 1, nextOrder := 0, queues := [], engines := [], nextJob := 0,
    stage1 := [], stage2 := [], fnOwner := [], notifyDrop := 0, sweepClock := 0, sweepDone := 0, sweepActive := false,
    sweepAgain := false, sweepEntries := [], sweepScanned := false, phaseAck := false, phaseBusy := false,
    phaseResult := false, phaseDone := 0, domain := 1, domainRoot := 0, busyAt := 0, specs := [], nextSpec := 1, merges := [], nextMerge := 0, remotes := [],
    nextReq := 1, dedupe := [], domainClock := 0, clockBehind := 0, lastSync := 0, syncLost := false, snoops := [], heldReqs := [], heldHost := [],
    sharers := [],
    expAttached := [], expLost := [], expReleased := [], ports := [], deviceNumber := 0, hdrDropped := 0, hostPorts := [], tdisp := [],
    keySlots := [], taskKeys := [], partitions := [], clusterPower := [], closing := [], extents := [],
    deviceInfo := 0x4E010000, clusterMap := [], nocWeight := 0x862, timingStat := [], injCtl := 0, injSeed := 1,
    injRate := 0, stestPass := [], orreryCtl := [], orreryStat := [], timingArmed := [], parityCount := [], transitStopped := false, chosen := [],
    lastMismatch := none, deviceFault := false, bringUp := 1, pstate := 0, resetDue := false, mailArea := [],
    response := ⟨0, 0, []⟩, mailBusy := none, migration := none, movedAway := [], out := [] }

end Sys2Proof.Machine
end

