-- ==== Sys2Proof/Machine/CapBits.lean ====
section
/-!
DEFINITION. Machine/CapBits.lean: the capability word: its fields (R153), its permissions (R154), its bounds (R155),
representability and the derivations (R161 to R163).
-/

namespace Sys2Proof.Machine

/-- 2^57, one past the highest virtual address (R155). -/
def vaTop : Nat := 144115188075855872

namespace Cap
def cur (k : Cap) : Nat := k.bits.toNat % 144115188075855872
def g (k : Cap) : Nat := bitsAt k.bits.toNat 57 6
def isSealed (k : Cap) : Bool := k.bits.getLsbD 63
def bm (k : Cap) : Nat := bitsAt k.bits.toNat 64 24
def lm (k : Cap) : Nat := bitsAt k.bits.toNat 88 22
def perm (k : Cap) : Nat := bitsAt k.bits.toNat 110 10
def gen (k : Cap) : Nat := bitsAt k.bits.toNat 120 4
def otype (k : Cap) : Nat := bitsAt k.bits.toNat 124 4
end Cap

/-- Replace bits `[lo+n-1 : lo]` of a 128-bit value. -/
def setField (b : BitVec 128) (lo n x : Nat) : BitVec 128 :=
  BitVec.ofNat 128 (b.toNat - bitsAt b.toNat lo n * 2 ^ lo + x % 2 ^ n * 2 ^ lo)

def Cap.setCur (k : Cap) (x : Nat) : Cap := { k with bits := setField k.bits 0 57 x }
def Cap.setG (k : Cap) (x : Nat) : Cap := { k with bits := setField k.bits 57 6 x }
def Cap.setSeal (k : Cap) (b : Bool) : Cap := { k with bits := setField k.bits 63 1 (if b then 1 else 0) }
def Cap.setBm (k : Cap) (x : Nat) : Cap := { k with bits := setField k.bits 64 24 x }
def Cap.setLm (k : Cap) (x : Nat) : Cap := { k with bits := setField k.bits 88 22 x }
def Cap.setPerm (k : Cap) (x : Nat) : Cap := { k with bits := setField k.bits 110 10 x }
def Cap.setOtype (k : Cap) (x : Nat) : Cap := { k with bits := setField k.bits 124 4 x }
/-- The capability with its tag cleared. -/
def Cap.untag (k : Cap) : Cap := { k with tag := false }

/-- Permission bits, numbered from bit 110 (R154). -/
def permLoad : Nat := 1
def permStore : Nat := 2
def permLoadCap : Nat := 4
def permStoreCap : Nat := 8
def permExec : Nat := 16
def permAtomic : Nat := 32
def permGlobal : Nat := 64
def permShare : Nat := 128
def permLaunch : Nat := 256
def permSys : Nat := 512

/-- True when every bit of `need` is among the capability's permissions. -/
def Cap.has (k : Cap) (need : Nat) : Bool := k.perm &&& need == need

/-- CapDecode (R155): base and top, or none when malformed. -/
def capDecode (k : Cap) : Option (Nat × Nat) :=
  if 35 < k.g then none
  else
    let a : Int := (k.cur / 2 ^ (k.g + 24) : Nat)
    let m := k.cur / 2 ^ k.g % 16777216
    let base : Int :=
      if k.bm ≤ m then (a * 16777216 + k.bm) * 2 ^ k.g else ((a - 1) * 16777216 + k.bm) * 2 ^ k.g
    let top : Int := base + k.lm * 2 ^ k.g
    if base < 0 || top > 144115188075855872 then none else some (base.toNat, top.toNat)

/-- Representable (R155): the cursors that leave the bounds as they are. -/
def representable (k : Cap) (x : Int) : Bool :=
  match capDecode k with
  | some (base, _) => base ≤ x && x < base + 2 ^ (k.g + 24) && x < 144115188075855872
  | none => false

/-- Why a derivation or an access is refused: the trap codes 0x10 to 0x15 (R264). -/
def cCapTag : Nat := 0x10
def cCapBound : Nat := 0x11
def cCapPerm : Nat := 0x12
def cCapSeal : Nat := 0x13
def cCapRevoked : Nat := 0x14
def cCapLocal : Nat := 0x15

/-- Move of R162: a new cursor, with the tag kept only where it is representable. -/
def capMove (a : Cap) (x : Int) : Except Nat Cap :=
  if a.tag && a.isSealed then .error cCapSeal
  else
    let d := a.setCur (x % 144115188075855872).toNat
    .ok (if a.tag && !representable a x then d.untag else d)

/-- The least granule exponent at most 35, counted up from `g`, that spans [lo, hi) in 2^22 - 1 granules (R162). -/
def leastG (lo hi : Nat) : Nat → Nat → Option Nat
  | 0, _ => none
  | fuel + 1, g =>
    if (hi + 2 ^ g - 1) / 2 ^ g - lo / 2 ^ g ≤ 4194303 then some g else leastG lo hi fuel (g + 1)

/-- KBND of R162, with an unsigned 64-bit length. -/
def capBound (a : Cap) (b : Nat) : Except Nat Cap :=
  if a.tag && a.isSealed then .error cCapSeal
  else
    let lo := a.cur
    let hi := lo + b
    match leastG lo hi 36 0 with
    | none => .ok a.untag
    | some g =>
      let nb := lo / 2 ^ g * 2 ^ g
      let nt := (hi + 2 ^ g - 1) / 2 ^ g * 2 ^ g
      let d := ((a.setG g).setBm (nb / 2 ^ g)).setLm ((nt - nb) / 2 ^ g)
      match a.tag, capDecode a with
      | true, some (base, top) => .ok (if nb < base || top < nt then d.untag else d)
      | true, none => .ok d.untag
      | false, _ => .ok d

/-- KPRM of R162. -/
def capPerms (a : Cap) (b : Nat) : Except Nat Cap :=
  if a.tag && a.isSealed then .error cCapSeal else .ok (a.setPerm (a.perm &&& b % 1024))

/-- The checks of R163 on the authority. -/
def capAuthority (b : Cap) : Except Nat Unit :=
  if !b.tag then .error cCapTag
  else if b.isSealed then .error cCapSeal
  else if !b.has permSys then .error cCapPerm
  else
    match capDecode b with
    | some (base, top) => if base ≤ b.cur && b.cur < top && b.cur < 16 then .ok () else .error cCapBound
    | none => .error cCapBound

/-- KSEAL (R163). -/
def capSeal (a b : Cap) : Except Nat Cap :=
  match capAuthority b with
  | .error e => .error e
  | .ok _ =>
    if !a.tag then .error cCapTag
    else if a.isSealed then .error cCapSeal
    else .ok ((a.setSeal true).setOtype b.cur)

/-- KOPEN (R163). -/
def capOpen (a b : Cap) : Except Nat Cap :=
  match capAuthority b with
  | .error e => .error e
  | .ok _ =>
    if !a.tag then .error cCapTag
    else if !a.isSealed || a.otype != b.cur then .error cCapSeal
    else .ok ((a.setSeal false).setOtype 0)

/-- KGET (R375). -/
def capGet (a : Cap) : KField → Nat
  | .cur => a.cur
  | .base => match capDecode a with | some (b, _) => b | none => 0
  | .top => match capDecode a with | some (_, t) => t | none => 0
  | .len => match capDecode a with | some (b, t) => t - b | none => 0
  | .perm => a.perm
  | .gen => a.gen
  | .otype => a.otype
  | .state => (if a.tag then 1 else 0) + (if a.isSealed then 2 else 0)

/-- A capability from its fields, unsealed. -/
def Cap.make (tag : Bool) (cur g bm lm perm gen : Nat) : Cap :=
  ⟨tag, BitVec.ofNat 128 (cur % 2 ^ 57 + g % 64 * 2 ^ 57 + bm % 2 ^ 24 * 2 ^ 64 + lm % 2 ^ 22 * 2 ^ 88
    + perm % 1024 * 2 ^ 110 + gen % 16 * 2 ^ 120)⟩

/-- A root that covers exactly [base, base + len) with its cursor at the base, if any granule admits it (R168): the
least G for which both are multiples of 2^G and the length fits 22 bits. -/
def exactG (base len : Nat) : Nat → Nat → Option Nat
  | 0, _ => none
  | fuel + 1, g =>
    if base % 2 ^ g = 0 && len % 2 ^ g = 0 && len / 2 ^ g ≤ 4194303 then some g else exactG base len fuel (g + 1)

def capExact (base len perm gen : Nat) : Option Cap :=
  if vaTop < base + len then none
  else
    match exactG base len 36 0 with
    | some g => some (Cap.make true base g (base / 2 ^ g) (len / 2 ^ g) perm gen)
    | none => none

/-- True when a capability's bounds overlap [lo, hi). -/
def capOverlaps (k : Cap) (lo hi : Nat) : Bool :=
  match capDecode k with
  | some (b, t) => lo < hi && b < hi && lo < t
  | none => false

end Sys2Proof.Machine
end

