-- ==== Sys2Proof/Machine/Ops.lean ====
section
/-!
DEFINITION. Machine/Ops.lean: the named operations over a team's registers, its lanes, its long-latency results, and
taking a trap, written from the manual's own description of it (R266, R269).
-/

namespace Sys2Proof.Machine

/-- What a step answers. -/
abbrev Out := Host.Outcome State Fault Refusal

/-! ## Lanes and masks (R42) -/

/-- The mask of the lanes below `w` on which `f` holds. -/
def maskOf (w : Nat) (f : Nat → Bool) : Mask :=
  BitVec.ofNat 1024 ((List.range w).foldl (fun acc l => if f l then acc + 2 ^ l else acc) 0)
/-- All lanes of a width. -/
def fullMask (w : Nat) : Mask := BitVec.ofNat 1024 (2 ^ w - 1)
/-- The lanes of a mask below a width, ascending. -/
def lanesOf (w : Nat) (m : Mask) : List Nat := (List.range w).filter fun l => m.getLsbD l
/-- The lowest lane of a mask; 0 when it is empty. -/
def lowLane (w : Nat) (m : Mask) : Nat := (lanesOf w m).headD 0

/-! ## Register access (R80 to R83) -/

/-- Lane `l` of vector register `r`. -/
def Team.getV (t : Team) (r l : Nat) : Word := (t.v.getD r []).getD l 0
/-- The 64-bit value of an even/odd pair in one lane (R82). -/
def Team.getV64 (t : Team) (r l : Nat) : Dword := t.getV (r + 1) l ++ t.getV r l
/-- Lane `l` of lane-capability register `r`. -/
def Team.getQ (t : Team) (r l : Nat) : Cap := (t.q.getD r []).getD l Cap.null
def Team.getS (t : Team) (r : Nat) : Dword := t.s.getD r 0
def Team.getC (t : Team) (r : Nat) : Cap := t.c.getD r Cap.null
/-- Lane `l` of predicate `r`; p0 is true in every lane (R83). -/
def Team.getP (t : Team) (r l : Nat) : Bool := r == 0 || (t.p.getD r 0).getLsbD l
/-- A capability operand in one lane: 0 to 15 a c register, broadcast; 16 to 23 a q register (R95). -/
def Team.getK (t : Team) (k l : Nat) : Cap := if k < 16 then t.getC k else t.getQ (k - 16) l

/-- The values of a register after writing `f` in the lanes where it gives a value. -/
def mergeLanes {α : Type} (w : Nat) (old : Nat → α) (f : Nat → Option α) : List α :=
  (List.range w).map fun l => (f l).getD (old l)

def Team.setV (t : Team) (r : Nat) (f : Nat → Option Word) : Team :=
  { t with v := t.v.put [] r (mergeLanes t.width (t.getV r) f) }
/-- Write a pair, low half to the even register (R82). -/
def Team.setV64 (t : Team) (r : Nat) (f : Nat → Option Dword) : Team :=
  (t.setV r fun l => (f l).map fun (x : Dword) => x.setWidth 32).setV (r + 1) fun l =>
    (f l).map fun (x : Dword) => (x >>> 32).setWidth 32
def Team.setQ (t : Team) (r : Nat) (f : Nat → Option Cap) : Team :=
  { t with q := t.q.put [] r (mergeLanes t.width (t.getQ r) f) }
def Team.setS (t : Team) (r : Nat) (x : Dword) : Team := { t with s := t.s.put 0 r x }
def Team.setC (t : Team) (r : Nat) (x : Cap) : Team := { t with c := t.c.put Cap.null r x }
/-- Write a predicate in the lanes of `sel`; a write to p0 is discarded (R83). -/
def Team.setP (t : Team) (r : Nat) (sel : Mask) (f : Nat → Bool) : Team :=
  if r = 0 then t
  else { t with p := t.p.put 0 r (maskOf t.width fun l => if sel.getLsbD l then f l else t.getP r l) }

/-! ## Control state (R42, R85, R86) -/

/-- MODE fields (R86). -/
def modeGpred (m : Word) : Nat := m.toNat % 8
def modeGneg (m : Word) : Bool := m.getLsbD 3
def modeEtype (m : Word) : Nat := bitsAt m.toNat 4 3
def modeRnd (m : Word) : Nat := bitsAt m.toNat 7 3
def modeSat (m : Word) : Bool := m.getLsbD 10
def modeFtz (m : Word) : Bool := m.getLsbD 11
def modeLachk (m : Word) : Bool := m.getLsbD 12

/-- A value MODE can hold (R86). -/
def modeLegal (m : Word) : Bool :=
  m.toNat < 8192 && modeRnd m ≤ 4 && modeEtype m ≤ 3 && !(modeGneg m && modeGpred m == 0)

/-- A scale field between -40 and +40 (R86). -/
def scaleLegal (x : Nat) : Bool := x ≤ 40 || 216 ≤ x

/-- FMT fields (R86). -/
def fmtAtype (m : Word) : Nat := m.toNat % 8
def fmtBtype (m : Word) : Nat := bitsAt m.toNat 3 3
def fmtAscale (m : Word) : Int := signOf 8 (bitsAt m.toNat 6 8)
def fmtBscale (m : Word) : Int := signOf 8 (bitsAt m.toNat 14 8)
def fmtOscale (m : Word) : Int := signOf 8 (bitsAt m.toNat 22 8)
def fmtAcct (m : Word) : Nat := bitsAt m.toNat 30 2

/-- A value FMT can hold (R86). -/
def fmtLegal (m : Word) : Bool :=
  fmtAtype m ≤ 5 && fmtBtype m ≤ 5 && fmtAcct m ≤ 2 && scaleLegal (bitsAt m.toNat 6 8)
    && scaleLegal (bitsAt m.toNat 14 8) && scaleLegal (bitsAt m.toNat 22 8)

/-- True when lane `l` passes MODE.GUARD (R16 Guard). -/
def Team.guard (t : Team) (l : Nat) : Bool :=
  modeGpred t.mode == 0 || (t.getP (modeGpred t.mode) l != modeGneg t.mode)

/-- The active lanes an instruction may act on: on a re-execution after RTE or a containment choice, only the lanes to
replay (R196, R267). -/
def Team.actLanes (t : Team) : Mask :=
  match t.replay with
  | some m => t.active &&& m
  | none => t.active

/-- The lanes R42 selects: active and passing the guard. -/
def Team.selected (t : Team) (l : Nat) : Bool := t.actLanes.getLsbD l && t.guard l
def Team.selMask (t : Team) : Mask := maskOf t.width t.selected

/-- One instruction fewer stays inside a window, and what the instruction just completed wrote for good is taken from the
outstanding result (R73, R74). -/
def Pending.passed (p : Pending) (drops : List (Nat × Nat × Mask)) : Pending :=
  { p with window := p.window - 1, drops := p.drops ++ (drops.filter fun d => d.1 == p.id).map Prod.snd }

/-- One instruction fewer stays inside a window whose results are written (R73). -/
def Past.passed (p : Past) : Option Past := if p.window ≤ 1 then none else some { p with window := p.window - 1 }

/-- The pages that stay held for a replay once an instruction completes (R195): those a handler has mapped, until the trapped
instruction itself completes. -/
def Team.heldPages (t : Team) : List Nat := if t.saved.isSome then t.replayPages else []

/-- Step past the instruction and its prefixes (R78), which every open lookahead window counts (R73); a replay ends with
it. -/
def Team.advance (t : Team) : Team :=
  { t with pc := t.cont.getD (t.pc + BitVec.ofNat 64 (4 * (1 + t.latch.words))), latch := Latch.empty, replay := none,
           cont := none, replayPages := t.heldPages, pending := t.pending.map fun p => p.passed t.latch.drops,
           past := t.past.filterMap Past.passed }

/-- Continue at an address (R319). -/
def Team.goto (t : Team) (a : Dword) : Team :=
  { t with pc := a, latch := Latch.empty, replay := none, cont := none, replayPages := t.heldPages }

/-- Merge sticky flags (R86): bits are set, never cleared. -/
def Team.raise (t : Team) (f : Word) : Team := { t with flags := t.flags ||| f }

/-! ## The state around the issuing team -/

def State.setTeam (s : State) (f : Team → Team) : State := { s with team := f s.team }
def State.ctx? (s : State) (n : Nat) : Option Ctx := s.ctxs.find? n
def State.modCtx (s : State) (n : Nat) (f : Ctx → Ctx) : State := { s with ctxs := s.ctxs.modify n f }
def State.gang? (s : State) (ticket : Nat) : Option Gang := s.gangs.find? fun g => g.ticket == ticket
def State.modGang (s : State) (ticket : Nat) (f : Gang → Gang) : State :=
  { s with gangs := s.gangs.map fun g => if g.ticket = ticket then f g else g }
def Team.wg (t : Team) : WgId := ⟨t.id.ticket, t.id.gx, t.id.gy⟩
def State.wg? (s : State) (g : WgId) : Option Workgroup := s.wgs.find? fun w => w.id == g
def State.modWg (s : State) (g : WgId) (f : Workgroup → Workgroup) : State :=
  { s with wgs := s.wgs.map fun w => if w.id = g then f w else w }
/-- Every team of the device, the issuing one first. -/
def State.teams (s : State) : List Team := s.team :: s.others
def State.team? (s : State) (i : TeamId) : Option Team := s.teams.find? fun t => t.id == i
/-- Change one team, wherever it stands. -/
def State.modTeam (s : State) (i : TeamId) (f : Team → Team) : State :=
  { s with team := if s.team.id = i then f s.team else s.team,
           others := s.others.map fun t => if t.id = i then f t else t }
/-- Change every team on which `p` holds. -/
def State.modTeams (s : State) (p : Team → Bool) (f : Team → Team) : State :=
  { s with team := if p s.team then f s.team else s.team,
           others := s.others.map fun t => if p t then f t else t }
/-- Owe the device a further step. -/
def State.post (s : State) (i : Instr) : State := { s with agenda := s.agenda ++ [i] }
def State.postAll (s : State) (is : List Instr) : State := { s with agenda := s.agenda ++ is }
/-- Reductions that a team has in router merge buffers are sent on (R215). -/
def State.hurry (s : State) (i : TeamId) : State :=
  match s.merges with
  | [] => s
  | ms => s.postAll ((ms.filter fun m => m.team == i).map fun m => Instr.mergeBufferSend m.id)
/-- Use up one value of the free-choice counter. -/
def State.tick (s : State) : State := { s with oracle := s.oracle + 1 }
def State.send (s : State) (o : Output) : State := { s with out := o :: s.out }
/-- True when the team belongs to a running speculation (R252). -/
def State.specOf (s : State) (t : Team) : Option Nat := (s.gang? t.id.ticket).bind fun g => g.spec

/-! ## Long-latency results (R72 to R75) -/

/-- Write one destination, in the lanes it has a value for. -/
def Team.writeDest (t : Team) : Dest → Team
  | .v r vals => t.setV r fun l => (vals.getD l none)
  | .q r vals => t.setQ r fun l => (vals.getD l none)
  | .s r x => x.elim t (t.setS r)
  | .c r x => x.elim t (t.setC r)

/-- A destination without the lanes `m`; a uniform one is gone whole when `m` holds any lane. -/
def Dest.without (d : Dest) (m : Mask) : Dest :=
  let cut {α : Type} (vs : List (Option α)) : List (Option α) :=
    (List.range vs.length).map fun l => if m.getLsbD l then none else vs.getD l none
  match d with
  | .v r vals => .v r (cut vals)
  | .q r vals => .q r (cut vals)
  | .s r x => .s r (if m = 0 then x else none)
  | .c r x => .c r (if m = 0 then x else none)

/-- The register of a destination alone. -/
def Dest.bare : Dest → Dest
  | .v r _ => .v r []
  | .q r _ => .q r []
  | .s r _ => .s r none
  | .c r _ => .c r none

/-- The values a long-latency instruction is still to write: its results less what later instructions inside its window
wrote for good (R74). -/
def Pending.landing (p : Pending) : List Dest :=
  match p.drops with
  | [] => p.dests
  | ds => ((List.range p.dests.length).zip p.dests).map fun (k, d) =>
      (ds.filter fun x => x.1 == k).foldl (fun d x => d.without x.2) d

/-- Write every destination of a long-latency instruction and merge its flags (R72); a window that is still open stays open
(R74). -/
def Team.finish (t : Team) (p : Pending) : Team :=
  { (p.landing.foldl Team.writeDest t) with
    flags := t.flags ||| p.flags, pending := t.pending.filter fun x => x.id != p.id,
    past := if p.window = 0 then t.past else t.past ++ [⟨p.window, p.dests.map Dest.bare⟩] }

/-- Complete, oldest first, every outstanding instruction that waits for nothing outside (R75). -/
def Team.finishAll (t : Team) : Team :=
  (t.pending.filter fun p => p.waits.isEmpty).foldl Team.finish t

/-- Close every open lookahead window (R73). -/
def Team.closeWindows (t : Team) : Team :=
  { t with pending := t.pending.map fun p => { p with window := 0 }, past := [] }

/-! ## Traps (R264 to R269) -/

def cIllegal : Nat := 0x01
def cPrefix : Nat := 0x02
def cConverge : Nat := 0x03
def cLookahead : Nat := 0x04
def cStack : Nat := 0x05
def cFormat : Nat := 0x06
def cSwtrap : Nat := 0x08
def cBkpt : Nat := 0x09
def cPage : Nat := 0x20
def cAccess : Nat := 0x21
def cNoframe : Nat := 0x22
def cFirewall : Nat := 0x23
def cPoison : Nat := 0x30
def cCheck : Nat := 0x31
def cViral : Nat := 0x32
def cExpLost : Nat := 0x33
def cAtomIndet : Nat := 0x34
def cMatSdc : Nat := 0x35
def cTiming : Nat := 0x36
def cWatchdog : Nat := 0x37

/-- True of the causes that only the host runtime can judge (R264). -/
def containCause (c : Nat) : Bool := c == 0x22 || c == 0x23 || (0x30 ≤ c && c ≤ 0x37)

/-- The supervisor capability of a context (R169): LOAD, STORE, LOADCAP, STORECAP, GLOBAL and SYS over its region, of GEN 0 and
with the cursor at its base. DESIGN CHOICE, log entry 80. -/
def Ctx.supCap (c : Ctx) : Cap :=
  (capExact c.supBase c.supLen (permLoad + permStore + permLoadCap + permStoreCap + permGlobal + permSys) 0).getD
    Cap.null
/-- The supervisor code capability (R266): LOAD and EXEC over the supervisor's code. -/
def Ctx.supCode (c : Ctx) : Cap := (capExact c.codeBase c.codeLen (permLoad + permExec) 0).getD Cap.null
/-- TRAP_VEC.V and ADDR (R268). -/
def Ctx.trapV (c : Ctx) : Bool := c.trapVec.getLsbD 63
def Ctx.trapAddr (c : Ctx) : Dword := c.trapVec &&& 0x01FFFFFFFFFFFFFC

/-- InCode (R16): every byte of [a, a + n) lies within the capability's bounds. -/
def inCode (k : Cap) (a : Dword) (n : Nat) : Bool :=
  k.tag && (match capDecode k with
    | some (b, t) => b ≤ a.toNat && a.toNat + n ≤ t
    | none => false)

/-- One fault record being built: its page, cause and lanes (R195). -/
structure FaultGroup where
  first : LaneFault
  page : Nat
  lanes : Nat
deriving DecidableEq, Repr

/-- Add a faulting lane to the record of its (page, cause), or make a new last one (R195). -/
def addFault : List FaultGroup → LaneFault → List FaultGroup
  | [], f => [⟨f, f.ea.toNat / 65536, 1⟩]
  | g :: rest, f =>
    if g.page = f.ea.toNat / 65536 ∧ g.first.cause = f.cause then { g with lanes := g.lanes + 1 } :: rest
    else g :: addFault rest f

/-- FAULT_REC of a record (R195). -/
def FaultGroup.recWord (g : FaultGroup) : Dword :=
  BitVec.ofNat 64 (g.page * 65536 + g.first.cause * 256 + (if g.first.write then 128 else 0)
    + (if g.first.malformed then 64 else 0) + g.first.level % 4 * 16)
/-- FAULT_LANE of a record (R195). -/
def FaultGroup.laneWord (g : FaultGroup) : Word := BitVec.ofNat 32 (g.lanes * 65536 + g.first.lane)

/-- What raised a trap. -/
structure Cause where
  code : Nat
  /-- Faulting lanes in ascending order, for a lane cause (R264). -/
  faults : List LaneFault
  /-- Lanes a uniform instruction's one fault stands for: the active set (R159). -/
  allLanes : Bool
  detail : Nat
  insn : Nat
  async : Bool
  rec3 : Nat
  addr : Dword
deriving DecidableEq, Repr

/-- An instruction cause (R264). -/
def Cause.instr (code insn : Nat) : Cause := ⟨code, [], false, 0, insn, false, 0, 0⟩
/-- An instruction cause with a DETAIL. -/
def Cause.detailed (code detail insn : Nat) : Cause := ⟨code, [], false, detail, insn, false, 0, 0⟩
/-- A lane cause: that of the lowest faulting lane (R158). -/
def Cause.lanes (faults : List LaneFault) (insn : Nat) : Cause :=
  ⟨(faults.headD ⟨0, 0, 0, false, false, 0⟩).cause, faults, false, 0, insn, false, 0,
    (faults.headD ⟨0, 0, 0, false, false, 0⟩).ea⟩
/-- The fault of a uniform instruction: one record, an all-lanes mask (R159). -/
def Cause.uniform (f : LaneFault) (insn : Nat) : Cause := ⟨f.cause, [f], true, 0, insn, false, 0, f.ea⟩

/-- The lanes to replay (R266): the faulting lanes of a lane cause, no lane for SWTRAP, BKPT and asynchronous causes,
the active set otherwise; on a re-execution, lanes that completed before stay out (R196). -/
def Cause.replay (c : Cause) (t : Team) : Mask :=
  if c.async || c.code == cSwtrap || c.code == cBkpt then 0
  else if c.allLanes || c.faults.isEmpty then t.actLanes
  else maskOf t.width fun l => c.faults.any fun f => f.lane == l

/-- The trap registers a trap of cause `c` would leave in team `t` (R195, R266, R268). -/
def Team.trapRec (t : Team) (c : Cause) : TrapRec :=
  let replay := c.replay t
  let shown := if c.faults.isEmpty then t.actLanes else replay
  let groups := c.faults.foldl addFault []
  let groups := if c.allLanes then
      groups.map fun g => { g with lanes := (lanesOf t.width t.actLanes).length,
                                   first := { g.first with lane := lowLane t.width t.actLanes } }
    else groups
  { pc := t.pc,
    cause := BitVec.ofNat 32 (c.code + (if t.priv = .user then 0 else 256) + (if c.faults.isEmpty then 0 else 512)
      + (if c.async then 1024 else 0)),
    rec0 := c.addr,
    rec1 := BitVec.ofNat 64 (t.id.idx % 16 * 2 ^ 40 + t.id.gy % 4 * 2 ^ 36 + t.id.gx % 8 * 2 ^ 32
      + (lanesOf t.width shown).length * 65536 + lowLane t.width shown),
    rec2 := BitVec.ofNat 64 (c.detail % 4096 * 2 ^ 32 + (if c.async then 0 else c.insn)),
    rec3 := BitVec.ofNat 64 c.rec3,
    faultCtl := if c.faults.isEmpty then t.trap.faultCtl
      else BitVec.ofNat 32 (min groups.length 64 + if 64 < groups.length then 256 else 0),
    faultRec := if c.faults.isEmpty then t.trap.faultRec else (groups.take 64).map FaultGroup.recWord,
    faultLane := if c.faults.isEmpty then t.trap.faultLane else (groups.take 64).map FaultGroup.laneWord,
    replay := replay,
    words := if c.async then 0 else 1 + t.latch.words,
    cont := t.cont, flags := 0, faulted := replay }

/-- Set TRAP_CAUSE.DOUBLE (R268). -/
def TrapRec.double (r : TrapRec) : TrapRec := { r with cause := r.cause ||| 0x800 }

/-- Enter the supervisor handler with the trap registers `r` (R266). DESIGN CHOICE, log entry 34. -/
def Team.enter (t : Team) (c : Ctx) (r : TrapRec) : Team :=
  { t with
    trap := r,
    saved := some ⟨t.active, t.mode, t.fmt, t.getC 13, t.codeCap, t.priv⟩,
    mode := 0, fmt := 0,
    active := if r.replay = 0 then t.active else r.replay,
    c := t.c.put Cap.null 13 c.supCap,
    codeCap := c.supCode, priv := .super, pc := c.trapAddr,
    latch := Latch.empty, replay := none, cont := none, run := .ready, trapNext := none, sleep := none,
    pending := t.closeWindows.pending, past := [] }

/-- The launch's packet that a team's traps name (R271). -/
def State.packetOf (s : State) (ticket : Nat) : Nat × Nat × Nat :=
  match s.gang? ticket with
  | some g =>
    match s.launches.find? fun l => l.id == g.launch with
    | some l => ((s.queues.find? l.queue).elim 0xFFFF fun q => q.number, l.tag, l.number)
    | none => (0xFFFF, 0, 0)
  | none => (0xFFFF, 0, 0)

/-- A context owes a record to its event queue; FLAGS[3] says whether the context is viral (R270). -/
def Ctx.owes (c : Ctx) (e : EventRec) : Ctx :=
  { c with evtDue := c.evtDue ++ [{ e with flags := e.flags + if c.viral then 8 else 0 }] }

/-- The event record of a containment trap (R270, R271), but for FLAGS[3]. -/
def State.trapEvent (s : State) (t : Team) (r : TrapRec) (code flags : Nat) : EventRec :=
  let (q, tag, num) := s.packetOf t.id.ticket
  { kind := 1, cause := code, status := 0,
    flags := flags + (if r.cause.getLsbD 11 then 1 else 0) + (if r.cause.getLsbD 10 then 2 else 0),
    queue := q, ctx := t.ctx, tag := tag, ticket := t.id.ticket, number := num, address := r.rec0, pc := r.pc,
    whr := r.rec1, detail := r.rec3, time := s.domainClock }

/-- Raise a containment trap in team `i` with the trap registers `r` (R269): the team stops, keeps its trap state (or,
inside a handler, holds the new one apart as the inner trap state), owes a record and the freeze of its context. -/
def State.contain (s : State) (i : TeamId) (code flags : Nat) (r : TrapRec) : State :=
  match s.team? i with
  | none => s
  | some t =>
    let s := s.modTeam i fun t =>
      -- a further fault in a team that is contained already only writes its own record (R269)
      if t.run = .contained then t
      else if t.saved.isSome then
        { t with run := .contained, inner := some r, innerEntry := false, trap := t.trap.double,
                 latch := Latch.empty, trapNext := none, pending := t.closeWindows.pending, past := [] }
      else
        { t with run := .contained, trap := r, latch := Latch.empty, trapNext := none,
                 pending := t.closeWindows.pending, past := [] }
    let r' := if t.saved.isSome then r.double else r
    -- a POISON, CHECK, MAT_SDC or TIMING trap puts a context with the policy into viral mode (R278)
    let sick := code == cPoison || code == cCheck || code == cMatSdc || code == cTiming
    (s.modCtx t.ctx fun c =>
      let viral := c.viral || (c.viralPolicy && sick)
      { c with viral := viral }.owes (s.trapEvent t r' code flags)).post
      (.containmentFreeze t.ctx)

/-- Raise an asynchronous containment trap in team `i` for something at `pc` (R264, R281, R395): no lane replays. A
speculative team parks instead, and keeps a trap or an instruction it has parked at already (R257, R261); one held at a paired MMA
parks once its handshake has ended (R148). -/
def State.containAsync (s : State) (i : TeamId) (code flags : Nat) (pc addr : Dword) (rec3 : Nat) : State :=
  match s.team? i with
  | none => s
  | some t =>
    let r := { t.trapRec ⟨code, [], false, 0, 0, true, rec3, addr⟩ with pc := pc }
    if (s.specOf t).isSome then s.modTeam i fun t =>
      { t with run := if t.run = .pairing then .pairing else .parked, asyncNext := t.asyncNext ++ [{ r with flags := flags }] }
    else (s.contain i code flags r).modTeam i fun u => { u with trapNext := t.trapNext }

/-- A handler entry that fails because TRAP_VEC.ADDR lies outside the supervisor code capability (R266, R269): the inner record is
that of the trap being delivered, with the cause CAP_BOUND. DESIGN CHOICE, log entry 107. -/
def State.entryFails (s : State) (t : Team) (r : TrapRec) : State :=
  let inner := { r with cause := BitVec.ofNat 32 (cCapBound + (if t.priv = .user then 0 else 256)) }
  let s := s.modTeam t.id fun t =>
    { t with run := .contained, trap := r.double, inner := some inner, innerEntry := true, latch := Latch.empty,
             trapNext := none, pending := t.closeWindows.pending, past := [] }
  (s.modCtx t.ctx fun c => c.owes (s.trapEvent t inner.double cCapBound 0)).post
    (.containmentFreeze t.ctx)

/-- Deliver a trap of code `code` whose registers are `r` to team `i`, once its outstanding results have landed (R265,
R266): supervisor causes enter the handler; the others, a trap without a handler and a trap inside one contain. -/
def State.deliver (s : State) (i : TeamId) (code flags : Nat) (r : TrapRec) : State :=
  match s.team? i with
  | none => s
  | some t =>
    match s.ctx? t.ctx with
    | none => s.contain i code flags r
    | some c =>
      if containCause code || !c.trapV || t.saved.isSome then s.contain i code flags r
      else if inCode c.supCode c.trapAddr 4 then s.modTeam i fun t => t.enter c r
      else s.entryFails t r

/-- The code a record carries (R268). -/
def TrapRec.code (r : TrapRec) : Nat := r.cause.toNat % 256

/-- True while the queue of a team's workgroup holds an operation of the team: long-latency instructions of R71 that have
neither written their destinations nor recorded a fault (R75). -/
def State.queueOf (s : State) (t : Team) : Bool := (s.wg? t.wg).any fun g => g.queue.any fun e => e.team == t.id

/-- Taking a trap in the issuing team (R75, R265, R266): windows close, outstanding results land, then delivery. A team
that still waits for a remote result or a matrix operation enters its handler by TRAP_ENTRY once that is done; a speculative
team parks (R257). `code` may differ from the cause's own when NOFRAME takes its place (R195). -/
def takeTrap (c : Cause) (flags : Nat) (s : State) : State :=
  let t := s.team.closeWindows.finishAll
  let r := { t.trapRec c with flags := flags }
  let s := s.setTeam fun _ => { t with latch := Latch.empty }
  if (s.specOf t).isSome then s.setTeam fun t => { t with run := .parked, trapNext := some r }
  else if t.pending.isEmpty && !s.queueOf t then s.deliver t.id c.code flags r
  else (s.setTeam fun t => { t with run := .trapping, trapNext := some r }).hurry t.id

/-- The instruction word a trap records for an encoded instruction (R268). -/
def insnOf (i : Instr) : Nat := ((encode i).head?.map BitVec.toNat).getD 0

/-- Trap with an instruction cause. -/
def trapWith (code : Nat) (i : Instr) (s : State) : Out := .next (takeTrap (.instr code (insnOf i)) 0 s)

/-- An outstanding result less what it would write to c13 (R169). -/
def Pending.dropC13 (p : Pending) : Pending :=
  { p with drops := p.drops ++ ((List.range p.dests.length).zip p.dests).filterMap fun x =>
      match x.2 with
      | .c r _ => if r = 13 then some (x.1, BitVec.allOnes 1024) else none
      | _ => none }

/-- Return from a handler (R267): everything R266 saved is restored, and execution continues by R196: at the
trapped instruction for the lanes left to replay, or after it when none is left. A value for c13 that a load of the handler
still owes is discarded (R169). -/
def Team.leave (t : Team) (sv : Saved) (active : Mask) : Team :=
  { t with
    active := active, mode := sv.mode, fmt := sv.fmt, c := t.c.put Cap.null 13 sv.c13, codeCap := sv.codeCap,
    priv := sv.priv, saved := none, latch := Latch.empty,
    pc := if t.trap.replay = 0 then t.trap.cont.getD (t.trap.pc + BitVec.ofNat 64 (4 * t.trap.words)) else t.trap.pc,
    replay := if t.trap.replay = 0 then none else some t.trap.replay,
    cont := if t.trap.replay = 0 then none else t.trap.cont,
    replayPages := if t.trap.replay = 0 then [] else t.replayPages,
    pending := t.pending.map Pending.dropC13 }

end Sys2Proof.Machine
end

