-- ==== Sys2Proof/Machine/SysTable.lean ====
section
/-!
DEFINITION. Machine/SysTable.lean: the system register numbers, their instances, widths and privileges (R110, R434).
-/

namespace Sys2Proof.Machine

/-- A row of the table of R434. `writeAt` is none where every SYSW raises ILLEGAL. -/
structure SysRow where
  num : Nat
  instances : Nat
  width : Nat
  readAt : Priv
  writeAt : Option Priv
deriving DecidableEq, Repr

/-- The system registers, and no others (R434). -/
def sysTable : List SysRow :=
  [⟨0x000, 1, 32, .user, none⟩, ⟨0x001, 1, 32, .user, none⟩, ⟨0x002, 1, 32, .user, some .user⟩,
   ⟨0x010, 1, 32, .super, none⟩, ⟨0x011, 80, 32, .firm, none⟩, ⟨0x012, 1, 32, .firm, some .firm⟩,
   ⟨0x020, 1, 32, .super, none⟩, ⟨0x030, 1, 32, .super, some .super⟩, ⟨0x031, 32, 64, .super, some .super⟩,
   ⟨0x032, 32, 32, .super, some .super⟩, ⟨0x033, 32, 32, .super, some .super⟩,
   ⟨0x034, 1024, 32, .super, some .super⟩] ++
  [⟨0x040, 32, 64, .super, some .super⟩, ⟨0x041, 32, 64, .super, some .super⟩, ⟨0x042, 1, 64, .super, none⟩,
   ⟨0x043, 1, 64, .super, none⟩, ⟨0x044, 1, 32, .super, some .super⟩, ⟨0x045, 1, 32, .super, none⟩,
   ⟨0x050, 4, 32, .super, some .super⟩, ⟨0x051, 4, 32, .super, none⟩, ⟨0x052, 1, 32, .super, none⟩,
   ⟨0x053, 64, 64, .super, none⟩, ⟨0x054, 64, 32, .super, none⟩, ⟨0x055, 32, 32, .super, some .super⟩,
   ⟨0x056, 1, 64, .super, none⟩, ⟨0x060, 1, 32, .super, none⟩, ⟨0x061, 1, 64, .super, none⟩,
   ⟨0x070, 1, 64, .super, none⟩] ++
  [⟨0x080, 256, 32, .firm, some .firm⟩, ⟨0x081, 4096, 64, .firm, none⟩, ⟨0x090, 1, 32, .super, none⟩,
   ⟨0x091, 1, 64, .super, none⟩, ⟨0x092, 4, 64, .super, none⟩, ⟨0x093, 1, 64, .super, some .super⟩,
   ⟨0x094, 1, 32, .super, some .super⟩, ⟨0x095, 1, 32, .super, some .super⟩, ⟨0x0A0, 80, 64, .super, none⟩,
   ⟨0x0A1, 1, 32, .firm, some .firm⟩, ⟨0x0A2, 1, 64, .firm, some .firm⟩, ⟨0x0A3, 1, 32, .firm, some .firm⟩,
   ⟨0x0A4, 3, 64, .firm, none⟩]

/-- The order of privileges (R97). -/
def Priv.rank : Priv → Nat
  | .user => 0 | .super => 1 | .firm => 2 | .boot => 3

/-- "At P and above" (R97). -/
def Priv.atLeast (p need : Priv) : Bool := need.rank ≤ p.rank

/-- The row a selector names: none for an unassigned number, an instance beyond the count or non-zero upper bits
(R110). -/
def sysRow (sel : Nat) : Option SysRow :=
  if 16777216 ≤ sel then none
  else sysTable.find? fun r => r.num == sel / 4096 && sel % 4096 < r.instances

/-- True when a team at privilege `p` may read the register a selector names (R433). -/
def sysReadOk (p : Priv) (sel : Nat) : Bool :=
  match sysRow sel with
  | some r => p.atLeast r.readAt
  | none => false

/-- True when a team at privilege `p` may write it (R433). -/
def sysWriteOk (p : Priv) (sel : Nat) : Bool :=
  match sysRow sel with
  | some r => (match r.writeAt with | some w => p.atLeast w | none => false)
  | none => false

end Sys2Proof.Machine
end

