-- ==== Sys2Proof/Machine/Operands.lean ====
section
/-!
DEFINITION. Machine/Operands.lean: what every instruction reads and writes, which prefixes it takes (R77, R93, R103),
the checks it must pass before it takes effect, in the order of R98, and the operand forms.
-/

namespace Sys2Proof.Machine

/-! ## Register uses -/

/-- A register class (R80). -/
inductive Cls where
  | v | q | s | c | p
deriving DecidableEq, Repr

/-- One operand: `count` registers of a class from `n` on, read, written or both. -/
structure Use where
  cls : Cls
  n : Nat
  count : Nat
  reads : Bool
  writes : Bool
deriving DecidableEq, Repr

def rdV (n c : Nat) : Use := ⟨.v, n, c, true, false⟩
def wrV (n c : Nat) : Use := ⟨.v, n, c, false, true⟩
def rwV (n c : Nat) : Use := ⟨.v, n, c, true, true⟩
def rdS (n : Nat) : Use := ⟨.s, n, 1, true, false⟩
def wrS (n : Nat) : Use := ⟨.s, n, 1, false, true⟩
def rwS (n : Nat) : Use := ⟨.s, n, 1, true, true⟩
def rdP (n : Nat) : Use := ⟨.p, n, 1, true, false⟩
def wrP (n : Nat) : Use := ⟨.p, n, 1, false, true⟩
/-- A capability operand (R95). -/
def rdK (k : Nat) : Use := if k < 16 then ⟨.c, k, 1, true, false⟩ else ⟨.q, k - 16, 1, true, false⟩
def wrK (k : Nat) : Use := if k < 16 then ⟨.c, k, 1, false, true⟩ else ⟨.q, k - 16, 1, false, true⟩

/-- Two registers for a 64-bit operand (R82). -/
def two (wide : Bool) : Nat := if wide then 2 else 1

/-- Which prefixes an instruction takes (R77, R93). -/
inductive Takes where
  | none
  /-- IMM only. -/
  | imm
  /-- IMM or UNI, not both. -/
  | either
  /-- IMM, UNI, or both with UNI replacing A. -/
  | both
deriving DecidableEq, Repr

/-- The kinds of R94. -/
inductive Kind where
  | lane | reducing | uniform | collective | control
deriving DecidableEq, Repr

/-- The prefixes each instruction takes (R93, R102, R103, R105). -/
def takes : Instr → Takes
  | .setmode _ | .setfmt _ => .imm
  | .shflIdx _ _ _ | .shflUp _ _ _ | .shflDown _ _ _ | .shflXor _ _ _ => .both
  | .iadd _ _ _ _ | .isub _ _ _ _ | .imul _ _ _ _ | .imulh _ _ _ _ | .imulhUnsigned _ _ _ _ | .imad _ _ _ _
  | .imin _ _ _ _ _ | .imax _ _ _ _ _ | .and _ _ _ _ | .andn _ _ _ _ | .or _ _ _ _ | .xor _ _ _ _
  | .shl _ _ _ _ | .shr _ _ _ _ | .sar _ _ _ _ | .bfx _ _ _ _ _ | .bfi _ _ _ _ => .both
  | .mov _ _ _ => .either
  | .icmp _ _ _ _ _ | .sel _ _ _ _ _ _ => .both
  | .sadd _ _ _ _ | .ssub _ _ _ _ | .smul _ _ _ _ | .smulh _ _ _ _ | .smulhUnsigned _ _ _ _ | .smad _ _ _ _
  | .smin _ _ _ _ _ | .smax _ _ _ _ _ | .sand _ _ _ _ | .sor _ _ _ _ | .sxor _ _ _ _ | .sshl _ _ _ _
  | .sshr _ _ _ _ | .ssar _ _ _ _ | .sbfx _ _ _ _ _ | .smov _ _ _ | .scmp64 _ _ _ _ | .scmp32 _ _ _ _
  | .ssel _ _ _ _ _ => .imm
  | .fadd _ _ _ | .fsub _ _ _ | .fmul _ _ _ | .fma _ _ _ | .fmin _ _ _ | .fmax _ _ _ | .fcmp _ _ _ _
  | .fdiv _ _ _ _ => .both
  | .kinc l _ _ _ | .kset l _ _ _ | .kbnd l _ _ _ | .kprm l _ _ _ => if l then .either else .imm
  | .ld _ _ _ _ ix _ | .st _ _ _ _ ix _ | .ldc _ _ _ ix _ | .stc _ _ _ ix _ =>
      if ix = .absent then .none else .either
  | .ldu _ _ _ _ ix _ | .stu _ _ _ _ ix _ | .ldcu _ _ _ ix _ | .stcu _ _ _ ix _ =>
      if ix = .absent then .none else .imm
  | .pref _ _ indexed _ => if indexed then .either else .none
  | .atom _ _ _ _ _ _ | .cas _ _ _ _ _ | .red _ _ _ _ _ _ => .either
  | .cadd _ _ _ _ _ | .cwait _ _ _ _ _ | .job _ _ _ | .task _ _ _ | .launch _ _ _ => .imm
  | .mldt _ _ _ _ _ | .mlda _ _ _ _ | .msta _ _ _ _ _ => .imm
  | .sysr _ _ | .sysw _ _ => .imm
  | _ => .none

/-- The kind of each instruction (R93, R102). -/
def kindOf : Instr → Kind
  | .bra _ | .brc _ _ _ | .brd _ _ _ | .call _ | .mark _ | .nop | .ret _ | .join | .exit | .yield | .rte | .bkpt
  | .trap _ => .control
  | .setmode _ | .setfmt _ => .uniform
  | .rflLane _ _ _ | .voteAny _ _ | .voteAll _ _ | .voteCount _ _ => .reducing
  | .sadd _ _ _ _ | .saddI _ _ _ | .ssub _ _ _ _ | .smul _ _ _ _ | .smulI _ _ _ | .smulh _ _ _ _
  | .smulhUnsigned _ _ _ _ | .smad _ _ _ _ | .smin _ _ _ _ _ | .smax _ _ _ _ _ | .sand _ _ _ _ | .sandI _ _ _
  | .sor _ _ _ _ | .sorI _ _ _ | .sxor _ _ _ _ | .sxorI _ _ _ | .sshl _ _ _ _ | .sshlI _ _ _ | .sshr _ _ _ _
  | .sshrI _ _ _ | .ssar _ _ _ _ | .ssarI _ _ _ | .sbfx _ _ _ _ _ | .smov _ _ _ | .smovi _ _
  | .scmp64 _ _ _ _ | .scmp32 _ _ _ _ | .ssel _ _ _ _ _ => .uniform
  | .kinc l _ _ _ | .kset l _ _ _ | .kbnd l _ _ _ | .kprm l _ _ _ | .kseal l _ _ _ | .kopen l _ _ _ | .kget l _ _ _
  | .ksub l _ _ _ | .kmov l _ _ | .kclr l _ | .kincI l _ _ _ | .ksweep l _ _ _ => if l then .lane else .uniform
  | .ldu _ _ _ _ _ _ | .stu _ _ _ _ _ _ | .ldcu _ _ _ _ _ | .stcu _ _ _ _ _ | .flush _ _ _ _ | .inval _ _ _ _
  | .fence _ _ _ | .drain _ | .cadd _ _ _ _ _ | .cwait _ _ _ _ _ | .job _ _ _ | .task _ _ _ | .launch _ _ _
  | .sysr _ _ | .sysw _ _ | .tlbinv _ | .tlbinvAll | .pgmap _ _ => .uniform
  | .mma _ _ _ _ _ _ _ | .mza _ _ | .mldt _ _ _ _ _ | .mlda _ _ _ _ | .msta _ _ _ _ _ | .mmap _ _ _ | .mchk _ _ =>
      .collective
  | _ => .lane

/-- The control instructions that close lookahead windows (R73). -/
def closesWindows : Instr → Bool
  | .bra _ | .brc _ _ _ | .brd _ _ _ | .call _ | .ret _ | .mark _ | .join | .exit | .yield | .trap _ | .rte
  | .bkpt => true
  | _ => false

/-- The privilege an instruction needs; SYSR and SYSW need that of the register they name (R93, R96). -/
def privOf : Instr → Priv
  | .rte | .tlbinv _ | .tlbinvAll | .pgmap _ _ => .super
  | _ => .user

/-- True when 64 bits wide (R354, R329). -/
def ityWide : ITy → Bool
  | .s64 | .n64 => true
  | _ => false

/-- The registers of an integer operation `D := A op B` whose B or A a prefix may replace. -/
def use3 (w : Nat) (pb pa : Bool) (d a b : Nat) : List Use :=
  wrV d w :: (if pa then [] else [rdV a w]) ++ (if pb then [] else [rdV b w])

def use3S (pb : Bool) (d a b : Nat) : List Use := wrS d :: rdS a :: (if pb then [] else [rdS b])

/-- Every register operand of an instruction, with alignment groups (R82, R98, R106, R107). `e` is true when
MODE.ETYPE is f64; `pb` and `pa` when a prefix replaces B, or A as well (R77). The guard predicate is no operand. -/
def uses (e pb pa : Bool) : Instr → List Use
  | .ret a => [rdS a]
  | .brc _ p _ | .brd _ p _ => [rdP p]
  | .call _ => [wrS 63]
  | .setmode b | .setfmt b => if pb then [] else [rdS b]
  | .pand d a b | .por d a b | .pxor d a b => [wrP d, rdP a, rdP b]
  | .pnot d a => [wrP d, rdP a]
  | .rflLane d a w => [wrS d, rdV a (two w)]
  | .shflIdx d a b | .shflUp d a b | .shflDown d a b | .shflXor d a b => use3 1 pb pa d a b
  | .voteAny d a | .voteAll d a | .voteCount d a => [wrS d, rdP a]
  | .iadd w d a b | .isub w d a b | .imul w d a b | .imulh w d a b | .imulhUnsigned w d a b
  | .imin w d a b _ | .imax w d a b _ | .and w d a b | .andn w d a b | .or w d a b | .xor w d a b
  | .shl w d a b | .shr w d a b | .sar w d a b | .bfx w d a b _ => use3 (two w) pb pa d a b
  | .imad w d a b | .bfi w d a b => rdV d (two w) :: use3 (two w) pb pa d a b
  | .iaddI d a _ | .imulI d a _ | .andI d a _ | .orI d a _ | .xorI d a _ | .shlI d a _ | .shrI d a _
  | .sarI d a _ => [wrV d 1, rdV a 1]
  | .iabs w d a => [wrV d (two w), rdV a (two w)]
  | .popc w d a | .clz w d a => [wrV d (two w), rdV a (two w)]
  | .mov w d b => wrV d (two w) :: (if pb then [] else [rdV b (two w)])
  | .movi d _ => [wrV d 1]
  | .icmp w d a b _ =>
      wrP d :: (if pa then [] else [rdV a (two w)]) ++ (if pb then [] else [rdV b (two w)])
  | .sel d a b w _ p => rdP p :: use3 (two w) pb pa d a b
  | .sadd _ d a b | .ssub _ d a b | .smul _ d a b | .smulh _ d a b | .smulhUnsigned _ d a b | .smin _ d a b _
  | .smax _ d a b _ | .sand _ d a b | .sor _ d a b | .sxor _ d a b | .sshl _ d a b | .sshr _ d a b | .ssar _ d a b
  | .sbfx _ d a b _ => use3S pb d a b
  | .smad _ d a b => rdS d :: use3S pb d a b
  | .saddI d a _ | .smulI d a _ | .sandI d a _ | .sorI d a _ | .sxorI d a _ | .sshlI d a _ | .sshrI d a _
  | .ssarI d a _ => [wrS d, rdS a]
  | .smov _ d b => wrS d :: (if pb then [] else [rdS b])
  | .smovi d _ => [wrS d]
  | .scmp64 d a b _ | .scmp32 d a b _ => wrP d :: rdS a :: (if pb then [] else [rdS b])
  | .ssel d a b _ p => rdP p :: use3S pb d a b
  | .fadd d a b | .fsub d a b | .fmul d a b | .fmin d a b | .fmax d a b => use3 (two e) pb pa d a b
  | .fma d a b => rdV d (two e) :: use3 (two e) pb pa d a b
  | .fabs d a | .fneg d a | .frint d a | .fclass d a => [wrV d (two e), rdV a (two e)]
  | .fcmp d a b _ =>
      wrP d :: (if pa then [] else [rdV a (two e)]) ++ (if pb then [] else [rdV b (two e)])
  | .fcvt d a s t => [wrV d (two (t == .f64)), rdV a (two (s == .f64))]
  | .f2i d a t => [wrV d (two (ityWide t)), rdV a (two e)]
  | .i2f d a t => [wrV d (two e), rdV a (two (ityWide t))]
  | .frcp d a _ | .frsq d a _ | .fsqrt d a _ | .fexp2 d a _ | .flog2 d a _ | .fsin d a _ | .fcos d a _ =>
      [wrV d (two e), rdV a (two e)]
  | .fdiv d a b _ => use3 (two e) pb pa d a b
  | .kinc l d a b | .kset l d a b | .kbnd l d a b | .kprm l d a b =>
      wrK d :: rdK a :: (if pb then [] else if l then [rdV b 2] else [rdS b])
  | .kincI _ d a _ => [wrK d, rdK a]
  | .kseal _ d a b | .kopen _ d a b => [wrK d, rdK a, rdK b]
  | .kget l d a _ => [if l then wrV d 2 else wrS d, rdK a]
  | .ksub l d a b => [if l then wrV d 2 else wrS d, rdK a, rdK b]
  | .kmov _ d a => [wrK d, rdK a]
  | .kclr _ d => [wrK d]
  | .ksweep _ d a _ => [wrK d, rdK a]
  | .ld w d a b ix _ =>
      wrV d (match w with | .b64 => 2 | .b128 => 4 | _ => 1) :: rdK a ::
        (if pb || ix == .absent then [] else [rdV b 1])
  | .st w d a b ix _ =>
      rdV d (match w with | .b64 => 2 | .b128 => 4 | _ => 1) :: rdK a ::
        (if pb || ix == .absent then [] else [rdV b 1])
  | .ldc d a b ix _ => wrK d :: rdK a :: (if pb || ix == .absent then [] else [rdV b 1])
  | .stc d a b ix _ => rdK d :: rdK a :: (if pb || ix == .absent then [] else [rdV b 1])
  | .ldu _ d a b ix _ => wrS d :: rdK a :: (if pb || ix == .absent then [] else [rdS b])
  | .stu _ d a b ix _ => rdS d :: rdK a :: (if pb || ix == .absent then [] else [rdS b])
  | .ldcu d a b ix _ => wrK d :: rdK a :: (if pb || ix == .absent then [] else [rdS b])
  | .stcu d a b ix _ => rdK d :: rdK a :: (if pb || ix == .absent then [] else [rdS b])
  | .pref a b ixd _ => rdK a :: (if pb || !ixd then [] else [rdV b 1])
  | .flush _ a sel _ | .inval _ a sel _ => if sel = .held then [] else [rdK a]
  | .atom w _ d a b _ => rwV d (two w) :: rdK a :: (if pb then [] else [rdV b 1])
  | .cas w d a b _ =>
      rdV d (2 * two w) :: wrV d (two w) :: rdK a :: (if pb then [] else [rdV b 1])
  | .red w _ d a b _ => rdV d (two w) :: rdK a :: (if pb then [] else [rdV b 1])
  | .cadd d a b rv _ => (if rv then [wrS d] else []) ++ rdK a :: (if pb then [] else [rdS b])
  | .cwait d a b timed _ => (if timed then [rwS d] else []) ++ rdK a :: (if pb then [] else [rdS b])
  | .job a b _ | .task a b _ | .launch a b _ => rdK a :: (if pb then [] else [rdS b])
  | .mldt _ a b _ _ | .mlda _ a b _ | .msta _ a b _ _ => rdK a :: (if pb then [] else [rdS b])
  | .mmap _ a _ => [⟨.s, a, 2, true, false⟩]
  | .mchk d _ => [wrS d]
  | .sysr d b => wrS d :: (if pb then [] else [rdS b])
  | .sysw a b => rdS a :: (if pb then [] else [rdS b])
  | .tlbinv a => [rdS a]
  | .pgmap d a => [⟨.s, d, 2, true, false⟩, rdS a]
  | _ => []

/-- True when an operand is allocated and aligned (R69, R80, R82). A pair or quad starts at a multiple of its size and
does not extend past the allocation. -/
def Use.ok (t : Team) (u : Use) : Bool :=
  u.n % u.count == 0 &&
    (match u.cls with
     | .v => u.n + u.count ≤ t.nv
     | .q => u.n + u.count ≤ t.nq
     | .s => u.n + u.count ≤ 64
     | .c => u.n + u.count ≤ 16
     | .p => u.n + u.count ≤ 8)

/-- True when an operand names a register that a destination writes (R73). -/
def Use.meets (u : Use) : Dest → Bool
  | .v r _ => u.cls == .v && u.n ≤ r && r < u.n + u.count
  | .q r _ => u.cls == .q && u.n ≤ r && r < u.n + u.count
  | .s r _ => u.cls == .s && u.n ≤ r && r < u.n + u.count
  | .c r _ => u.cls == .c && u.n ≤ r && r < u.n + u.count

/-! ## Prefixes -/

/-- True when the latched prefixes fit what the instruction takes (R77). -/
def Takes.fits (k : Takes) (l : Latch) : Bool :=
  match k with
  | .none => l.imm.isNone && l.uni.isNone
  | .imm => l.uni.isNone
  | .either => l.imm.isNone || l.uni.isNone
  | .both => true

/-- Whether prefixes replace B: only where the instruction takes them (R77). -/
def bReplaced (i : Instr) (l : Latch) : Bool := (takes i).fits l && (l.imm.isSome || l.uni.isSome)
/-- Whether UNI replaces A (R77). -/
def aReplaced (i : Instr) (l : Latch) : Bool := (takes i).fits l && l.imm.isSome && l.uni.isSome

/-- The uniform register that a UNI prefix names, where the instruction takes it (R76, R77, R438). -/
def uniUse (i : Instr) (l : Latch) : List Use :=
  match l.uni with
  | some u => if (takes i).fits l then [rdS u] else []
  | none => []

/-- The operands of an instruction in a team, under its latched prefixes and element type. -/
def Team.uses (t : Team) (i : Instr) : List Use :=
  uniUse i t.latch ++ Machine.uses (modeEtype t.mode == 3) (bReplaced i t.latch) (aReplaced i t.latch) i

/-! ## The checks before an instruction takes effect (R98) -/

/-- The uniform value of SYSR's and SYSW's selector (R433). -/
def Team.selector (t : Team) (b : Nat) : Nat :=
  match t.latch.imm with
  | some p => p
  | none => (t.getS b).toNat

/-- Privilege (R96, R433): an unassigned selector is ILLEGAL as well. -/
def Team.privOk (t : Team) (i : Instr) : Bool :=
  match i with
  | .sysr _ b => sysReadOk t.priv (t.selector b)
  | .sysw _ b => sysWriteOk t.priv (t.selector b)
  | _ => t.priv.atLeast (privOf i)

/-- A long-latency instruction still inside its window when `i` issues (R73). -/
def Pending.inside (p : Pending) (i : Instr) : Bool := p.window != 0 && !closesWindows i

/-- A LACHK hazard (R74): inside a window, `i` names a register that the window's instruction writes, or has written. -/
def Team.hazard (t : Team) (i : Instr) : Bool :=
  let names (ds : List Dest) : Bool := ds.any fun d => (t.uses i).any fun u => u.meets d
  modeLachk t.mode && ((t.pending.any fun p => p.inside i && names p.dests) ||
    t.past.any fun p => p.window != 0 && !closesWindows i && names p.dests)

/-- The first of the checks of R98 that fails, as a trap code: 1 ILLEGAL, 2 PREFIX, 4 LOOKAHEAD, 3 CONVERGE. A selector is
read in `u`, the team as the instruction reads it. -/
def Team.refuses (t : Team) (i : Instr) (u : Team) : Option Nat :=
  if !(t.uses i).all fun u => u.ok t then some cIllegal
  else if !(takes i).fits t.latch then some cPrefix
  else if !u.privOk i then some cIllegal
  else if t.hazard i then some cLookahead
  else if kindOf i == .collective && t.active != fullMask t.width then some cConverge
  else none

/-! ## Windows and dependencies (R73, R74) -/

/-- The choice, inside a window, whether a read of lane `l` of destination `k` of an outstanding instruction sees the new
value, and whether a write to it is final. -/
def seesNew (o id k l : Nat) : Bool := Config.freeBool o (2 * (1024 * (64 * id + k) + l))
def isFinal (o id k l : Nat) : Bool := Config.freeBool o (2 * (1024 * (64 * id + k) + l) + 1)

/-- What a read inside a window makes of an outstanding instruction's results (R74): in each lane, and for each register, the
old value or the new one as far as it has arrived. -/
def Team.peek (o : Nat) (us : List Use) (t : Team) (p : Pending) : Team :=
  ((List.range p.landing.length).zip p.landing).foldl (fun t (k, d) =>
    if us.any fun u => u.reads && u.meets d then t.writeDest (d.without (maskOf 1024 fun l => !seesNew o p.id k l)) else t) t

/-- What a write inside a window takes from an outstanding instruction's results (R74): in each lane it writes either value is
final. It is taken once the writer completes. -/
def Team.overwrites (o : Nat) (us : List Use) (t : Team) (p : Pending) : List (Nat × Nat × Mask) :=
  ((List.range p.dests.length).zip p.dests).filterMap fun (k, d) =>
    if us.any fun u => u.writes && u.meets d then
      some (p.id, k, match d with
        | .v _ _ | .q _ _ => maskOf t.width fun l => t.selected l && isFinal o p.id k l
        | .s _ _ | .c _ _ => if isFinal o p.id k 0 then BitVec.allOnes 1024 else 0)
    else none

/-- True when `i` cannot issue yet: outside its window, an outstanding instruction that waits for a remote result
writes a register `i` names (R56, R73). -/
def Team.blocked (t : Team) (i : Instr) : Bool :=
  t.pending.any fun p => !p.inside i && !p.waits.isEmpty && p.dests.any fun d => (t.uses i).any fun u => u.meets d

/-- Settle what `i` depends on: outside their windows, outstanding instructions whose registers it names complete
first; inside, R74 decides; a control instruction closes every window (R73). -/
def Team.settle (o : Nat) (t : Team) (i : Instr) : Team :=
  let us := t.uses i
  let hits (p : Pending) : Bool := p.dests.any fun d => us.any fun u => u.meets d
  let t := (t.pending.filter fun p => hits p && !p.inside i && p.waits.isEmpty).foldl Team.finish t
  let inside := t.pending.filter fun p => hits p && p.inside i
  let t := inside.foldl (Team.peek o us) t
  let t := { t with latch := { t.latch with drops := inside.flatMap (t.overwrites o us) } }
  if closesWindows i then t.closeWindows else t

/-- The team does not issue now and tries the same instruction again: a full queue, a migrating page (R133, R188). -/
def retry (s : State) : Out := .next (s.setTeam fun t => { t with latch := Latch.empty })

/-- The state an instruction reads: the issuing team has settled what the instruction depends on (R73, R74). -/
def State.entering (s : State) (i : Instr) : State :=
  match s.team.pending, s.team.past with
  | [], [] => s
  | _, _ => { s with team := s.team.settle s.oracle i, oracle := s.oracle + 1 }

/-- Issue an instruction: the checks of R98, then its effect. A team that must wait for a remote result does not issue
and stands where it was (R56). DEDUCED, log entry 13. -/
def issue (i : Instr) (s : State) (body : State → Out) : Out :=
  if s.team.blocked i then retry ((s.setTeam fun t => { t with stalled := true }).hurry s.team.id)
  else
    match s.team.refuses i (s.entering i).team with
    | some code => trapWith code i s
    | none => body (s.entering i)

/-- Finish an instruction that changed the issuing team only. -/
def done (f : Team → Team) (s : State) : Out := .next { s with team := (f s.team).advance }

/-! ## Operand values -/

/-- An IMM payload sign-extended to an integer, or zero-extended (R76, R99). -/
def immS (p : Nat) : Int := signOf 24 p

/-- The vector B operand of a 32-bit operation in lane `l` (R76, R77): IMM, else UNI, else vB. -/
def Team.vB (t : Team) (b l : Nat) : Word :=
  match t.latch.imm, t.latch.uni with
  | some p, _ => BitVec.ofInt 32 (immS p)
  | none, some u => (t.getS u).setWidth 32
  | none, none => t.getV b l
/-- The vector A operand: UNI when both prefixes stand (R77). -/
def Team.vA (t : Team) (a l : Nat) : Word :=
  match t.latch.imm, t.latch.uni with
  | some _, some u => (t.getS u).setWidth 32
  | _, _ => t.getV a l
/-- The same for 64-bit operations (R76). -/
def Team.vB64 (t : Team) (b l : Nat) : Dword :=
  match t.latch.imm, t.latch.uni with
  | some p, _ => BitVec.ofInt 64 (immS p)
  | none, some u => t.getS u
  | none, none => t.getV64 b l
def Team.vA64 (t : Team) (a l : Nat) : Dword :=
  match t.latch.imm, t.latch.uni with
  | some _, some u => t.getS u
  | _, _ => t.getV64 a l
/-- The uniform B operand, sign-extended from IMM (R99). -/
def Team.sB (t : Team) (b : Nat) : Dword :=
  match t.latch.imm with
  | some p => BitVec.ofInt 64 (immS p)
  | none => t.getS b
/-- The uniform B operand of the instructions that zero-extend IMM (R99). -/
def Team.sBz (t : Team) (b : Nat) : Dword :=
  match t.latch.imm with
  | some p => BitVec.ofNat 64 p
  | none => t.getS b

/-! ## Long-latency completion -/

/-- A fresh name for an outstanding instruction of a team. -/
def Team.freshId (t : Team) : Nat := t.pending.foldl (fun m p => max m (p.id + 1)) 0

/-- What a new long-latency instruction writes less the lanes in which an outstanding one of an open window is final (R74). -/
def Team.ownDrops (t : Team) (dests : List Dest) : List (Nat × Mask) :=
  t.latch.drops.flatMap fun (id, k, m) =>
    match (t.pending.find? fun p => p.id == id).bind fun p => (p.dests[k]?).map fun d => (p.lanes, d) with
    | none => []
    | some (lanes, d) => ((List.range dests.length).zip dests).filterMap fun x =>
        if x.2.bare = d.bare then some (x.1, lanes &&& ~~~m) else none

/-- The lanes in which an instruction writes its destinations: those selected, or every lane of a uniform one. -/
def Team.written (t : Team) (uniform : Bool) : Mask := if uniform then BitVec.allOnes 1024 else t.selMask

/-- Let a long-latency instruction retire from issue with its results outstanding (R72, R73). An instruction with
nothing to write is not held. -/
def Team.launchPending (t : Team) (la : Nat) (dests : List Dest) (flags : Word) (waits : List Nat) (insn : Nat)
    (uniform : Bool := false) (far : List (Nat × LaneFault) := []) : Team :=
  if dests.isEmpty && waits.isEmpty then (t.raise flags).advance
  else
    { t.advance with
      pending := t.advance.pending ++ [⟨t.freshId, la, dests, flags, waits, [], t.pc, BitVec.ofNat 32 insn,
        1 + t.latch.words, uniform, true, t.ownDrops dests, far, t.written uniform, []⟩] }

end Sys2Proof.Machine
end

