-- ==== Sys2Proof/Machine/Specul.lean ====
section
/-!
DEFINITION. Machine/Specul.lean: dropping a speculation (R258, R259) and what every write performed at a home does
beside the write: the read-set check of R256 and the wake of monitors (R57).
-/

namespace Sys2Proof.Machine

/-- Count in ORRERY_STAT, saturating (R263). -/
def State.orrCount (s : State) (ctx k : Nat) : State :=
  let x := s.orreryStat.getD (16 * ctx + k) 0
  { s with orreryStat := s.orreryStat.put 0 (16 * ctx + k) (if x = BitVec.allOnes 64 then x else x + 1) }

/-- Free the banks a workgroup holds: they return to cluster-cache mode, cleared (R181). -/
def Bank.freeFrom (g : WgId) (b : Bank) : Bank :=
  if b.owner = some g then { Bank.reset with firm := b.firm, result := b.result } else b

/-- Take a workgroup out of its core's slots and banks. -/
def CoreState.drop (g : WgId) (c : CoreState) : CoreState :=
  { issuing := if c.issuing = some g then none else c.issuing,
    shadow := if c.shadow = some g then none else c.shadow,
    banks := c.banks.map (Bank.freeFrom g) }

/-- The region of a gang's window in memory keys. -/
def winRegion (ticket : Nat) : Nat := 10000 + ticket

/-- 2^64: the stride of memory regions in keys. -/
def regionSize : Nat := 18446744073709551616

/-- Remove every byte, tag and mark of a gang's window (its banks are cleared when they return, R181). -/
def State.clearWindow (s : State) (ticket : Nat) : State :=
  let r := winRegion ticket
  { s with mem := s.mem.filter fun c => c.1 / regionSize != r,
           tags := s.tags.filter fun c => c.1 * 16 / regionSize != r,
           poison := s.poison.filter fun c => c.1 * 128 / regionSize != r,
           checkErr := s.checkErr.filter fun c => c.1 * 128 / regionSize != r }

/-- Discard a gang: its teams stop, its window, ticket, banks and slots are freed (R54, R259, R272). -/
def State.dropGang (s : State) (ticket : Nat) : State :=
  let s := s.clearWindow ticket
  let gone := s.wgs.filter fun w => w.id.ticket = ticket
  { s with
    team := if s.team.id.ticket = ticket then { Team.idle with id := ⟨0, 0, 0, 0⟩ } else s.team,
    others := s.others.filter fun t => t.id.ticket != ticket,
    wgs := s.wgs.filter fun w => w.id.ticket != ticket,
    gangs := s.gangs.filter fun g => g.ticket != ticket,
    merges := s.merges.filter fun m => m.team.ticket != ticket,
    cores := gone.foldl (fun cs w => cs.modify w.core fun c => c.drop w.id) s.cores }

/-- True when an entry of a TLB covers a page of a context. -/
def TlbEntry.covers (e : TlbEntry) (ctx page : Nat) : Bool :=
  e.ctx == ctx && e.group == page / 16 && e.mask.getLsbD (page % 16)
/-- The translation it gives for a page it covers. -/
def TlbEntry.pte (e : TlbEntry) (page : Nat) : BitVec 128 :=
  e.attrs ||| BitVec.ofNat 128 ((e.base + page % 16) % 2 ^ 48 * 65536 + 2)
/-- The entry less the pages of a context on which `p` holds; none when none is left (R191). -/
def TlbEntry.less (e : TlbEntry) (ctx : Nat) (p : Nat → Bool) : Option TlbEntry :=
  if e.ctx != ctx then some e
  else
    let m : BitVec 16 := BitVec.ofNat 16 ((List.range 16).foldl (fun a i =>
      if e.mask.getLsbD i && !p (16 * e.group + i) then a + 2 ^ i else a) 0)
    if m = 0 then none else some { e with mask := m }

/-- A page of a context is no longer mapped, in its table or in any translation cache. -/
def State.unmapPage (s : State) (ctx page : Nat) : State :=
  let cut := s.tlbs.map fun (x : Nat × List TlbEntry) => (x.1, x.2.filterMap fun e => e.less ctx fun n => n == page)
  { (s.modCtx ctx fun c => { c with ptes := c.ptes.put 0 page 0 }) with
    tlbs := cut.filter fun (x : Nat × List TlbEntry) => !x.2.isEmpty }

/-- A launch that is over gives its argument block up: its page is unmapped, and a local frame goes back where it came from. A page
on the move is left as it is. DESIGN CHOICE, log entry 99. -/
def State.freeArgs (s : State) (l : Launch) : State :=
  let page := l.args.cur / 65536
  let e := (s.ctx? l.ctx).elim 0 fun c => c.ptes.getD page 0
  if bitsAt e.toNat 0 2 ≠ 2 ∨ e.getLsbD 12 then s
  else
    let s := s.unmapPage l.ctx page
    let f := bitsAt e.toNat 16 48
    if bitsAt e.toNat 6 2 ≠ 0 then s
    else
      match l.argFrom with
      | 0 => { s with owner := s.owner.erase f }
      | 1 => s.modCtx l.ctx fun c => { c with pool := c.pool ++ [f] }
      | _ => s.modCtx l.ctx fun c => { c with reserve := c.reserve ++ [f] }

/-- Discard a speculation for reason `code` (R258, R259), its argument block with it. -/
def State.discardSpec (s : State) (id code : Nat) : State :=
  match s.specs.find? fun p => p.id == id with
  | none => s
  | some p =>
    let tickets := (s.gangs.filter fun g => g.spec = some id).map Gang.ticket
    let s := (s.launches.filter fun (l : Launch) => l.id == p.launch).foldl State.freeArgs (tickets.foldl State.dropGang s)
    ({ s with specs := s.specs.filter fun q => q.id != id,
              launches := s.launches.filter fun l => l.id != p.launch }).orrCount p.ctx (code + 1)

/-- Every running speculation on which `f` holds is discarded for `code`. -/
def State.discardSpecs (s : State) (code : Nat) (f : Spec → Bool) : State :=
  (s.specs.filter f).foldl (fun s p => s.discardSpec p.id code) s

/-- Teams asleep on a line and packets waiting on it are woken: each re-reads its counter (R57, R239). -/
def State.wake (s : State) (line : Nat) : State :=
  let teams := s.teams.filterMap fun t =>
    match t.sleep with
    | some z => if t.run = .asleep ∧ z.monitor ∧ z.key / 128 = line then some (Instr.monitorWake t.id) else none
    | none => none
  let waits := s.queues.filterMap fun (slot, q) =>
    if q.packets.any fun p => (match p.wait with | .counter _ key _ _ _ => key / 128 == line | _ => false)
    then some (Instr.waitctr slot) else none
  s.postAll (teams ++ waits)

/-- What every write performed at a home entails: monitors wake, and for a local line every running speculation whose
read set holds the line is discarded, with READSET for the exact table and SIGNATURE for the signature, which a
line that was never read may hit (R256). -/
def State.homeChanged (s : State) (line : Nat) : State :=
  let s := s.wake line
  if line * 128 < regionSize then
    let s := s.discardSpecs 2 fun p => p.reads.contains line
    s.discardSpecs 3 fun p => p.signature.any fun x => Config.lineHash x % 8192 == Config.lineHash line % 8192
  else s

/-- True when the issuing team belongs to a running speculation. -/
def State.speculative (s : State) : Bool := (s.specOf s.team).isSome

/-- Park the issuing team (R257): it stops before the instruction has any effect and holds it unexecuted. -/
def park (s : State) : Out := .next (s.setTeam fun t => { t with run := .parked, latch := Latch.empty })

end Sys2Proof.Machine
end

