-- ==== Sys2Proof/Machine/Inject.lean ====
section
/-!
DEFINITION. Machine/Inject.lean: the error injector (R283): its eligible events, and what an injected error does to a line
that a write merges into.
-/

namespace Sys2Proof.Machine

/-- Step(x) of R283. -/
def injStep (x : Dword) : Dword :=
  let x := x ^^^ (x <<< 13)
  let x := x ^^^ (x >>> 7)
  x ^^^ (x <<< 17)

/-- INJ_CTL fields (R283). -/
def injEn (c : Word) : Bool := c.getLsbD 0
def injKind (c : Word) : Nat := bitsAt c.toNat 1 3
def injContext (c : Word) : Nat := bitsAt c.toNat 8 8
def injCountdown (c : Word) : Nat := bitsAt c.toNat 16 16

/-- One eligible event of KIND `kind` by context `ctx`: whether a fault is injected, and the injector after. -/
def State.injected (s : State) (kind ctx : Nat) : Bool × State :=
  if injEn s.injCtl && injKind s.injCtl == kind && injContext s.injCtl == ctx then
    let cd := injCountdown s.injCtl
    if cd = 1 then (true, { s with injCtl := s.injCtl &&& 0x0000FFFE })
    else if cd != 0 then (false, { s with injCtl := s.injCtl - 0x10000 })
    else
      let x := injStep s.injSeed
      (x.toNat % 4294967296 < s.injRate.toNat, { s with injSeed := x })
  else (false, s)

/-- A merge of a context's written bytes at a line's home is an eligible event of kinds 0 to 2: what an injected error does to
the line before they merge (R274, R276, R281). -/
def State.injectMerge (s : State) (ctx line : Nat) : State :=
  match injKind s.injCtl with
  | 0 => (s.injected 0 ctx).2
  | 1 => let r := s.injected 1 ctx
         if r.1 then { r.2 with poison := r.2.poison.put false line true } else r.2
  | 2 => let r := s.injected 2 ctx
         if r.1 then { r.2 with checkErr := r.2.checkErr.put 0 line 1 } else r.2
  | _ => s

end Sys2Proof.Machine
end

