-- ==== Sys2Proof/Machine/Mem.lean ====
section
/-!
DEFINITION. Machine/Mem.lean: memory. Bytes, tags, poison and line checks at their homes (R165, R185, R274 to R276),
and the copies that L1s and cluster caches hold (R25, R27, R179, R205).
-/

namespace Sys2Proof.Machine

/-! ## Homes -/

/-- Memory's canonical form: keys strictly rise, and no listed byte equals the 0 an unlisted one reads as. -/
def Memory.wf (m : List Host.Cell) : Bool := SMap.wf (0 : Byte) m
/-- One byte at its home; an unlisted byte reads as 0. DESIGN CHOICE, log entry 5. -/
def State.readByte (s : State) (key : Nat) : Byte := SMap.getD s.mem key 0
/-- Consecutive bytes at their homes. -/
def State.readBytes (s : State) (key n : Nat) : List Byte := (List.range n).map fun i => s.readByte (key + i)
/-- Write one byte at its home, keeping the canonical form. -/
def State.writeByte (s : State) (key : Nat) (b : Byte) : State := { s with mem := SMap.put 0 s.mem key b }
def writeBytesFrom (key : Nat) : List Byte → List Host.Cell → List Host.Cell
  | [], m => m
  | b :: bs, m => writeBytesFrom (key + 1) bs (SMap.put 0 m key b)
/-- Write consecutive bytes at their homes. -/
def State.writeBytes (s : State) (key : Nat) (bs : List Byte) : State :=
  { s with mem := writeBytesFrom key bs s.mem }
def State.tagAt (s : State) (key : Nat) : Bool := s.tags.getD (key / 16) false
/-- True when the region of a key keeps tags: host memory does not (R165). -/
def regionTagged (key : Nat) : Bool := key / regionSize != 1
/-- Write a granule's tag at its home, where the home keeps tags (R165). -/
def State.setTag (s : State) (key : Nat) (b : Bool) : State :=
  { s with tags := s.tags.put false (key / 16) (b && regionTagged (key / 16 * 16)) }
def State.poisoned (s : State) (line : Nat) : Bool := s.poison.getD line false
def State.setPoison (s : State) (line : Nat) (b : Bool) : State := { s with poison := s.poison.put false line b }
def State.checkBad (s : State) (line : Nat) : Bool := s.checkErr.getD line 0 != 0
def State.makeCheck (s : State) (line : Nat) : State := { s with checkErr := s.checkErr.put 0 line 0 }

/-- A little-endian number from bytes, and back (R11). -/
def natOfBytes : List Byte → Nat
  | [] => 0
  | b :: bs => b.toNat + 256 * natOfBytes bs
def bytesOfNat : Nat → Nat → List Byte
  | 0, _ => []
  | n + 1, x => BitVec.ofNat 8 x :: bytesOfNat n (x / 256)

/-- CRC-32C, one byte: eight steps of the reflected polynomial (R273). -/
def crcByte (crc : Nat) (b : Nat) : Nat :=
  (List.range 8).foldl (fun c _ => if c % 2 = 1 then (c / 2) ^^^ 0x82F63B78 else c / 2) (crc ^^^ b)
/-- The line check of 128 bytes and their eight tags (R273). -/
def lineCheck (bytes : List Byte) (tags : Nat) : Nat :=
  (crcByte (bytes.foldl (fun c b => crcByte c b.toNat) 0xFFFFFFFF) tags) ^^^ 0xFFFFFFFF

/-- The eight tags of a line as a number. -/
def State.lineTags (s : State) (line : Nat) : Nat :=
  (List.range 8).foldl (fun acc g => if s.tagAt (line * 128 + 16 * g) then acc + 2 ^ g else acc) 0

/-- A NOTICE record of a line to the context that owns its frame (R275). -/
def State.notice (s : State) (line cause status number : Nat) : State :=
  let frame := line * 128 / 65536
  match s.owner.find? frame with
  | some (c + 1) =>
    s.modCtx c fun x => x.owes
      { kind := 4, cause := cause, status := status, flags := 0, queue := 0xFFFF, ctx := c, tag := 0, ticket := 0,
        number := number, address := BitVec.ofNat 64 (line * 128), pc := 0, whr := 0, detail := 0,
        time := s.domainClock }
  | _ => s

/-- The lines a run of bytes touches. -/
def linesOf (key n : Nat) : List Nat :=
  (List.range ((key + n - 1) / 128 - key / 128 + 1)).map fun i => key / 128 + i

/-- A failed verification poisons the line where it stands (R275): its stored check still fails, for a point that only
verifies makes no new one (R274). DESIGN CHOICE, log entry 87. -/
def State.failLine (s : State) (line : Nat) : State := s.setPoison line true
/-- The same with the NOTICE that each failing merge, read-modify-write or egress writes (R275). -/
def State.failNotice (s : State) (line : Nat) : State := (s.failLine line).notice line cCheck 0 0

/-- A write of part of one line arrives at its home: the old check is verified (a failure poisons the line and writes a
NOTICE), the bytes merge by mask, each granule with a written byte takes its new tag, and the line gets a fresh check;
a request that writes all 128 bytes clears poison (R274 to R276, R166). `made` is true of an engine or a port, which makes
the check of a whole line without verifying the old one. For the contexts whose stores the bytes are, the merge is an eligible
event of the injector (R283). -/
def State.homeMerge (s : State) (line : Nat) (c : Copy) (made : Bool := false) : State :=
  let whole := c.dirty == BitVec.allOnes 128
  let s := if injEn s.injCtl then c.writers.foldl (fun s x => s.injectMerge x.1 line) s else s
  let s := if s.checkBad line && !(made && whole) then s.failNotice line else s
  let idx := (List.range 128).filter fun i => c.dirty.getLsbD i
  let s := idx.foldl (fun s i => s.writeByte (line * 128 + i) ((c.data >>> (8 * i)).setWidth 8)) s
  let grans := (List.range 8).filter fun g => idx.any fun i => i / 16 = g
  let s := grans.foldl (fun s g => s.setTag (line * 128 + 16 * g) (c.tags.getLsbD g)) s
  let s := if whole then s.setPoison line false else s
  (s.makeCheck line).homeChanged line

/-- The part of line `line` that a run of bytes at `key` writes, with untagged granules. -/
def lineOfRun (line key : Nat) (bs : List Byte) : Copy :=
  let idx := (List.range 128).filter fun i => key ≤ line * 128 + i && line * 128 + i < key + bs.length
  let data := idx.foldl (fun acc i => acc + (bs.getD (line * 128 + i - key) 0).toNat * 2 ^ (8 * i)) 0
  let dirty := idx.foldl (fun acc i => acc + 2 ^ i) 0
  ⟨BitVec.ofNat 1024 data, BitVec.ofNat 128 dirty, BitVec.ofNat 128 dirty, 0, []⟩

/-- A write of plain bytes that goes straight to its home from an engine, a port or firmware, or that an operation at the
home makes: tags of touched granules are cleared. -/
def State.homeWrite (s : State) (key : Nat) (bs : List Byte) : State :=
  (linesOf key bs.length).foldl (fun s line => s.homeMerge line (lineOfRun line key bs) true) s

/-! ## Cluster copies -/

/-- The cluster of a core (R17). -/
def clusterOf (core : Nat) : Nat := core % 16 / 2 + 8 * (core / 32)
/-- The four cores of a cluster (R17). -/
def coresOf (cl : Nat) : List Nat :=
  [cl % 8 * 2 + 32 * (cl / 8), cl % 8 * 2 + 1 + 32 * (cl / 8), cl % 8 * 2 + 32 * (cl / 8) + 16,
   cl % 8 * 2 + 1 + 32 * (cl / 8) + 16]
def State.core (s : State) (n : Nat) : CoreState := s.cores.getD n CoreState.reset
/-- The agents that have no cluster: engines, the command processor and the ports read and write at the homes. -/
def noCluster : Nat := 80
/-- The cores of agents that are no core: engine n is 400 + n, the command processor and firmware 1400. -/
def noCore : Nat := 400
/-- True when some bank of the cluster is in cluster-cache mode (R179). -/
def State.caches (s : State) (cl : Nat) : Bool :=
  cl < noCluster && (coresOf cl).any fun c => (s.core c).banks.any fun b => b.mode == .cache
def copyKey (holder line : Nat) : Nat := line + 340282366920938463463374607431768211456 * holder
def copyLine (k : Nat) : Nat := k % 340282366920938463463374607431768211456
/-- Who holds a copy: a cluster cache below 80, or the L1 of core n as 100 + n. -/
def copyHolder (k : Nat) : Nat := k / 340282366920938463463374607431768211456
def isL1 (k : Nat) : Bool := 100 ≤ copyHolder k
/-- The key of a line in the L1 of a core (R25). -/
def l1Key (core line : Nat) : Nat := copyKey (100 + core) line
/-- The cluster whose cache or whose core's L1 holds a copy. -/
def copyCluster (k : Nat) : Nat := if isL1 k then clusterOf (copyHolder k - 100) else copyHolder k
def State.copy? (s : State) (cl line : Nat) : Option Copy := s.copies.find? (copyKey cl line)
def Copy.empty : Copy := ⟨0, 0, 0, 0, []⟩

/-- The data bits of the bytes in a mask. -/
def byteBits (m : BitVec 128) : BitVec 1024 :=
  BitVec.ofNat 1024 ((List.range 128).foldl (fun a i => if m.getLsbD i then a + 255 * 2 ^ (8 * i) else a) 0)
/-- The granules with a byte in a mask. -/
def granBits (m : BitVec 128) : BitVec 8 :=
  BitVec.ofNat 8 ((List.range 8).foldl (fun a g => if (m >>> (16 * g)).setWidth 16 = (0 : BitVec 16) then a else a + 2 ^ g) 0)
/-- Bytes `[lo, lo+n)` of a copy. -/
def Copy.slice (c : Copy) (lo n : Nat) : List Byte := (List.range n).map fun i => (c.data >>> (8 * (lo + i))).setWidth 8
/-- True when a copy holds bytes `[lo, lo+n)` of its line. -/
def Copy.covers (c : Copy) (lo n : Nat) : Bool := (List.range n).all fun i => c.valid.getLsbD (lo + i)
/-- Whose bytes are not passed on once `x` is written over a copy (R225). -/
def overWriters (c x : Copy) : SMap (BitVec 128) :=
  x.writers.foldl (fun m y => m.put 0 y.1 (m.getD y.1 0 ||| y.2))
    ((c.writers.map fun y => (y.1, y.2 &&& ~~~x.dirty)).filter fun y => y.2 != 0)
/-- The bytes that `x` writes laid over a copy, valid and not yet at the next level; touched granules take its tags. -/
def Copy.over (c x : Copy) : Copy :=
  let b := byteBits x.dirty
  let g := granBits x.dirty
  ⟨(c.data &&& ~~~b) ||| (x.data &&& b), c.valid ||| x.dirty, c.dirty ||| x.dirty, (c.tags &&& ~~~g) ||| (x.tags &&& g),
    overWriters c x⟩
/-- A copy brought up to what the next level holds, but for the bytes it has written itself and not passed on. -/
def Copy.under (c x : Copy) : Copy :=
  let b := byteBits x.dirty
  let g := granBits x.dirty
  ⟨(c.data &&& ~~~b) ||| (x.data &&& b), c.valid ||| x.dirty, x.dirty, (c.tags &&& ~~~g) ||| (x.tags &&& g), x.writers⟩
/-- A copy that loses the bytes another core has written, but for its own writes (R27). -/
def Copy.snoop (c : Copy) (m : BitVec 128) : Copy := { c with valid := c.valid &&& (~~~m ||| c.dirty) }

/-- Written bytes of a line reach the cluster's level from a core of the cluster: its L1s are snooped (R27), and the bytes
stay in the cluster's cache, or go to the home where it caches nothing (R179). -/
def State.toCluster (s : State) (cl line : Nat) (writer : Nat) (c : Copy) : State :=
  let heard (k : Nat) : Bool := isL1 k && k != writer && copyLine k == line && copyCluster k == cl
  let s := { s with copies := s.copies.map fun (x : Nat × Copy) => if heard x.1 then (x.1, x.2.snoop c.dirty) else x }
  if s.caches cl then { s with copies := s.copies.insert (copyKey cl line) (((s.copy? cl line).getD Copy.empty).over c) }
  else s.homeMerge line c

/-- A copy passes its written bytes on and stays valid: an L1 to its cluster (R25), a cluster cache to the home (R28). -/
def State.writeBack (s : State) (k : Nat) : State :=
  match s.copies.find? k with
  | none => s
  | some c =>
    if c.dirty = 0 then s
    else
      let s := { s with copies := s.copies.insert k { c with dirty := 0, writers := [] } }
      if isL1 k then s.toCluster (copyCluster k) (copyLine k) k c else s.homeMerge (copyLine k) c
/-- Discard a copy; bytes it has not passed on are lost unless written back first. -/
def State.dropCopy (s : State) (k : Nat) : State := { s with copies := s.copies.erase k }
/-- Write back and discard a copy. -/
def State.evict (s : State) (k : Nat) : State := (s.writeBack k).dropCopy k
/-- The keys of the copies on which `p` holds, those of L1s or those of cluster caches. -/
def State.copyKeys (s : State) (l1 : Bool) (p : Nat → Bool) : List Nat :=
  (s.copies.map Prod.fst).filter fun k => isL1 k == l1 && p k
/-- Every copy of a set of keys is written back, L1s first. -/
def State.writeBackAll (s : State) (p : Nat → Bool) : State :=
  let s := (s.copyKeys true p).foldl State.writeBack s
  (s.copyKeys false p).foldl State.writeBack s
def State.evictAll (s : State) (p : Nat → Bool) : State :=
  let s := (s.copyKeys true p).foldl State.evict s
  (s.copyKeys false p).foldl State.evict s

/-- Between instructions an L1 or a cluster cache may pass on or drop any line it holds: each copy goes by a free choice.
DESIGN CHOICE, log entry 15. -/
def State.background (s : State) : State :=
  match s.copies with
  | [] => s
  | cs =>
    let s' := ((List.range cs.length).zip (cs.map Prod.fst)).foldl (fun x (i, k) =>
      if Config.freeBool s.oracle (2 * i) then x.evict k
      else if Config.freeBool s.oracle (2 * i + 1) then x.writeBack k else x) s
    s'.tick

/-- Lines that an L1 or a cluster's cache has room for (R21, R25, R26): 64 KiB, and 128 KiB for each bank in cluster-cache mode. -/
def State.roomFor (s : State) (holder : Nat) : Nat :=
  if 100 ≤ holder then 512
  else 1024 * (((coresOf holder).flatMap fun c => (s.core c).banks).filter fun b => b.mode == .cache).length

/-- A holder of more lines than it has room for lets lines go until they fit; which ones, is open. -/
def State.trimHolder : Nat → State → Nat → State
  | 0, s, _ => s
  | fuel + 1, s, h =>
    let ks := (s.copies.map Prod.fst).filter fun k => copyHolder k == h
    if ks.length ≤ s.roomFor h then s
    else match ks[Config.freeNat s.oracle (2 ^ 102) % ks.length]? with
      | some k => State.trimHolder fuel (s.evict k).tick h
      | none => s

/-- No cache holds more lines than it has room for, the L1s first, whose bytes go on to the clusters. DESIGN CHOICE, log entry
15. -/
def State.trim (s : State) : State :=
  if s.copies.length ≤ 512 then s
  else
    let s := (((s.copies.map fun x => copyHolder x.1).filter fun h => 100 ≤ h).dedup).foldl
      (fun (s : State) h => State.trimHolder s.copies.length s h) s
    (((s.copies.map fun x => copyHolder x.1).filter fun h => h < 100).dedup).foldl
      (fun (s : State) h => State.trimHolder s.copies.length s h) s

/-! ## Reading a line -/

/-- The home verifies a line before its data leaves it (R274 to R276): the state after, and the cause that stops the read. -/
def State.verify (s : State) (line : Nat) : State × Option Nat :=
  if s.checkBad line then (s.failLine line, some cCheck)
  else if s.poisoned line then (s, some cPoison)
  else (s, none)

/-- A line as its home holds it. -/
def State.homeCopy (s : State) (line : Nat) : Copy :=
  ⟨BitVec.ofNat 1024 (natOfBytes (s.readBytes (line * 128) 128)), BitVec.allOnes 128, 0, BitVec.ofNat 8 (s.lineTags line), []⟩

/-- Part of a line served by its home (R179, R274): its bytes and the line's tags. -/
def State.homeLine (s : State) (key n : Nat) : Except Nat (List Byte × Nat) × State :=
  match s.verify (key / 128) with
  | (s, some e) => (.error e, s)
  | (s, none) => (.ok (s.readBytes key n, s.lineTags (key / 128)), s)

/-- Bring a line into a cluster's cache from its home, which verifies it: bytes the cluster has written and not written back
stay, every other is the home's. -/
def State.fill (s : State) (cl line : Nat) : Except Nat Copy × State :=
  match s.verify line with
  | (s, some e) => (.error e, s)
  | (s, none) =>
    let c := (s.homeCopy line).under ((s.copy? cl line).getD Copy.empty)
    (.ok c, { s with copies := s.copies.insert (copyKey cl line) c })

/-- Bytes `[lo, lo+n)` of a line as the cluster's level serves them (R179): its cache's copy where that holds them, else a fill;
the home's, where the cluster caches nothing. -/
def State.clusterLine (s : State) (cl line lo n : Nat) : Except Nat Copy × State :=
  match s.copy? cl line with
  | some c => if c.covers lo n then (.ok c, s) else s.fill cl line
  | none =>
    if s.caches cl then s.fill cl line
    else match s.verify line with
      | (s, some e) => (.error e, s)
      | (s, none) => (.ok (s.homeCopy line), s)

/-- True of an access within one line that is single-copy atomic (R202): aligned, of 1, 2, 4, 8, 16 bytes or the whole line. -/
def atomicUnit (key n : Nat) : Bool := ([1, 2, 4, 8, 16, 128].contains n) && key % n == 0

/-- What an L1's copy serves of a read: all it holds, but for a read that is atomic only byte by byte, of which each clean byte may
come from it or from the cluster, by free choice (R202, R390). -/
def State.served (s : State) (key n : Nat) (c : Copy) : Copy :=
  if atomicUnit key n || c.valid == 0 then c
  else { c with valid := c.valid &&& (c.dirty ||| BitVec.ofNat 128 (Config.freeNat s.oracle (2 ^ 101 + key))) }

/-- Read part of one line for core `core` of cluster `cl` (R179): from the core's L1 where it holds the bytes, else by the
cluster, and the L1 then holds what came; a line of a gang window, or an agent that is no core, reads at the home. The tags of
the eight granules come with it. DESIGN CHOICE, log entry 14. -/
def State.loadLine (s : State) (core cl key n : Nat) : Except Nat (List Byte × Nat) × State :=
  let line := key / 128
  let lo := key % 128
  if winRegion 0 ≤ key / regionSize || noCore ≤ core then s.homeLine key n
  else
    let old := (s.copies.find? (l1Key core line)).getD Copy.empty
    let mine := s.served key n old
    if mine.covers lo n then (.ok (old.slice lo n, old.tags.toNat), s)
    else
      match s.clusterLine cl line lo n with
      | (.error e, s) => (.error e, s)
      | (.ok c, s) =>
        let c := c.under old
        let got := if atomicUnit key n then c else c.under { mine with dirty := mine.valid }
        (.ok (got.slice lo n, c.tags.toNat), { s with copies := s.copies.insert (l1Key core line) c })

/-- True when an L1 or the cluster's cache holds bytes that a core reads, so that its read does not reach the home (R276). -/
def State.holds (s : State) (core cl key n : Nat) : Bool :=
  (s.copies.find? (l1Key core (key / 128))).any (fun c => c.covers (key % 128) n) ||
    (s.copy? cl (key / 128)).any fun c => c.covers (key % 128) n

/-! ## Writing a line -/

/-- The copy that a store of bytes to part of one line leaves: bytes valid and dirty, touched granules' tags written. -/
def Copy.write (c : Copy) (lo : Nat) (bs : List Byte) (tag : Bool) : Copy :=
  let m : BitVec 128 := BitVec.ofNat 128 ((2 ^ bs.length - 1) * 2 ^ lo)
  c.over ⟨BitVec.ofNat 1024 (natOfBytes bs * 2 ^ (8 * lo)), m, m, if tag then 0xFF else 0, []⟩

/-- A write merges at a line's home; one that arrived with poison marked leaves the line poisoned (R277). -/
def State.arrive (s : State) (line : Nat) (c : Copy) (made bad : Bool) : State :=
  let s := s.homeMerge line c made
  if bad then s.setPoison line true else s

/-- A write reaches a shared-coherent line at its home: every copy on the device goes first, and while another agent holds the
line the write waits for that agent's answer to a snoop (R222, R223). -/
def State.cohWrite (s : State) (line : Nat) (c : Copy) (made : Bool := false) (bad : Bool := false) : State :=
  let s := s.evictAll fun k => copyLine k == line
  match s.sharers.getD line [] with
  | [] => s.arrive line c made bad
  | hs =>
    let s := { s with snoops := s.snoops ++ [⟨line, hs, c, made, bad⟩] }
    hs.foldl (fun s h => s.send (.snoop h line)) s

/-- True while a write to a line waits for the answer to a snoop: no access to the line is performed meanwhile. -/
def State.snooped (s : State) (line : Nat) : Bool := s.snoops.any fun x => x.line == line

/-- Store part of one line for core `core` of cluster `cl` (R25 to R28, R205), as one request: into the core's L1, which its
own teams read, and on to the cluster at once or later; to the home where the line is of a gang window or its page is
shared-coherent. DESIGN CHOICE, log entry 88. -/
def State.storeLine (s : State) (core cl line : Nat) (c : Copy) (coh : Bool) : State :=
  if winRegion 0 ≤ line * 128 / regionSize || noCore ≤ core then s.homeMerge line c
  else if coh then s.cohWrite line c
  else
    let k := l1Key core line
    let s := { s with copies := s.copies.insert k (((s.copies.find? k).getD Copy.empty).over c) }
    if s.caches cl && Config.freeBool s.oracle (2 ^ 92 + line) then s else s.writeBack k

/-- Bring a line's copies in one cluster home before an operation at its point of atomicity (R203, R212). -/
def State.settleLine (s : State) (cl line : Nat) : State :=
  s.evictAll fun k => copyLine k == line && copyCluster k == cl

/-! ## Uses of a line by a context (R283) -/

/-- A use of a line on behalf of a context is an eligible event of kinds 0 to 2: a correctable error has no effect, an
uncorrectable one poisons the line where it stands, dropping the copies that would hide it (R276, R281), and a line-check error
is met by the verification (R275), which only a use that reaches the home makes. DESIGN CHOICE, log entry 89. -/
def State.injectRead (s : State) (ctx line : Nat) (home : Bool := true) : State :=
  if !injEn s.injCtl then s
  else
    match injKind s.injCtl with
    | 0 => (s.injected 0 ctx).2
    | 1 => let r := s.injected 1 ctx
           if r.1 then (r.2.evictAll fun k => copyLine k == line).setPoison line true else r.2
    | 2 => if !home then s else
           let r := s.injected 2 ctx
           if r.1 then { r.2 with checkErr := r.2.checkErr.put 0 line 1 } else r.2
    | _ => s

end Sys2Proof.Machine
end

