-- ==== Sys2Proof/Machine/Translate.lean ====
section
/-!
DEFINITION. Machine/Translate.lean: page-table entries and walks (R186 to R190), the gang window (R50, R51), the access
firewall (R300), and the checks every lane of an access makes, in their order (R157, R188, R193).
-/

namespace Sys2Proof.Machine

/-! ## Page-table entries (R187) -/

def pteType (e : BitVec 128) : Nat := e.toNat % 4
def pteR (e : BitVec 128) : Bool := e.getLsbD 2
def pteW (e : BitVec 128) : Bool := e.getLsbD 3
def pteX (e : BitVec 128) : Bool := e.getLsbD 4
def pteSup (e : BitVec 128) : Bool := e.getLsbD 5
def pteLoc (e : BitVec 128) : Nat := bitsAt e.toNat 6 2
def pteCoh (e : BitVec 128) : Bool := e.getLsbD 8
def ptePin (e : BitVec 128) : Bool := e.getLsbD 9
def pteAcc (e : BitVec 128) : Bool := e.getLsbD 10
def pteDirty (e : BitVec 128) : Bool := e.getLsbD 11
def pteMig (e : BitVec 128) : Bool := e.getLsbD 12
/-- FRAME as a frame number (address bits [63:16]). -/
def pteFrame (e : BitVec 128) : Nat := bitsAt e.toNat 16 48
def pteGen (e : BitVec 128) : Nat := bitsAt e.toNat 64 4
def ptePeer (e : BitVec 128) : Nat := bitsAt e.toNat 80 13
/-- The reserved bits of a TYPE 2 entry: [15:13], [79:68] and [95:93]. -/
def pteReserved (e : BitVec 128) : Bool :=
  bitsAt e.toNat 13 3 != 0 || bitsAt e.toNat 68 12 != 0 || bitsAt e.toNat 93 3 != 0
/-- Malformed at level 0 (R187). -/
def pteMalformed (e : BitVec 128) : Bool :=
  pteType e == 1 || pteType e == 3 ||
    (pteType e == 2 && (pteReserved e || (pteLoc e ≤ 1 && ptePeer e != 0) || (pteLoc e == 2 && 255 < ptePeer e)))

/-- The reserved bits of an entry of levels 3 to 1 that names a table (R187): [12:2], [13], [79:68] and [95:93]. -/
def pteTableReserved (e : BitVec 128) : Bool :=
  bitsAt e.toNat 2 12 != 0 || bitsAt e.toNat 68 12 != 0 || bitsAt e.toNat 93 3 != 0
/-- Malformed at levels 3 to 1 (R187). -/
def pteTableMalformed (e : BitVec 128) : Bool :=
  pteType e == 2 || pteType e == 3 || (pteType e == 1 && pteTableReserved e)
/-- The TYPE 1 entry that names the table at `place`, its address / 16384 (R187). -/
def tableEntry (place : Nat) : BitVec 128 := BitVec.ofNat 128 (place % 2 ^ 50 * 16384 + 1)
/-- The place of the table that a TYPE 1 entry names. -/
def tablePlace (e : BitVec 128) : Nat := bitsAt e.toNat 14 50

/-- Which table of levels 2 to 0 a virtual address needs, as a key of `Ctx.tables`, whose value is the entry of the level above
that names it (R186). -/
def tableKey (level va : Nat) : Nat :=
  level * 1125899906842624 + va / 2 ^ (match level with | 2 => 46 | 1 => 36 | _ => 26)

/-- The page number VA[56:16]. -/
def pageOf (va : Nat) : Nat := va / 65536

/-- The level-0 entry of a page as the tables hold it. -/
def Ctx.pte (c : Ctx) (page : Nat) : BitVec 128 := c.ptes.getD page 0

/-- The entry of level `level + 1` that an address goes through (R186). -/
def Ctx.tableEntry (c : Ctx) (level va : Nat) : BitVec 128 := c.tables.getD (tableKey level va) 0

/-- A walk (R188): the level-0 entry, or the level at which it stops and whether the entry there is malformed. -/
def Ctx.walk (c : Ctx) (va : Nat) : Except (Nat × Bool) (BitVec 128) :=
  match ([2, 1, 0] : List Nat).find? fun l => pteType (c.tableEntry l va) != 1 || pteTableMalformed (c.tableEntry l va) with
  | some l => .error (l + 1, pteTableMalformed (c.tableEntry l va))
  | none =>
    let e := c.pte (pageOf va)
    if pteMalformed e then .error (0, true) else if pteType e = 0 then .error (0, false) else .ok e

/-! ## Accesses -/

/-- What an access does, for the rights it needs (R188). -/
inductive Access where
  | read
  | write
  /-- ATOM, CAS: both rights. -/
  | update
  /-- RED: W. -/
  | add
  | fetch
  /-- CWAIT: R, and not in host memory. -/
  | counter
  /-- CADD: W, and not in host memory. -/
  | counterAdd
deriving DecidableEq, Repr

/-- True of the accesses that would write (R195). -/
def Access.writes : Access → Bool
  | .write | .update | .add | .counterAdd => true
  | .read | .fetch | .counter => false

/-- On whose behalf an access is made. -/
structure Who where
  ctx : Nat
  ticket : Nat
  super : Bool
  cluster : Nat
  /-- The core, or the agent that is no core, as `noCore` numbers them. -/
  core : Nat
  spec : Option Nat
  /-- A CIN or COUT job, which alone may move a confidential context's data (R301). -/
  cipher : Bool
deriving DecidableEq, Repr

/-! ## Translation caches (R190) -/

/-- The attributes a TLB entry's pages share: R, W, X, SUP, LOC, COH, GEN and PEER (R190). -/
def tlbAttrs (e : BitVec 128) : BitVec 128 := e &&& BitVec.ofNat 128 (0x1FC + 0xF * 2 ^ 64 + 0x1FFF * 2 ^ 80)
/-- The TLBs an agent looks a page up in: a core's first-level one and its cluster's, or an engine's translation cache (R25,
R191). -/
def Who.tlbs (w : Who) : List Nat := if w.core < noCore then [w.core, 1000 + w.cluster] else [1600 + w.core]
/-- Entries a TLB holds (R25): 64 in a first-level one, 2,048 in a cluster's; an engine's count is not given. -/
def tlbRoom (n : Nat) : Option Nat := if n < noCore then some 64 else if n < 2000 then some 2048 else none

/-- What one TLB holds for a page, if it has not let the entry go since: which entries stay is open. -/
def State.tlbHit (s : State) (n ctx page : Nat) : Option (BitVec 128) :=
  match (s.tlbs.getD n []).find? fun e => e.covers ctx page with
  | none => none
  | some e => if Config.freeBool s.oracle (2 ^ 93 + 2 ^ 60 * n + page) then none else some (e.pte page)

/-- True when a walk that finds `e` and whatever an agent's TLBs still hold of the page come to the same: they translate as `e` does,
and it has ACC set already (R189, R190). -/
def State.tlbSame (s : State) (w : Who) (page : Nat) (e : BitVec 128) : Bool :=
  !pteMig e && e.getLsbD 10 && w.tlbs.all fun n => (s.tlbs.getD n []).all fun x => !x.covers w.ctx page ||
    x.pte page == (tlbAttrs e ||| BitVec.ofNat 128 (pteFrame e * 65536 + 2))

/-- The translation an agent uses (R188, R190, R192): what a TLB of its own still holds, else a walk; and whether it walked.
DESIGN CHOICE, log entry 90. -/
def State.lookup (s : State) (w : Who) (c : Ctx) (va : Nat) : Except (Nat × Bool) (BitVec 128 × Bool) :=
  match c.walk va with
  | .error e => match w.tlbs.findSome? fun n => s.tlbHit n w.ctx (pageOf va) with
    | some e => .ok (e, false)
    | none => .error e
  | .ok e =>
    if s.tlbSame w (pageOf va) e then .ok (e, true)
    else match w.tlbs.findSome? fun n => s.tlbHit n w.ctx (pageOf va) with
      | some e => .ok (e, false)
      | none => .ok (e, true)

/-- A valid page joins the entries of a TLB (R190): an entry of its group whose frame and attributes agree, else one of its own; a
full TLB lets one go. -/
def tlbJoin (room : Option Nat) (o ctx page : Nat) (e : BitVec 128) (es : List TlbEntry) : List TlbEntry :=
  let es := es.filterMap fun x => x.less ctx fun q => q == page
  let base := (pteFrame e + 2 ^ 48 - page % 16) % 2 ^ 48
  let fits (x : TlbEntry) : Bool := x.ctx == ctx && x.group == page / 16 && x.base == base && x.attrs == tlbAttrs e
  match es.findIdx? fits with
  | some i => ((List.range es.length).zip es).map fun (j, x) =>
      if j = i then { x with mask := x.mask ||| BitVec.ofNat 16 (2 ^ (page % 16)) } else x
  | none =>
    let es := if room.any fun n => n ≤ es.length then es.eraseIdx (Config.freeNat o (2 ^ 94) % es.length) else es
    es ++ [⟨ctx, page / 16, base, tlbAttrs e, BitVec.ofNat 16 (2 ^ (page % 16))⟩]

/-- A walk fills the agent's TLBs (R189, R190), and a second-level hit the first level. -/
def State.tlbFill (s : State) (w : Who) (page : Nat) (e : BitVec 128) : State :=
  { s with tlbs := w.tlbs.foldl (fun m n =>
      if (m.getD n []).any fun x => x.covers w.ctx page && x.pte page == (tlbAttrs e ||| BitVec.ofNat 128 (pteFrame e * 65536 + 2))
      then m else m.put [] n (tlbJoin (tlbRoom n) s.oracle w.ctx page e (m.getD n []))) s.tlbs }

/-! ## Parts -/

/-- Part of a footprint on one page: where its bytes stand, and what kind of place that is. -/
structure Part where
  key : Nat
  len : Nat
  page : Nat
  coh : Bool
  loc : Nat
  /-- A FIFO-mode bank: core and bank number (R184). -/
  fifo : Option (Nat × Nat)
  /-- The entry it was translated by, and whether a walk found it (R189). -/
  pte : BitVec 128
  walked : Bool
deriving DecidableEq, Repr

/-- No part. -/
def Part.none : Part := ⟨0, 0, 0, false, 0, Option.none, 0, false⟩

/-- Why an access stops short: a fault of its lane, or a page that is migrating (R188). -/
inductive Stop where
  | fault (f : LaneFault)
  | wait
deriving DecidableEq, Repr

/-- The frame's first byte in memory keys (R180). DESIGN CHOICE, log entry 6. -/
def frameKey (loc peer frame : Nat) : Nat :=
  frame * 65536 + regionSize * (match loc with | 0 => 0 | 1 => 1 | 2 => 2 + peer | _ => 300 + peer)

/-- The workgroup of a gang-relative segment (R50). -/
def segWg (g : Gang) (seg : Nat) : WgId := ⟨g.ticket, seg % g.shape.w, seg / g.shape.w⟩
/-- The core of a gang's workgroup (R48). -/
def Gang.coreOf (g : Gang) (gx gy : Nat) : Nat := (g.ox + gx) + 16 * (g.oy + gy)

/-- The bank behind a segment slot of a workgroup, with its number (R181). -/
def State.bankAt (s : State) (core : Nat) (w : WgId) (slot : Nat) : Option (Nat × Bank) :=
  ((List.range 4).zip (s.core core).banks).find? fun (_, b) =>
    b.owner == some w && b.slot == slot && (b.mode == .scratch || b.mode == .fifo)

/-- True while a gang holds banks of the cores of its rectangle (R50, R66, R181). -/
def Gang.seated (g : Gang) : Bool := g.phase != .streamed

/-- A window access (R50, R51): its part, CAP_LOCAL where the ticket names no live gang of the context, ACCESS where
nothing backs the offset. The window of a gang that is streamed out keeps its bytes and its backing (R246, R370). -/
def State.windowPart (s : State) (w : Who) (off n : Nat) : Except Nat Part :=
  match s.gang? w.ticket with
  | none => .error cCapLocal
  | some g =>
    if g.ctx != w.ctx then .error cCapLocal
    else
      let seg := off / 524288
      if g.shape.w * g.shape.h ≤ seg then .error cAccess
      else
        let wg := segWg g seg
        let slot := off % 524288 / 131072
        let part (fifo : Option (Nat × Nat)) : Part := ⟨regionSize * winRegion g.ticket + off, n, off / 65536, false, 0, fifo, 0, false⟩
        if g.seated then
          match s.bankAt (g.coreOf wg.gx wg.gy) wg slot with
          | none => .error cAccess
          | some (i, b) => .ok (part (if b.mode == .fifo then some (g.coreOf wg.gx wg.gy, i) else none))
        else if slot < (g.shape.scratch + 131071) / 131072 then .ok (part none)
        else if (s.wg? wg).any fun x => (x.fifos.find? slot).isSome then .ok (part (some (noCore, slot)))
        else .error cAccess

/-- True while the bank that backs, or will back, a window offset is closed for a mode switch (R182): the access waits. -/
def State.windowClosed (s : State) (w : Who) (off : Nat) : Bool :=
  match s.gang? w.ticket with
  | none => false
  | some g =>
    let wg := segWg g (off / 524288)
    g.ctx == w.ctx && off / 524288 < g.shape.w * g.shape.h &&
      (s.core (g.coreOf wg.gx wg.gy)).banks.any fun b =>
        b.owner == some wg && b.slot == off % 524288 / 131072 && b.switching.isSome

/-- True when a frame lies in an extent that has been released (R198): of this device, or of an expander. -/
def State.releasedFrame (s : State) (loc peer frame : Nat) : Bool :=
  if loc = 0 then s.extents.any fun x => x.2.released && x.2.first ≤ frame && frame < x.2.first + 4096
  else loc == 2 && s.expReleased.any fun x => x.1 == peer && x.2 ≤ frame && frame < x.2 + 4096

/-- The firewall's answer for a local frame (R300): owned by the context, or firmware's. -/
def State.firewall (s : State) (ctx frame : Nat) : Bool := s.owner.getD frame 0 == ctx + 1

/-- What an entry's own rights refuse, and the counters that LOC 1 refuses (R188). -/
def rightsRefuse (a : Access) (super : Bool) (e : BitVec 128) : Bool :=
  (match a with
   | .read | .counter => !pteR e
   | .write | .add | .counterAdd => !pteW e
   | .update => !(pteR e && pteW e)
   | .fetch => !pteX e) || (pteSup e && !super) ||
    (match a with | .counter | .counterAdd => pteLoc e == 1 | _ => false)

/-- What the place of a page refuses (R198, R279, R280, R300, R301), as a trap code. Only CIN and COUT move data between a
confidential context and memory elsewhere. DESIGN CHOICE, log entry 91. -/
def State.placeRefuses (s : State) (w : Who) (c : Ctx) (a : Access) (e : BitVec 128) : Option Nat :=
  if pteLoc e = 0 && !s.firewall w.ctx (pteFrame e) then some cFirewall
  else if pteLoc e != 0 && c.confidential && !w.cipher then some cFirewall
  else if pteLoc e = 2 && s.expLost.contains (ptePeer e) then some cExpLost
  else if a.writes && c.viral && pteLoc e != 0 then some cViral
  else none

/-- Translate and check one page's share of a footprint (R188, R51, R300, R279, R280): GEN, rights, then the place. `late` leaves
the place's own checks to the moment of the access, as a queued matrix transfer does (R395). -/
def State.pagePart (s : State) (w : Who) (c : Ctx) (gen : Nat) (a : Access) (va n : Nat) (late : Bool := false) :
    Except (Nat × Nat × Bool) (Option Part) :=
  if c.window ≤ va ∧ va < c.window + 16777216 then
    if s.windowClosed w (va - c.window) then .ok none else
    match s.windowPart w (va - c.window) n with
    | .ok p => .ok (some p)
    | .error e => .error (e, 0, false)
  else
    match s.lookup w c va with
    | .error (level, malf) => .error (cPage, level, malf)
    | .ok (e, walked) =>
      if pteMig e then .ok none
      else if pteGen e != gen then .error (cCapRevoked, 0, false)
      else if rightsRefuse a w.super e then .error (cAccess, 0, false)
      else if s.releasedFrame (pteLoc e) (ptePeer e) (pteFrame e) then .error (cAccess, 0, false)
      else
        match if late then none else s.placeRefuses w c a e with
        | some code => .error (code, 0, false)
        | none =>
          .ok (some ⟨frameKey (pteLoc e) (ptePeer e) (pteFrame e) + va % 65536, n, pageOf va, pteCoh e, pteLoc e, none, e, walked⟩)

/-- The pieces a footprint is cut into at page boundaries, ascending: address and length. -/
def pagePieces (va n : Nat) : List (Nat × Nat) :=
  (List.range ((va + n - 1) / 65536 - va / 65536 + 1)).map fun i =>
    let lo := max va ((va / 65536 + i) * 65536)
    (lo, min (va + n) ((va / 65536 + i + 1) * 65536) - lo)

/-- Check a footprint's pages in ascending order (R193); a footprint of zero bytes touches none. -/
def State.parts (s : State) (w : Who) (c : Ctx) (gen : Nat) (a : Access) (late : Bool := false) :
    List (Nat × Nat) → Except (Nat × Nat × Nat × Bool) (Option (List Part))
  | [] => .ok (some [])
  | (va, n) :: rest =>
    match s.pagePart w c gen a va n late with
    | .error (code, level, malf) => .error (code, va, level, malf)
    | .ok none => .ok none
    | .ok (some p) =>
      match s.parts w c gen a late rest with
      | .error e => .error e
      | .ok none => .ok none
      | .ok (some ps) => .ok (some (p :: ps))

/-- CapCheck (R157) and translation (R188) for lane `l`: tag, seal, permissions, bounds, alignment, then the pages.
DESIGN CHOICE, log entry 19. -/
def State.resolve (s : State) (w : Who) (l : Nat) (k : Cap) (ea : Int) (n need align : Nat) (a : Access)
    (late : Bool := false) : Except Stop (List Part) :=
  let f (code : Nat) : Stop := .fault ⟨l, code, BitVec.ofInt 64 ea, a.writes, false, 0⟩
  if !k.tag then .error (f cCapTag)
  else if k.isSealed then .error (f cCapSeal)
  else if !k.has need then .error (f cCapPerm)
  else
    match capDecode k with
    | none => .error (f cCapBound)
    | some (base, top) =>
      if ea < base || top < ea + n then .error (f cCapBound)
      else if ea.toNat % align != 0 then .error (f cAccess)
      else
        match s.ctx? w.ctx with
        | none => .error (f cPage)
        | some c =>
          if n = 0 then .ok []
          else
            match s.parts w c k.gen a late (pagePieces ea.toNat n) with
            | .error (code, va, level, malf) =>
              .error (.fault ⟨l, code, BitVec.ofNat 64 (if va / 65536 = ea.toNat / 65536 then ea.toNat else va),
                a.writes, malf, level⟩)
            | .ok none => .error .wait
            | .ok (some ps) => .ok ps

/-- Set bits of a page's level-0 entry as long as that is still the entry `used`; a replaced one is left alone. -/
def Ctx.markBits (c : Ctx) (page : Nat) (used bits : BitVec 128) : Ctx :=
  let e := c.pte page
  let same := pteType e == 2 && tlbAttrs e == tlbAttrs used && pteFrame e == pteFrame used
  if same && e ||| bits != e then { c with ptes := c.ptes.put 0 page (e ||| bits) } else c

/-- What an access does to the entry it was translated by (R189): a walk sets ACC, and a write sets DIRTY. -/
def Part.marks (p : Part) (a : Access) : BitVec 128 :=
  (if p.walked then 0x400 else 0) ||| (if a.writes then 0x800 else 0)

/-- A speculation notes pages it walked, whether the walk reached a frame or ended in a fault (R258). -/
def State.noteWalk (s : State) (spec : Option Nat) (pages : List Nat) : State :=
  match spec with
  | none => s
  | some id => { s with specs := s.specs.map fun (x : Spec) => if x.id = id then { x with walked := x.walked ++ pages } else x }

/-- ACC and DIRTY of a page's entry (R189): at once, or noted by a speculation, whose claim sets them (R259, R261). -/
def State.mark (s : State) (w : Who) (page : Nat) (used bits : BitVec 128) : State :=
  match w.spec with
  | none => s.modCtx w.ctx fun c => c.markBits page used bits
  | some id => { s with specs := s.specs.map fun (x : Spec) =>
      if x.id = id then { x with marks := x.marks ++ [(page, used, bits)] } else x }

/-- What translating the parts of an access leaves behind: ACC and DIRTY (R189), TLB fills (R190), a speculation's note. Only an
access all of whose pages pass leaves anything. DESIGN CHOICE, log entry 100. -/
def State.touch (s : State) (w : Who) (a : Access) (ps : List Part) : State :=
  let real := ps.filter fun p => p.key / regionSize < winRegion 0
  let s := real.foldl (fun s p => (s.mark w p.page p.pte (p.marks a)).tlbFill w p.page p.pte) s
  s.noteWalk w.spec (real.map Part.page)

/-- Who the issuing team is, for its accesses (R51, R96, R179). -/
def State.who (s : State) : Who :=
  let t := s.team
  let core := ((s.gang? t.id.ticket).elim 0 fun g => g.coreOf t.id.gx t.id.gy)
  ⟨t.ctx, t.id.ticket, t.priv != .user, clusterOf core, core, s.specOf t, false⟩

/-! ## Reading and writing parts -/

/-- The share of each line in a run of bytes: key and length (R202: one access per line). -/
def linePieces (key n : Nat) : List (Nat × Nat) :=
  (linesOf key n).map fun line =>
    let lo := max key (line * 128)
    (lo, min (key + n) ((line + 1) * 128) - lo)

/-- A line enters a speculation's read set: the exact table while it has room, the signature after (R256). -/
def Spec.served (p : Spec) (line : Nat) : Spec :=
  if p.reads.contains line || p.signature.contains line then p
  else if p.reads.length < 65536 then { p with reads := line :: p.reads }
  else { p with signature := line :: p.signature }

/-- A speculative read (R255): shadow bytes where written, else the home, whose line enters the read set, also where its check
or its poison stops the read (R262). -/
def State.specLine (s : State) (id key n : Nat) : Except Nat (List Byte × Nat) × State :=
  let line := key / 128
  let lo := key % 128
  let sh := ((s.specs.find? fun p => p.id == id).bind fun p => p.shadow.find? line).getD Copy.empty
  if sh.covers lo n then (.ok (sh.slice lo n, sh.tags.toNat), s)
  else
    let s : State := { s with specs := s.specs.map fun (p : Spec) => if p.id = id then p.served line else p }
    match s.verify line with
    | (s, some e) => (.error e, s)
    | (s, none) =>
      let c := (s.homeCopy line).under sh
      (.ok (c.slice lo n, c.tags.toNat), s)

/-- A speculative store (R254, R255): into the shadow store; beyond its quota the speculation is discarded. -/
def State.specStore (s : State) (id line : Nat) (c : Copy) : State :=
  match s.specs.find? fun p => p.id == id with
  | none => s
  | some p =>
    if (p.shadow.find? line).isNone ∧ p.quota * 4096 ≤ p.shadow.length then s.discardSpec id 4
    else { s with specs := s.specs.map fun (x : Spec) =>
      if x.id = id then { x with shadow := x.shadow.insert line (((x.shadow.find? line).getD Copy.empty).over c) } else x }

/-- True when the speculation an access is made for has been discarded meanwhile: nothing of it is done any more (R259). -/
def State.lapsed (s : State) (spec : Option Nat) : Bool := spec.any fun id => !(s.specs.any fun p => p.id == id)

/-- Read a run of bytes of one part for an accessing agent of the core array: bytes, and the tags of each line. Each line is an
eligible event of the injector, unless its use has been counted already. -/
def State.readRun (s : State) (w : Who) (key n : Nat) (counted : Bool := false) : Except Nat (List Byte × List Nat) × State :=
  (linePieces key n).foldl (fun (r : Except Nat (List Byte × List Nat) × State) (p : Nat × Nat) =>
    match r with
    | (.error e, s) => (.error e, s)
    | (.ok (bs, ts), s) =>
      let s := if counted then s else s.injectRead w.ctx (p.1 / 128) (w.spec.isSome || !s.holds w.core w.cluster p.1 p.2)
      let one := match w.spec with
        | some id => if p.1 < regionSize then s.specLine id p.1 p.2 else s.loadLine w.core w.cluster p.1 p.2
        | none => s.loadLine w.core w.cluster p.1 p.2
      match one with
      | (.error e, s') => (.error e, s')
      | (.ok (b, t), s') => (.ok (bs ++ b, ts ++ [t]), s')) (.ok ([], []), s)

/-- The lines that several lanes read pieces of, each used once for all of them (R193): eligible events of the injector (R283). -/
def State.useLines (s : State) (w : Who) (ps : List (Nat × Nat)) : State :=
  if !injEn s.injCtl then s
  else ((ps.map fun x => x.1 / 128).dedup).foldl (fun s l =>
    s.injectRead w.ctx l (w.spec.isSome ||
      (ps.filter fun x => x.1 / 128 == l).any fun x => !s.holds w.core w.cluster x.1 x.2)) s

/-- Read all parts of a footprint. -/
def State.readParts (s : State) (w : Who) (ps : List Part) : Except Nat (List Byte × List Nat) × State :=
  ps.foldl (fun r p =>
    match r with
    | (.error e, s) => (.error e, s)
    | (.ok (bs, ts), s) =>
      match s.readRun w p.key p.len with
      | (.error e, s') => (.error e, s')
      | (.ok (b, t), s') => (.ok (bs ++ b, ts ++ t), s')) (.ok ([], []), s)

/-- One line's share of a store: which bytes it writes, and whether its page is shared-coherent. -/
structure LineWrite where
  line : Nat
  coh : Bool
  copy : Copy
deriving DecidableEq, Repr

/-- Lay a run of bytes over the line writes so far (R193, R428): one request per line, a later lane over an earlier one. -/
def addRun (key : Nat) (bs : List Byte) (tag coh : Bool) (ws : List LineWrite) : List LineWrite :=
  (linePieces key bs.length).foldl (fun ws p =>
    let b := (bs.drop (p.1 - key)).take p.2
    if ws.any fun x => x.line == p.1 / 128 then
      ws.map fun x => if x.line = p.1 / 128 then { x with copy := x.copy.write (p.1 % 128) b tag } else x
    else ws ++ [⟨p.1 / 128, coh, Copy.empty.write (p.1 % 128) b tag⟩]) ws

/-- The line writes of a footprint's parts, laid over those so far. -/
def addParts (tag : Bool) : List Part → List Byte → List LineWrite → List LineWrite
  | [], _, ws => ws
  | p :: ps, bs, ws => addParts tag ps (bs.drop p.len) (addRun p.key (bs.take p.len) tag p.coh ws)

/-- Perform one line's request. -/
def State.writeLine (s : State) (w : Who) (x : LineWrite) : State :=
  let x := { x with copy := { x.copy with writers := [(w.ctx, x.copy.dirty)] } }
  match w.spec with
  | some id => if x.line * 128 < regionSize then s.specStore id x.line x.copy else s.storeLine w.core w.cluster x.line x.copy x.coh
  | none => s.storeLine w.core w.cluster x.line x.copy x.coh

/-- Perform the requests of a store, one per line; a speculation's stop with it (R259). -/
def State.writeLines (s : State) (w : Who) (ws : List LineWrite) : State :=
  ws.foldl (fun s x => if s.lapsed w.spec then s else s.writeLine w x) s

/-- Write a run of bytes, one request per line. -/
def State.writeRun (s : State) (w : Who) (key : Nat) (bs : List Byte) (tag coh : Bool) : State :=
  s.writeLines w (addRun key bs tag coh [])

/-- Write all parts of a footprint. -/
def State.writeParts (s : State) (w : Who) (ps : List Part) (bs : List Byte) (tag : Bool) : State :=
  s.writeLines w (addParts tag ps bs [])

/-! ## Revocation (R171, R173, R174) -/

/-- True when a capability matches entry `n` of the context's revocation list (R171). -/
def Ctx.revMatches (c : Ctx) (n : Nat) (k : Cap) : Bool :=
  let ctl := c.revCtl.getD n 0
  let base := (c.revBase.getD n 0).toNat
  ctl.getLsbD 63 && k.tag && k.gen == bitsAt ctl.toNat 56 4
    && capOverlaps k base (base + ctl.toNat % 4294967296 * 65536)
/-- True when it matches some valid entry. -/
def Ctx.stale? (c : Ctx) (k : Cap) : Bool := (List.range 32).any fun n => c.revMatches n k
/-- The tags of a line, or of a write of part of one, less those of capabilities that the list names. -/
def Ctx.keepTags (c : Ctx) (data : BitVec 1024) (tags : BitVec 8) : BitVec 8 :=
  BitVec.ofNat 8 ((List.range 8).foldl (fun a g =>
    if tags.getLsbD g && !c.stale? ⟨true, (data >>> (128 * g)).setWidth 128⟩ then a + 2 ^ g else a) 0)
/-- The revocation filter (R174): while a pass runs, a matching value loses its tag. -/
def State.filterCap (s : State) (ctx : Nat) (k : Cap) : Cap :=
  if s.sweepActive && (s.ctx? ctx).any fun c => c.stale? k then k.untag else k

end Sys2Proof.Machine
end

