-- ==== Sys2Proof/Machine/Maps.lean ====
section
/-!
DEFINITION. Machine/Maps.lean: matrix shapes (R135), operand maps (R141, R142), and which accesses of a team wait for a
matrix instruction it queued earlier (R138, R143).
-/

namespace Sys2Proof.Machine

/-- M, N, K, element size and block of an element type (R135); the type codes are those of FMT (R86). -/
structure MShape where
  m : Nat
  n : Nat
  k : Nat
  size : Nat
  blk : Nat
deriving DecidableEq, Repr

def mshape (ty : Nat) : MShape :=
  match ty with
  | 0 => ⟨32, 32, 64, 1, 32⟩
  | 1 => ⟨32, 32, 32, 2, 32⟩
  | 2 => ⟨32, 32, 32, 2, 32⟩
  | 3 => ⟨32, 32, 16, 4, 16⟩
  | 4 => ⟨16, 16, 16, 8, 16⟩
  | _ => ⟨32, 32, 64, 1, 32⟩

/-- Fields of an operand map descriptor (R141). -/
def mapBase (d : BitVec 128) : Nat := bitsAt d.toNat 0 24
def mapRstride (d : BitVec 128) : Nat := bitsAt d.toNat 24 20
def mapCstride (d : BitVec 128) : Nat := bitsAt d.toNat 44 20
def mapVrows (d : BitVec 128) : Nat := bitsAt d.toNat 64 7
def mapVcols (d : BitVec 128) : Nat := bitsAt d.toNat 71 7
def mapSwz (d : BitVec 128) : Nat := bitsAt d.toNat 78 3
/-- A descriptor MMAP accepts (R141): reserved bits zero, VROWS, VCOLS and SWZ in range. -/
def mapLegal (d : BitVec 128) : Bool :=
  bitsAt d.toNat 81 47 == 0 && mapVrows d ≤ 64 && mapVcols d ≤ 32 && mapSwz d ≤ 3

/-- The window offset of B[j][n] (R142). -/
def mapOffset (d : BitVec 128) (j n : Nat) : Nat :=
  let o := mapBase d + j * mapRstride d + n * mapCstride d
  if mapSwz d = 0 then o else o ^^^ (j % 2 ^ mapSwz d * 16)

/-- A padding position (R142). -/
def mapPadding (d : BitVec 128) (j n : Nat) : Bool := mapVrows d ≤ j || mapVcols d ≤ n

/-- The offsets of every position of a shape that is not padding. -/
def mapOffsets (d : BitVec 128) (sh : MShape) : List Nat :=
  (List.range (min sh.k (mapVrows d))).flatMap fun j => (List.range (min sh.n (mapVcols d))).map fun n => mapOffset d j n

/-- The memory key of a window offset. -/
def windowKey (ticket off : Nat) : Nat := regionSize * winRegion ticket + off

/-- True when [a, a + m) and [b, b + n) share a byte. -/
def rangesMeet (a m b n : Nat) : Bool := a < b + n && b < a + m

/-- Walk a matrix queue with the maps in force at each entry (R141), looking for an entry of team `i` that an access to
[key, key + len) must wait for: an MSTA, an MLDT or an MLDA over the same bytes, whose read comes before it in program order
(R203), and for a write also the B positions of an MMA over them (R138, R143). -/
def queueMeets (i : TeamId) (key len : Nat) (write : Bool) : SMap (BitVec 128) → List MEntry → Bool
  | _, [] => false
  | maps, e :: es =>
    let olap := e.pieces.any fun p => rangesMeet p.key p.len key len
    let meets := e.team == i &&
      (match e.op with
       | .msta _ _ | .mldt _ _ | .mlda _ => olap
       | .mma _ _ m _ _ _ =>
         write && key / regionSize == winRegion i.ticket &&
           (let sh := mshape (fmtAtype e.fmt)
            (mapOffsets (maps.getD m 0) sh).any fun o => rangesMeet (windowKey i.ticket o) sh.size key len)
       | .mza _ | .mmap _ _ | .mchk _ => false)
    let maps := match e.op with
      | .mmap m d => maps.put 0 m d
      | _ => maps
    meets || queueMeets i key len write maps es

/-- True when the issuing team's access to these parts waits for its own queued matrix instructions. -/
def State.queueHolds (s : State) (ps : List Part) (write : Bool) : Bool :=
  match s.wg? s.team.wg with
  | none => false
  | some g =>
    match g.queue with
    | [] => false
    | q => ps.any fun p => queueMeets s.team.id p.key p.len write g.maps q

/-- The team waits for its workgroup's matrix engine: the head of the queue is due, and the instruction is tried again. -/
def waitQueue (s : State) : Out :=
  .next ((s.setTeam fun t => { t with latch := Latch.empty }).post (.matrixQueueExecute s.team.wg))

/-- True when the team has a memory access of its own in the matrix queue. -/
def State.queueOwes (s : State) : Bool :=
  match s.wg? s.team.wg with
  | none => false
  | some g => g.queue.any fun e => e.team == s.team.id &&
      (match e.op with
       | .msta _ _ | .mldt _ _ | .mlda _ | .mma _ _ _ _ _ _ => true
       | _ => false)

end Sys2Proof.Machine
end

