-- ==== Sys2Proof/Machine/Flags.lean ====
section
/-!
DEFINITION. Machine/Flags.lean: the sticky flags and when each is set (R86, R130), the binary floating formats (R112),
and rounding an exact value once (R115 to R118).
-/

namespace Sys2Proof.Machine

/-- The FLAGS bits (R86). -/
def fNV : Word := 1
def fDZ : Word := 2
def fOF : Word := 4
def fUF : Word := 8
def fNX : Word := 16
def fSATD : Word := 32

/-- A binary floating layout: fraction bits and exponent bits (R112). -/
structure FFmt where
  fb : Nat
  eb : Nat
deriving DecidableEq, Repr

def fmtF32 : FFmt := ⟨23, 8⟩
def fmtF16 : FFmt := ⟨10, 5⟩
def fmtBf16 : FFmt := ⟨7, 8⟩
def fmtF64 : FFmt := ⟨52, 11⟩

/-- The exponent bias (R112). -/
def FFmt.bias (F : FFmt) : Nat := 2 ^ (F.eb - 1) - 1
/-- The exponent of the smallest normal. -/
def FFmt.emin (F : FFmt) : Int := 1 - (F.bias : Int)
/-- The sign bit of a format. -/
def FFmt.sign (F : FFmt) (neg : Bool) : Nat := if neg then 2 ^ (F.fb + F.eb) else 0
/-- ±∞, ±0, the largest finite value and the canonical NaN (R112, R113). -/
def FFmt.infBits (F : FFmt) (neg : Bool) : Nat := F.sign neg + (2 ^ F.eb - 1) * 2 ^ F.fb
def FFmt.zeroBits (F : FFmt) (neg : Bool) : Nat := F.sign neg
def FFmt.maxBits (F : FFmt) (neg : Bool) : Nat := F.sign neg + (2 ^ F.eb - 1) * 2 ^ F.fb - 1
/-- DESIGN CHOICE, log entry 73. -/
def FFmt.nanBits (F : FFmt) : Nat := (2 ^ F.eb - 1) * 2 ^ F.fb + 2 ^ (F.fb - 1)

/-- What a floating operand is: a NaN, an infinity, or the exact value ±m·2^e (zero when m = 0). -/
inductive FVal where
  | nan (signalling : Bool)
  | inf (neg : Bool)
  | fin (neg : Bool) (m : Nat) (e : Int)
deriving DecidableEq, Repr

/-- What MODE says about rounding (R86). -/
structure FCtl where
  rnd : Nat
  sat : Bool
  ftz : Bool
deriving DecidableEq, Repr

def ctlOf (mode : Word) : FCtl := ⟨modeRnd mode, modeSat mode, modeFtz mode⟩

/-- The biased exponent and fraction fields of an encoding. -/
def FFmt.expField (F : FFmt) (x : Nat) : Nat := bitsAt x F.fb F.eb
def FFmt.fracField (F : FFmt) (x : Nat) : Nat := x % 2 ^ F.fb
def FFmt.negOf (F : FFmt) (x : Nat) : Bool := bitsAt x (F.fb + F.eb) 1 == 1
/-- A subnormal encoding (R112). -/
def FFmt.isSubnormal (F : FFmt) (x : Nat) : Bool := F.expField x == 0 && F.fracField x != 0

/-- Read an operand; with `ftz`, a subnormal reads as zero of its sign (R118). -/
def FFmt.unpack (F : FFmt) (ftz : Bool) (x : Nat) : FVal :=
  let neg := F.negOf x
  let ex := F.expField x
  let fr := F.fracField x
  if ex = 2 ^ F.eb - 1 then
    if fr = 0 then .inf neg else .nan (fr / 2 ^ (F.fb - 1) % 2 == 0)
  else if ex = 0 then (if ftz then .fin neg 0 0 else .fin neg fr (F.emin - F.fb))
  else .fin neg (2 ^ F.fb + fr) ((ex : Int) - F.bias - F.fb)

/-- Round m / 2^sh to an integer in the direction of the mode (R116); whether that changes the value. -/
def shiftRound (rnd : Nat) (neg : Bool) (m : Nat) (sh : Int) : Nat × Bool :=
  if sh ≤ 0 then (m * 2 ^ (-sh).toNat, false)
  else
    let n := m / 2 ^ sh.toNat
    let r := m % 2 ^ sh.toNat
    let half := 2 ^ (sh.toNat - 1)
    let up := match rnd with
      | 0 => half < r || (r == half && n % 2 == 1)
      | 1 => false
      | 2 => r != 0 && !neg
      | 3 => r != 0 && neg
      | _ => half ≤ r
    (if up then n + 1 else n, r != 0)

/-- An overflowing result (R117). -/
def FFmt.overflow (F : FFmt) (c : FCtl) (neg : Bool) : Nat × Word :=
  if c.sat then (F.maxBits neg, fOF ||| fNX ||| fSATD)
  else
    let toMax := match c.rnd with
      | 1 => true
      | 2 => neg
      | 3 => !neg
      | _ => false
    (if toMax then F.maxBits neg else F.infBits neg, fOF ||| fNX)

/-- Round the exact value ±m·2^e once (R115 to R118): the encoding and the flags. DESIGN CHOICE, log entry 77: with
    FTZ set, a tiny result that rounds up to the smallest normal sets no UF. -/
def FFmt.round (F : FFmt) (c : FCtl) (neg : Bool) (m : Nat) (e : Int) : Nat × Word :=
  if m = 0 then (F.zeroBits neg, 0)
  else
    let x : Int := e + m.log2
    let ulp := max x F.emin - F.fb
    let (n, inexact) := shiftRound c.rnd neg m (ulp - e)
    let (n, ulp) := if n = 2 ^ (F.fb + 1) then (2 ^ F.fb, ulp + 1) else (n, ulp)
    let tiny := x < F.emin && !(x + 1 == F.emin && (shiftRound c.rnd neg m (x - F.fb - e)).1 == 2 ^ (F.fb + 1))
    if n < 2 ^ F.fb then
      if c.ftz && n != 0 then (F.zeroBits neg, fUF ||| fNX)
      else (F.sign neg + n, if inexact then fUF ||| fNX else 0)
    else
      let ex := ulp + F.fb + F.bias
      if (2 ^ F.eb - 1 : Int) ≤ ex then F.overflow c neg
      else
        (F.sign neg + ex.toNat * 2 ^ F.fb + (n - 2 ^ F.fb),
          (if inexact then fNX else 0) ||| (if inexact && tiny && !c.ftz then fUF else 0))

/-- Append a sticky bit: a value strictly between m and m + 1 becomes the odd 2m + 1 at half the unit. -/
def stick (m : Nat) (inexact : Bool) : Nat := 2 * m + (if inexact then 1 else 0)

/-- True of a NaN, and of a signalling one. -/
def FVal.isNan : FVal → Bool
  | .nan _ => true
  | _ => false
def FVal.isSignalling : FVal → Bool
  | .nan s => s
  | _ => false
/-- NV for a signalling operand (R113). -/
def nvOf (vs : List FVal) : Word := if vs.any FVal.isSignalling then fNV else 0

/-- The exact sum of finite terms: sign, magnitude and exponent; the sign of an exact zero follows R116. -/
def exactSum (rnd : Nat) (ts : List (Bool × Nat × Int)) : Bool × Nat × Int :=
  let e := ts.foldl (fun a t => min a t.2.2) ((ts.headD (false, 0, 0)).2.2)
  let x : Int := ts.foldl (fun a t =>
    let v : Int := (t.2.1 * 2 ^ (t.2.2 - e).toNat : Nat)
    if t.1 then a - v else a + v) 0
  if x = 0 then
    let zeros := ts.all fun t => t.2.1 == 0
    let neg := if zeros && ts.all fun t => t.1 then true
      else if zeros && ts.all fun t => !t.1 then false
      else rnd == 3
    (neg, 0, e)
  else (x < 0, x.natAbs, e)

/-- The sum of two or more terms, rounded once (R113 to R116). DESIGN CHOICE, log entry 75: a quiet NaN beside
    infinities of both signs sets no NV. -/
def FFmt.sum (F : FFmt) (c : FCtl) (vs : List FVal) : Nat × Word :=
  if vs.any FVal.isNan then (F.nanBits, nvOf vs)
  else
    let pinf := vs.any fun v => v = .inf false
    let ninf := vs.any fun v => v = .inf true
    if pinf && ninf then (F.nanBits, fNV)
    else if pinf then (F.infBits false, 0)
    else if ninf then (F.infBits true, 0)
    else
      let r := exactSum c.rnd (vs.filterMap fun v => match v with | .fin n m e => some (n, m, e) | _ => none)
      F.round c r.1 r.2.1 r.2.2

/-- The exact product and the flags it sets (R113, R114). -/
def FVal.mul (a b : FVal) : FVal × Word :=
  match a, b with
  | .nan _, _ => (.nan false, nvOf [a, b])
  | _, .nan _ => (.nan false, nvOf [a, b])
  | .inf s, .inf t => (.inf (s != t), 0)
  | .inf s, .fin t m _ => if m = 0 then (.nan false, fNV) else (.inf (s != t), 0)
  | .fin s m _, .inf t => if m = 0 then (.nan false, fNV) else (.inf (s != t), 0)
  | .fin s m e, .fin t n f => (.fin (s != t) (m * n) (e + f), 0)

/-- Round a value that may be special. -/
def FFmt.encode (F : FFmt) (c : FCtl) (v : FVal) : Nat × Word :=
  match v with
  | .nan _ => (F.nanBits, 0)
  | .inf n => (F.infBits n, 0)
  | .fin n m e => F.round c n m e

/-- Compare two values that are no NaN: −1, 0 or 1; −0 and +0 are equal. -/
def FVal.cmp (a b : FVal) : Int :=
  match a, b with
  | .nan _, _ => 0
  | _, .nan _ => 0
  | .inf s, .inf t => if s = t then 0 else if s then -1 else 1
  | .inf s, _ => if s then -1 else 1
  | _, .inf t => if t then 1 else -1
  | .fin s m e, .fin t n f =>
    let k := min e f
    let x : Int := (m * 2 ^ (e - k).toNat : Nat)
    let y : Int := (n * 2 ^ (f - k).toNat : Nat)
    let x := if s then -x else x
    let y := if t then -y else y
    if x < y then -1 else if y < x then 1 else 0

end Sys2Proof.Machine
end

