-- ==== Sys2Proof/Machine/Remote.lean ====
section
/-!
DEFINITION. Machine/Remote.lean: requests to peer devices as they leave (R217, R296 to R298), and the trap of a memory
instruction's faulting lanes (R158, R194, R195).
-/

namespace Sys2Proof.Machine

/-- The peer device of a memory key, and none for a place of this device (R180). -/
def peerOf (key : Nat) : Option Nat :=
  let r := key / regionSize
  if 300 ≤ r && r < winRegion 0 then some (r - 300) else none

/-- A fabric header as this device sends it (R296). `vc` is the virtual channel of the traffic's class (R30, R295).
DESIGN CHOICE, log entry 54. -/
def State.header (s : State) (kind op vc ctx ticket key : Nat) (mask : BitVec 128) (tags : Nat) (tagged : Bool)
    (data : List Byte) : FabHdr :=
  { kind := BitVec.ofNat 8 kind,
    flags := BitVec.ofNat 8 (vc + (if tagged then 8 else 0) + (data.length + 63) / 64 * 16),
    dst := BitVec.ofNat 16 ((peerOf key).getD 0), src := BitVec.ofNat 16 s.deviceNumber, sctx := BitVec.ofNat 8 ctx,
    op := BitVec.ofNat 8 op, address := BitVec.ofNat 64 (key % regionSize), reqid := BitVec.ofNat 48 s.nextReq,
    sent := BitVec.ofNat 64 s.domainClock, ticket := BitVec.ofNat 32 ticket, tags := BitVec.ofNat 8 tags,
    check := BitVec.ofNat 32 (lineCheck data tags), mask := mask, zeros := 0 }

/-- The port between this device and another: that of the link to it, else the first link that is up. DESIGN CHOICE, log entry
94. -/
def State.portTo (s : State) (dev : Nat) : Option Nat :=
  let up := s.ports.filter fun (x : Nat × FabPort) => x.2.up
  match up.find? fun (x : Nat × FabPort) => x.2.peer == dev with
  | some x => some x.1
  | none => up.head?.map Prod.fst

/-- Send a packet to its destination: held back while its virtual channel of the port it leaves by is paused (R295). -/
def State.sendPacket (s : State) (h : FabHdr) (data : List Byte) : State :=
  match s.portTo h.dst.toNat with
  | none => s.send (.packet h data)
  | some n =>
    if (s.ports.find? n).any fun p => p.paused.contains (h.flags.toNat % 4) then
      { s with ports := s.ports.modify n fun p => { p with waiting := p.waiting ++ [(h, data)] } }
    else s.send (.packet h data)

/-- Send a request: it stays outstanding until it is answered; while synchronisation is lost it is held (R298). -/
def State.sendRemote (s : State) (h : FabHdr) (data : List Byte) (team : TeamId) (lane pid : Nat) (form : LoadForm)
    (ea : Dword) (engine : Option Nat) (shares : List Share := []) : State :=
  let r : Remote :=
    { id := s.nextReq, hdr := h, data := data, team := team, lane := lane, pendingId := pid, form := form, ea := ea,
      sent := s.domainClock, again := false, held := s.syncLost, moved := false, got := none, engine := engine, shares := shares,
      stale := [] }
  let s := { s with remotes := s.remotes ++ [r], nextReq := s.nextReq + 1 }
  if s.syncLost then s else s.sendPacket h data

/-- The bytes of a line with some of them placed, and their mask. -/
def lineImage (key : Nat) (bs : List Byte) : List Byte × BitVec 128 :=
  ((List.range 128).map fun i => if key % 128 ≤ i then bs.getD (i - key % 128) 0 else 0,
    BitVec.ofNat 128 ((2 ^ bs.length - 1) * 2 ^ (key % 128)))

/-- The bytes of a line that shares name. -/
def shareMask (shares : List Share) : BitVec 128 :=
  shares.foldl (fun m x => m ||| BitVec.ofNat 128 ((2 ^ x.len - 1) * 2 ^ x.off)) 0
/-- The lowest byte of a line in a mask. -/
def lowByte (m : BitVec 128) : Nat := ((List.range 128).find? fun i => m.getLsbD i).getD 0

/-- The virtual address of a share's first byte: the lane's, or the start of the next line. -/
def Share.va (x : Share) : Dword :=
  if x.off = x.ea.toNat % 128 then x.ea else BitVec.ofNat 64 (x.ea.toNat / 128 * 128 + 128)

/-- The line of a peer that a request names. -/
def Remote.line (r : Remote) : Nat := (r.hdr.address.toNat + regionSize * (300 + r.hdr.dst.toNat)) / 128

/-- The caches that could keep the answer to a request: the L1 of its team's core and its cluster's. -/
def State.takers (s : State) (r : Remote) : List Nat :=
  (s.gang? r.team.ticket).elim [] fun g => [100 + g.coreOf r.team.gx r.team.gy, clusterOf (g.coreOf r.team.gx r.team.gy)]

/-- The copies on which `p` holds have just gone, and answers still on their way will not be kept in their places: they could be
older than what those caches owe from now on (R203, R207, R210). -/
def State.bar (s : State) (p : Nat → Bool) : State :=
  match s.remotes with
  | [] => s
  | rs => { s with remotes := rs.map fun (r : Remote) =>
      if r.got.isSome then r
      else { r with stale := r.stale ++ (s.takers r).filter fun h => p (copyKey h r.line) } }

/-- A cluster's copies of a line, those it has and those on their way. -/
def ofCluster (cl line k : Nat) : Bool := copyLine k == line && copyCluster k == cl

/-- A cluster's copies of a peer's line go before a write of its own leaves for the home. -/
def State.passPeer (s : State) (cl line : Nat) : State := (s.settleLine cl line).bar (ofCluster cl line)

/-- Ask a peer for one line on behalf of the lanes that share it (R193, R202). DESIGN CHOICE, log entry 55. -/
def State.readPeer (s : State) (w : Who) (team : TeamId) (pid line : Nat) (shares : List Share) : State :=
  let m := shareMask shares
  let x := shares.headD ⟨0, 0, 0, 0, .nothing⟩
  s.sendRemote (s.header 0 0 1 w.ctx w.ticket (line * 128 + lowByte m) m 0 false []) [] team x.lane pid x.form x.va none shares

/-- Send a peer one line's share of a store (R193, R428). -/
def State.writePeer (s : State) (w : Who) (team : TeamId) (pid line : Nat) (c : Copy) (shares : List Share) : State :=
  let x := shares.headD ⟨0, 0, 0, 0, .nothing⟩
  let data := (List.range 128).map fun i => if c.dirty.getLsbD i then ((c.data >>> (8 * i)).setWidth 8 : Byte) else 0
  s.sendRemote (s.header 1 0 1 w.ctx w.ticket (line * 128 + lowByte c.dirty) c.dirty (c.tags &&& granBits c.dirty).toNat true data)
    data team x.lane pid .nothing x.va none shares

/-- The answer to a request for one line piece, if the requester has asked for it: the request and what arrived. -/
def State.asked (s : State) (team : TeamId) (engine : Option Nat) (key n : Nat) : Option Remote :=
  s.remotes.find? fun r => r.team == team && r.engine == engine && r.form == .gather &&
    r.hdr.dst.toNat == (peerOf key).getD 0 && r.hdr.address.toNat == key % regionSize &&
    r.hdr.mask == (lineImage key (List.replicate n 0)).2

/-- Ask peers for line pieces (R202, R217): every piece not yet asked for is asked for; once all have arrived the answers are taken as
they came, each a line with its tags or the cause of a failure. None while some are outstanding. -/
def State.gatherRaw (s : State) (w : Who) (team : TeamId) (engine : Option Nat) (vc : Nat) (pieces : List (Nat × Nat)) :
    Option (List ((Nat × Nat) × List Byte)) × State :=
  let asks := pieces.filter fun p => (s.asked team engine p.1 p.2).isNone
  if !asks.isEmpty then
    (none, asks.foldl (fun s p =>
      s.sendRemote (s.header 0 0 vc w.ctx w.ticket p.1 (lineImage p.1 (List.replicate p.2 0)).2 0 false []) [] team 0 0
        .gather (BitVec.ofNat 64 (p.1 % regionSize)) engine) s)
  else
    let rs := pieces.map fun p => (p, s.asked team engine p.1 p.2)
    let got := rs.map fun r => (r.1, (r.2.bind fun x => x.got).getD [])
    if got.any fun g => g.2.isEmpty then (none, s)
    else
      let ids := rs.filterMap fun r => r.2.map Remote.id
      (some got, { s with remotes := s.remotes.filter fun r => !ids.contains r.id })

/-- Collect peer bytes piece by piece, with the tags of each line. None while some are outstanding; an error is a failure's cause and
the key of its piece. -/
def State.gather (s : State) (w : Who) (team : TeamId) (engine : Option Nat) (vc : Nat) (pieces : List (Nat × Nat)) :
    Except (Nat × Nat) (Option (List Byte × List Nat)) × State :=
  match s.gatherRaw w team engine vc pieces with
  | (none, s') => (.ok none, s')
  | (some got, s') =>
    match got.find? fun g => g.2.length == 1 with
    | some g => (.error ((g.2.headD 0).toNat, g.1.1), s')
    | none =>
      (.ok (some (got.flatMap (fun g => (g.2.drop (g.1.1 % 128)).take g.1.2),
        got.map fun g => (g.2.getD 128 0).toNat)), s')

/-- Read parts in address order, those at peers from what has come of them: a failure with the key of the part it was met in. -/
def State.readEach (w : Who) : List Part → List Byte → List Nat → State → Except (Nat × Nat) (List Byte × List Nat) × State
  | [], _, _, s => (.ok ([], []), s)
  | p :: ps, fb, ft, s =>
    let k := (linePieces p.key p.len).length
    let far := (peerOf p.key).isSome
    let one : Except (Nat × Nat) (List Byte × List Nat) × State :=
      if far then (.ok (fb.take p.len, ft.take k), s)
      else match s.readRun w p.key p.len with
        | (.ok x, s') => (.ok x, s')
        | (.error e, s') => (.error (e, p.key), s')
    match one with
    | (.error e, s') => (.error e, s')
    | (.ok (b, t), s') =>
      match State.readEach w ps (if far then fb.drop p.len else fb) (if far then ft.drop k else ft) s' with
      | (.error e, s'') => (.error e, s'')
      | (.ok (bs, ts), s'') => (.ok (b ++ bs, t ++ ts), s'')

/-- Read all parts of a footprint, wherever they stand: none while a peer's answer is awaited. -/
def State.readAll (s : State) (w : Who) (team : TeamId) (ps : List Part) :
    Except (Nat × Nat) (Option (List Byte × List Nat)) × State :=
  let far := (ps.flatMap fun p => linePieces p.key p.len).filter fun p => (peerOf p.1).isSome
  let got : Except (Nat × Nat) (Option (List Byte × List Nat)) × State :=
    if far.isEmpty then (.ok (some ([], [])), s) else s.gather w team none 1 far
  match got with
  | (.error e, s') => (.error e, s')
  | (.ok none, s') => (.ok none, s')
  | (.ok (some (bs, ts)), s') =>
    match State.readEach w ps bs ts s' with
    | (.ok x, s'') => (.ok (some x), s'')
    | (.error e, s'') => (.error e, s'')

/-- Where a footprint at `ea` is as it enters the part that holds `key`: `ea` itself for the first part. -/
def partAddress (ea : Nat) : List Part → Nat → Nat
  | [], _ => ea
  | p :: ps, key => if p.key ≤ key && key < p.key + p.len then ea else partAddress (ea + p.len) ps key

/-- A name no outstanding instruction has, for requests of the matrix engine and of PREF. -/
def noPending : Nat := 2 ^ 70

/-! ## Traps of memory instructions -/

/-- The unique pages among unmapped-page faults, the other unmapped pages `more` of their lanes, and those already mapped for
this replay (R195). -/
def unmappedPages (faults : List LaneFault) (more held : List Nat) : List Nat :=
  ((faults.filter fun f => f.cause == cPage && !f.malformed).map fun f => f.ea.toNat / 65536).foldl
    (fun acc p => if acc.contains p then acc else p :: acc) (more.foldl (fun acc p => if acc.contains p then acc else p :: acc) held)

/-- True when an instruction's unmapped pages outnumber QUOTA, so that it could never complete (R195). -/
def State.overQuota (s : State) (t : Team) (faults : List LaneFault) (more : List Nat) : Bool :=
  (faults.any fun f => f.cause == cPage && !f.malformed) &&
    (s.ctx? t.ctx).elim 0 Ctx.quota < (unmappedPages faults more t.replayPages).length

/-- The local lines that the firewall refused to an access, by its faults. -/
def State.refusedLines (s : State) (w : Who) (faults : List LaneFault) : List Nat :=
  (faults.filterMap fun f =>
    if f.cause != cFirewall then none
    else match (s.ctx? w.ctx).map fun c => s.lookup w c f.ea.toNat with
      | some (.ok (e, _)) => if pteLoc e = 0 then some ((frameKey 0 0 (pteFrame e) + f.ea.toNat % 65536) / 128) else none
      | _ => none).dedup

/-- A NOTICE of a firewall refusal, to the context that owns each line's frame (R300). -/
def State.refuseLines (s : State) (lines : List Nat) : State := lines.foldl (fun s line => s.notice line cFirewall 0 0) s

/-- Accesses that the firewall refused write a NOTICE to the context that owns the frame (R300). -/
def State.refusals (s : State) (w : Who) (faults : List LaneFault) : State := s.refuseLines (s.refusedLines w faults)

/-- The same for a team: a speculative one owes the notices until its trap is raised (R259, R261). -/
def State.refuseTeam (s : State) (i : TeamId) (lines : List Nat) : State :=
  match s.team? i with
  | none => s
  | some t => if (s.specOf t).isSome then s.modTeam i fun u => { u with owedNotes := u.owedNotes ++ lines } else s.refuseLines lines

/-- One trap for the faulting lanes of a memory instruction (R158, R159, R194). An instruction whose unmapped pages
outnumber QUOTA raises NOFRAME at its first fault, with OVERQUOTA in the event record (R195). Nothing is left to do for a team
whose speculation has been discarded meanwhile (R259). -/
def faultTrap (i : Instr) (uniform : Bool) (faults : List LaneFault) (s : State) (pages : List Nat := []) : State :=
  let c := if uniform then Cause.uniform (faults.headD ⟨0, 0, 0, false, false, 0⟩) (insnOf i)
    else Cause.lanes faults (insnOf i)
  let s := s.refuseTeam s.team.id (s.refusedLines s.who faults)
  if s.overQuota s.team faults pages then takeTrap { c with code := cNoframe } 16 s
  else takeTrap c 0 s

/-- The end of a long-latency memory instruction (R72, R75, R158): its results outstanding, or, with faulting lanes, the
trap, once every lane sent to a peer has settled. -/
def endMemory (i : Instr) (la : Nat) (uniform : Bool) (dests : List Dest) (waits : List Nat) (faults : List LaneFault)
    (s : State) (pages : List Nat := []) (far : List (Nat × LaneFault) := []) : State :=
  let insn := insnOf i
  if faults.isEmpty then s.setTeam fun t => t.launchPending la dests 0 waits insn uniform far
  else
    let pid := s.team.freshId
    let p : Pending := ⟨pid, 0, dests, 0, waits, if waits.isEmpty then [] else faults, s.team.pc, BitVec.ofNat 32 insn,
      1 + s.team.latch.words, uniform, false, [], [], s.team.written uniform, pages⟩
    let s := s.setTeam fun t => { t with pending := t.pending ++ [p] }
    if waits.isEmpty then faultTrap i uniform faults s pages
    else ((s.refuseTeam s.team.id (s.refusedLines s.who faults)).setTeam fun t =>
      { t.closeWindows with run := .trapping, latch := Latch.empty }).hurry s.team.id

end Sys2Proof.Machine
end

