-- ==== Sys2Proof/Machine/Merge.lean ====
section
/-!
DEFINITION. Machine/Merge.lean: what an atomic does at its point of atomicity (R212 to R214), the requests held in router
merge buffers (R215, R216), and a result that reaches an outstanding instruction.
-/

namespace Sys2Proof.Machine

/-- The floating operations of atomics: nearest-even, subnormals kept, MODE not read (R214). Of fmin and fmax with exactly one NaN
operand the result is the other operand, as R113, R213 and R214 say where R131 has the canonical NaN. DESIGN CHOICE, log entry
76. -/
def atomFloat (op : AtomOp) (n : Nat) (old v : Nat) : Nat :=
  let F := if n = 8 then fmtF64 else fmtF32
  let c : FCtl := ⟨0, false, false⟩
  let x := F.unpack false old
  let y := F.unpack false v
  if op = .fadd then (F.sum c [x, y]).1
  else
    let neg (z : FVal) : Bool := match z with | .inf s => s | .fin s _ _ => s | .nan _ => false
    if x.isNan && y.isNan then F.nanBits
    else if x.isNan then v
    else if y.isNan then old
    else
      let k := x.cmp y
      let below := k < 0 || (k == 0 && neg x && !neg y)
      if below == (op == .fmax) then v else old

/-- The new value of an atomic operation on `n` bytes (R213). -/
def atomNew (op : AtomOp) (n : Nat) (old v : Nat) : Nat :=
  let w := 8 * n
  let sgn (x : Nat) : Int := signOf w x
  match op with
  | .add => (old + v) % 2 ^ w
  | .and => old &&& v
  | .or => old ||| v
  | .xor => old ^^^ v
  | .minS => if sgn v < sgn old then v else old
  | .maxS => if sgn old < sgn v then v else old
  | .minU => min old v
  | .maxU => max old v
  | .xchg => v
  | .fadd | .fmin | .fmax => atomFloat op n old v

/-- The line at a point of atomicity is verified first (R275, R276): the state after, with the NOTICE of a failed check, and the
cause that stops the access. -/
def State.verifyHome (s : State) (line : Nat) : State × Option Nat :=
  if s.checkBad line then (s.failNotice line, some cCheck)
  else if s.poisoned line then (s, some cPoison)
  else (s, none)

/-- A read-modify-write of `n` bytes at its point of atomicity (R212): every cluster copy of the issuing cluster goes home
first, and on a shared-coherent page every copy of any cluster (R222). `f` gives the value to write, or none to write
nothing. The old value, or the cause that stopped it. It is an eligible event of the injector for the context `ctx` it is
made for (R283). -/
def State.atHome (s : State) (cluster key n : Nat) (coh : Bool) (f : Nat → Option Nat) (ctx : Option Nat := none) :
    Except Nat Nat × State :=
  let line := key / 128
  let s := match ctx with
    | some c => s.injectRead c line
    | none => s
  let s := if coh then s.evictAll fun k => copyLine k == line else s.settleLine cluster line
  match s.verifyHome line with
  | (s, some e) => (.error e, s)
  | (s, none) =>
    let old := natOfBytes (s.readBytes key n)
    match f old with
    | some x =>
      (.ok old, if coh then s.cohWrite line (Copy.empty.write (key % 128) (bytesOfNat n x) false)
        else s.homeWrite key (bytesOfNat n x))
    | none => (.ok old, s)

/-! ## Results that arrive late -/

/-- Put a value into lane `l` of the destinations of outstanding instruction `k`: `f` per destination, counted from the
lowest register. -/
def Pending.fill (p : Pending) (l : Nat) (x : Nat) (tag : Bool) : Pending :=
  let set {α : Type} (vs : List (Option α)) (y : α) : List (Option α) :=
    (List.range vs.length).map fun i => if i = l then some y else vs.getD i none
  { p with dests := ((List.range p.dests.length).zip p.dests).map fun (k, d) =>
      match d with
      | .v r vs => .v r (set vs (BitVec.ofNat 32 (x / 4294967296 ^ k)))
      | .q r vs => .q r (set vs ⟨tag, BitVec.ofNat 128 x⟩)
      | .s r _ => .s r (some (BitVec.ofNat 64 x))
      | .c r _ => .c r (some ⟨tag, BitVec.ofNat 128 x⟩) }

/-- A team that waited for a register becomes ready: it goes behind those ready before it (R56, R245). -/
def State.unstall (s : State) (i : TeamId) : State :=
  match s.others.find? fun t => t.id == i && t.stalled with
  | some t => { s with others := (s.others.filter fun u => u.id != i) ++ [{ t with stalled := false }] }
  | none => s.modTeam i fun t => { t with stalled := false }

/-- Settle one awaited request of an outstanding instruction: a value for its lane, or a fault. When the last one settles
and some lane has faulted, the trap is due (R75, R217). -/
def State.settle (s : State) (team : TeamId) (pid req : Nat) (f : Pending → Pending) : State :=
  let s := s.modTeam team fun t =>
    { t with pending := t.pending.map fun p =>
        if p.id = pid then f { p with waits := p.waits.filter fun w => w != req } else p }
  let s := s.unstall team
  match s.team? team with
  | none => s
  | some t =>
    let trapping := t.run = .trapping && t.pending.all fun p => p.waits.isEmpty
    let faulted := t.pending.any fun p => p.waits.isEmpty && !p.faults.isEmpty
    if trapping || faulted then s.post (.trapEntry team) else s

/-! ## Router merge buffers (R215) -/

/-- The name under which a merged request is awaited: distinct from every fabric identifier. -/
def mergeReq (k : Nat) : Nat := 2 ^ 64 + k

/-- True of a held reduction whose line another agent holds: it is recalled first (R212, R223). -/
def State.mergeRecalls (s : State) (m : Merge) : Bool := m.coh && !(s.sharers.getD (m.key / 128) []).isEmpty

/-- Perform one held reduction at its home. A shared-coherent line that another agent holds is recalled first, and the reduction
stays held until the answer (R212, R223). -/
def State.performMerge (s : State) (m : Merge) : State :=
  if s.mergeRecalls m then s.cohWrite (m.key / 128) Copy.empty
  else
  let cluster := (s.gang? m.team.ticket).elim 0 fun g => clusterOf (g.coreOf m.team.gx m.team.gy)
  let s := { s with merges := s.merges.filter fun x => x.id != m.id }
  let r := s.atHome cluster m.key m.n m.coh (fun old => some (atomNew m.op m.n old m.operand.toNat)) (some m.ctx)
  match r with
  | (.ok _, s) => s.settle m.team m.pendingId (mergeReq m.id) id
  | (.error e, s) =>
    s.settle m.team m.pendingId (mergeReq m.id) fun p =>
      { p with faults := p.faults ++ [⟨m.lane, e, m.ea, true, false, 0⟩] }

/-- Two held reductions that a router may combine (R215). Combining integer ones changes no value (R216), so only
floating sums are ever combined here. -/
def mergeable (a b : Merge) : Bool :=
  a.key == b.key && a.n == b.n && a.op == b.op && a.ctx == b.ctx

/-- Perform held requests on which `p` holds, in an order chosen freely. Before one is performed it may instead be summed
with another floating addition bound for its place, by free choice (R216): any tree of sums can arise. A line that another agent
holds is recalled before anything is summed for it, so that a request is settled only once the home has performed it (R215). -/
def State.performMerges : Nat → State → (Merge → Bool) → State
  | 0, s, _ => s
  | fuel + 1, s, p =>
    let ms := s.merges.filter fun m => p m && !s.snooped (m.key / 128)
    match ms[Config.freeNat s.oracle (2 ^ 64) % ms.length]? with
    | none => s
    | some m =>
      let others := ms.filter fun b => b.id != m.id && m.op == .fadd && mergeable m b && !s.mergeRecalls b &&
        !s.poisoned (m.key / 128) && !s.checkBad (m.key / 128)
      match others[Config.freeNat s.oracle (2 ^ 64 + 1) % (others.length + 1)]? with
      | some b =>
        let both : Merge := { b with operand := BitVec.ofNat 64 (atomFloat .fadd b.n m.operand.toNat b.operand.toNat) }
        let left := s.merges.filter fun (x : Merge) => x.id != m.id
        let s : State := { s with merges := left.map fun (x : Merge) => if x.id = b.id then both else x }
        State.performMerges fuel (s.settle m.team m.pendingId (mergeReq m.id) id).tick p
      | none => State.performMerges fuel (s.performMerge m).tick p

/-- Perform every held request of a team. -/
def State.flushTeam (s : State) (i : TeamId) : State := State.performMerges s.merges.length s fun m => m.team == i

end Sys2Proof.Machine
end

