-- ==== Sys2Proof/Machine/LoadStore.lean ====
section
/-!
DEFINITION. Machine/LoadStore.lean: loads, stores, capability loads and stores, and PREF (R157 to R159, R165 to R167,
R174, R184, R193, R385 to R393, R410, R427 to R432).
-/

namespace Sys2Proof.Machine

/-! ## Addresses (R385) -/

/-- The scale of an index form: 1, or the access size. -/
def ixScale (ix : Index) (n : Nat) : Int := if ix = .scaled then n else 1

/-- The effective address of a lane: the cursor, and the index as a signed 32-bit value. -/
def Team.laneEa (t : Team) (a b : Nat) (ix : Index) (n l : Nat) : Int :=
  let cur : Int := (t.getK a l).cur
  if ix = .absent then cur
  else
    let x := match t.latch.imm with
      | some p => immS p
      | none => (t.vB b l).toInt
    cur + x * ixScale ix n

/-- The effective address of a uniform access: the index is a signed 64-bit value. -/
def Team.uniEa (t : Team) (a b : Nat) (ix : Index) (n : Nat) : Int :=
  let cur : Int := (t.getC a).cur
  if ix = .absent then cur else cur + (t.sB b).toInt * ixScale ix n

/-! ## Plans: what each lane may access -/

/-- One lane's access after all its checks. -/
structure Plan where
  lane : Nat
  ea : Int
  res : Except Stop (List Part)
  /-- The unmapped pages of a footprint that meets one (R195). -/
  unmapped : List Nat

def Plan.waits (p : Plan) : Bool := match p.res with | .error .wait => true | _ => false
def Plan.fault? (p : Plan) : Option LaneFault := match p.res with | .error (.fault f) => some f | _ => none
def Plan.parts (p : Plan) : List Part := match p.res with | .ok ps => ps | .error _ => []
/-- The FIFO bank an access reaches, if any (R184). An access that lies partly in one acts on it whole. DESIGN CHOICE, log entry
82. -/
def Plan.fifo? (p : Plan) : Option (Nat × Nat) := p.parts.findSome? fun q => q.fifo
/-- A plan turned into a fault of its lane. -/
def Plan.fail (p : Plan) (code : Nat) (write : Bool) : Plan :=
  { p with res := .error (.fault ⟨p.lane, code, BitVec.ofInt 64 p.ea, write, false, 0⟩) }

/-- The unmapped pages of a footprint (R195). -/
def State.unmapped (s : State) (w : Who) (ea : Int) (n : Nat) : List Nat :=
  match s.ctx? w.ctx with
  | none => []
  | some c => (pagePieces ea.toNat n).filterMap fun p =>
      if c.window ≤ p.1 ∧ p.1 < c.window + 16777216 then none
      else match s.lookup w c p.1 with
        | .error (_, false) => some (pageOf p.1)
        | _ => none

/-- The plan of one access: its checks, and what the quota rule counts where a page is not mapped. -/
def State.planOf (s : State) (w : Who) (l : Nat) (ea : Int) (n : Nat) (res : Except Stop (List Part)) : Plan :=
  ⟨l, ea, res, match res with
    | .error (.fault f) => if f.cause == cPage && !f.malformed then s.unmapped w ea n else []
    | _ => []⟩

/-- Check one access; only LD.128 and ST.128 may reach a FIFO bank (R184). -/
def State.plan (s : State) (w : Who) (l : Nat) (k : Cap) (ea : Int) (n need align : Nat) (a : Access) (fifoOk : Bool) :
    Plan :=
  let p := s.planOf w l ea n (s.resolve w l k ea n need align a)
  if !fifoOk && p.fifo?.isSome then p.fail cAccess a.writes else p

/-- True when some plan of a speculative team reaches memory outside the device's own (R257). -/
def leavesDevice (ps : List Plan) : Bool := ps.any fun p => p.parts.any fun q => q.loc != 0

/-- The pages a checked access walked, those of a fault and those it may reach (R258). -/
def Plan.walkedPages (p : Plan) : List Nat :=
  (p.fault?.elim [] fun f => [pageOf p.ea.toNat, pageOf f.ea.toNat]) ++
    (p.parts.filter fun q => q.key / regionSize < winRegion 0).map Part.page

/-- True of a held reduction of the issuing team at bytes that an access uses. -/
def State.meetsMerge (s : State) (ps : List Plan) (m : Merge) : Bool :=
  m.team == s.team.id && ps.any fun p => p.parts.any fun q => rangesMeet q.key q.len m.key m.n

/-- The team's own held reductions of the lines it is about to access are performed first (R203). -/
def State.flushLines (s : State) (ps : List Plan) : State :=
  match s.merges with
  | [] => s
  | ms => State.performMerges ms.length s (s.meetsMerge ps)

/-- True while one of them is still held, its line being recalled from another agent (R223). -/
def State.mergesMeet (s : State) (ps : List Plan) : Bool := s.merges.any (s.meetsMerge ps)

/-- True when an access reaches a line whose write waits for a snoop (R223). -/
def State.snoopHolds (s : State) (ps : List Plan) : Bool :=
  match s.snoops with
  | [] => false
  | _ => ps.any fun p => p.parts.any fun q => (linesOf q.key q.len).any s.snooped

/-- True while a request of the team to a peer on another virtual channel is out for bytes an access is about to use: a later
access would pass it (R203, R295). -/
def State.remoteHolds (s : State) (ps : List Plan) (vc : Nat) : Bool :=
  match s.remotes with
  | [] => false
  | rs => rs.any fun r => r.team == s.team.id && r.engine.isNone && r.got.isNone && r.hdr.flags.toNat % 8 != vc &&
      ps.any fun p => p.parts.any fun q => (peerOf q.key).any fun n => n == r.hdr.dst.toNat &&
        rangesMeet (q.key % regionSize) q.len (r.hdr.address.toNat / 128 * 128) 128

/-- The guards every memory instruction makes once its lanes are checked: a migrating page or a closing bank makes the
team try again, a speculative team parks, and the team's own earlier matrix transfers and reductions come first. -/
def withPlans (ps : List Plan) (write : Bool) (s : State) (body : State → Out) (vc : Nat := 1) : Out :=
  let s := s.noteWalk (s.specOf s.team) (ps.flatMap Plan.walkedPages)
  if ps.any Plan.waits || s.snoopHolds ps || s.remoteHolds ps vc then retry s
  else if s.speculative && leavesDevice ps then park s
  else if ps.any fun p => s.queueHolds p.parts write then waitQueue s
  else if (s.flushLines ps).mergesMeet ps then retry (s.flushLines ps)
  else body (s.flushLines ps)

/-! ## Reading -/

/-- What one lane's read gives: its bytes and whether its first granule is tagged, a fault at an address, or requests to wait
for. -/
inductive Got where
  | bytes (bs : List Byte) (tag : Bool)
  | fault (code : Nat) (ea : Dword)
  | sent (ids : List Nat)

/-- Bytes of this device that a lane needs beside a peer's: read at once, and kept with the peer's answers until all have
come. -/
def State.readBeside (s : State) (w : Who) (p : Plan) (pid : Nat) (form : LoadForm) (key n : Nat) : State :=
  (linePieces key n).foldl (fun (s : State) (q : Nat × Nat) =>
    let h := s.header 0 0 1 w.ctx w.ticket q.1 (lineImage q.1 (List.replicate q.2 0)).2 0 false []
    let (got, s) : List Byte × State := match s.readRun w q.1 q.2 true with
      | (.ok (bs, ts), s') => ((lineImage q.1 bs).1 ++ [BitVec.ofNat 8 (if regionTagged q.1 then ts.headD 0 else 0)], s')
      | (.error e, s') => ([BitVec.ofNat 8 e], s')
    let r : Remote :=
      { id := s.nextReq, hdr := h, data := [], team := s.team.id, lane := p.lane, pendingId := pid, form := form,
        ea := BitVec.ofInt 64 p.ea, sent := s.domainClock, again := false, held := false, moved := false, got := some got, engine := none,
        shares := [⟨p.lane, BitVec.ofInt 64 p.ea, q.1 % 128, q.2, form⟩], stale := [] }
    { s with remotes := s.remotes ++ [r], nextReq := s.nextReq + 1 }) s

/-- True when the agent reads every byte of a peer's part from copies it already holds (R179, R276). -/
def State.heldPart (s : State) (w : Who) (q : Part) : Bool :=
  (linePieces q.key q.len).all fun x => s.holds w.core w.cluster x.1 x.2
/-- True when a part must be asked for at a peer. -/
def State.asks (s : State) (w : Who) (q : Part) : Bool := (peerOf q.key).isSome && !s.heldPart w q

/-- Read the parts of a footprint that this device serves; the cause of a failure comes with the address of the part it was
met in (R193). -/
def State.readHere (s : State) (w : Who) (ea : Int) (ps : List Part) : Except (Nat × Dword) (List Byte × List Nat) × State :=
  (ps.foldl (fun (r : (Except (Nat × Dword) (List Byte × List Nat) × State) × Int) p =>
    match r.1 with
    | (.error _, _) => r
    | (.ok (bs, ts), s) =>
      match s.readRun w p.key p.len true with
      | (.error e, s') => ((.error (e, BitVec.ofInt 64 r.2), s'), r.2)
      | (.ok (b, t), s') => ((.ok (bs ++ b, ts ++ t), s'), r.2 + p.len)) ((.ok ([], []), s), ea)).1

/-- Read one plan's parts here, or the parts of this device beside those that `far` says a peer is asked for. -/
def State.readPlan (s : State) (w : Who) (far : Part → Bool) (p : Plan) (pid : Nat) (form : LoadForm) : Got × State :=
  let s := s.touch w .read p.parts
  if p.parts.any far then
    (.sent [], p.parts.foldl (fun s q => if far q then s else s.readBeside w p pid form q.key q.len) s)
  else
    match s.readHere w p.ea p.parts with
    | (.error (e, ea), s') => (.fault e ea, s')
    | (.ok (bs, ts), s') =>
      let off := (p.parts.headD Part.none).key % 128 / 16
      let tagged := match p.parts with
        | q :: _ => (BitVec.ofNat 8 (ts.headD 0)).getLsbD off && regionTagged q.key
        | [] => false
      (.bytes bs tagged, s')

/-- The shares of peer lines that a plan asks for. -/
def State.planShares (s : State) (w : Who) (form : LoadForm) (p : Plan) : List (Nat × Share) :=
  (p.parts.filter (s.asks w)).flatMap fun q => (linePieces q.key q.len).map fun x =>
    (x.1 / 128, ⟨p.lane, BitVec.ofInt 64 p.ea, x.1 % 128, x.2, form⟩)

/-- The pieces of lines that plans read on this device. -/
def State.nearPieces (s : State) (w : Who) (ps : List Plan) : List (Nat × Nat) :=
  ps.flatMap fun p => (p.parts.filter fun q => !s.asks w q).flatMap fun q => linePieces q.key q.len

/-- What reading every plan gives: one request for each line (R193), of which each lane takes its bytes, lane by lane in ascending
order for the lines here. DESIGN CHOICE, log entry 84. -/
def State.readPlans (s : State) (w : Who) (pid : Nat) (form : Nat → LoadForm) (ps : List Plan) : List (Nat × Got) × State :=
  let ok := ps.filter fun p => match p.res with | .ok _ => true | .error _ => false
  let shares := ok.flatMap fun p => s.planShares w (form p.lane) p
  let r := ok.foldl (fun (r : List (Nat × Got) × State) p =>
    let x := r.2.readPlan w (s.asks w) p pid (form p.lane)
    (r.1 ++ [(p.lane, x.1)], x.2)) ([], s.useLines w (s.nearPieces w ok))
  match shares with
  | [] => r
  | x :: _ =>
    let s' := (shares.map Prod.fst).dedup.foldl (fun (s : State) line =>
      s.readPeer w s.team.id pid line ((shares.filter fun y => y.1 == line).map Prod.snd)) r.2
    (r.1 ++ [(x.2.lane, .sent ((List.range (s'.nextReq - s.nextReq)).map fun i => s.nextReq + i))], s')

/-- The faults a read met at memory, beside those its checks found, in lane order. -/
def readFaults (ps : List Plan) (gs : List (Nat × Got)) : List LaneFault :=
  ps.filterMap fun p =>
    match p.fault? with
    | some f => some f
    | none =>
      match gs.find? fun g => g.1 == p.lane with
      | some (_, .fault e ea) => some ⟨p.lane, e, ea, false, false, 0⟩
      | _ => none

/-- The reads of expander memory among a load's plans, as the faults they become if the expander is lost first (R280), each at the
page it would be met on (R193, R195). -/
def farReads (ps : List Plan) : List (Nat × LaneFault) :=
  ps.flatMap fun p => (p.parts.filter fun q => q.loc == 2).map fun q =>
    (ptePeer q.pte, ⟨p.lane, cExpLost,
      if q.page = pageOf p.ea.toNat then BitVec.ofInt 64 p.ea else BitVec.ofNat 64 (q.page * 65536), false, false, 0⟩)

/-- The unmapped pages among plans (R195). -/
def unmappedOf (ps : List Plan) : List Nat := ps.flatMap Plan.unmapped

/-- The requests a read waits for. -/
def readWaits (gs : List (Nat × Got)) : List Nat := gs.flatMap fun g => match g.2 with | .sent ids => ids | _ => []
/-- The bytes a lane got at once. -/
def gotBytes (gs : List (Nat × Got)) (l : Nat) : Option (List Byte × Bool) :=
  gs.findSome? fun g => if g.1 = l then (match g.2 with | .bytes bs t => some (bs, t) | _ => none) else none

/-- The bytes of a load as a lane value: zero- or sign-extended to 32 bits (R389). -/
def extendBytes (n : Nat) (signed : Bool) (bs : List Byte) : Nat :=
  if signed then (BitVec.ofInt 32 (signOf (8 * n) (natOfBytes bs))).toNat else natOfBytes bs

/-- Bytes of a load by their width (R389). -/
def ldBytes : LdW → Nat
  | .b8 | .s8 => 1
  | .b16 | .s16 => 2
  | .b32 => 4
  | .b64 => 8
  | .b128 => 16
def ldSigned : LdW → Bool
  | .s8 | .s16 => true
  | _ => false
def stBytes : StW → Nat
  | .b8 => 1
  | .b16 => 2
  | .b32 => 4
  | .b64 => 8
  | .b128 => 16

/-- The registers a load of `n` bytes writes, with each lane's words (R82). -/
def laneDests (w d n : Nat) (val : Nat → Option Nat) : List Dest :=
  (List.range ((n + 3) / 4)).map fun k =>
    Dest.v (d + k) ((List.range w).map fun l => (val l).map fun x => BitVec.ofNat 32 (x / 4294967296 ^ k))

/-! ## FIFO banks (R184) -/

/-- Entries of a FIFO bank. -/
def State.fifoOf (s : State) (fb : Nat × Nat) : List (BitVec 128) := ((s.core fb.1).banks.getD fb.2 Bank.reset).fifo
def State.setFifo (s : State) (fb : Nat × Nat) (q : List (BitVec 128)) : State :=
  let c := s.core fb.1
  { s with cores := s.cores.insert fb.1 { c with banks :=
      ((List.range c.banks.length).zip c.banks).map fun (i, b) => if i = fb.2 then { b with fifo := q } else b } }

/-- True when every bank the plans reach holds (or has room for) all their entries. -/
def State.fifoReady (s : State) (ps : List Plan) (push : Bool) : Bool :=
  (ps.filterMap Plan.fifo?).all fun fb =>
    let k := (ps.filter fun p => p.fifo? == some fb).length
    if push then (s.fifoOf fb).length + k ≤ 8192 else k ≤ (s.fifoOf fb).length

/-- Pop one entry for each FIFO lane, in ascending lane order. -/
def State.fifoPop (s : State) (ps : List Plan) : List (Nat × Got) × State :=
  ps.foldl (fun r p =>
    match p.fifo? with
    | none => r
    | some fb =>
      match r.2.fifoOf fb with
      | [] => r
      | e :: q => (r.1 ++ [(p.lane, Got.bytes (bytesOfNat 16 e.toNat) false)], r.2.setFifo fb q)) ([], s)

/-! ## Loads -/

/-- LD (R389). -/
def execLd (w : LdW) (d a b : Nat) (ix : Index) (la : Nat) (s : State) : Out :=
  issue (.ld w d a b ix la) s fun s =>
    let t := s.team
    let who := s.who
    let n := ldBytes w
    let lanes := (List.range t.width).filter t.selected
    let ps := lanes.map fun l => s.plan who l (t.getK a l) (t.laneEa a b ix n l) n permLoad 1 .read (w == .b128)
    withPlans ps false s fun s =>
      if !s.fifoReady ps false then retry s
      else
        let form := LoadForm.lane n (ldSigned w)
        let fifo := s.fifoPop ps
        let r := fifo.2.readPlans who t.freshId (fun _ => form) (ps.filter fun p => p.fifo?.isNone)
        let gs := fifo.1 ++ r.1
        let dests := laneDests t.width d n fun l => (gotBytes gs l).map fun x => extendBytes n (ldSigned w) x.1
        .next (endMemory (.ld w d a b ix la) la false dests (readWaits gs) (readFaults ps gs) r.2 (unmappedOf ps) (farReads ps))

/-- The capability a capability load gives (R391): untagged without LOADCAP, and through the revocation filter. -/
def State.loadedCap (s : State) (keep : Bool) (bs : List Byte) (tag : Bool) : Cap :=
  s.filterCap s.team.ctx ⟨tag && keep, BitVec.ofNat 128 (natOfBytes bs)⟩

/-- LDC (R391). -/
def execLdc (d a b : Nat) (ix : Index) (la : Nat) (s : State) : Out :=
  issue (.ldc d a b ix la) s fun s =>
    let t := s.team
    let who := s.who
    let lanes := (List.range t.width).filter t.selected
    let ps := lanes.map fun l => s.plan who l (t.getK a l) (t.laneEa a b ix 16 l) 16 permLoad 16 .read false
    withPlans ps false s fun s =>
      let r := s.readPlans who t.freshId (fun l => .capLane ((t.getK a l).has permLoadCap)) ps
      let vals := (List.range t.width).map fun l =>
        (gotBytes r.1 l).map fun x => r.2.loadedCap ((t.getK a l).has permLoadCap) x.1 x.2
      .next (endMemory (.ldc d a b ix la) la false [.q (d - 16) vals] (readWaits r.1) (readFaults ps r.1) r.2 (unmappedOf ps)
        (farReads ps))

/-- A uniform load of `n` bytes (R393): `dest` makes its destination from what arrived. -/
def uniformLoad (i : Instr) (a b : Nat) (ix : Index) (la n align : Nat) (form : Team → LoadForm)
    (dest : Team → State → Option (List Byte × Bool) → Dest) (s : State) : Out :=
  issue i s fun s =>
    let t := s.team
    let who := s.who
    let p := s.plan who 0 (t.getC a) (t.uniEa a b ix n) n permLoad align .read false
    withPlans [p] false s fun s =>
      let r := s.readPlans who t.freshId (fun _ => form t) [p]
      .next (endMemory i la true [dest t r.2 (gotBytes r.1 0)] (readWaits r.1) (readFaults [p] r.1) r.2
        (unmappedOf [p]) (farReads [p]))

/-- LDU (R393): the 32-bit form zero-extends. -/
def execLdu (wide : Bool) (d a b : Nat) (ix : Index) (la : Nat) (s : State) : Out :=
  let n := if wide then 8 else 4
  uniformLoad (.ldu wide d a b ix la) a b ix la n 1 (fun _ => .uniform n)
    (fun _ _ g => .s d (g.map fun x => BitVec.ofNat 64 (natOfBytes x.1))) s

/-- LDCU (R392). -/
def execLdcu (d a b : Nat) (ix : Index) (la : Nat) (s : State) : Out :=
  uniformLoad (.ldcu d a b ix la) a b ix la 16 16 (fun t => .capUniform ((t.getC a).has permLoadCap))
    (fun t s g => .c d (g.map fun x => s.loadedCap ((t.getC a).has permLoadCap) x.1 x.2)) s

/-! ## Stores -/

/-- The line writes of every plan that passed, in ascending lane order, a later lane over an earlier one (R193, R428). -/
def lineWrites (val : Nat → List Byte × Bool) (ps : List Plan) : List LineWrite :=
  ps.foldl (fun ws p => addParts (val p.lane).2 p.parts (val p.lane).1 ws) []

/-- The lanes that write to a line, each with its bytes. -/
def lineShares (ps : List Plan) (line : Nat) : List Share :=
  ps.flatMap fun p => p.parts.flatMap fun q => ((linePieces q.key q.len).filter fun x => x.1 / 128 == line).map fun x =>
    ⟨p.lane, BitVec.ofInt 64 p.ea, x.1 % 128, x.2, .nothing⟩

/-- Write every plan that passed, one request per line (R193): a peer's line is sent, and copies of it are dropped. The requests
it waits for. DESIGN CHOICE, log entry 84. -/
def State.writePlans (s : State) (w : Who) (pid : Nat) (val : Nat → List Byte × Bool) (ps : List Plan) : State × List Nat :=
  let s := ps.foldl (fun s p => s.touch w .write p.parts) s
  let ws := lineWrites val ps
  let s := s.writeLines w (ws.filter fun x => (peerOf (x.line * 128)).isNone)
  let s' := (ws.filter fun x => (peerOf (x.line * 128)).isSome).foldl (fun (s : State) x =>
    (s.passPeer w.cluster x.line).writePeer w s.team.id pid x.line x.copy (lineShares ps x.line)) s
  (s', (List.range (s'.nextReq - s.nextReq)).map fun i => s.nextReq + i)

/-- The end of a store (R158, R259): nothing is left to do for a team whose speculation its own stores have discarded. -/
def endStore (i : Instr) (la : Nat) (uniform : Bool) (w : Who) (ps : List Plan) (r : State × List Nat) : State :=
  if r.1.lapsed w.spec then r.1 else endMemory i la uniform [] r.2 (ps.filterMap Plan.fault?) r.1 (unmappedOf ps)

/-- The bytes a lane stores: `n` bytes of the registers from D on (R427). -/
def Team.storeBytes (t : Team) (d n l : Nat) : List Byte :=
  (List.range n).map fun i => ((t.getV (d + i / 4) l) >>> (8 * (i % 4))).setWidth 8

/-- Push one entry for each FIFO lane, in ascending lane order. -/
def State.fifoPush (s : State) (val : Nat → List Byte) (ps : List Plan) : State :=
  ps.foldl (fun s p =>
    match p.fifo? with
    | none => s
    | some fb => s.setFifo fb (s.fifoOf fb ++ [BitVec.ofNat 128 (natOfBytes (val p.lane))])) s

/-- ST (R427). -/
def execSt (w : StW) (d a b : Nat) (ix : Index) (la : Nat) (s : State) : Out :=
  issue (.st w d a b ix la) s fun s =>
    let t := s.team
    let who := s.who
    let n := stBytes w
    let lanes := (List.range t.width).filter t.selected
    let ps := lanes.map fun l => s.plan who l (t.getK a l) (t.laneEa a b ix n l) n permStore 1 .write (w == .b128)
    withPlans ps true s fun s =>
      if !s.fifoReady ps true then retry s
      else
        let s := s.fifoPush (t.storeBytes d n) ps
        let r := s.writePlans who t.freshId (fun l => (t.storeBytes d n l, false)) (ps.filter fun p => p.fifo?.isNone)
        .next (endStore (.st w d a b ix la) la false who ps r)

/-- The value checks of a capability store (R167), after all others and for a tagged value only.
DEDUCED, log entry 41. -/
def storeCapCheck (k v : Cap) (p : Plan) : Plan :=
  match p.parts with
  | [] => p
  | q :: _ =>
    let window := winRegion 0 ≤ q.key / regionSize
    if !v.tag then (if q.fifo.isSome then p.fail cAccess true else p)
    else if !k.has permStoreCap then p.fail cCapPerm true
    else if !v.has permGlobal && !window then p.fail cCapPerm true
    else if !regionTagged q.key || q.fifo.isSome then p.fail cCapLocal true
    else if (peerOf q.key).isSome && !v.has permShare then p.fail cCapPerm true
    else p

/-- A capability as stored: through the revocation filter (R174). -/
def State.storedCap (s : State) (v : Cap) : List Byte × Bool :=
  let v := s.filterCap s.team.ctx v
  (bytesOfNat 16 v.bits.toNat, v.tag)

/-- STC (R430). -/
def execStc (d a b : Nat) (ix : Index) (la : Nat) (s : State) : Out :=
  issue (.stc d a b ix la) s fun s =>
    let t := s.team
    let who := s.who
    let lanes := (List.range t.width).filter t.selected
    let ps := lanes.map fun l => storeCapCheck (t.getK a l) (t.getQ (d - 16) l)
      (s.plan who l (t.getK a l) (t.laneEa a b ix 16 l) 16 permStore 16 .write true)
    withPlans ps true s fun s =>
      let r := s.writePlans who t.freshId (fun l => s.storedCap (t.getQ (d - 16) l)) ps
      .next (endStore (.stc d a b ix la) la false who ps r)

/-- STU (R432). -/
def execStu (wide : Bool) (d a b : Nat) (ix : Index) (la : Nat) (s : State) : Out :=
  issue (.stu wide d a b ix la) s fun s =>
    let t := s.team
    let who := s.who
    let n := if wide then 8 else 4
    let p := s.plan who 0 (t.getC a) (t.uniEa a b ix n) n permStore 1 .write false
    withPlans [p] true s fun s =>
      let r := s.writePlans who t.freshId (fun _ => (bytesOfNat n (t.getS d).toNat, false)) [p]
      .next (endStore (.stu wide d a b ix la) la true who [p] r)

/-- STCU (R431). -/
def execStcu (d a b : Nat) (ix : Index) (la : Nat) (s : State) : Out :=
  issue (.stcu d a b ix la) s fun s =>
    let t := s.team
    let who := s.who
    let p := storeCapCheck (t.getC a) (t.getC d)
      (s.plan who 0 (t.getC a) (t.uniEa a b ix 16) 16 permStore 16 .write true)
    withPlans [p] true s fun s =>
      let r := s.writePlans who t.freshId (fun _ => s.storedCap (t.getC d)) [p]
      .next (endStore (.stcu d a b ix la) la true who [p] r)

/-! ## PREF -/

/-- PREF of one line that some lane asks for (R410): it enters the core's L1 and the cluster cache, from here at once and from a peer
once that has answered. A poisoned line, and one whose write waits for a snoop (R222), is not fetched. -/
def State.prefLine (s : State) (w : Who) (x : Nat × Share) : State :=
  let line := x.1
  if s.poisoned line || s.checkBad line || s.snooped line || winRegion 0 ≤ line * 128 / regionSize then s
  else if s.holds w.core w.cluster (line * 128) 128 then s
  else if (peerOf (line * 128)).isSome then s.readPeer w s.team.id noPending line [x.2]
  else ((s.injectRead w.ctx line).loadLine w.core w.cluster (line * 128) 128).2

/-- The lines a PREF asks for, each once (R193), with the share of the lane that asks first. -/
def prefLines (ps : List Plan) : List (Nat × Share) :=
  ps.foldl (fun xs p => p.parts.foldl (fun xs q =>
    if xs.any fun x => x.1 == q.key / 128 then xs
    else xs ++ [(q.key / 128, ⟨p.lane, BitVec.ofInt 64 (p.ea / 128 * 128), 0, 128, .pref⟩)]) xs) []

/-- PREF (R410): a lane that passes brings its line into the core's L1 and the cluster cache; one that fails does nothing. In a
speculative team a PREF of local memory does nothing but walk (R258). -/
def execPref (a b : Nat) (indexed : Bool) (la : Nat) (s : State) : Out :=
  issue (.pref a b indexed la) s fun s =>
    let t := s.team
    let who := s.who
    let lanes := (List.range t.width).filter t.selected
    let ps := lanes.map fun l =>
      s.plan who l (t.getK a l) (t.laneEa a b (if indexed then .x1 else .absent) 1 l) 1 permLoad 1 .read true
    let s := s.noteWalk who.spec (ps.flatMap Plan.walkedPages)
    if s.speculative && leavesDevice ps then park s
    else
      let s := if s.speculative then s
        else (prefLines ps).foldl (fun s x => s.prefLine who x) (ps.foldl (fun s p => s.touch who .read p.parts) s)
      .next (s.setTeam Team.advance)

end Sys2Proof.Machine
end

