-- ==== Sys2Proof/Machine/Atomics.lean ====
section
/-!
DEFINITION. Machine/Atomics.lean: ATOM, CAS and RED (R212 to R217, R314, R315, R324, R411).
-/

namespace Sys2Proof.Machine

/-- The members of a list in an order chosen freely. DESIGN CHOICE, log entry 18. -/
def freeOrder {α : Type} (o : Nat) : Nat → List α → List α
  | 0, l => l
  | _ + 1, [] => []
  | _ + 1, [x] => [x]
  | fuel + 1, l =>
    let k := Config.freeNat o (2 ^ 65 + fuel) % l.length
    match l[k]? with
    | some x => x :: freeOrder o fuel (l.eraseIdx k)
    | none => l

/-- The checks of R213 and R315 on one access: the capability and the page first, then alignment and FIFO banks, then what
the place itself refuses. -/
def State.atomPlan (s : State) (w : Who) (l : Nat) (k : Cap) (ea : Int) (n need : Nat) (a : Access) : Plan :=
  let p := s.plan w l k ea n need 1 a false
  let place := match p.res with
    | .ok _ => true
    | .error (.fault f) => f.cause == cFirewall || f.cause == cViral || f.cause == cExpLost
    | .error .wait => false
  if place && ea.toNat % n != 0 then p.fail cAccess a.writes else p

/-- The key of an aligned access, which lies in one part. -/
def Plan.key (p : Plan) : Nat := (p.parts.headD Part.none).key
def Plan.coh (p : Plan) : Bool := p.parts.any Part.coh

/-- A request header of an atomic operation: OP holds the opcode's low four bits and SUB (R296). -/
def State.atomHeader (s : State) (w : Who) (kind op vc key n : Nat) (data : List Byte) : FabHdr :=
  s.header kind op vc w.ctx w.ticket key (lineImage key (List.replicate n 0)).2 0 false data

/-- Send one lane's atomic to a peer (R217): the name it is awaited under. -/
def State.sendAtom (s : State) (w : Who) (p : Plan) (pid kind op vc n : Nat) (data : List Byte) (form : LoadForm) :
    State × List Nat :=
  (((s.touch w .update p.parts).passPeer w.cluster (p.key / 128)).sendRemote (s.atomHeader w kind op vc p.key n data) data
    s.team.id p.lane pid form (BitVec.ofInt 64 p.ea) none, [s.nextReq])

/-- Lines that other agents hold are recalled: the state that waits for their answers, if there are any. -/
def State.recallLines (s : State) (ls : List Nat) : Option State :=
  if ls.isEmpty then none else some (ls.foldl (fun s line => s.cohWrite line Copy.empty) s)

/-- Lines of shared-coherent pages that other agents hold are recalled before an atomic reaches them (R222, R223). -/
def State.recall (s : State) (ps : List Plan) : Option State :=
  let ls := ((ps.filter Plan.coh).map fun p => p.key / 128).dedup.filter fun line => !(s.sharers.getD line []).isEmpty
  s.recallLines ls

/-- The shared form of ATOM, CAS and RED: check every lane, then perform the passing lanes one after another, in an order
chosen freely (R213). -/
def atomic (i : Instr) (n need : Nat) (acc : Access) (a b : Nat)
    (lane : Team → Who → Nat → Plan → State → Got × State) (la : Nat) (dest : Option Nat) (s : State) : Out :=
  issue i s fun s =>
    let t := s.team
    let who := s.who
    if s.speculative then park s
    else
      let ps := ((List.range t.width).filter t.selected).map fun l => s.atomPlan who l (t.getK a l) (t.laneEa a b .scaled n l) n need acc
      withPlans ps true s fun s =>
        match s.recall ps with
        | some s' => retry s'
        | none =>
          let go := freeOrder s.oracle ps.length (ps.filter fun p => p.fault?.isNone)
          let r := go.foldl (fun (r : List (Nat × Got) × State) p =>
            let x := lane t who t.freshId p r.2
            (r.1 ++ [(p.lane, x.1)], x.2)) ([], s.tick)
          let faults := (readFaults ps r.1).map fun f => { f with write := true }
          let ds := dest.elim [] fun d => laneDests t.width d n fun l => (gotBytes r.1 l).map fun x => natOfBytes x.1
          .next (endMemory i la false ds (readWaits r.1) faults r.2 (unmappedOf ps))

/-- One lane of ATOM or CAS: at its home here, or sent to the peer that holds it. -/
def atomLane (n op : Nat) (data : Nat → List Byte) (f : Nat → Nat → Option Nat) (w : Who) (pid : Nat) (p : Plan)
    (s : State) : Got × State :=
  if (peerOf p.key).isSome then
    let r := s.sendAtom w p pid 2 op 1 n (data p.lane) (.atom n)
    (.sent r.2, r.1)
  else
    match (s.touch w .update p.parts).atHome w.cluster p.key n p.coh (f p.lane) (some w.ctx) with
    | (.ok old, s') => (.bytes (bytesOfNat n old) false, s')
    | (.error e, s') => (.fault e (BitVec.ofInt 64 p.ea), s')

/-- Opcode row and SUB of an atomic operation (R213): the row within its block of four, and the position in the row. -/
def atomRow : AtomOp → Nat × Nat
  | .add => (0, 0) | .and => (0, 1) | .or => (0, 2) | .xor => (0, 3)
  | .minS => (1, 0) | .maxS => (1, 1) | .minU => (1, 2) | .maxU => (1, 3)
  | .xchg => (2, 0) | .fadd => (2, 1) | .fmin => (2, 2) | .fmax => (2, 3)

/-- The operation byte of the header: the opcode's low four bits, then SUB (R296). -/
def atomByte (base : Nat) (op : AtomOp) : Nat := (base + (atomRow op).1) * 16 + (atomRow op).2

/-- The value of a vector operand of `n` bytes in a lane. -/
def Team.vWide (t : Team) (n d l : Nat) : Nat := if n = 8 then (t.getV64 d l).toNat else (t.getV d l).toNat

/-- ATOM (R213, R314). -/
def execAtom (wide : Bool) (op : AtomOp) (d a b la : Nat) (s : State) : Out :=
  let n := if wide then 8 else 4
  atomic (.atom wide op d a b la) n (permAtomic + permLoad + permStore) .update a b
    (fun t => atomLane n (atomByte (if wide then 4 else 0) op) (fun l => bytesOfNat n (t.vWide n d l))
      fun l old => some (atomNew op n old (t.vWide n d l)))
    la (some d) s

/-- CAS (R213, R324): a comparison that fails writes nothing. -/
def execCas (wide : Bool) (d a b la : Nat) (s : State) : Out :=
  let n := if wide then 8 else 4
  let sw := d + two wide
  atomic (.cas wide d a b la) n (permAtomic + permLoad + permStore) .update a b
    (fun t => atomLane n (if wide then 0x70 else 0x30)
      (fun l => bytesOfNat n (t.vWide n d l) ++ bytesOfNat n (t.vWide n sw l))
      fun l old => if old = t.vWide n d l then some (t.vWide n sw l) else none)
    la (some d) s

/-- One lane of RED: into a router's merge buffer on its way to a home here or a window bank (R215), performed at once at
a host port or an expander, or sent to a peer. -/
def redLane (n op : Nat) (aop : AtomOp) (v : Nat → Nat) (w : Who) (pid : Nat) (p : Plan) (s : State) : Got × State :=
  if (peerOf p.key).isSome then
    let r := s.sendAtom w p pid 2 op 1 n (bytesOfNat n (v p.lane)) .nothing
    (.sent r.2, r.1)
  else
    let s := s.touch w .add p.parts
    if p.key / regionSize = 0 ∨ winRegion 0 ≤ p.key / regionSize then
      let m : Merge := { id := s.nextMerge, ctx := w.ctx, key := p.key, n := n, op := aop,
                         operand := BitVec.ofNat 64 (v p.lane), team := s.team.id, lane := p.lane, pendingId := pid,
                         ea := BitVec.ofInt 64 p.ea, coh := p.coh, since := s.timebase }
      (.sent [mergeReq m.id], { s with merges := s.merges ++ [m], nextMerge := s.nextMerge + 1 })
    else
      match s.atHome w.cluster p.key n p.coh (fun old => some (atomNew aop n old (v p.lane))) (some w.ctx) with
      | (.ok _, s') => (.bytes [] false, s')
      | (.error e, s') => (.fault e (BitVec.ofInt 64 p.ea), s')

/-- RED (R213, R411): nothing is returned. -/
def execRed (wide : Bool) (op : AtomOp) (d a b la : Nat) (s : State) : Out :=
  let n := if wide then 8 else 4
  atomic (.red wide op d a b la) n (permAtomic + permStore) .add a b
    (fun t => redLane n (atomByte (if wide then 12 else 8) op) op (t.vWide n d)) la none s

end Sys2Proof.Machine
end

