-- ==== Sys2Proof/Machine/CapOps.lean ====
section
/-!
DEFINITION. Machine/CapOps.lean: the capability instructions (R106, R162, R163, R372 to R382).
-/

namespace Sys2Proof.Machine

/-- A capability fault of a lane: page 0, no write (R372). -/
def capFault (l code : Nat) : LaneFault := ⟨l, code, 0, false, false, 0⟩

/-- A derivation in the lane class (R158, R372): every selected lane computes independently; lanes that pass write, and
one trap reports those that do not. -/
def deriveLanes (i : Instr) (d : Nat) (f : Team → Nat → Except Nat Cap) (s : State) : Out :=
  let t := s.team
  let res := t.width |> List.range |>.map fun l => if t.selected l then some (f t l) else none
  let t' := t.setQ (d - 16) fun l =>
    match res.getD l none with
    | some (.ok k) => some k
    | _ => none
  let faults := (List.range t.width).filterMap fun l =>
    match res.getD l none with
    | some (.error e) => some (capFault l e)
    | _ => none
  if faults.isEmpty then .next { s with team := t'.advance }
  else .next (takeTrap (.lanes faults (insnOf i)) 0 { s with team := t' })

/-- A derivation in the uniform class: one result, or one fault with an all-lanes mask (R159, R372). -/
def deriveUniform (i : Instr) (d : Nat) (f : Team → Except Nat Cap) (s : State) : Out :=
  match f s.team with
  | .ok k => .next { s with team := (s.team.setC d k).advance }
  | .error e => .next (takeTrap (.uniform (capFault 0 e) (insnOf i)) 0 s)

/-- A derivation from A and a 64-bit integer B: an s register or an IMM prefix, and in the lane class an even pair or a
UNI prefix (R372). -/
def deriveInt (i : Instr) (lane : Bool) (d a b : Nat) (f : Cap → Dword → Except Nat Cap) (s : State) : Out :=
  issue i s fun s =>
    if lane then deriveLanes i d (fun t l => f (t.getK a l) (t.vB64 b l)) s
    else deriveUniform i d (fun t => f (t.getC a) (t.sB b)) s

/-- A derivation under a capability authority B. -/
def deriveCap (i : Instr) (lane : Bool) (d a b : Nat) (f : Cap → Cap → Except Nat Cap) (s : State) : Out :=
  issue i s fun s =>
    if lane then deriveLanes i d (fun t l => f (t.getK a l) (t.getK b l)) s
    else deriveUniform i d (fun t => f (t.getC a) (t.getC b)) s

/-- KINC (R376). -/
def execKinc (lane : Bool) (d a b : Nat) (s : State) : Out :=
  deriveInt (.kinc lane d a b) lane d a b (fun k x => capMove k (k.cur + x.toInt)) s
/-- KINC_I (R376). -/
def execKincI (lane : Bool) (d a : Nat) (n : Int) (s : State) : Out :=
  deriveCap (.kincI lane d a n) lane d a a (fun k _ => capMove k (k.cur + n)) s
/-- KSET (R381). -/
def execKset (lane : Bool) (d a b : Nat) (s : State) : Out :=
  deriveInt (.kset lane d a b) lane d a b (fun k x => capMove k x.toNat) s
/-- KBND (R373). -/
def execKbnd (lane : Bool) (d a b : Nat) (s : State) : Out :=
  deriveInt (.kbnd lane d a b) lane d a b (fun k x => capBound k x.toNat) s
/-- KPRM (R379). -/
def execKprm (lane : Bool) (d a b : Nat) (s : State) : Out :=
  deriveInt (.kprm lane d a b) lane d a b (fun k x => capPerms k x.toNat) s
/-- KSEAL (R380). -/
def execKseal (lane : Bool) (d a b : Nat) (s : State) : Out := deriveCap (.kseal lane d a b) lane d a b capSeal s
/-- KOPEN (R378). -/
def execKopen (lane : Bool) (d a b : Nat) (s : State) : Out := deriveCap (.kopen lane d a b) lane d a b capOpen s

/-- KGET (R375). -/
def execKget (lane : Bool) (d a : Nat) (f : KField) (s : State) : Out :=
  issue (.kget lane d a f) s (done fun t =>
    if lane then t.setV64 d fun l => if t.selected l then some (BitVec.ofNat 64 (capGet (t.getK a l) f)) else none
    else t.setS d (BitVec.ofNat 64 (capGet (t.getC a) f)))

/-- KSUB (R382). -/
def execKsub (lane : Bool) (d a b : Nat) (s : State) : Out :=
  issue (.ksub lane d a b) s (done fun t =>
    if lane then t.setV64 d fun l =>
      if t.selected l then some (BitVec.ofInt 64 ((t.getK a l).cur - (t.getK b l).cur)) else none
    else t.setS d (BitVec.ofInt 64 ((t.getC a).cur - (t.getC b).cur)))

/-- KMOV (R377): tag included, sealed or not. -/
def execKmov (lane : Bool) (d a : Nat) (s : State) : Out :=
  issue (.kmov lane d a) s (done fun t =>
    if lane then t.setQ (d - 16) fun l => if t.selected l then some (t.getK a l) else none
    else t.setC d (t.getC a))

/-- KCLR (R374). -/
def execKclr (lane : Bool) (d : Nat) (s : State) : Out :=
  issue (.kclr lane d) s (done fun t =>
    if lane then t.setQ (d - 16) fun l => if t.selected l then some Cap.null else none else t.setC d Cap.null)

end Sys2Proof.Machine
end

