-- ==== Sys2Proof/Machine/OrderOps.lean ====
section
/-!
DEFINITION. Machine/OrderOps.lean: scopes (R206), what a release and an acquire do (R207), and FENCE, FLUSH, INVAL and
DRAIN (R209 to R211, R327, R338, R341, R365, R366).
-/

namespace Sys2Proof.Machine

/-! ## Scopes -/

/-- The clusters a gang's rectangle lies in (R17, R48). -/
def Gang.clusters (g : Gang) : List Nat :=
  ((List.range g.shape.h).flatMap fun y => (List.range g.shape.w).map fun x => clusterOf (g.coreOf x y)).dedup

/-- True when scope `c` of the issuing team agrees beyond its cluster's cache (R206). -/
def State.wideScope (s : State) (c : Scope) : Bool :=
  match c with
  | .team | .core | .cluster => false
  | .gang => (s.gang? s.team.id.ticket).elim false fun g => 1 < g.clusters.length
  | .device | .pool | .fabric => true

/-- True of a copy that stands between the issuing team and the agreement point of scope `c` (R206, R366): its core's L1, and at a
scope beyond its cluster the cluster's cache. -/
def State.below (s : State) (c : Scope) (k : Nat) : Bool :=
  match c with
  | .team | .core => false
  | _ => copyHolder k == 100 + s.who.core || (s.wideScope c && copyHolder k == s.who.cluster)

/-- The scopes at which a speculative team parks at FENCE (R257). -/
def poolOrFabric : Scope → Bool
  | .pool | .fabric => true
  | _ => false

/-- Requests of the issuing team that a peer has not answered, but for a PREF's. -/
def State.ownRemotes (s : State) : List Remote :=
  s.remotes.filter fun r => r.team == s.team.id && r.engine.isNone && r.got.isNone && r.form != .pref

/-- True when an outstanding request is a read (R296). -/
def Remote.isRead (r : Remote) : Bool := r.hdr.kind == 0

/-! ## Release and acquire -/

/-- True of the scopes with agents outside the device (R206). -/
def outsideScope : Scope → Bool
  | .pool | .fabric => true
  | _ => false

/-- True when a release at scope `c` must still wait: for a snoop it sent (R223), or at POOL and FABRIC scope for a peer, before
whose acknowledgement no later write leaves the device (R225). -/
def State.releaseWaits (s : State) (c : Scope) : Bool :=
  (s.wideScope c && !s.snoops.isEmpty) || (outsideScope c && s.ownRemotes.any fun r => !r.isRead)

/-- True when an acquire must still wait: an earlier read of the team, of an atomic or of a counter addition too, has not
returned. -/
def State.acquireWaits (s : State) : Bool := s.ownRemotes.any fun r => r.form != .nothing

/-- Release at scope `c` (R207): the team's held reductions are performed, and every dirty byte of the copies below the scope's
agreement point, the team's own and those it can have observed, goes on towards it. -/
def State.release (s : State) (c : Scope) : State :=
  let s := s.flushTeam s.team.id
  s.writeBackAll (s.below c)

/-- Acquire at scope `c` (R207): the copies below the scope's agreement point are discarded, dirty bytes written back first, and
answers still on their way to them are not kept there. -/
def State.acquire (s : State) (c : Scope) : State :=
  (s.evictAll (s.below c)).bar (s.below c)

/-- The waits every synchronising instruction makes: the team's queued matrix transfers first, then what `waits` names. -/
def synced (s : State) (waits : State → Bool) (body : State → Out) : Out :=
  if s.queueOwes then waitQueue s
  else if waits (s.flushTeam s.team.id) || (s.flushTeam s.team.id).merges.any (fun m => m.team == s.team.id) then
    retry (s.flushTeam s.team.id)
  else body (s.flushTeam s.team.id)

/-! ## FENCE and DRAIN -/

/-- What a fence of kind `k` waits for. -/
def State.fenceWaits (s : State) (c : Scope) (k : FenceKind) : Bool :=
  (k != .acquire && s.releaseWaits c) || (k != .release && s.acquireWaits)

/-- What a fence of kind `k` does. DESIGN CHOICE, log entry 17. -/
def State.fence (s : State) (c : Scope) (k : FenceKind) : State :=
  let s := if k = .acquire then s else s.release c
  if k = .release then s else s.acquire c

/-- FENCE (R207, R209, R338). -/
def execFence (c : Scope) (k : FenceKind) (la : Nat) (s : State) : Out :=
  issue (.fence c k la) s fun s =>
    if s.speculative && poolOrFabric c then park s
    else synced s (fun s => s.fenceWaits c k) fun s => .next ((s.fence c k).setTeam Team.advance)

/-- DRAIN (R211, R327). -/
def execDrain (la : Nat) (s : State) : Out :=
  issue (.drain la) s fun s =>
    if s.speculative then park s
    else synced s (fun s => !s.ownRemotes.isEmpty || !s.snoops.isEmpty) fun s =>
      .next ((s.release .fabric).setTeam Team.advance)

/-! ## FLUSH and INVAL -/

/-- The memory key behind a virtual address, whatever the page's rights: none where no page is mapped or the address is
of the window, whose lines have no copies (R210). Bank FIFOs are of the window too. -/
def State.lineKey (s : State) (c : Ctx) (va : Nat) : Option Nat :=
  if c.window ≤ va ∧ va < c.window + 16777216 then none
  else
    match s.lookup s.who c va with
    | .ok (e, _) => some (frameKey (pteLoc e) (ptePeer e) (pteFrame e) + va % 65536)
    | .error _ => none

/-- The pages that a TLB entry covers. -/
def TlbEntry.pages (e : TlbEntry) : List Nat :=
  ((List.range 16).filter fun i => e.mask.getLsbD i).map fun i => 16 * e.group + i

/-- The pages of the issuing team's context that some translation it may use maps. -/
def State.pages (s : State) (c : Ctx) : List Nat :=
  (c.ptes.map Prod.fst ++ (s.who.tlbs.flatMap fun n => (s.tlbs.getD n []).filter fun e => e.ctx == s.team.ctx).flatMap
    TlbEntry.pages).dedup

/-- True when line `line` holds a mapped byte of [lo, hi). -/
def State.lineWithin (s : State) (c : Ctx) (lo hi line : Nat) : Bool :=
  (s.pages c).any fun p =>
    match s.lineKey c (p * 65536) with
    | some k => rangesMeet (k + (max lo (p * 65536) - p * 65536)) (min hi ((p + 1) * 65536) - max lo (p * 65536))
        (line * 128) 128 && lo < (p + 1) * 65536 && p * 65536 < hi
    | none => false

/-- True when a page that overlaps [lo, hi) is migrating (R188). -/
def State.migratesWithin (s : State) (c : Ctx) (lo hi : Nat) : Bool :=
  (s.pages c).any fun p => lo < (p + 1) * 65536 && p * 65536 < hi &&
    (match s.lookup s.who c (p * 65536) with
     | .ok (e, _) => pteMig e
     | .error _ => false)

/-- The check of FLUSH and INVAL (R210, R341): LOAD or STORE over `n` bytes at the cursor. Only R157's own causes fault. -/
def State.lineCheck? (s : State) (k : Cap) (n : Nat) : Except Stop Unit :=
  match s.resolve s.who 0 k k.cur n (if k.has permLoad then permLoad else permStore) 1 .read with
  | .ok _ => .ok ()
  | .error .wait => .error .wait
  | .error (.fault f) => if f.cause ≤ cCapRevoked then .error (.fault { f with write := false }) else .ok ()

/-- Which of the cluster's copies a FLUSH or INVAL acts on, as a test on lines. -/
def State.named (s : State) (k : Cap) (sel : LineSel) : Nat → Bool :=
  match sel with
  | .held => fun _ => true
  | .cursor =>
    match (s.ctx? s.team.ctx).bind fun c => s.lineKey c k.cur with
    | some key => fun line => line == key / 128
    | none => fun _ => false
  | .bounds =>
    match s.ctx? s.team.ctx, capDecode k with
    | some c, some (lo, hi) => fun line => s.lineWithin c lo hi line
    | _, _ => fun _ => false

/-- FLUSH and INVAL share their checks and waits; `act` is done to the named copies below the scope's
agreement point. -/
def lineOp (i : Instr) (c : Scope) (a : Nat) (sel : LineSel) (act : State → (Nat → Bool) → State) (s : State) : Out :=
  issue i s fun s =>
    if s.speculative then park s
    else
      let k := s.team.getC a
      let check : Except Stop Unit := match sel with
        | .held => .ok ()
        | .cursor => s.lineCheck? k 1
        | .bounds => s.lineCheck? k 0
      let waits := sel == .bounds &&
        (match s.ctx? s.team.ctx, capDecode k with
         | some x, some (lo, hi) => s.migratesWithin x lo hi
         | _, _ => false)
      match check with
      | .error .wait => retry s
      | .error (.fault f) => .next (faultTrap i true [f] s)
      | .ok _ =>
        if waits then retry s
        else synced s (fun s => s.releaseWaits c) fun s =>
          let mine := s.named k sel
          .next ((act s fun x => s.below c x && mine (copyLine x)).setTeam Team.advance)

/-- FLUSH (R210, R341). -/
def execFlush (c : Scope) (a : Nat) (sel : LineSel) (la : Nat) (s : State) : Out :=
  lineOp (.flush c a sel la) c a sel State.writeBackAll s

/-- What INVAL does to the copies it discards, and to those on their way (R365): dirty bytes of their lines in any core of the
cluster, and in its cache, are written back first. -/
def State.discardCopies (s : State) (p : Nat → Bool) : State :=
  let lines := ((s.copies.map Prod.fst).filter p).map copyLine
  ((s.writeBackAll fun k => copyCluster k == s.who.cluster && lines.contains (copyLine k)).evictAll p).bar p

/-- INVAL (R210, R365, R366). -/
def execInval (c : Scope) (a : Nat) (sel : LineSel) (la : Nat) (s : State) : Out :=
  lineOp (.inval c a sel la) c a sel State.discardCopies s

end Sys2Proof.Machine
end

