-- ==== Sys2Proof/Machine/Counters.lean ====
section
/-!
DEFINITION. Machine/Counters.lean: counters (R57, R58, R218 to R220, R322, R326): CADD, CWAIT, and the wakes of sleeping
teams.
-/

namespace Sys2Proof.Machine

/-- A counter's scope, by its place (R218). -/
def counterScope (key : Nat) : Scope :=
  let r := key / regionSize
  if winRegion 0 ≤ r then .gang else if r = 0 then .device else if 300 ≤ r then .fabric else .pool

/-- The checks of CADD and CWAIT (R218 to R220): as an atomic's, and a host page is refused among the page's rights (R188). -/
def State.counterPlan (s : State) (k : Cap) (need : Nat) (a : Access) : Plan := s.atomPlan s.who 0 k k.cur 8 need a

/-- The saturating sum (R219). -/
def saturate (old x : Nat) : Nat := min (old + x) 18446744073709551615

/-- True when a speculative team parks at a counter: outside its gang's window (R257). -/
def State.parksAt (s : State) (p : Plan) : Bool := s.speculative && !(p.parts.all fun q => winRegion 0 ≤ q.key / regionSize)

/-- Run `f` with team `i` as the issuing team, then put the issuing team back. -/
def State.asTeam (s : State) (i : TeamId) (f : State → State) : State :=
  if s.team.id = i then f s
  else
    match s.others.find? fun t => t.id == i with
    | none => s
    | some t =>
      let me := s.team.id
      let s1 := f { s with team := t, others := s.others.map fun u => if u.id = i then s.team else u }
      match s1.others.find? fun u => u.id == me with
      | some old => { s1 with team := old, others := s1.others.map fun u => if u.id = me then s1.team else u }
      | none => s1

/-- A team that becomes ready goes behind those ready before it (R245). -/
def State.requeue (s : State) (i : TeamId) : State :=
  match s.others.find? fun t => t.id == i with
  | none => s
  | some t => { s with others := (s.others.filter fun u => u.id != i) ++ [t] }

/-! ## CADD -/

/-- CADD (R219, R322): a release at the counter's scope, then the saturating addition at its home. -/
def execCadd (d a b : Nat) (returns : Bool) (la : Nat) (s : State) : Out :=
  let i := Instr.cadd d a b returns la
  issue i s fun s =>
    let t := s.team
    let p := s.counterPlan (t.getC a) (permAtomic + permStore) .counterAdd
    if s.parksAt p then park s
    else withPlans [p] true s (vc := 3) fun s =>
      match p.fault? with
      | some f => .next (faultTrap i true [f] s p.unmapped)
      | none =>
        let c := counterScope p.key
        synced s (fun s => s.releaseWaits c) fun s =>
          let s := s.release c
          match s.recall [p] with
          | some s' => retry s'
          | none =>
            let x := (t.sBz b).toNat
            let old (v : Option Dword) : List Dest := if returns then [.s d v] else []
            if (peerOf p.key).isSome then
              let r := s.sendAtom s.who p t.freshId 3 (if returns then 1 else 0) 3 8 (bytesOfNat 8 x)
                (if returns then .cadd else .nothing)
              .next (endMemory i la true (old none) r.2 [] r.1)
            else
              match (s.touch s.who .counterAdd p.parts).atHome s.who.cluster p.key 8 p.coh (fun v => some (saturate v x))
                  (some t.ctx) with
              | (.ok v, s') => .next (endMemory i la true (old (some (BitVec.ofNat 64 v))) [] [] s')
              | (.error e, s') =>
                .next (endMemory i la true [] [] [⟨0, e, BitVec.ofInt 64 p.ea, true, false, 0⟩] s')

/-! ## CWAIT -/

/-- Read a counter at its point of atomicity (R220), for a context: the issuing cluster's own copy goes home first. The read is an
eligible event of the injector (R283). -/
def State.readCounter (s : State) (ctx cluster key : Nat) : Except Nat Nat × State :=
  let s := (s.injectRead ctx (key / 128)).settleLine cluster (key / 128)
  match s.verify (key / 128) with
  | (s, some e) => (.error e, s)
  | (s, none) => (.ok (natOfBytes (s.readBytes key 8)), s)

/-- Ask a peer for the counter a CWAIT waits on; `last` for the read that follows its timeout. -/
def State.askCounter (s : State) (w : Who) (key : Nat) (ea : Dword) (last : Bool) : State :=
  let h := s.header 0 0 3 w.ctx w.ticket key (lineImage key (List.replicate 8 0)).2 0 false []
  s.sendRemote h [] s.team.id 0 0 (.cwait last) ea none

/-- True of a counter whose writes a monitor sees: in an L2 home or a window bank (R57). One in expander memory has none, as one at a
peer has none: its home is elsewhere. DESIGN CHOICE, log entry 21. -/
def monitored (key : Nat) : Bool := key / regionSize == 0 || winRegion 0 ≤ key / regionSize

/-- Monitors held by the teams of a core (R57). -/
def State.monitors (s : State) (core : Nat) : Nat :=
  (s.teams.filter fun t =>
    (match t.sleep with | some z => z.monitor | none => false) &&
      ((s.gang? t.id.ticket).elim false fun g => g.coreOf t.id.gx t.id.gy == core)).length

/-- The issuing team wakes from CWAIT and goes on with the report (R220), or with a trap that waited for it (R75); its lookahead
window opens (R73, R74). -/
def Team.wakeWith (t : Team) (z : Sleep) (v : Nat) : Team :=
  let t := match z.dest with
    | some d => t.setS d (BitVec.ofNat 64 v)
    | none => t
  let late := t.pending.any fun p => !p.faults.isEmpty
  let t := ({ t with run := if late then .trapping else .ready, sleep := none,
                     latch := { t.latch with words := z.words - 1 } }).advance
  match z.dest with
  | some d => if z.window = 0 then t else { t with past := t.past ++ [⟨z.window, [.s d none]⟩] }
  | none => t

/-- True when the timeout of a wait has passed (R58). -/
def Sleep.expired (z : Sleep) (now : Nat) : Bool :=
  match z.limit with
  | some l => l ≤ now - z.since
  | none => false

/-- CWAIT (R220, R326): its first read, then sleep. DESIGN CHOICE, log entry 21. -/
def execCwait (d a b : Nat) (timed : Bool) (la : Nat) (s : State) : Out :=
  let i := Instr.cwait d a b timed la
  issue i s fun s =>
    let t := s.team
    let w := s.who
    let p := s.counterPlan (t.getC a) permLoad .counter
    if s.parksAt p then park s
    else withPlans [p] false s (vc := 3) fun s =>
      match p.fault? with
      | some f => .next (faultTrap i true [f] s p.unmapped)
      | none =>
        synced s (fun s => s.acquireWaits) fun s =>
          let target := t.sBz b
          let s := s.touch w .counter p.parts
          let core := (s.gang? t.id.ticket).elim 0 fun g => g.coreOf t.id.gx t.id.gy
          let z : Sleep :=
            { ea := BitVec.ofInt 64 p.ea, key := p.key, gen := (t.getC a).gen, target := target,
              limit := if timed then some (t.getS d).toNat else none, since := s.timebase,
              dest := if timed then some d else none, window := la,
              monitor := s.monitors core < 64 && monitored p.key, polled := s.timebase, again := false, asked := false,
              words := 1 + t.latch.words,
              insn := BitVec.ofNat 32 (insnOf i) }
          let asleep (s : State) : State := s.setTeam fun t =>
            { t with run := .asleep, sleep := some z, latch := Latch.empty }
          if (peerOf p.key).isSome then
            .next (asleep (s.askCounter w p.key (BitVec.ofInt 64 p.ea) (z.expired s.timebase)))
          else
            match s.readCounter w.ctx w.cluster p.key with
            | (.error e, s') => .next (faultTrap i true [⟨0, e, BitVec.ofInt 64 p.ea, false, false, 0⟩] s')
            | (.ok v, s') =>
              let report (v : Nat) : List Dest := if timed then [.s d (some (BitVec.ofNat 64 v))] else []
              if target.toNat ≤ v then
                .next (endMemory i la true (report v) [] [] (s'.acquire (counterScope p.key)))
              else if z.expired s'.timebase then .next (endMemory i la true (report v) [] [] s')
              else .next (asleep s')

/-- Reads of counters that teams have out at peers for a CWAIT are taken back: what they answer then is dropped. -/
def State.dropAsks (s : State) (p : TeamId → Bool) : State :=
  { s with remotes := s.remotes.filter fun r => !(p r.team && (r.form == .cwait true || r.form == .cwait false)) }

/-- A sleeping team takes up what its counter held when it was read: met, timed out where the read followed the timeout
(`last`), or asleep still (R58). -/
def State.judge (s : State) (z : Sleep) (v : Nat) (last : Bool) : State :=
  let mine (i : TeamId) : Bool := i == s.team.id
  if z.target.toNat ≤ v then
    (((s.dropAsks mine).acquire (counterScope z.key)).setTeam fun t => t.wakeWith z v)
  else if last then (s.dropAsks mine).setTeam fun t => t.wakeWith z v
  else s.setTeam fun t => { t with sleep := some { z with asked := false } }

/-- True while a team's workgroup stands in a context slot of its core and its context is not frozen (R63, R65, R269). -/
def State.resident (s : State) (t : Team) : Bool :=
  let c := s.core ((s.gang? t.id.ticket).elim 0 fun g => g.coreOf t.id.gx t.id.gy)
  (c.issuing == some t.wg || c.shadow == some t.wg) && !((s.ctx? t.ctx).any Ctx.frozen)

/-- The issuing team, asleep, wakes with a trap at its CWAIT. -/
def State.wakeTrap (s : State) (z : Sleep) (f : LaneFault) : State :=
  let s := (s.dropAsks fun i => i == s.team.id).setTeam fun t =>
    { t with run := .ready, sleep := none, latch := { t.latch with words := z.words - 1 } }
  takeTrap (.uniform f z.insn.toNat) 0 (s.refuseTeam s.team.id (s.refusedLines s.who [f]))

/-- The issuing team, asleep, reads its counter again, translating its address anew (R57, R191, R220); a page that is migrating
makes it try later. A fault or a poisoned line raises its trap at the CWAIT. -/
def State.pollCounter (s : State) (z : Sleep) : State :=
  let w := s.who
  let s := s.setTeam fun t => { t with sleep := some { z with polled := s.timebase, again := false } }
  match (s.ctx? w.ctx).map fun c => s.pagePart w c z.gen .counter z.ea.toNat 8 with
  | none => s
  | some (.error (code, level, malf)) => s.wakeTrap z ⟨0, code, z.ea, false, malf, level⟩
  | some (.ok none) => s.setTeam fun t => { t with sleep := some { z with polled := s.timebase, again := true } }
  | some (.ok (some p)) =>
    let z := { z with key := p.key, polled := s.timebase, again := false, monitor := z.monitor && monitored p.key }
    let s := (s.touch w .counter [p]).setTeam fun t => { t with sleep := some z }
    if (peerOf p.key).isSome then
      let last := z.expired s.timebase
      if s.remotes.any fun r => r.team == s.team.id && (r.form == .cwait true || (r.form == .cwait false && !last)) then s
      else s.askCounter w p.key z.ea last
    else
      match s.readCounter w.ctx w.cluster p.key with
      | (.ok v, s') => s'.judge z v (z.expired s.timebase)
      | (.error e, s') => s'.wakeTrap z ⟨0, e, z.ea, false, false, 0⟩

/-- A sleeping team re-reads its counter (R57, R220). -/
def State.reread (s : State) (i : TeamId) : State :=
  let s' := s.asTeam i fun s =>
    match s.team.sleep with
    | none => s
    | some z => if s.team.run != .asleep || !s.resident s.team then s else s.pollCounter z
  match s'.team? i with
  | some t => if t.run = .ready then s'.requeue i else s'
  | none => s'

/-- A write to a monitored line wakes a team (R57): it re-reads, and sleeps again while the counter is below target. -/
def execMonitorWake (t : TeamId) (s : State) : Out := .next (s.reread t)
/-- A team without a monitor re-reads every 256 cycles (R57). -/
def execCwaitPoll (t : TeamId) (s : State) : Out := .next (s.reread t)
/-- The timeout of a CWAIT has expired: one final read (R58). -/
def execCwaitTimeout (t : TeamId) (s : State) : Out := .next (s.reread t)

end Sys2Proof.Machine
end

