-- ==== Sys2Proof/Machine/Dm8.lean ====
section
/-!
DEFINITION. Machine/Dm8.lean: the DM8 format (R119 to R122) and encoding into it (R124).
-/

namespace Sys2Proof.Machine

/-- The encoding of the FP32 value nearest-even to n / d, for a positive rational of normal size (R119). -/
def nearestF32 (n d : Nat) : Nat :=
  (fmtF32.round ⟨0, false, false⟩ false (stick (n * 2 ^ 160 / d) (n * 2 ^ 160 % d != 0)) (-161)).1

/-- DM8Value of a non-zero body (R119), as FP32 bits. -/
def dm8Bits (body : Nat) : Nat :=
  let k := 6 - body.log2
  let fw := 4 - k
  let down := if k ≤ 4 then 3 + 4 * k else if k = 5 then 21 else 22
  let rest := body % 2 ^ body.log2
  let f := rest % 2 ^ fw
  let e := rest / 2 ^ fw
  nearestF32 (2 ^ fw + 9 * f) (2 ^ fw * 10 ^ (down - e))

/-- The exact magnitude of a body: its FP32 value as m·2^e; Mag(0) = 0 (R124). -/
def dm8Mag (body : Nat) : FVal := if body = 0 then .fin false 0 0 else fmtF32.unpack false (dm8Bits body)

/-- The value of a DM8 code (R119): NaR is a quiet NaN. -/
def dm8Value (code : Nat) : FVal :=
  let b := code % 128
  let neg := code / 128 % 2 == 1
  if b = 0 then (if neg then .nan false else .fin false 0 0)
  else
    match dm8Mag b with
    | .fin _ m e => .fin neg m e
    | v => v

/-- Multiply a value by 2^s exactly (R122). -/
def FVal.scale (v : FVal) (s : Int) : FVal :=
  match v with
  | .fin n m e => .fin n m (e + s)
  | _ => v

/-- Code(neg, b) of R124. -/
def dm8Code (neg : Bool) (b : Nat) : Nat := if b = 0 then 0 else (if neg then 128 else 0) + b

/-- The largest body whose magnitude is at most `a` (R124). -/
def dm8Floor (a : FVal) : Nat :=
  (List.range 128).foldl (fun best b => if (dm8Mag b).cmp a ≤ 0 then b else best) 0

/-- EncodeDM8 (R124): `w` as read, subnormals already flushed where MODE.FTZ says so. -/
def encodeDm8 (c : FCtl) (w : FVal) (s : Int) : Nat × Word :=
  match w with
  | .nan sig => (0x80, if sig then fNV else 0)
  | .inf neg => if c.sat then (if neg then 0xFF else 0x7F, fSATD) else (0x80, fNV)
  | .fin neg m e =>
    if m = 0 then (0, 0)
    else
      let a : FVal := .fin false m (e - s)
      if 0 < a.cmp (dm8Mag 127) then
        if c.sat then (if neg then 0xFF else 0x7F, fOF ||| fNX ||| fSATD) else (0x80, fOF ||| fNX)
      else
        let lo := dm8Floor a
        if (dm8Mag lo).cmp a = 0 then (dm8Code neg lo, 0)
        else
          let hi := lo + 1
          let flags := fNX ||| (if lo = 0 then fUF else 0)
          -- twice the value against the sum of the neighbours
          let mid : FVal := match dm8Mag lo, dm8Mag hi with
            | .fin _ x ex, .fin _ y ey =>
              let r := exactSum 0 [(false, x, ex), (false, y, ey)]
              .fin false r.2.1 r.2.2
            | v, _ => v
          let side := (a.scale 1).cmp mid
          let b := match c.rnd with
            | 0 => if side < 0 then lo else if 0 < side then hi else if lo % 2 = 0 then lo else hi
            | 1 => lo
            | 2 => if neg then lo else hi
            | 3 => if neg then hi else lo
            | _ => if side < 0 then lo else hi
          (dm8Code neg b, flags)

end Sys2Proof.Machine
end

