-- ==== Sys2Proof/Machine/Float.lean ====
section
/-!
DEFINITION. Machine/Float.lean: the vector floating instructions (R105, R111 to R118, R123, R125, R329 to R354).
-/

namespace Sys2Proof.Machine

/-! ## Operands and results -/

/-- The format MODE.ETYPE names (R86). -/
def etypeFmt (e : Nat) : FFmt :=
  match e with
  | 0 => fmtF32
  | 1 => fmtF16
  | 2 => fmtBf16
  | _ => fmtF64
def Team.ffmt (t : Team) : FFmt := etypeFmt (modeEtype t.mode)

/-- The format and whether it is dm8, for the types of FCVT. -/
def ftyFmt : FTy → FFmt
  | .f32 => fmtF32
  | .f16 => fmtF16
  | .bf16 => fmtBf16
  | .f64 => fmtF64
  | .dm8 => fmtF32

/-- The element of a 32-bit lane or a pair (R111). -/
def elemOf (F : FFmt) (w : Word) (x : Dword) : Nat := if F = fmtF64 then x.toNat else w.toNat % 2 ^ (F.fb + F.eb + 1)

/-- An IMM prefix as a floating operand: FP32 bits [31:8], converted to the element type (R76). A widening to f64 is
exact and keeps a NaN's kind, and its flag is set as that of any operand. -/
def immElem (F : FFmt) (c : FCtl) (p : Nat) : Nat × Word :=
  let x := p * 256 % 4294967296
  if F = fmtF32 then (x, 0)
  else if F = fmtF64 then
    match fmtF32.unpack false x with
    | .nan true => (F.nanBits - 2 ^ 51 + 1, 0)
    | .nan false => (F.nanBits, 0)
    | v => F.encode ⟨0, false, false⟩ v
  else
    let v := fmtF32.unpack c.ftz x
    let r := F.encode c v
    (r.1, r.2 ||| nvOf [v])

/-- The B element in a lane, and the flags of converting a constant (R76, R77). -/
def Team.fB (t : Team) (b l : Nat) : Nat × Word :=
  match t.latch.imm with
  | some p => immElem t.ffmt (ctlOf t.mode) p
  | none => (elemOf t.ffmt (t.vB b l) (t.vB64 b l), 0)
/-- The A element in a lane (R77). -/
def Team.fA (t : Team) (a l : Nat) : Nat := elemOf t.ffmt (t.vA a l) (t.vA64 a l)
/-- An element of a register. -/
def Team.elem (t : Team) (F : FFmt) (r l : Nat) : Nat := elemOf F (t.getV r l) (t.getV64 r l)

/-- The lanes R42 selects. -/
def Team.lanes (t : Team) : List Nat := (List.range t.width).filter t.selected

/-- Write an element result in the selected lanes, zero above it (R111), and merge the flags any of them raises
(R130). -/
def Team.floatLanes (t : Team) (F : FFmt) (d : Nat) (f : Nat → Nat × Word) : Team :=
  let flags := t.lanes.foldl (fun (a : Word) l => a ||| (f l).2) 0
  (if F = fmtF64 then t.setV64 d fun l => if t.selected l then some (BitVec.ofNat 64 (f l).1) else none
   else t.setV d fun l => if t.selected l then some (BitVec.ofNat 32 (f l).1) else none).raise flags

/-- Read both operands under MODE.FTZ and apply a two-operand operation (R331). -/
def float2 (i : Instr) (d a b : Nat) (f : FFmt → FCtl → FVal → FVal → Nat × Word) (s : State) : Out :=
  issue i s (done fun t =>
    let F := t.ffmt
    let c := ctlOf t.mode
    t.floatLanes F d fun l =>
      let y := t.fB b l
      let r := f F c (F.unpack c.ftz (t.fA a l)) (F.unpack c.ftz y.1)
      (r.1, r.2 ||| y.2))

/-- A one-operand operation on the element as MODE.FTZ reads it. -/
def float1 (i : Instr) (d a : Nat) (f : FFmt → FCtl → FVal → Nat × Word) (s : State) : Out :=
  issue i s (done fun t =>
    let F := t.ffmt
    let c := ctlOf t.mode
    t.floatLanes F d fun l => f F c (F.unpack c.ftz (t.elem F a l)))

/-! ## The operations -/

/-- A product, rounded once (R345). -/
def fltMul (F : FFmt) (c : FCtl) (x y : FVal) : Nat × Word :=
  let p := x.mul y
  let r := F.encode c p.1
  (r.1, r.2 ||| p.2)

/-- A·B + D rounded once (R342). The invalid product is found whatever the addend (R114). -/
def fltFma (F : FFmt) (c : FCtl) (x y z : FVal) : Nat × Word :=
  let p := x.mul y
  let r := F.sum c [p.1, z]
  (r.1, r.2 ||| p.2)

/-- The negation of a value. -/
def FVal.neg : FVal → FVal
  | .nan s => .nan s
  | .inf n => .inf (!n)
  | .fin n m e => .fin (!n) m e

/-- The sign of a value, for the order of zeros. -/
def FVal.isNeg : FVal → Bool
  | .nan _ => false
  | .inf n => n
  | .fin n _ _ => n

/-- FMIN and FMAX (R343, R344): the chosen operand, unrounded. -/
def fltPick (greater : Bool) (F : FFmt) (x y : FVal) : Nat × Word :=
  let flags := nvOf [x, y]
  let exact (v : FVal) : Nat := (F.encode ⟨0, false, false⟩ v).1
  if x.isNan && y.isNan then (F.nanBits, flags)
  else if x.isNan then (exact y, flags)
  else if y.isNan then (exact x, flags)
  else
    let k := x.cmp y
    let below := k < 0 || (k == 0 && x.isNeg && !y.isNeg)
    (exact (if below == greater then y else x), flags)

/-- FRINT (R349). -/
def fltRint (F : FFmt) (c : FCtl) (x : FVal) : Nat × Word :=
  match x with
  | .nan sig => (F.nanBits, if sig then fNV else 0)
  | .inf n => (F.infBits n, 0)
  | .fin n m e => ((F.round ⟨0, false, false⟩ n (shiftRound c.rnd n m (-e)).1 0).1, 0)

/-- FCLASS of a stored element (R332). -/
def fltClass (F : FFmt) (x : Nat) : Nat × Word :=
  let sub := F.isSubnormal x
  match F.unpack false x with
  | .nan true => (256, fNV)
  | .nan false => (512, 0)
  | .inf n => (if n then 1 else 128, 0)
  | .fin n m _ =>
    (if m = 0 then (if n then 8 else 16) else if sub then (if n then 4 else 32) else if n then 2 else 64, 0)

/-- The eight conditions of FCMP (R104, R333). -/
def fltCond (x y : FVal) : FCond → Bool :=
  let u := x.isNan || y.isNan
  let k := x.cmp y
  fun c => match c with
    | .eq => !u && k == 0
    | .ne => u || k != 0
    | .lt => !u && k < 0
    | .le => !u && k ≤ 0
    | .gt => !u && 0 < k
    | .ge => !u && 0 ≤ k
    | .ord => !u
    | .uno => u

/-- Convert between floating types (R123): `x` an element of `src`. -/
def fltConvert (src dst : FTy) (c : FCtl) (scale : Int) (x : Nat) : Nat × Word :=
  let F := ftyFmt src
  let v := if src = .dm8 then (dm8Value x).scale scale else F.unpack c.ftz x
  if dst = .dm8 then
    -- f16 values are widened before EncodeDM8 tests for a subnormal, and f16 operands were flushed as f16
    encodeDm8 c v scale
  else
    let r := (ftyFmt dst).encode c v
    (r.1, r.2 ||| nvOf [v])

/-- The width and sign of an integer type (R88). -/
def ityBits : ITy → Nat
  | .s8 | .n8 => 8
  | .s16 | .n16 => 16
  | .s32 | .n32 => 32
  | .s64 | .n64 => 64
def itySigned : ITy → Bool
  | .s8 | .s16 | .s32 | .s64 => true
  | .n8 | .n16 | .n32 | .n64 => false
/-- The bounds of an integer type. -/
def ityMin (t : ITy) : Int := if itySigned t then -(2 ^ (ityBits t - 1) : Nat) else 0
def ityMax (t : ITy) : Int := if itySigned t then (2 ^ (ityBits t - 1) : Nat) - 1 else (2 ^ ityBits t : Nat) - 1

/-- F2I (R329). -/
def fltToInt (t : ITy) (c : FCtl) (x : FVal) : Int × Word :=
  match x with
  | .nan _ => (0, fNV)
  | .inf n => (if n then ityMin t else ityMax t, fNV)
  | .fin n m e =>
    let r := shiftRound c.rnd n m (-e)
    let v : Int := if n then -(r.1 : Int) else r.1
    if v < ityMin t then (ityMin t, fNV)
    else if ityMax t < v then (ityMax t, fNV)
    else (v, if r.2 then fNX else 0)

/-- The integer an I2F source holds (R354). -/
def intOf (t : ITy) (x : Nat) : Int :=
  if itySigned t then signOf (ityBits t) (x % 2 ^ ityBits t) else (x % 2 ^ ityBits t : Nat)

/-! ## The instructions -/

/-- FADD (R331). -/
def execFadd (d a b : Nat) (s : State) : Out := float2 (.fadd d a b) d a b (fun F c x y => F.sum c [x, y]) s
/-- FSUB (R353). -/
def execFsub (d a b : Nat) (s : State) : Out := float2 (.fsub d a b) d a b (fun F c x y => F.sum c [x, y.neg]) s
/-- FMUL (R345). -/
def execFmul (d a b : Nat) (s : State) : Out := float2 (.fmul d a b) d a b fltMul s
/-- FMIN (R344). -/
def execFmin (d a b : Nat) (s : State) : Out := float2 (.fmin d a b) d a b (fun F _ x y => fltPick false F x y) s
/-- FMAX (R343). -/
def execFmax (d a b : Nat) (s : State) : Out := float2 (.fmax d a b) d a b (fun F _ x y => fltPick true F x y) s

/-- FMA (R342): the addend always comes from vD. -/
def execFma (d a b : Nat) (s : State) : Out :=
  issue (.fma d a b) s (done fun t =>
    let F := t.ffmt
    let c := ctlOf t.mode
    t.floatLanes F d fun l =>
      let y := t.fB b l
      let r := fltFma F c (F.unpack c.ftz (t.fA a l)) (F.unpack c.ftz y.1) (F.unpack c.ftz (t.elem F d l))
      (r.1, r.2 ||| y.2))

/-- FABS (R330): the sign bit cleared, every other bit copied. -/
def execFabs (d a : Nat) (s : State) : Out :=
  issue (.fabs d a) s (done fun t =>
    let F := t.ffmt
    t.floatLanes F d fun l => (t.elem F a l % 2 ^ (F.fb + F.eb), 0))
/-- FNEG (R346): the sign bit inverted. -/
def execFneg (d a : Nat) (s : State) : Out :=
  issue (.fneg d a) s (done fun t =>
    let F := t.ffmt
    t.floatLanes F d fun l =>
      let x := t.elem F a l
      (x % 2 ^ (F.fb + F.eb) + F.sign (!F.negOf x), 0))

/-- FRINT (R349). -/
def execFrint (d a : Nat) (s : State) : Out := float1 (.frint d a) d a fltRint s

/-- FCLASS (R332): the element as stored; 32 bits of result, zero above in a pair. -/
def execFclass (d a : Nat) (s : State) : Out :=
  issue (.fclass d a) s (done fun t =>
    let F := t.ffmt
    t.floatLanes F d fun l => fltClass F (t.elem F a l))

/-- FCMP (R333). -/
def execFcmp (d a b : Nat) (k : FCond) (s : State) : Out :=
  issue (.fcmp d a b k) s (done fun t =>
    let F := t.ffmt
    let c := ctlOf t.mode
    let x (l : Nat) : FVal := F.unpack c.ftz (t.fA a l)
    let y (l : Nat) : FVal := F.unpack c.ftz (t.fB b l).1
    let flags := t.lanes.foldl (fun (w : Word) l => w ||| nvOf [x l, y l] ||| (t.fB b l).2) 0
    (t.setP d t.selMask fun l => fltCond (x l) (y l) k).raise flags)

/-- FCVT (R336). -/
def execFcvt (d a : Nat) (src dst : FTy) (s : State) : Out :=
  issue (.fcvt d a src dst) s (done fun t =>
    let c := ctlOf t.mode
    t.floatLanes (ftyFmt dst) d fun l =>
      fltConvert src dst c 0 (if src = .dm8 then (t.getV a l).toNat % 256 else t.elem (ftyFmt src) a l))

/-- F2I (R329). -/
def execF2i (d a : Nat) (k : ITy) (s : State) : Out :=
  issue (.f2i d a k) s (done fun t =>
    let F := t.ffmt
    let c := ctlOf t.mode
    t.floatLanes (if ityWide k then fmtF64 else fmtF32) d fun l =>
      let r := fltToInt k c (F.unpack c.ftz (t.elem F a l))
      (fieldOf (ityBits k) r.1, r.2))

/-- I2F (R354): the exact integer rounded once. -/
def execI2f (d a : Nat) (k : ITy) (s : State) : Out :=
  issue (.i2f d a k) s (done fun t =>
    let F := t.ffmt
    let c := ctlOf t.mode
    t.floatLanes F d fun l =>
      let x := intOf k (if ityWide k then (t.getV64 a l).toNat else (t.getV a l).toNat)
      F.round c (x < 0) x.natAbs 0)

end Sys2Proof.Machine
end

