-- ==== Sys2Proof/Machine/Matrix.lean ====
section
/-!
DEFINITION. Machine/Matrix.lean: issue of the matrix instructions (R132 to R142, R147, R148, R395 to R404): their checks
and their entry into the workgroup's queue.
-/

namespace Sys2Proof.Machine

/-! ## Shapes and formats -/

/-- Bytes of an accumulator element type: 0 f32, 1 f64, 2 s32 (R86). -/
def acctBytes (acct : Nat) : Nat := if acct = 1 then 8 else 4
/-- Rows and columns an accumulator holds (R137). -/
def acctSide (acct : Nat) : Nat := if acct = 1 then 16 else 32
/-- Bytes MLDA and MSTA move for an accumulator type (R138). -/
def acctSize (acct : Nat) : Nat := if acct = 1 then 2048 else 4096
/-- The accumulator type each element type goes with (R135). -/
def acctOf (ty : Nat) : Nat := if ty = 4 then 1 else if ty = 5 then 2 else 0

/-- The FMT combinations MMA executes (R135): dm8 is type 0, the one with scales. -/
def mmaFormat (f : Word) : Bool :=
  fmtAtype f == fmtBtype f && fmtAtype f ≤ 5 && fmtAcct f == acctOf (fmtAtype f) &&
    (fmtAtype f == 0 || (fmtAscale f == 0 && fmtBscale f == 0))

/-- The pairs of R139. -/
def mstaFormat (f : Word) : Bool :=
  match fmtAcct f with
  | 0 => fmtAtype f ≤ 3
  | 1 => fmtAtype f == 4 || fmtAtype f == 3
  | 2 => fmtAtype f == 5
  | _ => false

/-- The element-size check of R142. -/
def mapAligned (d : BitVec 128) (size : Nat) : Bool :=
  mapBase d % size == 0 && mapRstride d % size == 0 && mapCstride d % size == 0

/-! ## Entering the queue -/

/-- Matrix queue entries (R133). -/
def matrixDepth : Nat := 8

/-- A name for the wait of an MCHK on its queue, apart from every other request's. -/
def mchkReq : Nat := 2 ^ 66

/-- The issuing team's workgroup, as a matrix instruction finds it. -/
def State.queueFull (s : State) : Bool := (s.wg? s.team.wg).elim false fun g => matrixDepth ≤ g.queue.length

/-- The entry of an instruction with what its team held at issue (R72, R133). -/
def State.entry (s : State) (i : Instr) (op : MOp) (ea : Dword) (pieces : List Piece) (la : Nat) : MEntry :=
  { op := op, team := s.team.id, mode := s.team.mode, fmt := s.team.fmt, ea := ea, pieces := pieces, pc := s.team.pc,
    insn := BitVec.ofNat 32 (insnOf i), window := la }

/-- Put an entry into the queue. -/
def State.pushEntry (s : State) (e : MEntry) : State := s.modWg s.team.wg fun g => { g with queue := g.queue ++ [e] }

/-- Put an instruction into the queue and go on (R134), or wait while the queue is full. -/
def enter (i : Instr) (op : MOp) (ea : Dword) (pieces : List Piece) (s : State) : Out :=
  if s.queueFull then retry s
  else .next ((s.pushEntry (s.entry i op ea pieces 0)).setTeam Team.advance)

/-! ## MMA, MZA, MMAP, MCHK -/

/-- What stands behind the positions of a map (R141, R399): closed for a switch, unbacked, a FIFO bank, or good. -/
def State.mapPlace (s : State) (d : BitVec 128) (sh : MShape) (fifoOk : Bool) : Except Stop Unit :=
  let w := s.who
  let offs := mapOffsets d sh
  if offs.any fun o => s.windowClosed w o then .error .wait
  else
    let bad (o : Nat) : Bool := match s.windowPart w o sh.size with
      | .ok p => !fifoOk && p.fifo.isSome
      | .error _ => true
    match offs.find? bad with
    | none => .ok ()
    | some o =>
      let base := (s.ctx? s.team.ctx).elim 0 fun c => c.window
      .error (.fault ⟨0, cAccess, BitVec.ofNat 64 (base + o), false, false, 0⟩)

/-- MMA at issue (R395, R399, R147): a driver with no partner raises CONVERGE, then the formats, then the positions of B.
A paired MMA holds its team (R148). -/
def execMma (acc tile map : Nat) (reuse pair overwrite : Bool) (la : Nat) (s : State) : Out :=
  let i := Instr.mma acc tile map reuse pair overwrite la
  issue i s fun s =>
    let t := s.team
    let d := (s.wg? t.wg).elim 0 fun g => g.mapsIssued.getD map 0
    let sh := mshape (fmtAtype t.fmt)
    let alone := pair && t.id.gx % 2 == 0 && (s.gang? t.id.ticket).elim true fun g => g.shape.w ≤ t.id.gx + 1
    if alone then trapWith cConverge i s
    else if !mmaFormat t.fmt || !mapAligned d sh.size then trapWith cFormat i s
    else
      match s.mapPlace d sh false with
      | .error .wait => retry s
      | .error (.fault f) => .next (faultTrap i true [f] s)
      | .ok _ =>
        if s.queueFull then retry s
        else
          let s := s.flushTeam t.id
          let s := s.pushEntry (s.entry i (.mma acc tile map reuse pair overwrite) 0 [] la)
          if pair then .next (s.setTeam fun t => { t with run := .pairing })
          else .next (s.setTeam Team.advance)

/-- MZA (R140, R404). -/
def execMza (acc la : Nat) (s : State) : Out :=
  let i := Instr.mza acc la
  issue i s fun s => enter i (.mza acc) 0 [] s

/-- MMAP (R141, R400): the descriptor pair is read at issue. -/
def execMmap (d a la : Nat) (s : State) : Out :=
  let i := Instr.mmap d a la
  issue i s fun s =>
    let x : BitVec 128 := s.team.getS (a + 1) ++ s.team.getS a
    if !mapLegal x then trapWith cFormat i s
    else
      match s.mapPlace x (mshape 0) true with
      | .error .wait => retry s
      | .error (.fault f) => .next (faultTrap i true [f] s)
      | .ok _ =>
        if s.queueFull then retry s
        else
          let s := s.modWg s.team.wg fun g => { g with mapsIssued := g.mapsIssued.put 0 d x }
          enter i (.mmap d x) 0 [] s

/-- MCHK (R151, R396): its destination follows the lookahead rules until every earlier entry has completed. -/
def execMchk (d la : Nat) (s : State) : Out :=
  let i := Instr.mchk d la
  issue i s fun s =>
    if s.queueFull then retry s
    else
      let k := s.team.freshId
      let s := s.pushEntry (s.entry i (.mchk k) 0 [] la)
      .next (s.setTeam fun t => t.launchPending la [.s d none] 0 [mchkReq] (insnOf i) true)

/-! ## Transfers -/

/-- A transfer at issue (R138, R395): the capability over the whole footprint, alignment to 128, then every page. The
place's own refusals arise when it executes; it holds its translations until then. -/
def transfer (i : Instr) (op : MOp) (a b n need : Nat) (acc : Access) (format : Word → Bool) (s : State) : Out :=
  issue i s fun s =>
    let t := s.team
    if !format t.fmt then trapWith cFormat i s
    else
      let ea := t.uniEa a b .x1 1
      let n := if n = 0 then acctSize (fmtAcct t.fmt) else n
      let p := s.planOf s.who 0 ea n (s.resolve s.who 0 (t.getC a) ea n need 128 acc true)
      let p := if p.fifo?.isSome then p.fail cAccess acc.writes else p
      let s := s.noteWalk (s.specOf t) p.walkedPages
      if p.waits || s.snoopHolds [p] || s.remoteHolds [p] 1 then retry s
      else if s.speculative && leavesDevice [p] then park s
      else
        match p.fault? with
        | some f => .next (faultTrap i true [f] s p.unmapped)
        | none =>
          if s.queueFull then retry s
          else if (s.flushLines [p]).mergesMeet [p] then retry (s.flushLines [p])
          else
            let s := (s.flushLines [p]).touch s.who acc p.parts
            enter i op (BitVec.ofInt 64 ea) (p.parts.map fun q => ⟨q.key, q.len, q.coh⟩) s

/-- MLDT (R138, R398). -/
def execMldt (d a b : Nat) (colMajor : Bool) (la : Nat) (s : State) : Out :=
  transfer (.mldt d a b colMajor la) (.mldt d colMajor) a b 2048 permLoad .read (fun _ => true) s

/-- MLDA (R138, R397): the size follows FMT.ACCT. -/
def execMlda (d a b la : Nat) (s : State) : Out :=
  transfer (.mlda d a b la) (.mlda d) a b 0 permLoad .read (fun _ => true) s

/-- Bytes a converting MSTA stores (R138). -/
def cvtBytes (f : Word) : Nat := acctSide (fmtAcct f) * acctSide (fmtAcct f) * (mshape (fmtAtype f)).size

/-- MSTA (R138, R139, R403). -/
def execMsta (d a b : Nat) (toAtype : Bool) (la : Nat) (s : State) : Out :=
  transfer (.msta d a b toAtype la) (.msta d toAtype) a b (if toAtype then cvtBytes s.team.fmt else 0) permStore .write
    (fun f => !toAtype || mstaFormat f) s

end Sys2Proof.Machine
end

