-- ==== Sys2Proof/Machine/MatrixExec.lean ====
section
/-!
DEFINITION. Machine/MatrixExec.lean: the matrix engine (R126 to R129, R133, R137 to R151, R395): one queue entry at a time,
and the handshake of paired engines.
-/

namespace Sys2Proof.Machine

/-! ## Bytes of tiles and accumulators (R137) -/

def tileBytes : Nat := 2048
def accBytes : Nat := 4096
/-- `n` bytes from offset `o`. -/
def mapBytes (m : SMap Byte) (o n : Nat) : List Byte := (List.range n).map fun i => m.getD (o + i) 0
/-- Write bytes from offset `o`. -/
def putBytes (m : SMap Byte) (o : Nat) : List Byte → SMap Byte
  | [] => m
  | b :: bs => putBytes (m.put 0 o b) (o + 1) bs

/-! ## Arithmetic (R122, R126 to R129) -/

/-- The format of a floating element type that is not dm8. -/
def elemFmt (ty : Nat) : FFmt :=
  match ty with
  | 1 => fmtF16 | 2 => fmtBf16 | 3 => fmtF32 | _ => fmtF64

/-- A floating operand, widened exactly with its scale; subnormals of its own type read as zero under FTZ (R118, R122). -/
def matOperand (c : FCtl) (ty : Nat) (scale : Int) (x : Nat) : FVal :=
  if ty = 0 then
    (match dm8Value x with
     | .nan _ => .nan false
     | v => v.scale scale)
  else (elemFmt ty).unpack c.ftz x

/-- A leaf or node: absent, or a value and the flags so far (R128, R129). -/
abbrev MNode := Option (FVal × Word)

/-- The format of a floating accumulator. -/
def acctFmt (acct : Nat) : FFmt := if acct = 1 then fmtF64 else fmtF32

/-- Round the sum of the present terms once (R128). -/
def sumPresent (F : FFmt) (c : FCtl) (xs : List MNode) : Option (Nat × Word) :=
  match xs.filterMap id with
  | [] => none
  | ps =>
    let r := F.sum c (ps.map Prod.fst)
    some (r.1, ps.foldl (fun w p => w ||| p.2) r.2)

/-- Node of R128: both absent is absent. -/
def matNode (F : FFmt) (c : FCtl) (x y : MNode) : MNode :=
  (sumPresent F c [x, y]).map fun r => (F.unpack c.ftz r.1, r.2)

/-- One level of the balanced tree. -/
def matPairs (F : FFmt) (c : FCtl) : List MNode → List MNode
  | x :: y :: rest => matNode F c x y :: matPairs F c rest
  | xs => xs

/-- Levels until two nodes are left. -/
def matLevels (F : FFmt) (c : FCtl) : Nat → List MNode → List MNode
  | 0, xs => xs
  | n + 1, xs => if xs.length ≤ 2 then xs else matLevels F c n (matPairs F c xs)

/-- Blocks of a row of products. -/
def chunks {α : Type} (n : Nat) : Nat → List α → List (List α)
  | 0, _ => []
  | fuel + 1, xs => if xs.isEmpty then [] else xs.take n :: chunks n fuel (xs.drop n)

/-- DotAccumulate (R128): `acc0` is C, read where VAR is 0. The element's bits and its flags. A C that stands alone passes
bit for bit. -/
def dotAccumulate (F : FFmt) (c : FCtl) (blk : Nat) (acc0 : Option Nat) (ps : List MNode) : Nat × Word :=
  let blocks := chunks blk ps.length ps
  let step (st : Option (Nat × Word)) (b : Nat) (block : List MNode) : Option (Nat × Word) :=
    let level := matLevels F c 8 block
    let x := level.getD 0 none
    let y := level.getD 1 none
    let old : Option Nat := if b = 0 then acc0 else st.map Prod.fst
    let fl := (st.map Prod.snd).getD 0
    if b = 0 then
      match x, y, old with
      | none, none, some cb => some (cb, 0)
      | _, _, some cb => sumPresent F c [x, y, some (F.unpack c.ftz cb, 0)]
      | _, _, none => sumPresent F c [x, y]
    else
      match sumPresent F c [x, y] with
      | none => st
      | some (r, f) =>
        match old with
        | none => some (r, f ||| fl)
        | some ab => (sumPresent F c [some (F.unpack c.ftz ab, 0), some (F.unpack c.ftz r, 0)]).map fun z =>
            (z.1, z.2 ||| f ||| fl)
  let r := ((List.range blocks.length).zip blocks).foldl (fun st x => step st x.1 x.2) none
  r.getD (0, 0)

/-- One element of an s8 MMA (R126): products added modulo 2^32. -/
def dotInt (acc0 : Nat) (ps : List (Option Int)) : Nat :=
  fieldOf 32 (signOf 32 acc0 + (ps.filterMap id).foldl (· + ·) 0)

/-- The element of an operand array of `n`-byte elements. -/
def elemAt (bs : List Byte) (n k : Nat) : Nat := natOfBytes ((bs.drop (n * k)).take n)

/-- One MMA's results, element by element in row order (R144): new bits and flags. `b j n` is none at padding. -/
def mmaResult (mode fmt : Word) (withC : Bool) (a acc : List Byte) (b : Nat → Nat → Option Nat) :
    List (Nat × Word) :=
  let c := ctlOf mode
  let ty := fmtAtype fmt
  let sh := mshape ty
  let eb := acctBytes (fmtAcct fmt)
  (List.range sh.m).flatMap fun i => (List.range sh.n).map fun n =>
    let old := elemAt acc eb (i * sh.n + n)
    if ty = 5 then
      (dotInt (if withC then old else 0) ((List.range sh.k).map fun j =>
        (b j n).map fun y => signOf 8 (elemAt a 1 (i * sh.k + j)) * signOf 8 y), 0)
    else
      let ps : List MNode := (List.range sh.k).map fun j => (b j n).map fun y =>
        (matOperand c ty (fmtAscale fmt) (elemAt a sh.size (i * sh.k + j))).mul
          (matOperand c (fmtBtype fmt) (fmtBscale fmt) y)
      dotAccumulate (acctFmt (fmtAcct fmt)) c sh.blk (if withC then some old else none) ps

/-- One converted element of MSTA SUB 1 (R127). -/
def mstaElem (mode fmt : Word) (x : Nat) : Nat × Word :=
  let c := ctlOf mode
  let ty := fmtAtype fmt
  let os := fmtOscale fmt
  if fmtAcct fmt = 2 then
    let v := signOf 32 x
    let r := shiftRound c.rnd (v < 0) v.natAbs os
    let n : Int := if v < 0 then -(r.1 : Int) else r.1
    let k := max (-128) (min 127 n)
    (fieldOf 8 k, (if r.2 then fNX else 0) ||| (if k != n then fSATD else 0))
  else
    let F := acctFmt (fmtAcct fmt)
    let v := F.unpack c.ftz x
    if ty = 0 then encodeDm8 c v os
    else
      let r := (elemFmt ty).encode c (v.scale (-os))
      (r.1, r.2 ||| nvOf [v])

/-! ## Transfers -/

/-- The location a key's region stands for (R180). -/
def locOfKey (key : Nat) : Nat :=
  let r := key / regionSize
  if r = 0 || winRegion 0 ≤ r then 0 else if r = 1 then 1 else if 300 ≤ r then 3 else 2

/-- Why a place refuses a transfer when it executes (R395): FIREWALL, EXP_LOST, or VIRAL for a store that leaves. -/
def State.refuses (s : State) (ctx : Nat) (write : Bool) (key : Nat) : Option Nat :=
  let r := key / regionSize
  let away := locOfKey key != 0
  if r = 0 && !s.firewall ctx (key / 65536) then some cFirewall
  else if away && (s.ctx? ctx).any fun c => c.confidential then some cFirewall
  else if locOfKey key = 2 && s.expLost.contains (r - 2) then some cExpLost
  else if write && away && (s.ctx? ctx).any fun c => c.viral then some cViral
  else none

/-- One line's share of a transfer: its offset from ea, its first key and its bytes. -/
structure TLine where
  off : Nat
  key : Nat
  len : Nat
  coh : Bool
deriving DecidableEq, Repr

/-- The line pieces of a transfer, ascending. -/
def transferLines (ps : List Piece) : List TLine :=
  (ps.foldl (fun (r : List TLine × Nat) p =>
    (r.1 ++ (linePieces p.key p.len).map fun q => ⟨r.2 + (q.1 - p.key), q.1, q.2, p.coh⟩, r.2 + p.len)) ([], 0)).1

/-- What one line of a transfer reads, peers having answered: its bytes, or the cause that stops it. -/
def State.fetchLine (s : State) (w : Who) (team : TeamId) (q : TLine) : Except Nat (List Byte) × State :=
  match s.refuses w.ctx false q.key with
  | some e => (.error e, s)
  | none =>
    if (peerOf q.key).isSome then
      match ((s.asked team none q.key q.len).bind fun r => r.got).getD [] with
      | [e] => (.error e.toNat, s)
      | bs => (.ok ((bs.drop (q.key % 128)).take q.len), s)
    else
      match s.readRun w q.key q.len with
      | (.ok (bs, _), s') => (.ok bs, s')
      | (.error e, s') => (.error e, s')

/-- Read a transfer's bytes for the engine: none while a peer's answer is awaited; the lowest failing line with its cause
(R395). -/
def State.fetchTransfer (s : State) (e : MEntry) : Except (Nat × Nat) (Option (List Byte)) × State :=
  let w := s.who
  let ls := transferLines e.pieces
  let far := (ls.filter fun q => (peerOf q.key).isSome && (s.refuses w.ctx false q.key).isNone).map fun q => (q.key, q.len)
  let out := far.map fun q => s.asked e.team none q.1 q.2
  if out.any fun r => r.isNone || r.any fun x => x.got.isNone then
    match s.gather w e.team none 1 far with
    | (_, s') => (.ok none, s')
  else
    let r := ls.foldl (fun (r : Except (Nat × Nat) (List Byte) × State) q =>
      match r with
      | (.error _, _) => r
      | (.ok bs, s) =>
        match s.fetchLine w e.team q with
        | (.ok b, s') => (.ok (bs ++ b), s')
        | (.error code, s') => (.error (q.off, code), s')) (.ok [], s)
    let ids := out.filterMap fun x => x.map Remote.id
    let s' := { r.2 with remotes := r.2.remotes.filter fun (x : Remote) => !ids.contains x.id }
    match r.1 with
    | .ok bs => (.ok (some bs), s')
    | .error f => (.error f, s')

/-- A line of a stored transfer that is refused: kept with the peers' answers until all have come. -/
def State.refusedLine (s : State) (w : Who) (e : MEntry) (q : TLine) (code : Nat) : State :=
  let r : Remote :=
    { id := s.nextReq, hdr := s.header 1 0 1 w.ctx w.ticket q.key 0 0 false [], data := [], team := e.team, lane := 0,
      pendingId := noPending, form := .nothing, ea := e.ea + BitVec.ofNat 64 q.off, sent := s.domainClock, again := false,
      held := false, moved := false, got := some [BitVec.ofNat 8 code], engine := none, shares := [],
      stale := [] }
  { s with remotes := s.remotes ++ [r], nextReq := s.nextReq + 1 }

/-- Write a transfer's bytes line by line, leaving out refused lines; beside a refused one any other may be left out.
DESIGN CHOICE, log entry 32. -/
def State.storeTransfer (s : State) (w : Who) (e : MEntry) (bs : List Byte) : State :=
  let ls := transferLines e.pieces
  let some? := ls.any fun q => (s.refuses w.ctx true q.key).isSome
  ((List.range ls.length).zip ls).foldl (fun (s : State) (i, q) =>
    if s.lapsed w.spec then s
    else
      match s.refuses w.ctx true q.key with
      | some code => s.refusedLine w e q code
      | none =>
        let part := (bs.drop q.off).take q.len
        if some? && !Config.freeBool s.oracle (8 * i + 3) then s
        else if (peerOf q.key).isSome then
          let line := q.key / 128
          (s.passPeer w.cluster line).writePeer w e.team noPending line (Copy.empty.write (q.key % 128) part false)
            [⟨0, e.ea + BitVec.ofNat 64 q.off, q.key % 128, q.len, .nothing⟩]
        else s.writeRun w q.key part false q.coh) s

/-- Requests to peers of a stored transfer. -/
def State.transferRemotes (s : State) (e : MEntry) : List Remote :=
  s.remotes.filter fun r => r.team == e.team && r.pendingId == noPending
def State.transferSent (s : State) (e : MEntry) : Bool := !(s.transferRemotes e).isEmpty
def State.dropTransfer (s : State) (e : MEntry) : State :=
  { s with remotes := s.remotes.filter fun r => !(r.team == e.team && r.pendingId == noPending) }
/-- How a stored transfer ends: none while an answer is awaited, else the lowest line that failed, with its cause. -/
def State.transferDone (s : State) (e : MEntry) : Option (Option (Nat × Nat)) :=
  let rs := s.transferRemotes e
  if rs.any fun r => r.got.isNone then none
  else
    let bad := (rs.filter fun r => r.got != some [0]).map fun r => ((r.ea - e.ea).toNat, ((r.got.getD []).headD 0).toNat)
    some (bad.find? fun f => bad.all fun g => f.1 ≤ g.1)

/-- An asynchronous fault of a queued instruction (R395): TRAP_PC is its address, ADDRESS its lowest faulting line. A line that
the firewall refused is noticed to the context that owns it (R300), for a speculative team once its trap is raised (R259, R262). -/
def State.transferFault (s : State) (e : MEntry) (off code : Nat) : State :=
  let line := ((transferLines e.pieces).find? fun q => q.off == off).elim 0 fun q => q.key / 128
  let s := if code = cFirewall && line * 128 < regionSize then s.refuseTeam e.team [line] else s
  s.containAsync e.team code 0 e.pc (BitVec.ofNat 64 ((e.ea.toNat + off) / 128 * 128)) 0

/-! ## The queue -/

/-- A workgroup whose engine works: its gang holds the issuing slots, or leaves them and a bank's switch waits for the queue (R399),
and its context is not frozen (R133, R269). -/
def State.engineRuns (s : State) (g : Workgroup) : Bool :=
  ((s.gang? g.id.ticket).elim false fun x => x.phase == .running || (x.phase == .leaving &&
    s.cores.any fun c => c.2.banks.any fun b => b.switching.isSome && b.owner == some g.id)) && !((s.ctx? g.ctx).elim true fun c => c.frozen)

/-- Drop the head of a queue. -/
def State.popQueue (s : State) (g : WgId) : State := s.modWg g fun w => { w with queue := w.queue.drop 1 }

/-- The latch after an MMA (R145). -/
def latchAfter (tile : Nat) (reuse : Bool) : Option Nat := if reuse then some tile else none

/-- B at each position of an MMA's map; none where it is padding (R142, R143). -/
def State.readB (s : State) (ticket : Nat) (d : BitVec 128) (sh : MShape) (j n : Nat) : Option Nat :=
  if mapPadding d j n then none
  else some (natOfBytes (s.readBytes (windowKey ticket (mapOffset d j n)) sh.size))

/-- A line of B that meets an uncorrectable error (R399). -/
def State.badB (s : State) (ticket : Nat) (d : BitVec 128) (sh : MShape) : Option Nat :=
  (mapOffsets d sh).find? fun o =>
    s.poisoned (windowKey ticket o / 128) || s.checkBad (windowKey ticket o / 128)

/-- The lines of B that an MMA reads are eligible events of the injector (R283). -/
def State.injectB (s : State) (ctx ticket : Nat) (d : BitVec 128) (sh : MShape) : State :=
  if !injEn s.injCtl then s
  else (((mapOffsets d sh).map fun o => windowKey ticket o / 128).dedup).foldl (fun s line => s.injectRead ctx line) s

/-- The tile an MMA multiplies and its results, without writing them. -/
def State.mmaCompute (s : State) (g : Workgroup) (e : MEntry) (a : List Byte) (acc map : Nat) (withC : Bool) :
    List (Nat × Word) :=
  let sh := mshape (fmtAtype e.fmt)
  let d := g.maps.getD map 0
  mmaResult e.mode e.fmt withC a (mapBytes g.accs (accBytes * acc) accBytes) (s.readB g.id.ticket d sh)

/-- Write an MMA's results and merge its flags (R131, R144). -/
def State.mmaWrite (s : State) (g : WgId) (e : MEntry) (acc : Nat) (rs : List (Nat × Word)) : State :=
  let eb := acctBytes (fmtAcct e.fmt)
  let bytes := rs.flatMap fun r => bytesOfNat eb r.1
  let flags := rs.foldl (fun w r => w ||| r.2) 0
  (s.modWg g fun w => { w with accs := putBytes w.accs (accBytes * acc) bytes }).modTeam e.team fun t => t.raise flags

/-- MCHK status after a rerun (R151). -/
def State.noteRerun (s : State) (g : WgId) (row col acc tile map : Nat) (paired : Bool) : State :=
  s.modWg g fun w =>
    let n := min (w.mchk.toNat / 2 ^ 48 + 1) 0xFFFF
    { w with mchk := BitVec.ofNat 64 (n * 2 ^ 48 + row * 2 ^ 40 + col * 2 ^ 32 + acc * 2 ^ 29 + tile * 2 ^ 25
        + map * 2 ^ 21 + if paired then 2 ^ 20 else 0) }

/-- One core's check of its half of an MMA (R149, R283, R447): a correct product never mismatches, so a mismatch is an
injected one, at the row and column that INJ_SEED gives. -/
def State.checkHalf (s : State) (ctx : Nat) (sh : MShape) : Option (Nat × Nat) × State :=
  let r := s.injected 3 ctx
  (if r.1 then some (bitsAt r.2.injSeed.toNat 0 5 % sh.m, bitsAt r.2.injSeed.toNat 5 5 % sh.n) else none, r.2)

/-- The checksum and its rerun (R150). None: the result stands; else the row and column of a rerun that failed too. -/
def State.checksum (s : State) (g : WgId) (ctx acc tile map : Nat) (sh : MShape) : Option (Nat × Nat) × State :=
  match s.checkHalf ctx sh with
  | (none, s) => (none, s)
  | (some rc, s) => (s.noteRerun g rc.1 rc.2 acc tile map false).checkHalf ctx sh

/-- MAT_SDC (R150, R268). -/
def State.matSdc (s : State) (e : MEntry) (rc : Nat × Nat) (acc tile map : Nat) : State :=
  s.containAsync e.team cMatSdc 0 e.pc 0
    (map * 2 ^ 24 + tile * 2 ^ 20 + acc * 2 ^ 16 + rc.2 * 2 ^ 8 + rc.1)

/-- Execute an MMA that pairs with none (R144, R399). It reads all of B at once, so of a store that races with it each element
comes whole from before or after (R143). DESIGN CHOICE, log entry 78. -/
def State.mmaAlone (s : State) (g : Workgroup) (e : MEntry) (acc tile map : Nat) (reuse overwrite : Bool) : State :=
  let sh := mshape (fmtAtype e.fmt)
  let d := g.maps.getD map 0
  let s := ((s.modWg g.id fun w => { w with reuse := latchAfter tile reuse }).popQueue g.id).injectB g.ctx g.id.ticket d sh
  match s.badB g.id.ticket d sh with
  | some o =>
    let base := (s.ctx? g.ctx).elim 0 fun c => c.window
    s.containAsync e.team cPoison 0 e.pc (BitVec.ofNat 64 ((base + o) / 128 * 128)) 0
  | none =>
    match s.checksum g.id g.ctx acc tile map sh with
    | (some rc, s) => s.matSdc e rc acc tile map
    | (none, s) =>
      s.mmaWrite g.id e acc
        (s.mmaCompute g e (mapBytes g.tiles (tileBytes * tile) tileBytes) acc map (!overwrite))

/-- Element order of MLDT (R138): memory as it stands, or transposed. -/
def tileImage (fmt : Word) (colMajor : Bool) (bs : List Byte) : List Byte :=
  if colMajor then
    let sh := mshape (fmtAtype fmt)
    (List.range sh.m).flatMap fun i => (List.range sh.k).flatMap fun j => (bs.drop ((j * sh.m + i) * sh.size)).take sh.size
  else bs

/-- The bytes an MSTA stores and the flags it sets (R127, R138). -/
def mstaImage (mode fmt : Word) (toAtype : Bool) (acc : List Byte) : List Byte × Word :=
  if toAtype then
    let eb := acctBytes (fmtAcct fmt)
    let rs := (List.range (acctSide (fmtAcct fmt) * acctSide (fmtAcct fmt))).map fun k => mstaElem mode fmt (elemAt acc eb k)
    (rs.flatMap fun r => bytesOfNat (mshape (fmtAtype fmt)).size r.1, rs.foldl (fun w r => w ||| r.2) 0)
  else (acc.take (acctSize (fmtAcct fmt)), 0)

/-- Execute the head of a queue: the entry `e` of workgroup `g`, with its team as the issuing one. Paired MMAs are left to
their handshake. -/
def State.runEntry (s : State) (g : Workgroup) (e : MEntry) : State :=
  match e.op with
  | .mza acc => (s.modWg g.id fun w =>
      { w with accs := w.accs.filter fun x => x.1 / accBytes != acc }).popQueue g.id
  | .mmap m d => (s.modWg g.id fun w => { w with maps := w.maps.put 0 m d }).popQueue g.id
  | .mchk k =>
    let v := g.mchk
    let s := (s.modWg g.id fun w => { w with mchk := w.mchk &&& 0x0000FFFFFFFFFFFF }).popQueue g.id
    s.settle e.team k mchkReq fun p => p.fill 0 v.toNat false
  | .mma acc tile map reuse pair overwrite => if pair then s else s.mmaAlone g e acc tile map reuse overwrite
  | .mldt tile colMajor =>
    (match s.fetchTransfer e with
     | (.ok none, s') => s'
     | (.ok (some bs), s') => (s'.modWg g.id fun w =>
         { w with tiles := putBytes w.tiles (tileBytes * tile) (tileImage e.fmt colMajor bs),
                  reuse := if w.reuse = some tile then none else w.reuse }).popQueue g.id
     | (.error f, s') => (s'.popQueue g.id).transferFault e f.1 f.2)
  | .mlda acc =>
    (match s.fetchTransfer e with
     | (.ok none, s') => s'
     | (.ok (some bs), s') => (s'.modWg g.id fun w => { w with accs := putBytes w.accs (accBytes * acc) bs }).popQueue g.id
     | (.error f, s') => (s'.popQueue g.id).transferFault e f.1 f.2)
  | .msta acc toAtype =>
    let img := mstaImage e.mode e.fmt toAtype (mapBytes g.accs (accBytes * acc) accBytes)
    let w := s.who
    -- lines at a peer are stored once it has answered
    let s' := if s.transferSent e then s else (s.storeTransfer w e img.1).tick
    if s'.lapsed w.spec then s'
    else
      (match s'.transferDone e with
       | none => s'
       | some none => ((s'.dropTransfer e).popQueue g.id).modTeam e.team fun t => t.raise img.2
       | some (some f) => ((s'.dropTransfer e).popQueue g.id).transferFault e f.1 f.2)

/-- MATRIX_QUEUE_EXECUTE (R133): the engine executes the next entry of a workgroup that holds an issuing slot. -/
def execMatrixQueueExecute (g : WgId) (s : State) : Out :=
  match s.wg? g with
  | none => .next s
  | some w =>
    if !s.engineRuns w then .next s
    else
      match w.queue with
      | [] => .next s
      | e :: _ => .next (s.asTeam e.team fun s => s.runEntry w e)

/-! ## Paired engines (R147, R148) -/

/-- The workgroup a paired MMA joins: the core beside it. -/
def partnerOf (g : WgId) : WgId := if g.gx % 2 = 0 then { g with gx := g.gx + 1 } else { g with gx := g.gx - 1 }

/-- The paired MMA at the head of a queue, if one stands there. -/
def Workgroup.pairHead (w : Workgroup) : Option MEntry :=
  match w.queue with
  | e :: _ => (match e.op with
      | .mma _ _ _ _ true _ => some e
      | _ => none)
  | [] => none

/-- The fields that must be equal (R148): VAR, the types and scales of FMT, and RND, SAT and FTZ of MODE. -/
def pairMatch (e f : MEntry) : Bool :=
  let var (x : MEntry) : Bool := match x.op with | .mma _ _ _ _ _ o => o | _ => false
  var e == var f && fmtAtype e.fmt == fmtAtype f.fmt && fmtBtype e.fmt == fmtBtype f.fmt &&
    fmtAcct e.fmt == fmtAcct f.fmt && fmtAscale e.fmt == fmtAscale f.fmt && fmtBscale e.fmt == fmtBscale f.fmt &&
    ctlOf e.mode == ctlOf f.mode

/-- A team held at its paired MMA goes on past it: the handshake has succeeded. One that owes a trap meanwhile parks there (R257). -/
def State.releasePair (s : State) (e : MEntry) : State :=
  (s.modTeam e.team fun t => if t.run = .pairing then
      ({ t with run := if t.asyncNext.isEmpty then .ready else .parked } : Team).advance else t).requeue e.team

/-- A handshake fails (R148): the entry leaves the queue and its team raises CONVERGE at the MMA. -/
def State.failPair (s : State) (g : WgId) (e : MEntry) : State :=
  let s := (s.modWg g fun w => { w with pair := .quiet }).popQueue g
  s.asTeam e.team fun s =>
    if s.team.run = .pairing then takeTrap (.instr cConverge e.insn.toNat) 0 (s.setTeam fun t => { t with run := .ready })
    else s

/-- PAIRING_REQUEST (R148): the request of `g` arrives at its partner. With a paired MMA at that head the two are compared:
matching ones reserve both engines, others raise CONVERGE in both teams. -/
def execPairingRequest (g : WgId) (s : State) : Out :=
  match s.wg? g, s.wg? (partnerOf g) with
  | some w, some v =>
    match w.pairHead, v.pairHead with
    | some e, some f =>
      if !s.engineRuns w || !s.engineRuns v then .next s
      else if pairMatch e f then
        .next (((s.modWg g fun x => { x with pair := .waiting }).modWg v.id fun x => { x with pair := .reserved }).post
          (.pairingReply g))
      else .next ((s.failPair g e).failPair v.id f)
    | some _, none => .next (s.modWg g fun x =>
        if x.pair = .waiting then x else { x with pair := .waiting, pairRun := 0, pairSince := s.timebase })
    | none, _ => .next s
  | _, _ => .next s

/-- Both halves of a reserved pair (R147): the driver's tile feeds both, each core reads its own B and writes its own
accumulator; a mismatch on either reruns both, and a second one leaves both accumulators unchanged. A half whose own B meets an
error traps (R399), and the other is written as an unpaired MMA would be (R148). -/
def State.runPair (s : State) (dr pa : Workgroup) (e f : MEntry) : State :=
  match e.op, f.op with
  | .mma acc tile map reuse _ overwrite, .mma acc2 tile2 map2 _ _ _ =>
    let sh := mshape (fmtAtype e.fmt)
    let a := mapBytes dr.tiles (tileBytes * tile) tileBytes
    let s := ((s.modWg dr.id fun w => { w with reuse := latchAfter tile reuse, pair := .quiet }).modWg pa.id fun w =>
      { w with reuse := none, pair := .quiet })
    let s := ((s.popQueue dr.id).popQueue pa.id).releasePair e |>.releasePair f
    let s := (s.injectB dr.ctx dr.id.ticket (dr.maps.getD map 0) sh).injectB pa.ctx pa.id.ticket (pa.maps.getD map2 0) sh
    let badD := s.badB dr.id.ticket (dr.maps.getD map 0) sh
    let badP := s.badB pa.id.ticket (pa.maps.getD map2 0) sh
    let base := (s.ctx? dr.ctx).elim 0 fun c => c.window
    let poison (s : State) (x : MEntry) (o : Option Nat) : State := o.elim s fun o =>
      s.containAsync x.team cPoison 0 x.pc (BitVec.ofNat 64 ((base + o) / 128 * 128)) 0
    let rd := s.mmaCompute dr e a acc map (!overwrite)
    let rp := s.mmaCompute pa f a acc2 map2 (!overwrite)
    let s := poison (poison s e badD) f badP
    -- the driver's half counts first; a mismatch on either core reruns both halves (R150, R447)
    let check (bad : Option Nat) (ctx : Nat) (s : State) : Option (Nat × Nat) × State :=
      if bad.isSome then (none, s) else s.checkHalf ctx sh
    let (m1, s) := check badD dr.ctx s
    let (m2, s) := check badP pa.ctx s
    let s := m1.elim s fun rc => s.noteRerun dr.id rc.1 rc.2 acc tile map true
    let s := m2.elim s fun rc => s.noteRerun pa.id rc.1 rc.2 acc2 tile2 map2 true
    let again := m1.isSome || m2.isSome
    let (n1, s) := if again then check badD dr.ctx s else (none, s)
    let (n2, s) := if again then check badP pa.ctx s else (none, s)
    if n1.isSome || n2.isSome then
      let s := n1.elim s fun rc => s.matSdc e rc acc tile map
      n2.elim s fun rc => s.matSdc f rc acc2 tile2 map2
    else
      let s := if badD.isSome then s else s.mmaWrite dr.id e acc rd
      if badP.isSome then s else s.mmaWrite pa.id f acc2 rp
  | _, _ => s

/-- PAIRING_REPLY (R148): the reply arrives at `g`, both engines are reserved, and both halves run from the start cycle. -/
def execPairingReply (g : WgId) (s : State) : Out :=
  match s.wg? g, s.wg? (partnerOf g) with
  | some w, some v =>
    match w.pairHead, v.pairHead with
    | some e, some f =>
      if v.pair != .reserved || !s.engineRuns w || !s.engineRuns v then .next s
      else if g.gx % 2 = 0 then .next (s.runPair w v e f) else .next (s.runPair v w f e)
    | _, _ => .next s
  | _, _ => .next s

/-- True when a paired MMA has waited its 4,096 issuing cycles; cycles in which its context stood frozen count among them. DESIGN
CHOICE, log entry 79. -/
def State.pairOver (s : State) (w : Workgroup) : Bool :=
  w.pair == .waiting && s.engineRuns w && 4096 ≤ w.pairRun + (s.timebase - w.pairSince)

/-- PAIR_TIMEOUT (R148): 4,096 issuing cycles at the head without a matching partner. -/
def execPairTimeout (g : WgId) (s : State) : Out :=
  match s.wg? g with
  | none => .next s
  | some w =>
    match w.pairHead with
    | some e => if s.pairOver w then .next (s.failPair g e) else .next s
    | none => .next s

end Sys2Proof.Machine
end

