-- ==== Sys2Proof/Machine/Gcm.lean ====
section
/-!
DEFINITION. Machine/Gcm.lean: AES-256-GCM and GMAC, the cipher the manual names for tasks and confidential copies (R7, R294,
R302), written from the published standards (FIPS 197, SP 800-38D).
-/

namespace Sys2Proof.Machine

/-! ## AES-256 -/

/-- Multiply by x in GF(2^8) with the polynomial x^8 + x^4 + x^3 + x + 1. -/
def aesXtime (b : Nat) : Nat := (if 128 ≤ b then (2 * b) ^^^ 0x11B else 2 * b)
/-- Multiplication in that field. -/
def aesMul (a b : Nat) : Nat :=
  ((List.range 8).foldl (fun (r : Nat × Nat) i =>
    (if b / 2 ^ i % 2 = 1 then r.1 ^^^ r.2 else r.1, aesXtime r.2)) (0, a)).1
/-- The inverse, as the 254th power; 0 for 0. -/
def aesInv (a : Nat) : Nat :=
  let sq (x : Nat) : Nat := aesMul x x
  let a2 := sq a
  let a4 := sq a2
  let a8 := sq a4
  let a16 := sq a8
  let a32 := sq a16
  let a64 := sq a32
  aesMul (sq a64) (aesMul a64 (aesMul a32 (aesMul a16 (aesMul a8 (aesMul a4 a2)))))
/-- The S-box. -/
def aesSub (a : Nat) : Nat :=
  let b := aesInv a
  let rot (n : Nat) : Nat := (b * 2 ^ n) % 256 + b / 2 ^ (8 - n)
  b ^^^ rot 1 ^^^ rot 2 ^^^ rot 3 ^^^ rot 4 ^^^ 0x63

def xorBytes (a b : List Nat) : List Nat := List.zipWith (fun x y => x ^^^ y) a b

/-- The round constants of AES-256. -/
def aesRcon (i : Nat) : Nat := 2 ^ (i - 1)

/-- Expand the key: words of four bytes, newest last, until there are 60. -/
def aesExpand : Nat → List (List Nat) → List (List Nat)
  | 0, ws => ws
  | n + 1, ws =>
    let i := ws.length
    let t := ws.getD (i - 1) []
    let t := if i % 8 = 0 then xorBytes ((t.drop 1 ++ t.take 1).map aesSub) [aesRcon (i / 8), 0, 0, 0]
      else if i % 8 = 4 then t.map aesSub else t
    aesExpand n (ws ++ [xorBytes (ws.getD (i - 8) []) t])

/-- The fifteen round keys. -/
def aesKeys (key : List Nat) : List (List Nat) :=
  let ws := aesExpand 52 ((List.range 8).map fun i => (key.drop (4 * i)).take 4)
  (List.range 15).map fun r => ((ws.drop (4 * r)).take 4).flatten

/-- Row r of the state moves r columns to the left; bytes stand column by column. -/
def aesShiftRows (s : List Nat) : List Nat := (List.range 16).map fun i => s.getD ((i + 4 * (i % 4)) % 16) 0
def aesMixColumns (s : List Nat) : List Nat :=
  (List.range 16).map fun i =>
    let c (k : Nat) : Nat := s.getD (i / 4 * 4 + (i + k) % 4) 0
    aesMul (c 0) 2 ^^^ aesMul (c 1) 3 ^^^ c 2 ^^^ c 3

/-- Encrypt one block. PRESUMED, log entry 65. -/
def aesBlock (keys : List (List Nat)) (x : List Nat) : List Nat :=
  let s := (List.range 13).foldl (fun s r =>
    xorBytes (aesMixColumns (aesShiftRows (s.map aesSub))) (keys.getD (r + 1) [])) (xorBytes x (keys.getD 0 []))
  xorBytes (aesShiftRows (s.map aesSub)) (keys.getD 14 [])

/-! ## GCM -/

/-- Sixteen bytes as one number, first byte highest, and back. -/
def blockNat (bs : List Nat) : Nat := (List.range 16).foldl (fun a i => a * 256 + bs.getD i 0) 0
def blockBytes (n : Nat) : List Nat := (List.range 16).map fun i => n / 256 ^ (15 - i) % 256

/-- Multiplication in GF(2^128) as GHASH defines it. -/
def ghashMul (x y : Nat) : Nat :=
  ((List.range 128).foldl (fun (r : Nat × Nat) i =>
    (if x / 2 ^ (127 - i) % 2 = 1 then r.1 ^^^ r.2 else r.1,
     if r.2 % 2 = 1 then (r.2 / 2) ^^^ 0xE1000000000000000000000000000000 else r.2 / 2)) (0, y)).1

/-- GHASH over data padded to whole blocks. -/
def ghash (h : Nat) (acc : Nat) (data : List Nat) : Nat :=
  (List.range ((data.length + 15) / 16)).foldl (fun a i => ghashMul (a ^^^ blockNat ((data.drop (16 * i)).take 16)) h) acc

/-- Key and IV as bytes, in the order the manual lays them down. -/
structure GcmKey where
  key : List Nat
  iv : List Nat
deriving DecidableEq, Repr

/-- The key stream of block `n` counted from the one that masks the tag. -/
def GcmKey.stream (g : GcmKey) (ks : List (List Nat)) (n : Nat) : List Nat :=
  aesBlock ks (g.iv ++ (List.range 4).map fun i => (n + 1) / 256 ^ (3 - i) % 256)

/-- Encryption and decryption alike: data under the key stream. -/
def gcmCrypt (g : GcmKey) (data : List Nat) : List Nat :=
  let ks := aesKeys g.key
  (List.range ((data.length + 15) / 16)).flatMap fun i => xorBytes ((data.drop (16 * i)).take 16) (g.stream ks (i + 1))

/-- The tag over additional data and ciphertext. -/
def gcmTag (g : GcmKey) (aad ct : List Nat) : List Nat :=
  let ks := aesKeys g.key
  let h := blockNat (aesBlock ks (List.replicate 16 0))
  let s := ghash h (ghash h 0 aad) ct
  let s := ghashMul (s ^^^ (aad.length * 8 * 2 ^ 64 + ct.length * 8)) h
  xorBytes (blockBytes s) (g.stream ks 0)

/-- A 256-bit key as bytes, the lowest first (R11). -/
def keyBytes (k : BitVec 256) : List Nat := (List.range 32).map fun i => k.toNat / 256 ^ i % 256
/-- The IV: 32-bit salt, then a 64-bit count, each little-endian (R294, R302). -/
def ivBytes (salt count : Nat) : List Nat :=
  ((List.range 4).map fun i => salt / 256 ^ i % 256) ++ (List.range 8).map fun i => count / 256 ^ i % 256

end Sys2Proof.Machine
end

