-- ==== Sys2Proof/Machine/Start.lean ====
section
/-!
DEFINITION. Machine/Start.lean: the state every team starts in (R45, R50, R80), and the allocation of registers.
-/

namespace Sys2Proof.Machine

/-- Vector registers allocated for a declared count: whole granules of 8 (R80). -/
def allocV (nv : Nat) : Nat := roundUpTo 8 nv
/-- Lane-capability registers allocated for a declared count: whole granules of 2 (R80). -/
def allocQ (nq : Nat) : Nat := roundUpTo 2 nq

/-- The capability of the whole window of a gang (R50). -/
def windowCap (base : Nat) (sh : Shape) : Cap :=
  (capExact base (524288 * (sh.w * sh.h)) (permLoad + permStore + permLoadCap + permStoreCap + permAtomic) 0).getD
    Cap.null

/-- The placement word (R45); NTEAM is the team count less one. -/
def placementWord (sh : Shape) (gx gy idx : Nat) : Dword :=
  BitVec.ofNat 64 (idx % 16 + (sh.nteam - 1) % 16 * 16 + gx * 256 + gy * 4096 + sh.w * 65536 + sh.h * 1048576
    + sh.width * 16777216)

/-- A team at its start (R45): s2 holds the placement word, where R462's table has 0. DESIGN CHOICE, log entry 109. -/
def Team.start (g : Gang) (c : Ctx) (code args : Cap) (gx gy idx : Nat) : Team :=
  { Team.idle with
    id := ⟨g.ticket, gx, gy, idx⟩, ctx := g.ctx, width := g.shape.width, nv := allocV g.shape.nv,
    nq := allocQ g.shape.nq, run := .ready, pc := g.shape.entry, active := fullMask g.shape.width,
    codeCap := code,
    v := SMap.put [] [] 0 ((List.range g.shape.width).map fun l => BitVec.ofNat 32 l),
    s := ((SMap.put 0 [] 0 (BitVec.ofNat 64 (g.y * 4294967296 + g.x % 4294967296))).put 0 1
      (BitVec.ofNat 64 g.z)).put 0 2 (placementWord g.shape gx gy idx),
    c := (SMap.put Cap.null [] 14 args).put Cap.null 15 (windowCap c.window g.shape) }

end Sys2Proof.Machine
end

