-- ==== Sys2Proof/Machine/Jobs.lean ====
section
/-!
DEFINITION. Machine/Jobs.lean: job cards (R237, R238, R369), engine queues (R35), and the records the device owes
contexts about packets and jobs (R270, R271).
-/

namespace Sys2Proof.Machine

/-! ## Status codes (R232) -/

def stOk : Nat := 0
def stMalformed : Nat := 1
def stHandle : Nat := 2
def stDescriptor : Nat := 3
def stFault : Nat := 4
def stTimeout : Nat := 5
def stPoison : Nat := 6
def stLost : Nat := 7
def stBadtag : Nat := 8
def stViral : Nat := 9
def stRefused : Nat := 10
def stDiscarded : Nat := 11

/-! ## Records -/

/-- An event record of a kind about no packet and no gang (R271). -/
def EventRec.plain (kind ctx time : Nat) : EventRec :=
  { kind := kind, cause := 0, status := 0, flags := 0, queue := 0xFFFF, ctx := ctx, tag := 0, ticket := 0, number := 0,
    address := 0, pc := 0, whr := 0, detail := 0, time := time }

/-- Owe a context an event record: it is written when the event queue is next served (R270). -/
def State.owe (s : State) (r : EventRec) : State :=
  s.modCtx r.ctx fun c => { c with evtDue := c.evtDue ++ [{ r with flags := r.flags ||| (if c.viral then 8 else 0) }] }

/-! ## Cards -/

/-- The `n`-byte number at offset `o` of an image. -/
def fieldAt (bs : List Byte) (o n : Nat) : Nat := natOfBytes ((bs.drop o).take n)
/-- True when bytes `[o, o + n)` are all zero. -/
def zeroAt (bs : List Byte) (o n : Nat) : Bool := ((bs.drop o).take n).all fun b => b == 0

/-- OPER (R237). -/
def operOf : Nat → Option Oper
  | 0 => some .copy | 1 => some .copy2d | 2 => some .fill | 3 => some .gather | 4 => some .redscat
  | 5 => some .allgath | 6 => some .publish | 7 => some .cin | 8 => some .cout | _ => none

/-- Which of SRC, DST and AUX an OPER uses (R369). -/
def Oper.usesSrc : Oper → Bool
  | .fill => false
  | _ => true
def Oper.usesDst : Oper → Bool
  | .publish => false
  | _ => true
def Oper.usesAux : Oper → Bool
  | .gather | .redscat | .allgath | .cin | .cout | .publish => true
  | .copy | .copy2d | .fill => false

/-- A capability granule a card or packet may use: tagged, unsealed, with the permissions (R369). -/
def Cap.usable (k : Cap) (need : Nat) : Bool := k.tag && !k.isSealed && k.has need
/-- True when `n` bytes from the cursor lie within the bounds. -/
def Cap.coversCur (k : Cap) (n : Nat) : Bool :=
  match capDecode k with
  | some (b, t) => b ≤ k.cur && k.cur + n ≤ t
  | none => false

/-- The location a context's tables give a virtual address: none where no page is mapped; the window is local. -/
def State.locOf (s : State) (ctx va : Nat) : Option Nat :=
  (s.ctx? ctx).bind fun c =>
    if c.window ≤ va ∧ va < c.window + 16777216 then some 0
    else match c.walk va with
      | .ok e => some (pteLoc e)
      | .error _ => none

/-- A completion counter (R231, R369): ATOMIC and STORE over 8 aligned bytes outside host memory. -/
def State.counterUsable (s : State) (ctx : Nat) (k : Cap) (need : Nat) : Bool :=
  k.usable need && k.cur % 8 == 0 && k.coversCur 8 && s.locOf ctx k.cur != some 1

/-- The least and the most bytes of a confidential copy, in blocks of 16 (R302). -/
def cipherMax : Nat := 67108864
def cipherLen (n : Nat) : Bool := 16 ≤ n && n ≤ cipherMax && n % 16 == 0

/-- The check of a card (R369): MALFORMED, HANDLE or OK. `inMemory` is false in a packet, whose header is checked
apart. A card that fails several checks is MALFORMED first, the length of a confidential copy among them (R461). DESIGN CHOICE, log
entry 98. -/
def State.cardStatus (s : State) (ctx : Nat) (inMemory : Bool) (bs : List Byte) (ctr src dst aux : Cap) : Nat :=
  match operOf (fieldAt bs 80 1) with
  | none => stMalformed
  | some o =>
    let p1 := fieldAt bs 112 8
    if (inMemory && !zeroAt bs 0 4) || !zeroAt bs 81 7 || (o != .copy2d && !zeroAt bs 120 8)
        || (o == .gather && (p1 == 0 || 4096 < p1)) || ((o == .cin || o == .cout) && !cipherLen (fieldAt bs 104 8)) then stMalformed
    else if (ctr != Cap.null && !s.counterUsable ctx ctr (permAtomic + permStore))
        || (o.usesSrc && !src.usable permLoad) || (o.usesDst && !dst.usable permStore)
        || (o.usesAux && !aux.usable permLoad) then stHandle
    else stOk

/-! ## Engine queues -/

def State.engineQueue (s : State) (e : Nat) : List Job := s.engines.getD e []
/-- The engine a selector names (R237): its number, or for 0xFFFF the one with the fewest queued jobs. -/
def State.engineFor (s : State) (sel : Nat) : Option Nat :=
  if sel < 128 then some sel
  else if sel = 0xFFFF then
    some ((List.range 128).foldl (fun best e =>
      if (s.engineQueue e).length < (s.engineQueue best).length then e else best) 0)
  else none
/-- True while an engine's queue holds 64 jobs (R35). -/
def State.engineFull (s : State) (e : Nat) : Bool := 64 ≤ (s.engineQueue e).length
/-- The index in its queue that an engine's next job takes. -/
def nextIndex (q : List Job) : Nat := (q.getLast?.elim 0 fun j => j.index + 1) % 64

/-- A job from a card's bytes and its four capabilities; `ended` holds the status of a card that fails its check. -/
def State.makeJob (s : State) (ctx e : Nat) (bs : List Byte) (ctr src dst aux : Cap) (ticket : Nat) (super : Bool)
    (packet : Option (Nat × Nat)) (status : Nat) : Job :=
  { seq := s.nextJob, engine := e, index := nextIndex (s.engineQueue e), ctx := ctx, oper := (operOf (fieldAt bs 80 1)).getD .copy,
    ctr := ctr, src := src, dst := dst, aux := aux, snarrow := fieldAt bs 88 8, dnarrow := fieldAt bs 96 8,
    len := fieldAt bs 104 8, p1 := fieldAt bs 112 8, p2 := fieldAt bs 120 8,
    amount := BitVec.ofNat 64 (fieldAt bs 8 8), tag := fieldAt bs 4 4, ticket := ticket, super := super, packet := packet,
    started := false, keyed := none, paid := false, ended := if status = stOk then none else some status, cause := 0 }
def State.enqueue (s : State) (e : Nat) (j : Job) : State :=
  { s with engines := s.engines.put [] e (s.engineQueue e ++ [j]), nextJob := s.nextJob + 1 }

/-- The record of a JOB instruction's job that ended with an error (R233, R271). DESIGN CHOICE, log entry 62. -/
def State.jobRecord (s : State) (ctx e index status cause tag ticket : Nat) : State :=
  s.owe { EventRec.plain 3 ctx s.domainClock with
    status := status, cause := cause, tag := tag, ticket := ticket, number := e % 256 * 256 + index % 64 }

end Sys2Proof.Machine
end

