-- ==== Sys2Proof/Machine/Agents.lean ====
section
/-!
DEFINITION. Machine/Agents.lean: what the command processor and firmware do on a context's behalf: the event queue (R270),
reads and writes of virtual addresses, the capability table (R168), and stopping a queue (R229, R232, R233).
-/

namespace Sys2Proof.Machine

/-! ## The event queue -/

/-- The key of a host physical address. -/
def hostKey (a : Nat) : Nat := regionSize + a

/-- The 64 bytes of a record (R270). -/
def EventRec.bytes (r : EventRec) (phase : Bool) : List Byte :=
  bytesOfNat 1 ((if phase then 128 else 0) + r.kind) ++ bytesOfNat 1 r.cause ++ bytesOfNat 1 r.status
    ++ bytesOfNat 1 r.flags ++ bytesOfNat 2 r.queue ++ bytesOfNat 2 r.ctx ++ bytesOfNat 4 r.tag ++ bytesOfNat 4 r.ticket
    ++ bytesOfNat 8 r.number ++ bytesOfNat 8 r.address.toNat ++ bytesOfNat 8 r.pc.toNat ++ bytesOfNat 8 r.whr.toNat
    ++ bytesOfNat 8 r.detail.toNat ++ bytesOfNat 8 r.time

/-- Room in the event queue: n - CONSUMED < 2^LOG2N (R270). -/
def State.eventRoom (s : State) (c : Ctx) : Bool :=
  let consumed := natOfBytes (s.readBytes (hostKey (c.evtCtl + 8)) 8)
  (c.evtWritten + 2 ^ 64 - consumed) % 2 ^ 64 < 2 ^ c.evtLog2

/-- Write one record, then WRITTEN, then the interrupt of the context's function; the manual names no vector. -/
def State.writeEvent (s : State) (ctx : Nat) (r : EventRec) : State :=
  match s.ctx? ctx with
  | none => s
  | some c =>
    if !s.eventRoom c then s.modCtx ctx fun c => { c with evtLost := c.evtLost + 1 }
    else
      let n := c.evtWritten
      let phase := n / 2 ^ c.evtLog2 % 2 == 0
      let s := s.homeWrite (hostKey (c.evtRing + 64 * (n % 2 ^ c.evtLog2))) (r.bytes phase)
      let s := s.homeWrite (hostKey c.evtCtl) (bytesOfNat 8 (n + 1))
      let s := s.modCtx ctx fun c => { c with evtWritten := n + 1 }
      (s.send (.msix c.function (Config.freeNat s.oracle (2 ^ 67) % 64))).tick

/-- The LOST record, once space frees (R270). -/
def State.writeLost (s : State) (ctx : Nat) : State :=
  match s.ctx? ctx with
  | none => s
  | some c =>
    if c.evtLost = 0 || !s.eventRoom c then s
    else (s.modCtx ctx fun c => { c with evtLost := 0 }).writeEvent ctx
      { EventRec.plain 6 ctx s.domainClock with number := c.evtLost, flags := if c.viral then 8 else 0 }

/-- Write every record owed to a context. -/
def State.serveEvents (s : State) (ctx : Nat) : State :=
  match s.ctx? ctx with
  | none => s
  | some c =>
    let s := (s.writeLost ctx).modCtx ctx fun c => { c with evtDue := [] }
    c.evtDue.foldl (fun s r => s.writeEvent ctx r) s

/-! ## Accesses of the command processor -/

/-- The command processor on behalf of a context: it belongs to no cluster and reaches SUP pages, and the rings and reports it
serves stand where their producers reach them, a confidential context's too. -/
def cpWho (ctx : Nat) : Who := ⟨ctx, 0, true, noCluster, noCore + 1000, none, true⟩

/-- Why the command processor cannot do something: it waits for a migrating page, or it fails with a status (R229). -/
inductive CpStop where
  | wait
  | fail (status : Nat)
deriving DecidableEq, Repr

/-- The status a cause gives a packet or job (R229, R231, R232). -/
def statusOf (cause : Nat) : Nat :=
  if cause = cPoison || cause = cCheck then stPoison
  else if cause = cExpLost then stLost
  else if cause = cViral then stViral
  else stFault

/-- Where a virtual address of a context stands: no capability covers it, so the page's own GEN is taken. -/
def State.cpPlace (s : State) (ctx va n : Nat) (a : Access) : Except CpStop Part :=
  match s.ctx? ctx with
  | none => .error (.fail stFault)
  | some c =>
    let gen := match s.lookup (cpWho ctx) c va with | .ok (e, _) => pteGen e | .error _ => 0
    match s.pagePart (cpWho ctx) c gen a va n with
    | .error (code, _, _) => .error (.fail (statusOf code))
    | .ok none => .error .wait
    -- rings, report blocks and tables lie in local, host or expander memory (R227)
    | .ok (some p) => if p.loc = 3 then .error (.fail stFault) else .ok p

/-- Read bytes that lie on one page. DESIGN CHOICE, log entry 60. -/
def State.cpRead (s : State) (ctx va n : Nat) : Except CpStop (List Byte × List Bool) × State :=
  match s.cpPlace ctx va n .read with
  | .error e => (.error e, s)
  | .ok p =>
    match (s.touch (cpWho ctx) .read [p]).readRun (cpWho ctx) p.key p.len with
    | (.error code, s') => (.error (.fail (statusOf code)), s')
    | (.ok (bs, ts), s') =>
      let tags := ((linePieces p.key p.len).zip ts).flatMap fun x =>
        (List.range ((x.1.2 + 15) / 16)).map fun g =>
          (BitVec.ofNat 8 x.2).getLsbD (x.1.1 % 128 / 16 + g) && regionTagged x.1.1
      (.ok (bs, tags), s')

/-- Write bytes that lie on one page, at their home. -/
def State.cpWrite (s : State) (ctx va : Nat) (bs : List Byte) : Except CpStop Unit × State :=
  match s.cpPlace ctx va bs.length .write with
  | .error e => (.error e, s)
  | .ok p => (.ok (), (s.touch (cpWho ctx) .write [p]).writeRun (cpWho ctx) p.key bs false p.coh)

/-! ## The capability table (R168) -/

/-- Entry `h` of a context's capability table: the null capability for handle 0, and HANDLE beyond the table or where the
entry cannot be read. -/
def State.handleCap (s : State) (ctx h : Nat) : Except CpStop Cap × State :=
  match s.ctx? ctx with
  | none => (.error (.fail stHandle), s)
  | some c =>
    if h = 0 then (.ok Cap.null, s)
    else if 2 ^ c.capLog2 ≤ h then (.error (.fail stHandle), s)
    else
      match s.cpRead ctx (c.supBase + 16 * h) 16 with
      | (.error .wait, s') => (.error .wait, s')
      | (.error _, s') => (.error (.fail stHandle), s')
      | (.ok (bs, tags), s') => (.ok (s'.filterCap ctx ⟨tags.headD false, BitVec.ofNat 128 (natOfBytes bs)⟩), s')

/-- A handle field: bytes 0 and 1 the handle, the other 14 zero (R230). -/
def State.handleField (s : State) (ctx : Nat) (granule : List Byte) : Except CpStop Cap × State :=
  if zeroAt granule 2 14 then s.handleCap ctx (fieldAt granule 0 2) else (.error (.fail stMalformed), s)

/-! ## Report blocks and stopping a queue (R229, R232, R233) -/

/-- The report block's bytes. -/
def Queue.reportBytes (q : Queue) : List Byte :=
  bytesOfNat 8 q.fetched ++ bytesOfNat 8 q.retired ++ bytesOfNat 1 (if q.stopped then 1 else 0)
    ++ bytesOfNat 1 q.stopStatus ++ bytesOfNat 2 0 ++ bytesOfNat 4 q.stopTag ++ bytesOfNat 8 q.stopNumber
    ++ List.replicate 32 0

def State.queue? (s : State) (slot : Nat) : Option Queue := s.queues.find? slot
def State.modQueue (s : State) (slot : Nat) (f : Queue → Queue) : State := { s with queues := s.queues.modify slot f }

/-- Write a queue's report block; the status of the failure if it cannot be written. DEDUCED, log entry 69. -/
def State.report (s : State) (slot : Nat) : Except CpStop Unit × State :=
  match s.queue? slot with
  | none => (.ok (), s)
  | some q =>
    match s.cpPlace q.ctx q.report 64 .write with
    | .error e => (.error e, s)
    | .ok p =>
      -- a poisoned line, or one that fails its check, is not written (R229)
      if s.poisoned (p.key / 128) then (.error (.fail stPoison), s)
      else if s.checkBad (p.key / 128) then
        (.error (.fail stPoison), s.failLine (p.key / 128))
      else s.cpWrite q.ctx q.report q.reportBytes

/-- Write a queue's report block, or owe it while its page is migrating (R188): after the fetch of packet `n`, or of none. The
status of the failure if it cannot be written. -/
def State.reportNow (s : State) (slot : Nat) (n : Option Nat) : Option Nat × State :=
  match s.report slot with
  | (.ok _, s') => (none, s'.modQueue slot fun q => { q with owed := none })
  | (.error .wait, s') => (none, s'.modQueue slot fun q =>
      { q with owed := match n, q.owed with
          | some k, _ => some (k + 1)
          | none, some k => some k
          | none, none => some 0 })
  | (.error (.fail st), s') => (some st, s'.modQueue slot fun q => { q with owed := none })

/-- The PACKET record of a packet (R271), with the CAUSE of a JOB packet's job (R238). -/
def State.packetRecord (s : State) (q : Queue) (status cause tag number : Nat) : State :=
  s.owe { EventRec.plain 2 q.ctx s.domainClock with
    cause := cause, status := status, queue := q.number, tag := tag, number := number }

/-- TAG and KIND of a packet image (R230). -/
def Packet.tag (p : Packet) : Nat := fieldAt p.image 4 4
def Packet.kind (p : Packet) : Nat := fieldAt p.image 0 1 % 16
def Packet.started (p : Packet) : Bool := p.wait != .notStarted

/-- A task accepted by a Bilran L is answered with its status (R453). -/
def State.answerTask (s : State) (q : Queue) (p : Packet) (status : Nat) : State :=
  match p.task with
  | none => s
  | some seq => s.send (.taskStatus ((s.ctx? q.ctx).elim 0 fun c => c.function) seq status)

/-- A packet as taken. -/
def newPacket (num : Nat) (inlet : Bool) (img : List Byte) (task after : Option Nat) : Packet :=
  { num := num, inlet := inlet, image := img, wait := .notStarted, ctr := none, task := task, after := after }

/-- Every task of a queue that has not been answered is, and no more is said of it (R453). -/
def State.answerAll (s : State) (slot status : Nat) : State :=
  match s.queue? slot with
  | none => s
  | some q =>
    let s := q.packets.foldl (fun s p => s.answerTask q p status) s
    let s := q.inlet.foldl (fun s x => s.answerTask q (newPacket 0 true x.1 x.2 none) status) s
    s.modQueue slot fun q => { q with packets := q.packets.map fun p => { p with task := none }, inlet := [] }

/-- Stop a queue for a packet that ended with `status` (R233): the report, the record, and the packets fetched and not
started complete as DISCARDED. The task of a launch reported while it runs is answered with that status (R453). A report block
that cannot be written leaves the record in its place (R229). -/
def State.stopQueue (s : State) (slot status tag number : Nat) (cause : Nat := 0) : State :=
  match s.queue? slot with
  | none => s
  | some q =>
    if q.stopped then s.packetRecord q status cause tag number
    else
    let left := q.packets.filter fun p => !p.started
    let s := left.foldl (fun s p => s.answerTask q p stDiscarded) s
    let named (p : Packet) : Bool := p.started && p.num == number
    let s := (q.packets.filter named).foldl (fun s p => s.answerTask q p status) s
    let s := s.modQueue slot fun q =>
      { q with stopped := true, stopStatus := status, stopTag := tag, stopNumber := number, scanning := false,
               latched := false, retired := q.retired + left.length,
               packets := (q.packets.filter Packet.started).map fun p => if named p then { p with task := none } else p }
    let s := (s.reportNow slot none).2
    let s := s.packetRecord q status cause tag number
    s.discardSpecs 9 fun p => p.queue == slot

/-- The queues of a context. -/
def State.queuesOf (s : State) (ctx : Nat) : List Nat :=
  (s.queues.filter fun x => x.2.ctx = ctx).map Prod.fst

/-- Every queue of a context stops because of viral mode (R279): the packet that started earliest and has not completed is
reported with VIRAL. A queue without one is reported with TAG 0 and NUMBER 0. DESIGN CHOICE, log entry 105. -/
def State.stopViral (s : State) (ctx : Nat) : State :=
  (s.queuesOf ctx).foldl (fun s slot =>
    match s.queue? slot with
    | some q =>
      if q.stopped then s
      else
        match q.packets.find? Packet.started with
        | some p => s.stopQueue slot stViral p.tag p.num
        | none => s.stopQueue slot stViral 0 0
    | none => s) s

/-- Every queue of a context stops as DISCARDED (R272), and its tasks are answered so (R453). The packet named is the one that started
earliest. DESIGN CHOICE, log entry 105. -/
def State.stopKilled (s : State) (ctx : Nat) : State :=
  (s.queuesOf ctx).foldl (fun s slot =>
    match s.queue? slot with
    | some q =>
      let s := s.answerAll slot stDiscarded
      let p := (q.packets.find? Packet.started).getD ⟨0, false, [], .notStarted, none, none, none⟩
      let s := s.modQueue slot fun q => { q with packets := [], retired := q.retired + q.packets.length }
      if q.stopped then s else s.stopQueue slot stDiscarded p.tag p.num
    | none => s) s

/-- True of a line outside local memory and the gang windows. -/
def leavesLine (line : Nat) : Bool := 1 ≤ line * 128 / regionSize && line * 128 / regionSize < winRegion 0

/-- A copy less the bytes a context wrote that have not been passed on. -/
def Copy.cut (c : Copy) (ctx : Nat) : Copy :=
  let m := c.writers.getD ctx 0
  { c with valid := c.valid &&& ~~~m, dirty := c.dirty &&& ~~~m, writers := c.writers.erase ctx }

/-- A viral context's writes to lines outside local memory that the device still holds are lost at the port (R225, R279): which of
them had been forwarded already is left open, so each line's go by a free choice. -/
def State.cutOutbound (s : State) (ctx : Nat) : State :=
  let s := (s.copyKeys true fun k => leavesLine (copyLine k)).foldl State.writeBack s
  let ks := (s.copies.filter fun x => leavesLine (copyLine x.1) && x.2.writers.getD ctx 0 != 0).map Prod.fst
  match ks with
  | [] => s
  | _ =>
    let s' := ((List.range ks.length).zip ks).foldl (fun (s : State) (i, k) =>
      if Config.freeBool s.oracle (8 * i + 5) then s.writeBack k
      else ({ s with copies := s.copies.modify k fun c => c.cut ctx }).modCtx ctx fun c => { c with dropped := c.dropped + 1 }) s
    s'.tick

/-- A context enters viral mode (R278, R279): its queues stop, its speculations go, and its outbound writes are cut, with a
NOTICE of how many were dropped. -/
def State.goViral (s : State) (ctx : Nat) : State :=
  let s := s.modCtx ctx fun c => { c with viral := true }
  let s := s.discardSpecs 10 fun p => p.ctx == ctx
  let s := (s.stopViral ctx).cutOutbound ctx
  match (s.ctx? ctx).elim 0 Ctx.dropped with
  | 0 => s
  | n => (s.modCtx ctx fun c => { c with dropped := 0 }).owe { EventRec.plain 4 ctx s.domainClock with number := n }

end Sys2Proof.Machine
end

