-- ==== Sys2Proof/Machine/Control.lean ====
section
/-!
DEFINITION. Machine/Control.lean: branches, the divergence stack and the handler's return (R59 to R61, R101, R160, R267,
R318 to R328, R371, R394, R412, R414, R437, R442).
-/

namespace Sys2Proof.Machine

/-- The target of a branch: its own address plus four times OFF20 (R319). The address of a branch is that of its word,
which no prefix precedes. -/
def Team.target (t : Team) (off : Int) : Dword := t.pc + BitVec.ofInt 64 (4 * off)

/-- Take a branch if its target lies in the code capability, else trap CAP_BOUND with nothing changed (R160). -/
def branchTo (i : Instr) (target : Dword) (s : State) (f : Team → Team) : Out :=
  if inCode s.team.codeCap target 4 then .next { s with team := f s.team } else trapWith cCapBound i s

/-- Raise STACK with its WHY (R61). -/
def trapStack (why : Nat) (i : Instr) (s : State) : Out :=
  .next (takeTrap (.detailed cStack why (insnOf i)) 0 (s.setTeam fun t => { t with why := why }))

/-- FindLive (R60): entries above the first one that holds a lane outside `x`, that entry, and those below it. -/
def findLive (x : Mask) : List StackEntry → Option (StackEntry × List StackEntry)
  | [] => none
  | e :: es => if e.mask &&& ~~~x = 0 then findLive x es else some (e, es)

/-- The lanes every selected lane of which holds predicate `p`: BRC's and SSEL's vote (R320, R426). -/
def Team.vote (t : Team) (all : Bool) (p : Nat) : Bool :=
  if all then (List.range t.width).all fun l => !t.selected l || t.getP p l
  else (List.range t.width).any fun l => t.selected l && t.getP p l

/-- PopTop once a live entry has been found (R60). -/
def Team.pop (t : Team) (e : StackEntry) (rest : List StackEntry) : Team :=
  ({ t with stack := rest, active := e.mask &&& ~~~t.exited, mode := e.mode, fmt := e.fmt }).goto e.addr

/-- A team with no live lane ends (R16 Retire); its gang retires once R54 holds. -/
def retireTeam (s : State) : State :=
  (s.setTeam fun t => { t with run := .retired, latch := Latch.empty, replay := none }).post
    (.gangRetire s.team.id.ticket)

/-- BRA (R319). -/
def execBra (off : Int) (s : State) : Out :=
  issue (.bra off) s fun s =>
    let a := s.team.target off
    branchTo (.bra off) a s fun t => t.goto a

/-- BRC (R320). -/
def execBrc (all : Bool) (p : Nat) (off : Int) (s : State) : Out :=
  issue (.brc all p off) s fun s =>
    let a := s.team.target off
    branchTo (.brc all p off) a s fun t => if t.vote all p then t.goto a else t.advance

/-- BRD (R60, R321). -/
def execBrd (neg : Bool) (p : Nat) (off : Int) (s : State) : Out :=
  issue (.brd neg p off) s fun s =>
    let t := s.team
    let a := t.target off
    if !inCode t.codeCap a 4 then trapWith cCapBound (.brd neg p off) s
    else
      let taken := maskOf t.width fun l => t.selected l && (t.getP p l != neg)
      let rest := t.active &&& ~~~taken
      if taken = 0 then .next { s with team := t.advance }
      else if rest = 0 then .next { s with team := t.goto a }
      else if 32 ≤ t.stack.length then trapStack 1 (.brd neg p off) s
      else .next { s with team :=
        { t.advance with stack := ⟨.path, a, taken, t.mode, t.fmt⟩ :: t.stack, deep := max t.deep (t.stack.length + 1),
                         active := rest } }

/-- CALL (R323): the return address goes to s63 only when the target is in bounds. -/
def execCall (off : Int) (s : State) : Out :=
  issue (.call off) s fun s =>
    let a := s.team.target off
    branchTo (.call off) a s fun t => (t.setS 63 (t.pc + 4)).goto a

/-- MARK (R60, R394). -/
def execMark (off : Int) (s : State) : Out :=
  issue (.mark off) s fun s =>
    let t := s.team
    let a := t.target off
    if !inCode t.codeCap a 4 then trapWith cCapBound (.mark off) s
    else if 32 ≤ t.stack.length then trapStack 1 (.mark off) s
    else .next { s with team := { t.advance with stack := ⟨.join, a, t.active, t.mode, t.fmt⟩ :: t.stack,
                                                 deep := max t.deep (t.stack.length + 1) } }

/-- NOP (R405). -/
def execNop (s : State) : Out := issue .nop s (done id)

/-- RET (R412). -/
def execRet (a : Nat) (s : State) : Out :=
  issue (.ret a) s fun s =>
    let x := s.team.getS a
    if 2 ^ 57 ≤ x.toNat || x.toNat % 4 != 0 then trapWith cCapBound (.ret a) s
    else branchTo (.ret a) x s fun t => t.goto x

/-- JOIN (R60, R371). -/
def execJoin (s : State) : Out :=
  issue .join s fun s =>
    let t := s.team
    match findLive t.exited t.stack with
    | some (e, rest) => .next { s with team := t.pop e rest }
    | none =>
      if t.spilled != 0 then trapStack 2 .join s
      else if t.active = 0 then .next (retireTeam s)
      else trapStack 3 .join s

/-- The pop of R44: a team whose active set is empty takes up its next live entry, needs a refill, or ends. -/
def popEmpty (i : Instr) (s : State) : Out :=
  let t := s.team
  match findLive t.exited t.stack with
  | some (e, rest) => .next { s with team := t.pop e rest }
  | none => if t.spilled != 0 then trapStack 2 i s else .next (retireTeam s)

/-- Take lanes out of every entry of the stack (R60). -/
def stripLanes (x : Mask) (es : List StackEntry) : List StackEntry := es.map fun e => { e with mask := e.mask &&& ~~~x }

/-- EXIT outside a handler (R60): the active lanes leave for good. -/
def exitPlain (s : State) : Out :=
  let t := s.team
  let gone := t.exited ||| t.active
  if (findLive gone t.stack).isNone && t.spilled != 0 then trapStack 2 .exit s
  else popEmpty .exit { s with team := { t with exited := gone, stack := stripLanes t.active t.stack, active := 0 } }

/-- EXIT inside a handler (R267): the lanes also leave the saved active set and the replay set. -/
def exitHandler (sv : Saved) (s : State) : Out :=
  let t := s.team
  let t' : Team := { t with exited := t.exited ||| t.active, stack := stripLanes t.active t.stack,
                            trap := { t.trap with replay := t.trap.replay &&& ~~~t.active } }
  let u := t'.leave sv (sv.active &&& ~~~t.active)
  if u.active == 0 then popEmpty .exit { s with team := { u with replay := none } } else .next { s with team := u }

/-- EXIT (R328, R60, R267). -/
def execExit (s : State) : Out :=
  issue .exit s fun s =>
    match s.team.saved with
    | none => exitPlain s
    | some sv => exitHandler sv s

/-- YIELD (R442). -/
def execYield (s : State) : Out := issue .yield s (done id)

/-- RTE (R267, R414): the return address must lie in the code capability being restored. -/
def execRte (s : State) : Out :=
  issue .rte s fun s =>
    let t := s.team
    match t.saved with
    | none => trapWith cIllegal .rte s
    | some sv =>
      let u := t.leave sv sv.active
      if inCode sv.codeCap u.pc 4 then .next { s with team := u } else trapWith cCapBound .rte s

/-- BKPT (R318). -/
def execBkpt (s : State) : Out := issue .bkpt s fun s => trapWith cBkpt .bkpt s

/-- TRAP (R437). -/
def execTrap (code : Nat) (s : State) : Out :=
  issue (.trap code) s fun s => .next (takeTrap (.detailed cSwtrap code (insnOf (.trap code))) 0 s)

end Sys2Proof.Machine
end

