-- ==== Sys2Proof/Machine/Contain.lean ====
section
/-!
DEFINITION. Machine/Contain.lean: the freeze of a context and what ends it (R269, R270, R272), and the entry of a handler
once outstanding results have landed (R75, R217, R266).
-/

namespace Sys2Proof.Machine

/-! ## Freezing (R269) -/

/-- Freeze a context: its teams stop, its queues hold and its speculations go (R269, R258). -/
def State.freeze (s : State) (ctx : Nat) : State :=
  (s.modCtx ctx fun c => { c with frozen := true }).discardSpecs 10 fun p => p.ctx == ctx

/-- CONTAINMENT_FREEZE (R269): a containment trap's freeze, viral mode where its policy asked for it (R278), and its event record. -/
def execContainmentFreeze (ctx : Nat) (s : State) : Out :=
  let s := s.freeze ctx
  let s := if (s.ctx? ctx).any Ctx.viral then s.goViral ctx else s
  .next (s.serveEvents ctx)

/-- Records that wait for space in the event queue, LOST first (R270). -/
def execEventLost (ctx : Nat) (s : State) : Out := .next (s.serveEvents ctx)

/-! ## Frames of a context -/

/-- True on a Bilran L: DEVICE_INFO.FIT (R3). -/
def State.isL (s : State) : Bool := s.deviceInfo.toNat % 4 == 1

/-- Local frames of a fitting that contexts can have (R5): 276.75 GiB of a Bilran H, 1,476 GiB of a Bilran L. The tag and line-check
regions lie above them (R37). DESIGN CHOICE, log entry 101. -/
def hFrames : Nat := 4534272
def lFrames : Nat := 24182784
def State.localFrames (s : State) : Nat := if s.isL then lFrames else hFrames

/-- The frames a context owns. -/
def State.framesOf (s : State) (n : Nat) : List Nat := (s.owner.filter fun x => x.2 == n + 1).map Prod.fst

/-- Local frames a context holds, mapped, pooled or in save areas, which return to its pool (R197): not those of its extent reserve,
nor of extents that no EXTENT_BIND has bound (R198). -/
def State.heldFrames (s : State) (n : Nat) (c : Ctx) : Nat :=
  (s.framesOf n).length - c.reserve.length -
    4096 * (s.extents.filter fun x => x.2.ctx == n && !x.2.bound && !x.2.released).length +
    (s.gangs.filter fun g => g.ctx == n).foldl (fun k g => k + g.area.length) 0

/-- Frames of no owner, as many as are asked for or none, which ones being left open. -/
def State.freshFrames (s : State) (k : Nat) : List Nat :=
  if s.localFrames < s.owner.length + k then []
  else
    let base := Config.freeNat s.oracle (2 ^ 75) % s.localFrames
    let near := (List.range (k + s.owner.length)).map fun i => (base + i) % s.localFrames
    (near.filter fun f => s.owner.getD f 0 = 0).take k

/-- Firmware takes a frame of no owner as its own: four more places for tables (R186, R192); none where every frame has an owner. -/
def State.growTables (s : State) : Option State :=
  match s.freshFrames 1 with
  | [] => none
  | f :: _ => some { s.tick with
      owner := SMap.put 0 s.owner f 257, tableFree := s.tableFree ++ (List.range 4).map fun i => 4 * f + i }

/-- Return frames to a context's pool (R192, R199). -/
def State.freeFrames (s : State) (ctx : Nat) (fs : List Nat) : State :=
  let s := { s with owner := fs.foldl (fun m f => SMap.put 0 m f (ctx + 1)) s.owner }
  s.modCtx ctx fun c => { c with pool := c.pool ++ fs }

/-- Give a gang's save area back (R54, R246). -/
def State.freeArea (s : State) (ticket : Nat) : State :=
  match s.gang? ticket with
  | none => s
  | some g => (s.freeFrames g.ctx g.area).modGang ticket fun g => { g with area := [] }

/-- Discard a gang that may have issued reductions: those on their way are performed, its save area returns (R272). -/
def State.endGang (s : State) (ticket : Nat) : State :=
  let s := State.performMerges s.merges.length s fun m => m.team.ticket == ticket
  (s.freeArea ticket).dropGang ticket

/-! ## The choices (R272) -/

/-- A team goes back to what it did before an asynchronous trap stopped it. -/
def State.idleRun (s : State) (t : Team) : RunState :=
  if t.sleep.isSome then .asleep
  else if t.trapNext.isSome || t.pending.any (fun p => !p.advanced && !p.waits.isEmpty) then .trapping
  else if (s.wg? t.wg).any fun g => g.queue.any fun e => e.team == t.id &&
      (match e.op with | .mma _ _ _ _ pr _ => pr && e.pc == t.pc | _ => false) then .pairing
  else if t.active = 0 ∧ t.saved = none ∧ (findLive t.exited t.stack).isNone ∧ t.spilled = 0 then .retired
  else .ready

/-- Where a team stands once its trap of registers `r` is resolved: at the trapped instruction for the lanes to replay, or
after it when there are none (R196, R267). -/
def Team.resumeAt (t : Team) (r : TrapRec) : Team :=
  { t with run := .ready,
           pc := if r.replay = 0 then r.cont.getD (r.pc + BitVec.ofNat 64 (4 * r.words)) else r.pc,
           replay := if r.replay = 0 then none else some r.replay,
           cont := if r.replay = 0 then none else r.cont,
           replayPages := if r.replay = 0 then [] else t.replayPages }

/-- TRAP_CAUSE with DOUBLE clear. -/
def TrapRec.single (r : TrapRec) : TrapRec := { r with cause := r.cause &&& ~~~0x800 }
/-- The registers with an empty replay mask. -/
def TrapRec.skipped (r : TrapRec) : TrapRec := { r with replay := 0 }

/-- Resolve one contained team (R269, R272). A failed handler entry is attempted again, or, on SKIP, its trap is passed
over. DEDUCED, log entry 35. -/
def State.resolveTeam (s : State) (skip : Bool) (t : Team) : State :=
  let cut (r : TrapRec) : TrapRec := if skip then r.skipped else r
  match t.inner with
  | some r =>
    let s := s.modTeam t.id fun t => { t with inner := none, innerEntry := false, trap := t.trap.single }
    if t.innerEntry then
      if skip then s.modTeam t.id fun t => t.resumeAt t.trap.skipped
      else (s.modTeam t.id fun t => { t with run := .ready }).deliver t.id t.trap.code t.trap.flags t.trap.single
    else if r.words = 0 then s.modTeam t.id fun t => { t with run := s.idleRun t }
    else s.modTeam t.id fun t => t.resumeAt (cut r)
  | none =>
    if t.trap.words = 0 then s.modTeam t.id fun t => { t with run := s.idleRun t }
    else s.modTeam t.id fun t => ({ t with trap := cut t.trap }).resumeAt (cut t.trap)

/-- The teams of a context that hold a containment trap. -/
def State.contained (s : State) (ctx : Nat) : List Team := s.teams.filter fun t => t.ctx == ctx && t.run == .contained

/-- Every team of a context continues (R272). Traps that were waiting for outstanding results and sleeping teams'
counters are looked at again. -/
def State.resumeCtx (s : State) (ctx : Nat) (skip : Bool) : State :=
  let s := (s.contained ctx).foldl (fun s t => s.resolveTeam skip t) s
  let s := s.modCtx ctx fun c => { c with frozen := false }
  let s := s.postAll ((s.teams.filter fun t => t.ctx == ctx && t.run == .trapping).map fun t => Instr.trapEntry t.id)
  s.postAll ((s.teams.filter fun t => t.ctx == ctx && t.run == .asleep).map fun t => Instr.monitorWake t.id)

/-- RESTART: gangs that hold a faulting team are dispatched again from their start state (R272, R45). -/
def State.restartCtx (s : State) (ctx : Nat) : State :=
  let tickets := ((s.contained ctx).map fun t => t.id.ticket).dedup
  let s := tickets.foldl (fun s n =>
    match s.gang? n with
    | none => s
    | some g =>
      let s := s.endGang n
      { s with launches := s.launches.map fun (l : Launch) =>
          if l.id = g.launch then { l with again := (l.again ++ [g.index]).mergeSort (fun a b => decide (a ≤ b)) }
          else l }) s
  s.resumeCtx ctx false

/-- KILL (R272): gangs discarded, held jobs DISCARDED, queues stopped; the context accepts nothing more. -/
def State.killCtx (s : State) (ctx : Nat) : State :=
  let s := s.discardSpecs 10 fun p => p.ctx == ctx
  let s := ((s.gangs.filter fun g => g.ctx = ctx).map Gang.ticket).foldl State.endGang s
  let s := (s.launches.filter fun (l : Launch) => l.ctx == ctx).foldl State.freeArgs s
  let s := { s with
    launches := s.launches.filter fun l => l.ctx != ctx,
    engines := s.engines.map fun (x : Nat × List Job) =>
      (x.1, x.2.map fun (j : Job) => if j.ctx = ctx ∧ !j.started ∧ j.ended.isNone then { j with ended := some stDiscarded } else j) }
  let s := s.stopKilled ctx
  (s.modCtx ctx fun c => { c with killed := true, frozen := false, viral := false }).serveEvents ctx

/-- Carry out a choice on a context: no gang is resumed while the Transit pair stands, so all but KILL wait until it goes on
(R34). DEDUCED, log entry 102. -/
def State.choose (s : State) (ctx : Nat) (a : Choice) : State :=
  match a, s.transitStopped with
  | .kill, _ => s.killCtx ctx
  | _, true => { s with chosen := s.chosen ++ [(ctx, a)] }
  | .resume, false => s.resumeCtx ctx false
  | .skip, false => s.resumeCtx ctx true
  | .restart, false => s.restartCtx ctx

/-- True when a choice is refused: the context is not frozen, or a device fault allows KILL alone (R272, R285). -/
def State.choiceRefused (s : State) (ctx : Nat) (a : Choice) : Bool :=
  !((s.ctx? ctx).any Ctx.frozen) || (s.deviceFault && a != .kill)

/-- ACTION's four values (R272). -/
def choiceOf : Nat → Choice
  | 0 => .resume | 1 => .skip | 2 => .restart | _ => .kill

/-! ## Long-latency results and handler entry -/

/-- A long-latency instruction whose results are all there writes its destinations (R72). -/
def execLongLatencyComplete (i : TeamId) (k : Nat) (s : State) : Out :=
  .next (s.modTeam i fun t =>
    match t.pending.find? fun p => p.id == k with
    | some p => if p.waits.isEmpty && p.faults.isEmpty then t.finish p else t
    | none => t)

/-- The trap of an instruction whose lanes failed at a peer or a router, after it had left issue (R217); NOFRAME where its
unmapped pages outnumber QUOTA (R195). -/
def Team.lateTrap (t : Team) (p : Pending) (quota : Bool) : TrapRec :=
  let fs := p.faults.mergeSort fun a b => decide (a.lane ≤ b.lane)
  let c := if p.uniform then Cause.uniform (fs.headD ⟨0, 0, 0, false, false, 0⟩) p.insn.toNat else Cause.lanes fs p.insn.toNat
  let c := if quota then { c with code := cNoframe } else c
  { (({ t with pc := p.pc, latch := { t.latch with words := p.words - 1 } }).trapRec c) with
    cont := if p.advanced then some t.pc else t.cont, flags := if quota then 16 else 0 }

/-- True of a team in a CWAIT that has a destination, which it has not written yet (R71, R75). -/
def Team.awaits (t : Team) : Bool := t.run == .asleep && t.sleep.any fun z => z.dest.isSome

/-- Every trap that waits for outstanding results is delivered once they have landed, the team's matrix operations have
executed and its timed wait has reported (R75, R266): first that of an instruction whose lanes failed late, then one the team had
met already. -/
def State.enterTrap (s : State) (i : TeamId) : State :=
  match s.team? i with
  | none => s
  | some t =>
    if t.run = .contained ∨ t.run = .parked then s
    else if t.pending.any (fun p => !p.waits.isEmpty) || s.queueOf t || t.awaits then
      if t.pending.any fun p => p.waits.isEmpty && !p.faults.isEmpty then
        s.modTeam i fun t => { t.closeWindows with run := if t.run = .ready then .trapping else t.run }
      else s
    else
      match t.pending.find? fun p => !p.faults.isEmpty with
      | some p =>
        let t1 := (t.closeWindows.pending.filter fun x => x.id != p.id).foldl Team.finish t.closeWindows
        let r := t1.lateTrap p (s.overQuota t1 p.faults p.pages)
        let t2 : Team := { (t1.finish p) with trapNext := none, run := .ready }
        (s.modTeam i fun _ => t2).deliver i r.code r.flags r
      | none =>
        match t.trapNext with
        | some r =>
          (s.modTeam i fun t => { t.finishAll with trapNext := none, run := .ready }).deliver i r.code r.flags r
        | none => if t.run = .trapping then s.modTeam i fun t => { t.finishAll with run := .ready } else s

/-- TRAP_ENTRY (R75, R266). -/
def execTrapEntry (i : TeamId) (s : State) : Out := .next (s.enterTrap i)

end Sys2Proof.Machine
end

