-- ==== Sys2Proof/Machine/SysRegs.lean ====
section
/-!
DEFINITION. Machine/SysRegs.lean: the system registers (R12, R62, R85, R110, R171, R177, R183, R195 to R197, R226, R240,
R263, R265, R268, R272, R282 to R284, R433, R434): SYSR, SYSW and what their writes start.
-/

namespace Sys2Proof.Machine

/-! ## The issuing team's places -/

/-- The core of a team. -/
def State.coreOfTeam (s : State) (t : Team) : Nat := (s.gang? t.id.ticket).elim 0 fun g => g.coreOf t.id.gx t.id.gy
def State.modCore (s : State) (n : Nat) (f : CoreState → CoreState) : State :=
  { s with cores := s.cores.put CoreState.reset n (f (s.core n)) }
def CoreState.bank (c : CoreState) (b : Nat) : Bank := c.banks.getD b Bank.reset
def CoreState.setBank (c : CoreState) (b : Nat) (x : Bank) : CoreState :=
  { c with banks := (List.range 4).map fun i => if i = b then x else c.bank i }

/-! ## Banks (R181 to R184) -/

def BankMode.code : BankMode → Nat
  | .cache => 0 | .scratch => 1 | .fifo => 2 | .shadow => 3

/-- BANK_MODE.b as a workgroup reads it (R183). -/
def Bank.word (b : Bank) (g : WgId) : Nat :=
  let mine := b.owner == some g
  (if b.switching.isSome then 2 ^ 31 else 0) + b.result % 4 * 2 ^ 29 + (if mine then b.slot % 4 * 8 + 4 else 0)
    + b.mode.code

/-- The lowest segment slot of a workgroup that no bank backs. -/
def CoreState.freeSlot (c : CoreState) (g : WgId) : Nat :=
  ((List.range 4).find? fun j => !c.banks.any fun b => b.owner == some g && b.slot == j).getD 0

/-- A write of BANK_MODE.b by workgroup `g` (R183). -/
def CoreState.requestMode (c : CoreState) (g : WgId) (b v : Nat) : CoreState :=
  let x := c.bank b
  let held := x.firm || (x.owner.isSome && x.owner != some g)
  if x.switching.isSome then c
  else if v % 4 = 2 ∧ x.mode = .cache ∧ x.owner = none ∧ !x.firm then
    c.setBank b { x with owner := some g, slot := c.freeSlot g, switching := some .fifo, result := 0 }
  else if v % 4 = 0 ∧ x.mode = .fifo ∧ x.owner = some g then
    c.setBank b { x with switching := some .cache, result := 0 }
  else c.setBank b { x with result := if held then 1 else 2 }

/-- The end of a switch (R182): the bank is cleared and opens in its new mode. -/
def Bank.switched (x : Bank) : Bank :=
  match x.switching with
  | some .cache => { Bank.reset with firm := x.firm, result := x.result }
  | some m => { x with mode := m, switching := none, fifo := [] }
  | none => x

/-- Banks of a cluster's cache close (R182 step 2): the lines they hold are written back and leave them. Which lines of the cluster
those are is open; with the last caching bank every line goes. DESIGN CHOICE, log entry 93. -/
def State.drainBanks (s : State) (cl : Nat) : State :=
  if !s.caches cl then s.evictAll fun k => copyCluster k == cl
  else (s.evictAll fun k => copyHolder k == cl && Config.freeBool s.oracle (2 ^ 95 + k)).tick

/-- True when a queued matrix instruction of a workgroup names positions in its segment slot `slot` (R399): an MMA by the map then in
force, an MMAP by the one it makes. -/
def namesSlot (w : WgId) (width slot : Nat) : SMap (BitVec 128) → List MEntry → Bool
  | _, [] => false
  | maps, e :: es =>
    let inside (d : BitVec 128) (sh : MShape) : Bool := (mapOffsets d sh).any fun o =>
      o / 524288 == w.gx + width * w.gy && o % 524288 / 131072 == slot
    match e.op with
    | .mma _ _ m _ _ _ => inside (maps.getD m 0) (mshape (fmtAtype e.fmt)) || namesSlot w width slot maps es
    | .mmap m d => inside d (mshape 0) || namesSlot w width slot (maps.put 0 m d) es
    | _ => namesSlot w width slot maps es

/-- True while a bank's switch waits in its close step for the matrix queue of its workgroup (R399). A workgroup that leaves with a
paired MMA waiting at its head, whose partner issues nothing more, does not wait for it. DESIGN CHOICE, log entry 103. -/
def State.bankNamed (s : State) (core bank : Nat) : Bool :=
  let b := (s.core core).bank bank
  match b.owner with
  | none => false
  | some w =>
    match s.wg? w, s.gang? w.ticket with
    | some g, some x =>
      let paired := match g.queue with
        | e :: _ => (match e.op with | .mma _ _ _ _ pr _ => pr | _ => false)
        | [] => false
      namesSlot w x.shape.w b.slot g.maps g.queue && !(x.phase == .leaving && paired)
    | _, _ => false

/-- BANK_SWITCH_COMPLETE (R182, R399): a bank that leaves cluster-cache mode has drained. -/
def execBankSwitchComplete (core bank : Nat) (s : State) : Out :=
  if s.bankNamed core bank then .next s
  else
    let drains := ((s.core core).bank bank).mode == .cache && ((s.core core).bank bank).switching.isSome
    let s := s.modCore core fun c => c.setBank bank (c.bank bank).switched
    .next (if drains then s.drainBanks (clusterOf core) else s)

def State.writeBankMode (s : State) (b : Nat) (v : Dword) : State :=
  s.modCore (s.coreOfTeam s.team) fun c => c.requestMode s.team.wg b v.toNat

/-! ## The divergence stack (R62) -/

/-- Entry `n` from the bottom. -/
def Team.entry? (t : Team) (n : Nat) : Option StackEntry :=
  if n < t.stack.length then t.stack[t.stack.length - 1 - n]? else none
def Team.modEntry (t : Team) (n : Nat) (f : StackEntry → StackEntry) : Team :=
  { t with stack := ((List.range t.stack.length).zip t.stack).map fun (i, e) =>
      if i + n + 1 = t.stack.length then f e else e }
/-- Bits [32w + 31 : 32w] of a mask, and their replacement. -/
def maskWord (m : Mask) (w : Nat) : Nat := bitsAt m.toNat (32 * w) 32
def setMaskWord (m : Mask) (w x : Nat) : Mask := BitVec.ofNat 1024 (m.toNat - maskWord m w * 2 ^ (32 * w) + x % 2 ^ 32 * 2 ^ (32 * w))

/-- An entry never written (R62). -/
def StackEntry.reset : StackEntry := ⟨.join, 0, 0, 0, 0⟩

/-- What an entry once written and popped holds when a higher DEPTH lays it open: the manual does not say, but that MODE and FMT
are values they can hold. DESIGN CHOICE, log entry 28. -/
def exposedEntry (o k width : Nat) : StackEntry :=
  let m := BitVec.ofNat 32 (Config.freeNat o (2 ^ 68 + 8 * k))
  let f := BitVec.ofNat 32 (Config.freeNat o (2 ^ 68 + 8 * k + 1))
  { kind := if Config.freeBool o (2 ^ 68 + 8 * k) then .join else .path,
    addr := BitVec.ofNat 64 (Config.freeNat o (2 ^ 68 + 8 * k + 2)) &&& 0x01FFFFFFFFFFFFFC,
    mask := BitVec.ofNat 1024 (Config.freeNat o (2 ^ 68 + 8 * k + 3)) &&& fullMask width,
    mode := if modeLegal m then m else 0, fmt := if fmtLegal f then f else 0 }

/-- A write of DSTK_CTL. -/
def State.writeDstkCtl (s : State) (v : Dword) : State :=
  let d := v.toNat % 64
  let t := { s.team with spilled := bitsAt v.toNat 8 8 }
  let n := t.stack.length
  if 32 < d then { s with team := t }
  else if d ≤ n then { s with team := { t with stack := t.stack.drop (n - d) } }
  else ({ s with team := { t with
    stack := ((List.range (d - n)).map fun k =>
      if t.deep ≤ d - 1 - k then StackEntry.reset else exposedEntry s.oracle k t.width) ++ t.stack,
    deep := max t.deep d } }).tick

/-! ## Reading (R434) -/

/-- The value of a system register, as SYSR reads it. -/
def State.readSys (s : State) (num j : Nat) : Nat :=
  let t := s.team
  let c : Ctx → Nat := fun c =>
    if num = 0x040 then (c.revBase.getD j 0).toNat
    else if num = 0x041 then (c.revCtl.getD j 0).toNat
    else if num = 0x045 then c.capLog2
    else if num = 0x056 then c.quota % 2 ^ 32 * 2 ^ 32 + c.pool.length
    else c.trapVec.toNat
  let ofCtx := (s.ctx? t.ctx).elim 0 c
  match num with
  | 0x000 => t.mode.toNat
  | 0x001 => t.fmt.toNat
  | 0x002 => t.flags.toNat
  | 0x010 => s.deviceInfo.toNat
  | 0x011 => (s.clusterMap.getD j 0).toNat
  | 0x012 => s.nocWeight.toNat
  | 0x020 => t.id.ticket
  | 0x030 => t.stack.length + t.spilled * 256 + t.why * 65536
  | 0x031 => (t.entry? j).elim 0 fun e => e.addr.toNat + if e.kind = .path then 2 ^ 63 else 0
  | 0x032 => (t.entry? j).elim 0 fun e => e.mode.toNat
  | 0x033 => (t.entry? j).elim 0 fun e => e.fmt.toNat
  | 0x034 => (t.entry? (j / 32)).elim 0 fun e => maskWord e.mask (j % 32)
  | 0x040 | 0x041 | 0x045 | 0x056 | 0x093 => ofCtx
  | 0x042 => s.sweepClock.toNat
  | 0x043 => s.sweepDone.toNat
  | 0x044 => if s.sweepActive then 2 else 0
  | 0x050 => ((s.core (s.coreOfTeam t)).bank j).word t.wg
  | 0x051 => let b := (s.core (s.coreOfTeam t)).bank j; if b.mode = .fifo then b.fifo.length else 0
  | 0x052 => t.trap.faultCtl.toNat
  | 0x053 => (t.trap.faultRec.getD j 0).toNat
  | 0x054 => (t.trap.faultLane.getD j 0).toNat
  | 0x055 => maskWord t.trap.replay j
  -- the reader's own core has a team that issues, so the idle tree is false
  | 0x060 => (if s.phaseResult then 8 else 0) + (if s.phaseBusy then 2 else 0) + (if s.phaseAck then 1 else 0)
  | 0x061 => s.phaseDone.toNat
  | 0x070 => s.notifyDrop.toNat
  | 0x080 => (s.orreryCtl.getD j 4).toNat
  | 0x081 => (s.orreryStat.getD j 0).toNat
  | 0x090 => t.trap.cause.toNat
  | 0x091 => t.trap.pc.toNat
  | 0x092 => (match j with | 0 => t.trap.rec0 | 1 => t.trap.rec1 | 2 => t.trap.rec2 | _ => t.trap.rec3).toNat
  | 0x0A0 => (s.timingStat.getD j 0).toNat
  | 0x0A1 => s.injCtl.toNat
  | 0x0A2 => s.injSeed.toNat
  | 0x0A3 => s.injRate.toNat
  | 0x0A4 => (s.stestPass.getD j 0).toNat
  | _ => 0

/-! ## Writing -/

/-- REV_CTL.n after a write (R171). -/
def revCtlAfter (old v : Dword) : Dword :=
  if old.getLsbD 63 then (old &&& 0x7FFFFFFFFFFFFFFF) ||| (v &&& 0x8000000000000000)
  else if v.getLsbD 63 then v &&& 0x8F000000FFFFFFFF
  else (v &&& 0x0F000000FFFFFFFF) ||| (old &&& 0x4000000000000000)

/-- A write of REV_CTL.n by a context: an entry armed anew is not one the running pass covers. -/
def State.writeRevCtl (s : State) (ctx n : Nat) (v : Dword) : State :=
  let old := (s.ctx? ctx).elim 0 fun c => SMap.getD c.revCtl n 0
  let s := s.modCtx ctx fun c => { c with revCtl := c.revCtl.put 0 n (revCtlAfter old v) }
  if !old.getLsbD 63 && v.getLsbD 63 then { s with sweepEntries := s.sweepEntries.filter fun e => e != 32 * ctx + n }
  else s

/-- A write of SWEEP_CTL (R173, R177): START requests a pass, after the running one if there is one. -/
def State.writeSweepCtl (s : State) (ctx : Nat) (v : Dword) : State :=
  if !v.getLsbD 0 then s
  else if s.sweepActive then { s with sweepAgain := true }
  else s.post (.sweepPassStart ctx)

/-- True when the context's partition is flagged as a test partition (R283). -/
def State.testCtx (s : State) (ctx : Nat) : Bool :=
  ((s.ctx? ctx).bind fun c => SMap.find? s.partitions c.partition).any Partition.test

/-- A write of INJ_CTL (R283). -/
def State.writeInjCtl (s : State) (v : Word) : State :=
  if 6 ≤ injKind v || (injEn v && !s.testCtx (injContext v)) then s else { s with injCtl := v &&& 0xFFFFFF0F }

/-- ORRERY_CTL after a write (R263). -/
def orreryAfter (old v : Word) : Word :=
  let q := v.toNat % 32
  (v &&& 0x80000000) ||| (if 1 ≤ q ∧ q ≤ 16 then BitVec.ofNat 32 q else old &&& 0x1F)
def State.writeOrreryCtl (s : State) (ctx : Nat) (v : Word) : State :=
  { s with orreryCtl := s.orreryCtl.put 4 ctx (orreryAfter (s.orreryCtl.getD ctx 4) v) }

/-- Writable fields of the registers whose writes start nothing (R12, R434). -/
def State.writeSys (s : State) (num j : Nat) (v : Dword) : State :=
  let w : Word := v.setWidth 32
  match num with
  | 0x002 => s.setTeam fun t => { t with flags := w &&& 0x3F }
  | 0x012 => { s with nocWeight := w &&& 0xFFF }
  | 0x030 => s.writeDstkCtl v
  | 0x031 => s.setTeam fun t => t.modEntry j fun e =>
      { e with kind := if v.getLsbD 63 then .path else .join, addr := v &&& 0x01FFFFFFFFFFFFFC }
  | 0x032 => s.setTeam fun t => t.modEntry j fun e => { e with mode := w }
  | 0x033 => s.setTeam fun t => t.modEntry j fun e => { e with fmt := w }
  | 0x034 => s.setTeam fun t => if t.width / 32 ≤ j % 32 then t
      else t.modEntry (j / 32) fun e => { e with mask := setMaskWord e.mask (j % 32) w.toNat }
  | 0x040 => s.modCtx s.team.ctx fun c =>
      if (c.revCtl.getD j 0).getLsbD 63 then c else { c with revBase := c.revBase.put 0 j (v &&& 0x01FFFFFFFFFF0000) }
  | 0x055 => s.setTeam fun t =>
      { t with trap := { t.trap with
          replay := setMaskWord t.trap.replay j (maskWord t.trap.faulted j &&& w.toNat) } }
  | 0x080 => s.writeOrreryCtl j w
  | 0x093 => s.modCtx s.team.ctx fun c => { c with trapVec := v &&& 0x81FFFFFFFFFFFFFC }
  | 0x0A2 => if v = 0 then s else { s with injSeed := v }
  | 0x0A3 => { s with injRate := w }
  | _ => s

/-- The codes TRAP_ESC accepts (R265). -/
def escCode (c : Nat) : Bool := containCause c

/-- The trap a write raises in place of taking effect: FORMAT for a stack copy that MODE or FMT could not hold (R62),
ILLEGAL for TRAP_ESC and CONTAIN_CMD values (R265, R272, R285). -/
def State.sysRefuses (s : State) (num j : Nat) (v : Dword) : Option Nat :=
  let w : Word := v.setWidth 32
  if num = 0x032 then if j < s.team.stack.length && !modeLegal w then some cFormat else none
  else if num = 0x033 then if j < s.team.stack.length && !fmtLegal w then some cFormat else none
  else if num = 0x094 then if escCode (v.toNat % 256) then none else some cIllegal
  else if num = 0x095 then
    let x := v.toNat % 256
    if (s.ctx? x).any (fun c => c.delegates.contains s.team.ctx) && !s.choiceRefused x (choiceOf (bitsAt v.toNat 8 2))
    then none else some cIllegal
  else none

/-- A containment trap raised on purpose (R265): the SYSW is its trapped instruction, and no lane replays. -/
def State.escape (s : State) (v : Dword) (insn : Nat) : State :=
  (takeTrap (.instr (v.toNat % 256) insn) 0 s).setTeam fun t =>
    { t with inner := t.inner.map TrapRec.skipped, trapNext := t.trapNext.map TrapRec.skipped,
             trap := if t.run = .contained ∧ t.inner = none then t.trap.skipped else t.trap }

/-- SYSR (R85, R433): FLAGS waits for every long-latency result of the team, those of the matrix queue among them. -/
def execSysr (d b : Nat) (s : State) : Out :=
  issue (.sysr d b) s fun s =>
    if s.speculative then park s
    else
      let sel := s.team.selector b
      let num := sel / 4096
      if num = 0x002 then
        if s.queueOf s.team then waitQueue s
        else if s.team.pending.any fun p => !p.waits.isEmpty then retry (s.hurry s.team.id)
        else done (fun t => let t := t.finishAll; t.setS d (BitVec.ofNat 64 t.flags.toNat)) s
      else done (fun t => t.setS d (BitVec.ofNat 64 (s.readSys num (sel % 4096)))) s

/-- SYSW (R433). -/
def execSysw (a b : Nat) (s : State) : Out :=
  issue (.sysw a b) s fun s =>
    if s.speculative then park s
    else
      let sel := s.team.selector b
      let num := sel / 4096
      let j := sel % 4096
      let v := s.team.getS a
      match s.sysRefuses num j v with
      | some code => trapWith code (.sysw a b) s
      | none =>
        let go (s : State) : Out := .next (s.setTeam Team.advance)
        match num with
        | 0x041 => go (s.writeRevCtl s.team.ctx j v)
        | 0x044 => go (s.writeSweepCtl s.team.ctx v)
        | 0x050 => go (s.writeBankMode j v)
        | 0x094 => .next (s.escape v (insnOf (.sysw a b)))
        | 0x095 => go (s.choose (v.toNat % 256) (choiceOf (bitsAt v.toNat 8 2)))
        | 0x0A1 => go (s.writeInjCtl (v.setWidth 32))
        | _ => go (s.writeSys num j v)

/-! ## The same writes as steps of their own -/

/-- TRAP_ESC (R265). -/
def execTrapEsc (v : Dword) (s : State) : Out := .next (if escCode (v.toNat % 256) then s.escape v 0 else s)
/-- BANK_MODE (R183). -/
def execBankMode (bank : Nat) (v : Dword) (s : State) : Out := .next (s.writeBankMode bank v)
/-- SWEEP_CTL (R177). -/
def execSweepCtl (v : Dword) (s : State) : Out := .next (s.writeSweepCtl s.team.ctx v)
/-- REV_CTL (R171). -/
def execRevCtl (n : Nat) (v : Dword) (s : State) : Out := .next (s.writeRevCtl s.team.ctx n v)
/-- INJ_CTL (R283). -/
def execInjCtl (v : Dword) (s : State) : Out := .next (s.writeInjCtl (v.setWidth 32))
/-- SYSTEM_REGISTER_WRITE (R433): a value its register cannot take leaves it as it is. -/
def execSystemRegisterWrite (num j : Nat) (v : Dword) (s : State) : Out :=
  .next (if (s.sysRefuses num j v).isSome then s else s.writeSys num j v)

end Sys2Proof.Machine
end

