-- ==== Sys2Proof/Machine/Sweep.lean ====
section
/-!
DEFINITION. Machine/Sweep.lean: sweep passes (R173 to R175, R177): their start, the sweep of registers and banks, the scan
of memory and save areas, and their end. A pass is of the whole device; the context an event names is the one that asked.
-/

namespace Sys2Proof.Machine

/-- SWEEP_PASS_START (R173 phase 1): the clock, the filter, the marks, and every speculation goes. -/
def execSweepPassStart (_ctx : Nat) (s : State) : Out :=
  if s.sweepActive then .next { s with sweepAgain := true }
  else
    let entries := s.ctxs.flatMap fun x =>
      (x.2.revCtl.filter fun e => e.2.getLsbD 63).map fun e => 32 * x.1 + e.1
    let s := s.discardSpecs 8 fun _ => true
    let live (w : Workgroup) : Bool := (s.gang? w.id.ticket).any fun g => g.phase != .streamed
    .next { s with
      sweepClock := s.sweepClock + 1, sweepActive := true, sweepAgain := false, sweepScanned := false,
      sweepEntries := entries,
      wgs := s.wgs.map fun w => if live w then { w with sweepPending := true, banksSwept := false } else w }

/-- A capability without its tag where the context's list names it. -/
def Ctx.swept (c : Ctx) (k : Cap) : Cap := if c.stale? k then k.untag else k

/-- Sweep one outstanding result. -/
def Dest.swept (c : Ctx) : Dest → Dest
  | .q r vals => .q r (vals.map fun v => v.map c.swept)
  | .c r x => .c r (x.map c.swept)
  | d => d

/-- Sweep a team's capability registers, the c13 in its trap state, and results on their way (R173). -/
def Team.swept (c : Ctx) (t : Team) : Team :=
  { t with
    c := t.c.map fun x => (x.1, c.swept x.2),
    q := t.q.map fun x => (x.1, x.2.map c.swept),
    saved := t.saved.map fun v => { v with c13 := c.swept v.c13 },
    pending := t.pending.map fun p => { p with dests := p.dests.map (Dest.swept c) } }

/-- Sweep everything of a team that its save area holds with a tag (R175, R246): its code capabilities as well. -/
def Team.sweptSaved (c : Ctx) (t : Team) : Team :=
  { t.swept c with codeCap := c.swept t.codeCap,
                   saved := (t.swept c).saved.map fun v => { v with codeCap := c.swept v.codeCap } }

/-- Sweep the capabilities in a context's engine queues and fetched packets (R173). -/
def State.sweepQueues (s : State) (ctx : Nat) (c : Ctx) : State :=
  { s with
    engines := s.engines.map fun (x : Nat × List Job) => (x.1, x.2.map fun (j : Job) =>
      if j.ctx = ctx then { j with ctr := c.swept j.ctr, src := c.swept j.src, dst := c.swept j.dst, aux := c.swept j.aux }
      else j),
    queues := s.queues.map fun (x : Nat × Queue) =>
      if x.2.ctx = ctx then
        (x.1, { x.2 with packets := x.2.packets.map fun p => { p with ctr := p.ctr.map c.swept } })
      else x }

/-- Clear the tags of matching granules, the context of a granule given by `f`: each is a write at its home (R173). -/
def State.sweepTags (s : State) (f : Nat → Option Ctx) : State :=
  let hits := (s.tags.map Prod.fst).filter fun g =>
    (f (16 * g)).any fun c => c.stale? ⟨true, BitVec.ofNat 128 (natOfBytes (s.readBytes (16 * g) 16))⟩
  hits.foldl (fun s g => (s.setTag (16 * g) false).homeChanged (g / 8)) s

/-- Sweep a workgroup's scratchpad banks. -/
def State.sweepBanks (s : State) (w : WgId) (c : Ctx) : State :=
  match s.gang? w.ticket with
  | none => s
  | some g =>
    let lo := regionSize * winRegion w.ticket + (w.gx + g.shape.w * w.gy) * 524288
    s.sweepTags fun key => if lo ≤ key ∧ key < lo + 524288 then some c else none

/-- Sweep everything a workgroup holds, as `f` says of its teams; its stamp becomes the clock (R175). -/
def State.sweepWg (s : State) (w : WgId) (f : Ctx → Team → Team) : State :=
  match s.wg? w with
  | none => s
  | some g =>
    match s.ctx? g.ctx with
    | none => s
    | some c =>
      let s := s.modTeams (fun t => t.wg = w) (f c)
      (s.sweepBanks w c).modWg w fun g =>
        { g with stamp := s.sweepClock.toNat, sweepPending := false, banksSwept := true }

/-- SWEEP_REGISTER_SWEEP (R173 phase 2). -/
def execSweepRegisterSweep (w : WgId) (s : State) : Out :=
  match s.wg? w with
  | none => .next s
  | some g =>
    match s.ctx? g.ctx with
    | none => .next s
    | some c => .next (if g.sweepPending then (s.sweepWg w Team.swept).sweepQueues g.ctx c else s)

/-! ## Memory and save areas (R173 phase 3) -/

/-- The context whose list a granule of memory is held against: the owner of a local frame, the context an expander
frame was granted to. -/
def State.listFor (s : State) (key : Nat) : Option Ctx :=
  let frame := key % regionSize / 65536
  if key < regionSize then (s.owner.find? frame).bind fun n => if n = 0 then none else s.ctx? (n - 1)
  else if key / regionSize < 2 ∨ 300 ≤ key / regionSize then none
  else (s.ctxs.map Prod.snd).find? fun c => c.remote.any fun g =>
    g.loc == 2 && g.peer == key / regionSize - 2 && g.first ≤ frame && frame < g.first + g.count

/-- Sweep the copies that cluster caches hold: no stale capability of a swept range survives a pass (R178).
DEDUCED, log entry 39. -/
def State.sweepCopies (s : State) : State :=
  { s with copies := s.copies.map fun (k, c) =>
      match s.listFor (copyLine k * 128) with
      | none => (k, c)
      | some x => (k, { c with tags := x.keepTags c.data c.tags }) }

/-- A line that has come as an answer, its tags a last byte, less those of capabilities that the list names. -/
def Ctx.keepLineTags (c : Ctx) (got : List Byte) : List Byte :=
  if got.length = 129 then
    got.take 128 ++ [c.keepTags (BitVec.ofNat 1024 (natOfBytes (got.take 128))) (got.getD 128 0)]
  else got

/-- Sweep what waits on its way to memory or to a requester: writes held for a snoop, peers' requests, and answers that have come
(R173, R178). DEDUCED, log entry 39. -/
def State.sweepHeld (s : State) : State :=
  { s with
    snoops := s.snoops.map fun (x : Snoop) => match s.listFor (x.line * 128) with
      | some c => { x with held := { x.held with tags := c.keepTags x.held.data x.held.tags } }
      | none => x,
    heldReqs := s.heldReqs.map fun (x : FabHdr × List Byte) => match s.listFor x.1.address.toNat with
      | some c => ({ x.1 with tags := c.keepTags (BitVec.ofNat 1024 (natOfBytes (x.2.take 128))) x.1.tags }, x.2)
      | none => x,
    remotes := s.remotes.map fun (r : Remote) => match s.ctx? r.hdr.sctx.toNat with
      | some c => { r with got := r.got.map c.keepLineTags }
      | none => r }

/-- The streamed workgroups whose stamp is below the clock. -/
def State.unswept (s : State) : List WgId :=
  (s.wgs.filter fun w => w.stamp != s.sweepClock.toNat &&
    (s.gang? w.id.ticket).any fun g => g.phase == .streamed).map Workgroup.id

/-- SWEEP_MEMORY_SCAN (R173 phase 3): every context's queues, every tagged granule, every save area not yet swept. -/
def execSweepMemoryScan (_ctx : Nat) (s : State) : Out :=
  if !s.sweepActive then .next s
  else
    let s := s.ctxs.foldl (fun s x => s.sweepQueues x.1 x.2) s
    let s := s.sweepCopies.sweepHeld.sweepTags s.listFor
    let s := s.unswept.foldl (fun s w => s.sweepWg w Team.sweptSaved) s
    .next { s with sweepScanned := true }

/-! ## The end (R173 phase 4) -/

/-- True when a pass has done its work. -/
def State.sweepDue (s : State) : Bool := s.sweepActive && s.sweepScanned && !s.wgs.any Workgroup.sweepPending

/-- SWEEP_PASS_END (R173): entries of phase 1 RETIRED, SWEEP_DONE, and the next pass if one was asked for. -/
def execSweepPassEnd (ctx : Nat) (s : State) : Out :=
  if !s.sweepDue then .next s
  else
    let again := s.sweepAgain
    let s := s.sweepEntries.foldl (fun s e => s.modCtx (e / 32) fun c =>
      { c with revCtl := c.revCtl.put 0 (e % 32) (c.revCtl.getD (e % 32) 0 ||| 0x4000000000000000) }) s
    let s := { s with sweepActive := false, sweepAgain := false, sweepEntries := [], sweepScanned := false,
                      sweepDone := s.sweepClock }
    .next (if again then s.post (.sweepPassStart ctx) else s)

end Sys2Proof.Machine
end

