-- ==== Sys2Proof/Machine/Submit.lean ====
section
/-!
DEFINITION. Machine/Submit.lean: JOB, TASK and LAUNCH (R221, R236, R368 to R370, R388, R435).
-/

namespace Sys2Proof.Machine

/-- The capabilities of a 128-byte card, through the revocation filter (R174): the granule `j` of eight. -/
def State.cardCap (s : State) (ctx : Nat) (bs : List Byte) (tags : List Bool) (j : Nat) : Cap :=
  s.filterCap ctx ⟨tags.getD j false, BitVec.ofNat 128 (fieldAt bs (16 * j) 16)⟩

/-- The tags of the granules of a footprint of whole granules, from the tags of the lines it touches. -/
def grainTags (ps : List Part) (ts : List Nat) : List Bool :=
  let pieces := ps.flatMap fun p => linePieces p.key p.len
  (pieces.zip ts).flatMap fun x =>
    (List.range (x.1.2 / 16)).map fun g => (BitVec.ofNat 8 x.2).getLsbD (x.1.1 % 128 / 16 + g) && regionTagged x.1.1

/-- The shared form of JOB, TASK and LAUNCH: the checks of the 128-byte image, the release, the wait for room, then the
image as read once, with its tags (R368, R388). -/
def submit (i : Instr) (a b la : Nat) (scope : Scope) (full : State → Nat → Bool)
    (act : State → Nat → List Byte → List Bool → State) (s : State) : Out :=
  issue i s fun s =>
    let t := s.team
    let k := t.getC a
    if s.speculative then park s
    else
      let p := s.plan s.who 0 k k.cur 128 (permLoad + permLaunch) 1 .read false
      let place := match p.res with
        | .ok _ => true
        | .error (.fault f) => f.cause == cFirewall || f.cause == cViral || f.cause == cExpLost
        | .error .wait => false
      let p := if place && k.cur % 16 != 0 then p.fail cAccess false else p
      withPlans [p] false s fun s =>
        match p.fault? with
        | some f => .next (faultTrap i true [f] s p.unmapped)
        | none =>
          synced s (fun s => s.releaseWaits scope) fun s =>
            let s := s.release scope
            let sel := (t.sBz b).toNat
            if full s sel then retry s
            else
              match (s.touch s.who .read p.parts).readAll s.who t.id p.parts with
              | (.error e, s') => .next (faultTrap i true [⟨0, e.1, BitVec.ofNat 64 (partAddress k.cur p.parts e.2), false, false, 0⟩] s')
              | (.ok none, s') => retry s'
              | (.ok (some (bs, ts)), s') =>
                .next (endMemory i la true [] [] [] (act s' sel bs (grainTags p.parts ts)))

/-- JOB (R368): the card is checked as the job enters its queue; an unusable selector ends it at once (R369). -/
def execJob (a b la : Nat) (s : State) : Out :=
  submit (.job a b la) a b la .device (fun s sel => (s.engineFor sel).elim false s.engineFull)
    (fun s sel bs tags =>
      let t := s.team
      let cap := s.cardCap t.ctx bs tags
      match s.engineFor sel with
      | none => s.jobRecord t.ctx sel 0 stHandle 0 (fieldAt bs 4 4) t.id.ticket
      | some e =>
        let st := s.cardStatus t.ctx true bs (cap 1) (cap 2) (cap 3) (cap 4)
        s.enqueue e (s.makeJob t.ctx e bs (cap 1) (cap 2) (cap 3) (cap 4) t.id.ticket (t.priv != .user) none st)) s

/-- The slot of a context's queue by its number. -/
def State.slotOf (s : State) (ctx n : Nat) : Option Nat :=
  (List.find? (fun (x : Nat × Queue) => x.2.ctx == ctx && x.2.number == n) s.queues).map Prod.fst

/-- A PACKET record of an image that could not be placed (R388). -/
def State.imageRecord (s : State) (ctx queue status tag : Nat) : State :=
  s.owe { EventRec.plain 2 ctx s.domainClock with status := status, queue := queue, tag := tag }

/-- Submit an image to an inlet (R236, R388, R435): the queue number is tested first, then KIND. -/
def State.submitImage (s : State) (kind sel : Nat) (bs : List Byte) : State :=
  let ctx := s.team.ctx
  match s.slotOf ctx sel with
  | none => s.imageRecord ctx 0xFFFF stHandle (fieldAt bs 4 4)
  | some slot =>
    if fieldAt bs 0 1 % 16 != kind then s.imageRecord ctx sel stMalformed (fieldAt bs 4 4)
    else { s with queues := s.queues.modify slot fun q => { q with inlet := q.inlet ++ [(bs, none)] } }

/-- True when the named queue's inlet holds 16 images (R236). -/
def State.inletFull (s : State) (sel : Nat) : Bool :=
  (s.slotOf s.team.ctx sel).elim false fun slot => (s.queues.find? slot).elim false fun q => 16 ≤ q.inlet.length

/-- TASK (R435): the release is at POOL scope. -/
def execTask (a b la : Nat) (s : State) : Out :=
  submit (.task a b la) a b la .pool State.inletFull (fun s sel bs _ => s.submitImage 5 sel bs) s

/-- LAUNCH (R388). -/
def execLaunch (a b la : Nat) (s : State) : Out :=
  submit (.launch a b la) a b la .device State.inletFull (fun s sel bs _ => s.submitImage 1 sel bs) s

end Sys2Proof.Machine
end

