-- ==== Sys2Proof/Machine/System.lean ====
section
/-!
DEFINITION. Machine/System.lean: TLBINV (R191, R436) and PGMAP (R192, R408), and what firmware does to page tables and
frames (R186, R189, R197, R198).
-/

namespace Sys2Proof.Machine

/-! ## Frames -/

/-- Every line of a local frame is written at its home: speculations that read one go (R256). -/
def State.frameChanged (s : State) (f : Nat) : State :=
  let s := s.discardSpecs 2 fun p => p.reads.any fun l => l / 512 == f
  s.discardSpecs 3 fun p => p.signature.any fun x => (List.range 512).any fun i =>
    Config.lineHash x % 8192 == Config.lineHash (512 * f + i) % 8192

/-- Local frame `f` scrubbed: zero data, tags and poison clear, fresh checks, no cached copy (R192, R198, R256). -/
def State.scrubFrame (s : State) (f : Nat) : State :=
  let s := s.frameChanged f
  { s with mem := s.mem.filter fun c => c.1 / 65536 != f,
           tags := s.tags.filter fun c => c.1 / 4096 != f,
           poison := s.poison.filter fun c => c.1 / 512 != f,
           checkErr := s.checkErr.filter fun c => c.1 / 512 != f,
           copies := s.copies.filter fun c => copyLine c.1 / 512 != f }

/-- Take a frame from a context's pool, which one being left open: scrubbed (R192). -/
def State.takeFrame (s : State) (ctx : Nat) : Option Nat × State :=
  let pool := (s.ctx? ctx).elim [] Ctx.pool
  match pool[Config.freeNat s.oracle (2 ^ 69) % pool.length]? with
  | none => (none, s)
  | some f => (some f, ((s.modCtx ctx fun c => { c with pool := c.pool.filter fun x => x != f }).scrubFrame f).tick)

/-- True of a frame of a context's extents that it does not hold yet (R198): in its extent reserve, or of an extent that no
EXTENT_BIND has bound. -/
def State.reserved (s : State) (ctx frame : Nat) : Bool :=
  ((s.ctx? ctx).any fun c => c.reserve.contains frame) ||
    s.extents.any fun x => x.2.ctx == ctx && !x.2.bound && !x.2.released && x.2.first ≤ frame && frame < x.2.first + 4096

/-- True when a context was granted a frame (R192): the local frames it holds, and what the host runtime granted elsewhere. -/
def State.granted (s : State) (ctx loc peer frame : Nat) : Bool :=
  if loc = 0 then s.firewall ctx frame && !s.reserved ctx frame
  else (s.ctx? ctx).any fun c => c.remote.any fun g =>
    g.loc == loc && g.peer == peer && g.first ≤ frame && frame < g.first + g.count

/-! ## Page tables -/

/-- The tables of levels 2 to 0 that an address needs and a context lacks. -/
def Ctx.missing (c : Ctx) (va : Nat) : List Nat :=
  ([tableKey 2 va, tableKey 1 va, tableKey 0 va]).filter fun k => pteType (c.tables.getD k 0) != 1

/-- Make an address's tables (R186, R187, R192): each takes a place of firmware's reserve, which the entry of the level above then
names; those made before it runs out stay. -/
def State.ensureTables (s : State) (ctx va : Nat) : Bool × State :=
  let need := (s.ctx? ctx).elim [] fun c => c.missing va
  let made := need.zip s.tableFree
  (made.length == need.length,
    { (s.modCtx ctx fun c => { c with tables := made.foldl (fun m x => SMap.put 0 m x.1 (tableEntry x.2)) c.tables }) with
      tableFree := s.tableFree.drop made.length })

/-- What PGMAP ends in. -/
inductive MapEnd where
  | done | access | noframe | wait
deriving DecidableEq, Repr

/-- Frames a context's leaves map. -/
def Ctx.maps (c : Ctx) (f : Nat) : Bool := c.ptes.any fun x => pteType x.2 == 2 && pteLoc x.2 == 0 && pteFrame x.2 == f

/-- Write a leaf: what a TLB holds of a valid entry it replaces may be used until a TLBINV, and speculations that walked the page
go (R192, R258); a local frame it maps is a page's again (R199). -/
def State.setLeaf (s : State) (ctx page : Nat) (e : BitVec 128) : State :=
  let s := s.modCtx ctx fun c => { c with ptes := c.ptes.put 0 page e }
  let s := { s with movedAway := s.movedAway.filter fun f => !(pteType e == 2 && pteLoc e == 0 && pteFrame e == f) }
  s.discardSpecs 7 fun p => p.ctx == ctx && p.walked.contains page

/-- PGMAP of entry `e` at `va` (R192). Where no level-0 table stands, an entry of TYPE 0 is written nowhere. DESIGN CHOICE, log
entry 83. -/
def State.pgmap (s : State) (ctx : Nat) (va : Dword) (e : BitVec 128) : MapEnd × State :=
  let page := pageOf va.toNat
  match s.ctx? ctx with
  | none => (.access, s)
  | some c =>
    if vaTop ≤ va.toNat || pteType e == 1 || pteType e == 3 || (pteType e == 2 && pteReserved e) then (.access, s)
    else
      let built := (c.missing va.toNat).isEmpty
      let old := if built then c.pte page else 0
      if pteType old = 2 ∧ pteMig old then (.wait, s)
      else if pteType e = 0 then
        let s := if built then s.setLeaf ctx page e else s
        let f := pteFrame old
        let free := e.getLsbD 2 && pteType old == 2 && pteLoc old == 0 && !((s.ctx? ctx).any fun c => c.maps f)
        (.done, if free then s.modCtx ctx fun c => { c with pool := c.pool ++ [f] } else s)
      else
        let fresh := pteLoc e == 0 && pteFrame e == 0
        if !fresh && !s.granted ctx (pteLoc e) (ptePeer e) (pteFrame e) then (.access, s)
        else
          match s.ensureTables ctx va.toNat with
          | (false, s') => (.noframe, s')
          | (true, s') =>
            if fresh then
              match s'.takeFrame ctx with
              | (none, s'') => (.noframe, s'')
              | (some f, s'') => (.done, s''.setLeaf ctx page (setField (setField e 16 48 f) 12 1 0))
            else (.done, s'.setLeaf ctx page (setField e 12 1 0))

/-- PGMAP (R192, R408): a page mapped while an instruction waits to replay counts among those it holds (R195). -/
def execPgmap (d a : Nat) (s : State) : Out :=
  let i := Instr.pgmap d a
  issue i s fun s =>
    if s.speculative then park s
    else
      let va := s.team.getS a
      let e : BitVec 128 := s.team.getS (d + 1) ++ s.team.getS d
      let f (code : Nat) : LaneFault := ⟨0, code, va, true, false, 0⟩
      match s.pgmap s.team.ctx va e with
      | (.wait, s') => retry s'
      | (.access, s') => .next (faultTrap i true [f cAccess] s')
      | (.noframe, s') => .next (faultTrap i true [f cNoframe] s')
      | (.done, s') =>
        .next (s'.setTeam fun t =>
          let ps := if t.saved.isSome ∧ pteType e = 2 ∧ !t.replayPages.contains (pageOf va.toNat)
            then pageOf va.toNat :: t.replayPages else t.replayPages
          { t.advance with replayPages := ps })

/-! ## TLBINV -/

/-- True while a queued transfer of the context holds a translation of a page on which `p` holds (R395, R436). -/
def State.transferHolds (s : State) (ctx : Nat) (p : Nat → Bool) : Bool :=
  s.wgs.any fun g => g.ctx == ctx && g.queue.any fun e =>
    !e.pieces.isEmpty && (pagePieces e.ea.toNat (e.pieces.foldl (fun n q => n + q.len) 0)).any fun q => p (pageOf q.1)

/-- Remove pages from every translation cache (R191). -/
def State.shootDown (s : State) (ctx : Nat) (p : Nat → Bool) : State :=
  let cut := s.tlbs.map fun (x : Nat × List TlbEntry) => (x.1, x.2.filterMap fun e => e.less ctx p)
  let s := { s with tlbs := cut.filter fun (x : Nat × List TlbEntry) => !x.2.isEmpty }
  s.discardSpecs 7 fun q => q.ctx == ctx && q.walked.any p

/-- The frames that a context's pages translate to, in its tables or in some TLB, as memory keys / 65536. -/
def State.framesUnder (s : State) (ctx : Nat) (p : Nat → Bool) : List Nat :=
  let of (e : BitVec 128) : Nat := frameKey (pteLoc e) (ptePeer e) (pteFrame e) / 65536
  ((s.ctx? ctx).elim [] fun c => (c.ptes.filter fun x => p x.1 && pteType x.2 == 2).map fun x => of x.2) ++
    s.tlbs.flatMap fun x => (x.2.filter fun e => e.ctx == ctx).flatMap fun e =>
      (((List.range 16).filter fun i => e.mask.getLsbD i && p (16 * e.group + i)).map fun i => of (e.pte (16 * e.group + i)))

/-- The bytes that stores under a context's translations have left in caches go on to their homes or ports (R191). -/
def State.passOn (s : State) (ctx : Nat) (p : Nat → Bool) : State :=
  match s.copies with
  | [] => s
  | _ =>
    let fs := s.framesUnder ctx p
    s.writeBackAll fun k => fs.contains (copyLine k / 512)

/-- The shared form of TLBINV: requests issued under a removed translation reach their places first (R191). -/
def tlbInvalidate (i : Instr) (p : State → Nat → Bool) (s : State) : Out :=
  issue i s fun s =>
    if s.speculative then park s
    else if s.transferHolds s.team.ctx (p s) then retry s
    else .next (((s.passOn s.team.ctx (p s)).shootDown s.team.ctx (p s)).setTeam Team.advance)

/-- TLBINV of a page (R436). -/
def execTlbinv (a : Nat) (s : State) : Out := tlbInvalidate (.tlbinv a) (fun s page => page == (s.team.getS a).toNat / 65536) s
/-- TLBINV of every page of the context (R436). -/
def execTlbinvAll (s : State) : Out := tlbInvalidate .tlbinvAll (fun _ _ => true) s

/-! ## PAGE_STATE (R189) -/

/-- ACC and DIRTY of a leaf, as bits 10 and 11, and the leaf with them cleared. -/
def State.pageState (s : State) (ctx va : Nat) (clear : Bool) : Nat × State :=
  let e := (s.ctx? ctx).elim 0 fun c => c.pte (pageOf va)
  (bitsAt e.toNat 10 2 * 1024,
    if clear then (s.shootDown ctx fun p => p == pageOf va).modCtx ctx fun c =>
      { c with ptes := c.ptes.put 0 (pageOf va) (setField e 10 2 0) }
    else s)

end Sys2Proof.Machine
end

