-- ==== Sys2Proof/Machine/Sched.lean ====
section
/-!
DEFINITION. Machine/Sched.lean: the gang distributor (R48, R50 to R55, R181, R242 to R244), context slots and pre-emption
(R63 to R67), streaming (R66, R246, R247), and the retirement of gangs and launches (R54).
-/

namespace Sys2Proof.Machine

/-! ## Shapes and places -/

/-- Banks a workgroup's scratchpad takes (R50, R181). -/
def Shape.banks (sh : Shape) : Nat := (sh.scratch + 131071) / 131072
/-- The cores of a W × H rectangle at an origin (R48). -/
def rectCores (ox oy w h : Nat) : List Nat :=
  (List.range h).flatMap fun y => (List.range w).map fun x => (ox + x) + 16 * (oy + y)
def Gang.cores (g : Gang) : List Nat := rectCores g.ox g.oy g.shape.w g.shape.h
/-- A gang's workgroups, in the order of its cores. -/
def Gang.wgIds (g : Gang) : List WgId :=
  (List.range g.shape.h).flatMap fun y => (List.range g.shape.w).map fun x => ⟨g.ticket, x, y⟩
/-- Origins of a rectangle in search order (R243): y, then x. -/
def origins (w h : Nat) : List (Nat × Nat) :=
  (List.range (21 - h)).flatMap fun y => (List.range (17 - w)).map fun x => (x, y)

/-- The gang of a context slot. -/
def State.slotGang (s : State) (w : Option WgId) : Option Gang := w.bind fun i => s.gang? i.ticket
/-- Banks of a core assigned to no workgroup, not held by firmware and not switching (R181). -/
def CoreState.freeBanks (c : CoreState) : List Nat :=
  (List.range 4).filter fun b => (c.bank b).owner.isNone && !(c.bank b).firm && (c.bank b).switching.isNone
/-- Banks of a core that firmware holds for the shadow store (R254). -/
def CoreState.shadowBanks (c : CoreState) : List Nat := (List.range 4).filter fun b => (c.bank b).mode == .shadow
/-- A bank that firmware takes into shadow mode, and one that it gives back to cluster-cache mode (R181, R182, R254). -/
def Bank.lend (b : Bank) : Bank := { Bank.reset with mode := .shadow, firm := true, result := b.result }
def Bank.giveBack (b : Bank) : Bank := { Bank.reset with result := b.result }
/-- FIFO banks that a streamed workgroup of the gang still needs (R246). -/
def State.fifoNeed (s : State) (w : WgId) : Nat := (s.wg? w).elim 0 fun g => g.fifos.length
/-- True of a core whose cluster runs and is not about to be turned off (R306). -/
def State.powered (s : State) (core : Nat) : Bool :=
  s.clusterPower.getD (clusterOf core) .running == .running && !s.closing.contains (clusterOf core)

/-- True when a core's issuing slot is empty, and no gang in shadow is about to switch into it (R64). -/
def State.slotOpen (s : State) (core : Nat) : Bool :=
  (s.core core).issuing.isNone && !(s.slotGang (s.core core).shadow).any fun g => g.phase == .running

/-- True when a core is free to hold workgroup `w` of a shape (R243, R52): its cluster runs, its issuing slot is empty and
its banks fit. -/
def State.coreFree (s : State) (core : Nat) (sh : Shape) (w : WgId) : Bool :=
  s.powered core && s.slotOpen core && sh.banks + s.fifoNeed w ≤ (s.core core).freeBanks.length

/-- The first rectangle whose cores are all free (R243). DESIGN CHOICE, log entry 25. -/
def State.freeRect (s : State) (sh : Shape) (ticket : Nat) : Option (Nat × Nat) :=
  (origins sh.w sh.h).find? fun o =>
    (rectCores o.1 o.2 sh.w sh.h).all fun c => s.coreFree c sh ⟨ticket, c % 16 - o.1, c / 16 - o.2⟩

/-- The device as an ordinary candidate sees it: cores of speculations count as free (R242, R253), and so do shadow banks, which
firmware gives back when a workgroup needs them (R254). -/
def State.withoutSpecs (s : State) : State :=
  let spec (w : WgId) : Bool := (s.gang? w.ticket).any fun g => g.spec.isSome
  { s with cores := s.cores.map fun x =>
      (x.1, (([x.2.issuing, x.2.shadow].filterMap id).filter spec).foldl (fun c w => c.drop w)
        { x.2 with banks := x.2.banks.map fun (b : Bank) => if b.mode = .shadow then b.giveBack else b }) }

/-! ## Candidates (R242) -/

/-- A suspended gang, or the next gang of a launch. -/
inductive Candidate where
  | gang (g : Gang)
  | launch (l : Launch)
deriving DecidableEq, Repr

def Candidate.priority : Candidate → Nat
  | .gang g => g.priority
  | .launch l => l.priority
def Candidate.shape : Candidate → Shape
  | .gang g => g.shape
  | .launch l => l.shape
/-- The ticket of a suspended gang; 0 for a launch, whose gang has none yet. -/
def Candidate.ticket : Candidate → Nat
  | .gang g => g.ticket
  | .launch _ => 0

/-- True of a context whose work stands still: frozen, saved or being saved (R55, R248, R269).
DESIGN CHOICE, log entry 36. -/
def State.held (s : State) (ctx : Nat) : Bool :=
  (s.ctx? ctx).all fun c => c.frozen || c.saving || c.saved || c.killed

/-- Gangs of a launch's grid (R53). -/
def Launch.total (l : Launch) : Nat := l.gx * l.gy * l.gz
/-- The linear index of the gang a launch offers next (R53, R272). -/
def Launch.offer (l : Launch) : Option Nat :=
  match l.again with
  | i :: _ => some i
  | [] => if l.next < l.total then some l.next else none

/-- The suspended gangs that may resume, oldest first. -/
def State.suspended (s : State) : List Gang :=
  (s.gangs.filter fun g => (g.phase == .shadow || g.phase == .streamed) && !s.held g.ctx).mergeSort
    fun a b => decide (a.since ≤ b.since)

/-- True of a gang that stands suspended, or is on its way out, for another gang or a cluster's power (R55). -/
def State.waitsBack (s : State) (g : Gang) : Bool :=
  (g.phase == .shadow || g.phase == .leaving || g.phase == .streamed) && !s.held g.ctx

/-- Candidates in the distributor's order (R242). While a gang is suspended, no launch of its priority or a lower one
dispatches a new gang (R55); a launch that has waited 1 ms holds back the later ones of its priority. -/
def State.candidates (s : State) : List Candidate :=
  let sus := s.suspended
  let top := (s.gangs.filter s.waitsBack).foldl (fun m g => max m (g.priority + 1)) 0
  let ls := s.launches.filter fun l => l.spec.isNone && l.offer.isSome && !s.held l.ctx && top ≤ l.priority
  let ls := ls.filter fun l => !(ls.takeWhile fun m => m.id != l.id).any fun m => m.holds && m.priority == l.priority
  (List.range 24).reverse.flatMap fun p =>
    ((sus.filter fun g => g.priority = p).map Candidate.gang) ++ ((ls.filter fun l => l.priority = p).map Candidate.launch)

/-- True of the candidate that the pre-emption under way frees its cores for. -/
def Promise.of (p : Promise) : Candidate → Bool
  | .gang g => p.ticket == g.ticket
  | .launch l => p.ticket == 0 && p.launch == l.id

/-- The cores kept for an earlier candidate while its victims leave (R244): none where the promise is to a later one, or to one that
is no candidate any more. -/
def State.keptFrom (s : State) (c : Candidate) : List Nat :=
  match s.promised with
  | none => []
  | some p => if (s.candidates.takeWhile fun x => x != c).any p.of then p.cores else []

/-- The device with the issuing slots of some cores taken. -/
def State.without (s : State) (cores : List Nat) : State :=
  cores.foldl (fun s k => s.modCore k fun c => { c with issuing := some (c.issuing.getD ⟨0, 0, 0⟩) }) s

/-- Where a candidate would be placed now: its own rectangle for a gang in shadow, else the first free one (R243). -/
def State.placeFor (s : State) (c : Candidate) : Option (Nat × Nat) :=
  let s := s.withoutSpecs.without (s.keptFrom c)
  match c with
  | .gang g =>
    if g.phase = GangPhase.shadow then
      if g.cores.all fun k => s.powered k && (s.core k).issuing.isNone then some (g.ox, g.oy) else none
    else s.freeRect g.shape g.ticket
  | .launch l => s.freeRect l.shape 0

/-! ## Placing -/

/-- Give a workgroup its banks: the lowest free ones, as segment slots from 0, then a FIFO bank per saved FIFO (R181). -/
def CoreState.giveBanks (c : CoreState) (w : WgId) (n : Nat) (fifos : SMap (List (BitVec 128))) : CoreState :=
  let free := c.freeBanks
  let c := (List.range n).foldl (fun c j => c.setBank (free.getD j 0)
    { (c.bank (free.getD j 0)) with mode := .scratch, owner := some w, slot := j, fifo := [] }) c
  ((List.range fifos.length).zip fifos).foldl (fun c x => c.setBank (free.getD (n + x.1) 0)
    { (c.bank (free.getD (n + x.1) 0)) with mode := .fifo, owner := some w, slot := x.2.1, fifo := x.2.2 }) c

/-- Discard the speculations that hold a core of a rectangle (R253, R258). -/
def State.clearSpecs (s : State) (cores : List Nat) : State :=
  let on (p : Spec) : Bool := s.gangs.any fun g => g.spec == some p.id && g.cores.any fun c => cores.contains c
  s.discardSpecs 6 on

/-- Put a gang's workgroups into the issuing slots of its rectangle with their banks, which have drained the lines they held
(R182). -/
def State.seat (s : State) (g : Gang) : State :=
  let s := (g.wgIds.zip g.cores).foldl (fun s x =>
    let fifos := (s.wg? x.1).elim [] Workgroup.fifos
    (s.modCore x.2 fun c => { (c.giveBanks x.1 g.shape.banks fifos) with issuing := some x.1 }).modWg x.1 fun w =>
      { w with core := x.2, fifos := [] }) s
  if g.shape.banks = 0 ∧ g.wgIds.all (fun w => s.fifoNeed w = 0) then s
  else (g.cores.map clusterOf).dedup.foldl State.drainBanks s

/-- An empty workgroup (R45, R137, R141, R145). -/
def Workgroup.fresh (id : WgId) (ctx core stamp : Nat) : Workgroup :=
  { id := id, ctx := ctx, core := core, tiles := [], accs := [], maps := [], mapsIssued := [], queue := [], reuse := none,
    mchk := 0, pair := .quiet, pairRun := 0, pairSince := 0, stamp := stamp, sweepPending := false, banksSwept := false, fifos := [] }

/-- A ticket for a new gang: which one is open, but that it is not 0 and not in use (R51). -/
def State.newTicket (s : State) : Nat :=
  let base := Config.freeNat s.oracle (2 ^ 70) % 4294967295
  let all := (List.range (s.gangs.length + 1)).map fun k => (base + k) % 4294967295 + 1
  (all.find? fun n => !s.gangs.any fun g => g.ticket == n).getD 1

/-- Dispatch gang `idx` of a launch at an origin (R45, R50, R51, R53). -/
def State.dispatchGang (s : State) (l : Launch) (idx : Nat) (o : Nat × Nat) : State :=
  match s.ctx? l.ctx with
  | none => s
  | some c =>
    let g : Gang :=
      { ticket := s.newTicket, ctx := l.ctx, launch := l.id, index := idx, x := idx % l.gx, y := idx / l.gx % l.gy,
        z := idx / (l.gx * l.gy), ox := o.1, oy := o.2, priority := l.priority, shape := l.shape, phase := .running,
        since := 0, outAt := 0, saved := false, spec := l.spec, area := [] }
    let teams := g.wgIds.flatMap fun w =>
      (List.range l.shape.nteam).map fun i => Team.start g c l.code l.args w.gx w.gy i
    let s : State := { s.tick with
      gangs := s.gangs ++ [g],
      wgs := s.wgs ++ (g.wgIds.zip g.cores).map fun x => Workgroup.fresh x.1 l.ctx x.2 s.sweepClock.toNat,
      others := s.others ++ teams,
      launches := s.launches.map fun m => if m.id = l.id then
          { m with next := if m.again.isEmpty then m.next + 1 else m.next, again := m.again.drop 1, waiting := none,
                   holds := false } else m }
    s.seat g

/-- Firmware gives shadow banks of a core back for a workgroup that needs more banks than are free (R254). Which ones it gives, and
which speculations held lines there, are left open. DESIGN CHOICE, log entry 23. -/
def State.returnBanks (s : State) (core need : Nat) : State :=
  let c := s.core core
  let held := c.shadowBanks.rotate (Config.freeNat s.oracle (2 ^ 72) % 4)
  match held.take (need - c.freeBanks.length) with
  | [] => s
  | bs =>
    ((s.modCore core fun c => bs.foldl (fun c b => c.setBank b (c.bank b).giveBack) c).discardSpecs 5 fun p =>
      !p.shadow.isEmpty && Config.freeBool s.oracle (2 ^ 73 + p.id)).tick

/-- Place a candidate at an origin: a gang in shadow by slot switch, a streamed one to be streamed in, a new one dispatched
(R243). -/
def State.place (s : State) (c : Candidate) (o : Nat × Nat) : State :=
  match c with
  | .gang g =>
    if g.phase = GangPhase.shadow then
      (((s.clearSpecs g.cores).freeArea g.ticket).modGang g.ticket fun g => { g with phase := .running }).postAll
        (g.cores.map Instr.slotSwitch)
    else
      let g' : Gang := { g with ox := o.1, oy := o.2, phase := .entering }
      let s := (g'.wgIds.zip g'.cores).foldl (fun s x => s.returnBanks x.2 (g.shape.banks + s.fifoNeed x.1)) (s.clearSpecs g'.cores)
      (s.modGang g.ticket fun _ => g').seat g'
  | .launch l =>
    let cores := rectCores o.1 o.2 l.shape.w l.shape.h
    (cores.foldl (fun s k => s.returnBanks k l.shape.banks) (s.clearSpecs cores)).dispatchGang l (l.offer.getD 0) o

/-! ## Save areas (R246) -/

/-- Frames of a save area: 1 MiB for each workgroup (R246). -/
def Gang.areaFrames (g : Gang) : Nat := 16 * (g.shape.w * g.shape.h)

/-- Firmware allocates a suspended gang's save area from its context's frames (R246): none where they do not suffice. -/
def State.allotArea (s : State) (ticket : Nat) : Option State :=
  match s.gang? ticket with
  | none => none
  | some g =>
    if !g.area.isEmpty then some s
    else
      let pool := (s.ctx? g.ctx).elim [] Ctx.pool
      if pool.length < g.areaFrames then none
      else
        let frames := pool.take g.areaFrames
        let s := frames.foldl State.scrubFrame s
        let s := { s with owner := frames.foldl (fun m f => SMap.put 0 m f 257) s.owner }
        let s := s.modCtx g.ctx fun c => { c with pool := pool.drop g.areaFrames }
        some (s.modGang ticket fun g => { g with area := frames })

/-- NOFRAME for want of a save area (R246): the record names the gang's packet (R271), and the context freezes. -/
def State.areaFails (s : State) (g : Gang) : State :=
  let x := s.packetOf g.ticket
  ((s.owe { EventRec.plain 1 g.ctx s.domainClock with
    cause := cNoframe, ticket := g.ticket, queue := x.1, tag := x.2.1, number := x.2.2 }).freeze g.ctx).post
    (.containmentFreeze g.ctx)

/-! ## Pre-emption (R244) -/

/-- The gangs that hold an issuing slot of a rectangle. -/
def State.holders (s : State) (cores : List Nat) : List Gang :=
  ((cores.filterMap fun c => s.slotGang (s.core c).issuing).map Gang.ticket).dedup.filterMap s.gang?

/-- Banks of a core that a candidate's workgroup can have once the issuing slot has been given up (R52). -/
def State.banksBeside (s : State) (core : Nat) : Nat :=
  ((List.range 4).filter fun b =>
    let x := (s.core core).bank b
    (!x.firm || x.mode == .shadow) && x.switching.isNone && (x.owner.isNone || x.owner != (s.core core).shadow)).length

/-- Banks that a candidate's workgroup needs on a core of the rectangle at `o`: none for a gang in shadow, which has its own. -/
def State.bankNeed (s : State) (c : Candidate) (o : Nat × Nat) (core : Nat) : Nat :=
  match c with
  | .gang g => if g.phase = GangPhase.shadow then 0
      else g.shape.banks + s.fifoNeed ⟨g.ticket, core % 16 - o.1, core / 16 - o.2⟩
  | .launch l => l.shape.banks

/-- The gangs in shadow slots of a rectangle whose banks leave a candidate no room: they are streamed out (R52).
DESIGN CHOICE, log entry 25. -/
def State.crowding (s : State) (c : Candidate) (o : Nat × Nat) : List Gang :=
  (((rectCores o.1 o.2 c.shape.w c.shape.h).filterMap fun k =>
    if s.banksBeside k < s.bankNeed c o k then s.slotGang (s.core k).shadow else none).map Gang.ticket).dedup.filterMap s.gang?

/-- The gangs that a candidate suspends to take a rectangle. -/
def State.victims (s : State) (c : Candidate) (o : Nat × Nat) : List Gang :=
  let hs := s.holders (rectCores o.1 o.2 c.shape.w c.shape.h)
  hs ++ (s.crowding c o).filter fun g => !hs.any fun h => h.ticket == g.ticket

/-- True when rectangle `o` is eligible for a candidate: some gang holds a core of it, every one has strictly lower priority and may
be suspended, and the candidate's banks fit once they are gone. -/
def State.eligible (s : State) (c : Candidate) (o : Nat × Nat) : Bool :=
  let cores := rectCores o.1 o.2 c.shape.w c.shape.h
  let own (g : Gang) : Bool := c.ticket == g.ticket
  cores.all s.powered && !(s.victims c o).isEmpty &&
    ((s.victims c o).all fun g => !own g && g.priority < c.priority && (g.phase == .running || g.phase == .shadow) &&
      !((s.ctx? g.ctx).any Ctx.frozen)) &&
    cores.all fun k => s.bankNeed c o k ≤ s.banksBeside k || (s.slotGang (s.core k).shadow).any fun g =>
      s.bankNeed c o k ≤ s.banksBeside k + ((s.core k).banks.filter fun b => b.owner.any fun w => w.ticket == g.ticket).length

/-- R244's key: the highest victim priority, the victims, their cores. -/
def State.victimKey (s : State) (c : Candidate) (o : Nat × Nat) : Nat × Nat × Nat :=
  let vs := s.victims c o
  (vs.foldl (fun m g => max m g.priority) 0, vs.length, vs.foldl (fun n g => n + g.cores.length) 0)

def keyLess (a b : Nat × Nat × Nat) : Bool :=
  a.1 < b.1 || (a.1 == b.1 && (a.2.1 < b.2.1 || (a.2.1 == b.2.1 && a.2.2 < b.2.2)))

/-- The eligible rectangle the distributor picks. -/
def State.victimRect (s : State) (c : Candidate) : Option (Nat × Nat) :=
  let os := match c with
    | .gang g => if g.phase = GangPhase.shadow then [(g.ox, g.oy)] else origins g.shape.w g.shape.h
    | .launch l => origins l.shape.w l.shape.h
  (os.filter (s.eligible c)).foldl (fun best o =>
    match best with
    | none => some o
    | some b => if keyLess (s.victimKey c o) (s.victimKey c b) then some o else best) none

/-- True when a victim moves to shadow: every one of its cores has an empty shadow slot, and on those that the candidate takes at
`o` the candidate's banks fit beside its own (R52, R244). -/
def State.toShadow (s : State) (c : Candidate) (o : Nat × Nat) (v : Gang) : Bool :=
  let cores := rectCores o.1 o.2 c.shape.w c.shape.h
  v.phase == .running && v.cores.all fun k => (s.core k).shadow.isNone &&
    (!cores.contains k || s.bankNeed c o k ≤ (s.core k).freeBanks.length + (s.core k).shadowBanks.length)

/-- Suspend a gang (R65): it gets its save area (R246), and goes into shadow by slot switch or is to be streamed out. -/
def State.suspend (s : State) (g : Gang) (shadow : Bool) : State :=
  match s.allotArea g.ticket with
  | none => s.areaFails g
  | some s =>
    let s := s.modGang g.ticket fun g =>
      { g with phase := if shadow then GangPhase.shadow else GangPhase.leaving,
               since := if g.phase = .shadow then g.since else s.nextOrder }
    let s := { s with nextOrder := s.nextOrder + 1 }
    if shadow then s.postAll (g.cores.map Instr.slotSwitch) else s

/-- What the distributor does next. -/
inductive Decision where
  | place (c : Candidate) (o : Nat × Nat)
  | preempt (c : Candidate) (o : Nat × Nat)
deriving DecidableEq, Repr

/-- True while victims are on their way out, or a gang in shadow on its way in: no further victims are chosen. -/
def State.preempting (s : State) : Bool :=
  s.gangs.any (fun g => g.phase == .leaving && !g.saved) ||
    s.cores.any fun x => ((s.slotGang x.2.issuing).any fun g => g.phase == .shadow) ||
      (s.slotGang x.2.shadow).any fun g => g.phase == .running

/-- True when some running gang has a strictly lower priority than a candidate, which may then look for victims (R243). -/
def State.outranks (s : State) (c : Candidate) : Bool :=
  s.gangs.any fun g => g.phase == .running && g.spec.isNone && g.priority < c.priority

/-- The distributor considers its candidates in their order (R242 to R244): each is placed where it can be, else takes victims where
it may, else waits. -/
def State.decide (s : State) : Option Decision :=
  if s.transitStopped then none
  else s.candidates.findSome? fun c =>
    match s.placeFor c with
    | some o => some (.place c o)
    | none => if s.preempting || !s.outranks c then none else (s.withoutSpecs.victimRect c).map fun o => .preempt c o

/-- Carry a pre-emption out (R244, R65): every victim is suspended, and the cores are kept for the candidate. -/
def State.preempt (s : State) (c : Candidate) (o : Nat × Nat) : State :=
  let cores := rectCores o.1 o.2 c.shape.w c.shape.h
  let vs := s.withoutSpecs.victims c o
  let s := vs.foldl (fun s g => s.suspend g (s.toShadow c o g)) s
  { s with promised := some ⟨c.ticket, (match c with | .gang _ => 0 | .launch l => l.id), cores⟩ }

/-- Carry a decision out; a candidate that is placed needs no cores kept any more. -/
def State.enact (s : State) : Decision → State
  | .place c o =>
    let s := if s.promised.any fun p => p.of c then { s with promised := none } else s
    s.place c o
  | .preempt c o => s.preempt c o

/-- PREEMPT (R244, R65). -/
def execPreempt (s : State) : Out :=
  match s.decide with
  | some (.preempt c o) => .next (s.preempt c o)
  | _ => .next s

/-- The count of a waiting request stops, or goes on, as its slot does (R148); a slot switch empties the latch (R145). -/
def Workgroup.pairStop (now : Nat) (w : Workgroup) : Workgroup :=
  { w with pairRun := w.pairRun + (now - w.pairSince), pairSince := now, reuse := none }
def Workgroup.pairGo (now : Nat) (w : Workgroup) : Workgroup := { w with pairSince := now, reuse := none }

/-- SLOT_SWITCH (R64): the two slots of a core change places when one of them has been told to. -/
def execSlotSwitch (core : Nat) (s : State) : Out :=
  let c := s.core core
  let out := (s.slotGang c.issuing).any fun g => g.phase == .shadow
  let back := (s.slotGang c.shadow).any fun g => g.phase == .running
  .next (if out || (back && c.issuing.isNone) then
    let s := c.issuing.elim s fun w => s.modWg w (Workgroup.pairStop s.timebase)
    let s := c.shadow.elim s fun w => s.modWg w (Workgroup.pairGo s.timebase)
    s.modCore core fun c => { c with issuing := c.shadow, shadow := c.issuing } else s)

/-! ## Dispatch (R243) -/

/-- The next gang a speculation can place, on cores free to all (R253). -/
def State.specPlacement (s : State) : Option (Launch × (Nat × Nat)) :=
  if s.transitStopped then none
  else (s.launches.filter fun l => l.spec.isSome && l.offer.isSome && !s.held l.ctx).findSome? fun l =>
    (s.freeRect l.shape 0).map fun o => (l, o)

/-- Launches whose next gang waits note since when (R242). -/
def State.noteWaits (s : State) : State :=
  { s with launches := s.launches.map fun l =>
      if l.spec.isNone && l.offer.isSome && l.waiting.isNone then { l with waiting := some s.timebase } else l }

/-- DISPATCH (R242, R243, R253): ordinary candidates first, then speculations on cores that stay free. -/
def execDispatch (s : State) : Out :=
  match s.decide with
  | some d => .next (s.enact d).noteWaits
  | none =>
    match s.specPlacement with
    | some (l, o) => .next (s.dispatchGang l (l.offer.getD 0) o).noteWaits
    | none => .next s.noteWaits

/-- Cycles of 1 ms at the core clock (R4). -/
def cyclesPerMs : Nat := 2100000

/-- DISPATCH_HOLD (R242). -/
def execDispatchHold (id : Nat) (s : State) : Out :=
  .next { s with launches := s.launches.map fun l =>
    if l.id = id ∧ l.offer.isSome ∧ l.waiting.any (fun t => cyclesPerMs ≤ s.timebase - t) then { l with holds := true }
    else l }

/-! ## Streaming (R66, R246, R247) -/

/-- True when every outstanding load of a gang's teams has completed (R66), and no bank of its workgroups is switching (R182). A
queued MCHK goes with its queue (R134). -/
def State.settled (s : State) (ticket : Nat) : Bool :=
  !(s.teams.any fun t => t.id.ticket == ticket && t.pending.any fun p => p.waits.any fun r => r != mchkReq) &&
    !(s.cores.any fun x => x.2.banks.any fun b => b.switching.isSome && b.owner.any fun w => w.ticket == ticket)

/-- A team as its control block records it: loads landed, the remaining timeout and the timebase (R58); it holds no monitor. -/
def Team.streamed (now : Nat) (t : Team) : Team :=
  let t := t.finishAll
  { t with sleep := t.sleep.map fun z =>
      { z with limit := z.limit.map fun l => l - (now - z.since), since := now, monitor := false, again := false, asked := false } }

/-- The FIFO banks of a workgroup as its save record holds them, by segment slot (R246). -/
def CoreState.savedFifos (c : CoreState) (w : WgId) : SMap (List (BitVec 128)) :=
  (List.range 4).filterMap fun j =>
    (c.banks.find? fun b => b.owner == some w && b.mode == .fifo && b.slot == j).map fun b => (j, b.fifo)

/-- STREAM_OUT (R66, R246): a sweep-pending workgroup is swept first (R173), what its clusters hold is written back (R67, R203), the
stamp is taken (R175), and the slots and banks are given up. Without frames for the save area the context takes NOFRAME
(R246), and the clusters it stands on stay on (R306). -/
def execStreamOut (ticket : Nat) (s : State) : Out :=
  match s.gang? ticket with
  | none => .next s
  | some g =>
    if g.phase != .leaving || !s.settled ticket then .next s
    else
      match s.allotArea ticket with
      | none =>
        let kept (cl : Nat) : Bool := cl != 80 && !g.clusters.contains cl
        .next (State.areaFails { (s.modGang ticket fun g => { g with phase := .running }) with
          closing := s.closing.filter kept } g)
      | some s =>
        let pend := g.wgIds.filter fun w => (s.wg? w).any Workgroup.sweepPending
        let s := pend.foldl (fun s w => s.sweepWg w Team.swept) s
        let s := (s.writeBackAll fun k => g.clusters.contains (copyCluster k)).dropAsks fun i => i.ticket == ticket
        let s := s.modTeams (fun t => t.id.ticket = ticket) (Team.streamed s.timebase)
        let s := (g.wgIds.zip g.cores).foldl (fun s x =>
          let s := if (s.core x.2).issuing = some x.1 then s.modWg x.1 (Workgroup.pairStop s.timebase) else s
          let s := s.modWg x.1 fun w =>
            { w with stamp := s.sweepClock.toNat, fifos := (s.core x.2).savedFifos x.1 }
          s.modCore x.2 fun c => c.drop x.1) s
        .next (s.modGang ticket fun g => { g with phase := .streamed, outAt := s.timebase })

/-- Re-arm a sleeping team's monitor where its core has one free, and start the re-read of its counter (R57, R65, R247). -/
def State.rearm (s : State) (t : Team) : State :=
  (s.modTeam t.id fun u => { u with sleep := u.sleep.map fun z =>
    { z with monitor := monitored z.key && s.monitors (s.coreOfTeam t) < 64, asked := true } }).post (.monitorWake t.id)

/-- True while a gang that is streamed in has not been restored, and then while a re-read of one of its teams is out (R247). -/
def Gang.stored (g : Gang) : Bool := !g.area.isEmpty
def State.rereading (s : State) (ticket : Nat) : Bool :=
  s.teams.any fun t => t.id.ticket == ticket && t.sleep.any Sleep.asked

/-- STREAM_IN (R247): the workgroups are restored; the caches of their cores drop what another rectangle may have written since (R67,
R203); the sweep-stamp comparison; monitors are re-armed and counters re-read. Once every re-read has been made the gang runs. -/
def execStreamIn (ticket : Nat) (s : State) : Out :=
  match s.gang? ticket with
  | none => .next s
  | some g =>
    if g.phase != .entering || s.transitStopped then .next s
    else if g.stored then
      let s := s.evictAll fun k => g.clusters.contains (copyCluster k)
      let late := g.wgIds.filter fun w => (s.wg? w).any fun x => x.stamp != s.sweepClock.toNat
      let s := late.foldl (fun s w => s.sweepWg w Team.sweptSaved) s
      let s := s.freeArea ticket
      let s := { s with wgs := s.wgs.map fun (w : Workgroup) => if w.id.ticket = ticket then w.pairGo s.timebase else w }
      .next ((s.teams.filter fun t => t.id.ticket == ticket && t.run == .asleep).foldl State.rearm s)
    else if s.rereading ticket then .next s
    else .next (s.modGang ticket fun g => { g with phase := .running })

/-! ## Retirement (R54) -/

/-- True when a gang retires: every lane has exited, and every access and counter operation of its teams is done. -/
def State.gangDone (s : State) (ticket : Nat) : Bool :=
  (s.teams.all fun t => t.id.ticket != ticket || (t.run == .retired && t.pending.isEmpty)) &&
    !(s.merges.any fun m => m.team.ticket == ticket) &&
    !(s.remotes.any fun r => r.team.ticket == ticket && r.engine.isNone && r.got.isNone) &&
    !(s.wgs.any fun w => w.id.ticket == ticket && !w.queue.isEmpty) &&
    !((s.gang? ticket).any fun g => s.snoops.any fun x => x.held.dirty != 0 && (x.held.writers.isEmpty || x.held.writers.getD g.ctx 0 != 0))

/-- Results that wait for nothing land once a team has ended. -/
def Team.landed (t : Team) : Team := if t.run = .retired then t.finishAll else t

/-- A launch all of whose gangs have retired is over: its packet is done (R231). -/
def State.endLaunch (s : State) (id : Nat) : State :=
  match s.launches.find? fun l => l.id == id with
  | none => s
  | some l =>
    if l.offer.isSome || l.spec.isSome || s.gangs.any (fun g => g.launch == id) then s
    else
      let s := State.freeArgs { s with launches := s.launches.filter fun m => m.id != id } l
      { s with queues := s.queues.map fun (x : Nat × Queue) =>
          (x.1, { x.2 with packets := x.2.packets.map fun p =>
            if p.wait = .launch id then { p with wait := .done stOk 0 } else p }) }

/-- GANG_RETIRE (R54). -/
def execGangRetire (ticket : Nat) (s : State) : Out :=
  match s.gang? ticket with
  | none => .next s
  | some g =>
    let s := s.modTeams (fun t => t.id.ticket = ticket) Team.landed
    if s.gangDone ticket then .next (((s.freeArea ticket).dropGang ticket).endLaunch g.launch) else .next s

end Sys2Proof.Machine
end

