-- ==== Sys2Proof/Machine/Launches.lean ====
section
/-!
DEFINITION. Machine/Launches.lean: LAUNCH bodies and kernel descriptors (R47, R53, R81, R87, R234, R235), and the Orrery
(R249 to R263, R456).
-/

namespace Sys2Proof.Machine

/-! ## Bodies (R234) -/

/-- ARGG, HMASK and SHAPE of a LAUNCH body. -/
def bodyArgg (img : List Byte) : Nat := fieldAt img 44 1
def bodyHmask (img : List Byte) : Nat := fieldAt img 45 1
def bodyShape (img : List Byte) : List Byte := (img.drop 32).take 14
/-- True when granule `j` is a capability slot. -/
def slotIsCap (hmask j : Nat) : Bool := (BitVec.ofNat 8 hmask).getLsbD j
/-- Bytes of argument granule `j`. -/
def granuleBytes (img : List Byte) (j : Nat) : List Byte := (img.drop (48 + 16 * j)).take 16

/-- The reserved fields of a LAUNCH body: MALFORMED when one is set (R234). -/
def bodyWellFormed (img : List Byte) : Bool :=
  bodyArgg img ≤ 5 && bodyHmask img < 2 ^ bodyArgg img && zeroAt img 46 2 && zeroAt img 18 14 &&
    (List.range (bodyArgg img)).all fun j => !slotIsCap (bodyHmask img) j || zeroAt (granuleBytes img j) 2 14

/-- The argument block's granules, capabilities in place of handles (R234). -/
def State.bodyGranules (s : State) (ctx : Nat) (img : List Byte) : Except CpStop (List Cap) × State :=
  (List.range (bodyArgg img)).foldl (fun (r : Except CpStop (List Cap) × State) j =>
    match r with
    | (.error e, s) => (.error e, s)
    | (.ok ks, s) =>
      if slotIsCap (bodyHmask img) j then
        match s.handleCap ctx (fieldAt (granuleBytes img j) 0 2) with
        | (.error e, s') => (.error e, s')
        | (.ok k, s') => (.ok (ks ++ [k]), s')
      else (.ok (ks ++ [⟨false, BitVec.ofNat 128 (natOfBytes (granuleBytes img j))⟩]), s)) (.ok [], s)

/-! ## Kernel descriptors (R235) -/

/-- The register demand of one workgroup (R81). -/
def regDemand (width nteam nv nq : Nat) : Nat :=
  nteam * (768 + roundUpTo 128 width + 32 * width * ((nv + 7) / 8 + (nq + 1) / 2))

/-- What a valid descriptor gives: the shape, KFLAGS.SPEC and DCMASK. -/
structure Kernel where
  shape : Shape
  spec : Bool
  dontCare : List Byte
deriving DecidableEq, Repr

/-- Launch validation (R235, R47, R81). An entry outside the kernel capability makes the descriptor invalid, as R235 has it where
R160 names the handle error, and so do bits 3 and 7 of SHAPE where they are set. DESIGN CHOICE, log entry 81. -/
def validate (k : Cap) (d : List Byte) : Option Kernel :=
  let entry := fieldAt d 0 4
  let tw := fieldAt d 4 1
  let nt := fieldAt d 5 1
  let sh := fieldAt d 6 1
  let w := sh % 8
  let h := sh / 16 % 8
  let nv := fieldAt d 7 1
  let nq := fieldAt d 8 1
  let scratch := fieldAt d 12 4
  let inside := match capDecode k with
    | some (b, t) => b ≤ k.cur + entry && k.cur + entry < t
    | none => false
  if 5 ≤ tw && tw ≤ 10 && nt < 16 && sh / 8 % 2 == 0 && sh < 128 && [1, 2, 3, 4, 6].contains w && 1 ≤ h && h ≤ 4
      && 1 ≤ nv && nv ≤ 64 && nq ≤ 8 && fieldAt d 9 1 < 2 && zeroAt d 10 2 && scratch ≤ 524288 && zeroAt d 96 32
      && 128 ≤ entry && entry % 4 == 0 && inside && regDemand (2 ^ tw) (nt + 1) nv nq ≤ 196608 then
    some { shape := { entry := BitVec.ofNat 64 (k.cur + entry), width := 2 ^ tw, nteam := nt + 1, w := w, h := h,
                      nv := nv, nq := nq, scratch := scratch },
           spec := fieldAt d 9 1 == 1, dontCare := (d.drop 16).take 80 }
  else none

/-- A capability that may be a launch's kernel (R234). -/
def Cap.isKernel (k : Cap) : Bool := k.usable (permLoad + permExec) && k.coversCur 128

/-- Read the descriptor a kernel capability points to: none where it cannot be read. -/
def State.descriptor (s : State) (ctx : Nat) (k : Cap) : Except CpStop (Option (List Byte)) × State :=
  match s.resolve (cpWho ctx) 0 k k.cur 128 permLoad 1 .read with
  | .error .wait => (.error .wait, s)
  | .error (.fault _) => (.ok none, s)
  | .ok ps =>
    match (s.touch (cpWho ctx) .read ps).readParts (cpWho ctx) ps with
    | (.error _, s') => (.ok none, s')
    | (.ok (bs, _), s') => (.ok (some bs), s')

/-! ## The argument block (R87) -/

/-- A page for an argument block: which one is open, but that it is not mapped and not of the window range. -/
def State.argPage (s : State) (c : Ctx) : Nat :=
  let base := Config.freeNat s.oracle (2 ^ 71)
  let bad (p : Nat) : Bool := pteType (c.pte p) != 0 || (c.window / 65536 ≤ p && p < c.window / 65536 + 256)
  (((List.range (c.ptes.length + 257)).map fun k => (base + k) % 2199023255552).find? fun p => !bad p).getD 0
/-- A local frame for it, with where it comes from (`Launch.argFrom`): on a Bilran H one that no context owns, on a Bilran L one of
the context's extent reserve (R198), while QUOTA leaves room (R197); else one of the context's pool; none where that is empty. -/
def State.argFrame (s : State) (n : Nat) (c : Ctx) : Option (Nat × Nat) :=
  match Nat.blt (s.heldFrames n c) c.quota, s.isL, s.freshFrames 1, c.reserve, c.pool with
  | true, false, f :: _, _, _ => some (f, 0)
  | true, true, _, f :: _, _ => some (f, 2)
  | _, _, _, _, f :: _ => some (f, 1)
  | _, _, _, _, [] => none

/-- Write granules at their home, tags with them. -/
def State.writeGranules (s : State) (key : Nat) (ks : List Cap) : State :=
  ((List.range ks.length).zip ks).foldl (fun s x =>
    (s.homeWrite (key + 16 * x.1) (bytesOfNat 16 x.2.bits.toNat)).setTag (key + 16 * x.1) x.2.tag) s

/-- Make an argument block, and c14 over it: LOAD, LOADCAP and GLOBAL alone, with where its frame comes from. Its page can only be
read, and its tables are firmware's (R186). None where no frame is left for it or for them. DESIGN CHOICE, log entry 99. -/
def State.argBlock (s : State) (ctx : Nat) (ks : List Cap) : Option (Cap × Nat × State) :=
  match s.ctx? ctx with
  | none => none
  | some c =>
    let page := s.argPage c
    let va := page * 65536
    (s.argFrame ctx c).bind fun (f, src) =>
      let s := s.tick.scrubFrame f
      let s := { s with owner := SMap.put 0 s.owner f (ctx + 1) }
      let s := s.modCtx ctx fun c => match src with
        | 1 => { c with pool := c.pool.filter fun x => x != f }
        | 2 => { c with reserve := c.reserve.filter fun x => x != f }
        | _ => c
      let grown := if s.tableFree.length < (c.missing va).length then s.growTables else some s
      grown.map fun s =>
        let s := ((s.ensureTables ctx va).2).modCtx ctx fun c =>
          { c with ptes := c.ptes.put 0 page (BitVec.ofNat 128 (f * 65536 + 6)) }
        ((capExact va (16 * ks.length) (permLoad + permLoadCap + permGlobal) 0).getD Cap.null, src,
          s.writeGranules (f * 65536) ks)

/-- Write granules over an argument block already made. -/
def State.rewriteArgs (s : State) (ctx : Nat) (args : Cap) (ks : List Cap) : State :=
  match s.ctx? ctx with
  | none => s
  | some c =>
    match c.walk args.cur with
    | .ok e => s.writeGranules (frameKey (pteLoc e) (ptePeer e) (pteFrame e) + args.cur % 65536) ks
    | .error _ => s

/-! ## Prediction (R250, R251) -/

/-- The predicted value of a slot from its values, newest first: repeat, then stride where `next` gives one, then period-2
(R250). A value that is missing ends every class that reaches it. DESIGN CHOICE, log entry 106. -/
def classify {α : Type} [BEq α] (stride : α → α → α → Option (Option α)) (us : List (Option α)) : Option α :=
  match us with
  | some u1 :: some u2 :: rest =>
    if u1 == u2 then some u1
    else
      match rest with
      | some u3 :: more =>
        match stride u1 u2 u3 with
        | some r => r
        | none =>
          match more with
          | some u4 :: _ => if u1 == u3 && u2 == u4 then some u2 else none
          | _ => none
      | _ => none
  | _ => none

/-- No stride: KERNEL and SHAPE (R251). -/
def noStride {α : Type} (_ _ _ : α) : Option (Option α) := none
/-- The stride of scalar slots, modulo 2^64 (R250). -/
def scalarStride (a b c : Dword) : Option (Option Dword) := if a - b = b - c ∧ a ≠ b then some (some (a + (a - b))) else none
/-- The stride of capability slots (R250): cursors step, every other bit is equal; an untagged result predicts nothing. -/
def capStride (a b c : Cap) : Option (Option Cap) :=
  let da : Int := (a.cur : Int) - b.cur
  let db : Int := (b.cur : Int) - c.cur
  if a.tag && b.tag && c.tag && !a.isSealed && !b.isSealed && !c.isSealed && a.setCur 0 == b.setCur 0 &&
      b.setCur 0 == c.setCur 0 && da == db && da != 0 then
    match capMove a (a.cur + da) with
    | .ok k => some (if k.tag then some k else none)
    | .error _ => some none
  else none

/-- The two scalar slots of a granule. -/
def scalarLow (k : Cap) : Dword := k.bits.setWidth 64
def scalarHigh (k : Cap) : Dword := (k.bits >>> 64).setWidth 64
/-- ARGG and HMASK of a SHAPE. -/
def shapeArgg (sh : List Byte) : Nat := fieldAt sh 12 1
def shapeHmask (sh : List Byte) : Nat := fieldAt sh 13 1

/-- An entry's granule `j` as a capability slot, or as scalar slots; none where its shape gives the granule no such slot. DESIGN
CHOICE, log entry 106. -/
def HistEntry.capSlot (e : HistEntry) (j : Nat) : Option Cap :=
  if j < shapeArgg e.shape && slotIsCap (shapeHmask e.shape) j then e.granules[j]? else none
def HistEntry.scalarSlot (e : HistEntry) (j : Nat) (high : Bool) : Option Dword :=
  if j < shapeArgg e.shape && !slotIsCap (shapeHmask e.shape) j then
    (e.granules[j]?).map fun k => if high then scalarHigh k else scalarLow k
  else none

/-- The don't-care bits of a scalar slot (R235 DCMASK). -/
def dontCareBits (dc : List Byte) (j : Nat) (high : Bool) : Dword :=
  BitVec.ofNat 64 (fieldAt dc (16 * j + if high then 8 else 0) 8)

/-- The predicted granule `j` (R251): an unpredictable scalar whose every bit is don't-care is its newest value. -/
def predictGranule (es : List HistEntry) (sh dc : List Byte) (j : Nat) : Option Cap :=
  if slotIsCap (shapeHmask sh) j then classify capStride (es.map fun e => e.capSlot j)
  else
    let one (high : Bool) : Option Dword :=
      let us := es.map fun e => e.scalarSlot j high
      match classify scalarStride us with
      | some x => some x
      | none => if dontCareBits dc j high = BitVec.allOnes 64 then us.headD none else none
    match one false, one true with
    | some lo, some hi => some ⟨false, hi ++ lo⟩
    | _, _ => none

/-- All of a list, if every one is there. -/
def allSome {α : Type} : List (Option α) → Option (List α)
  | [] => some []
  | some x :: rest => (allSome rest).map fun xs => x :: xs
  | none :: _ => none

/-! ## Claim and discard (R260, R261) -/

/-- True when the real packet's slots match a speculation's prediction (R260). -/
def Spec.fits (p : Spec) (k : Cap) (sh : List Byte) (ks : List Cap) : Bool :=
  p.kernel == k && p.shape == sh && (List.range (shapeArgg sh)).all fun j =>
    let a := ks.getD j Cap.null
    let b := p.granules.getD j Cap.null
    if slotIsCap (shapeHmask sh) j then a == b
    else
      (scalarLow a ^^^ scalarLow b) &&& ~~~(dontCareBits p.dontCare j false) == 0 &&
        (scalarHigh a ^^^ scalarHigh b) &&& ~~~(dontCareBits p.dontCare j true) == 0

/-- True when some page of some context maps a local frame as shared-coherent. -/
def State.cohFrame (s : State) (frame : Nat) : Bool :=
  s.ctxs.any fun x => x.2.ptes.any fun e => pteType e.2 == 2 && pteLoc e.2 == 0 && pteFrame e.2 == frame && pteCoh e.2

/-- A parked team goes on (R261): the owners of frames that the firewall refused it are noticed (R300), its traps of containment are
raised, and the one it parked at once its results have landed. -/
def State.unpark (s : State) (t : Team) : State :=
  let s := (s.modTeam t.id fun u => { u with run := s.idleRun u, asyncNext := [], owedNotes := [] }).refuseLines t.owedNotes
  let s := t.asyncNext.foldl (fun s r =>
    (s.contain t.id r.code r.flags r).modTeam t.id fun u => { u with trapNext := t.trapNext }) s
  if t.trapNext.isSome then s.post (.trapEntry t.id) else s

/-- Claim a speculation for the packet that started (R261): the block, the shadow lines and what its accesses did to level-0 entries,
then gangs and parked teams. Its launch stands where its packet started (R242). -/
def State.claim (s : State) (p : Spec) (q : Queue) (number tag : Nat) (ks : List Cap) : State :=
  let s := { s with specs := s.specs.filter fun x => x.id != p.id }
  let args := ((s.launches.find? fun (l : Launch) => l.id == p.launch).map Launch.args).getD Cap.null
  let s := s.rewriteArgs p.ctx args ks
  let s := p.shadow.foldl (fun s x => s.homeMerge x.1 x.2) s
  let s := s.modCtx p.ctx fun c => p.marks.foldl (fun c x => c.markBits x.1 x.2.1 x.2.2) c
  let starts (l : Launch) : Launch :=
    { l with spec := none, number := number, tag := tag, priority := q.priority, started := s.timebase }
  let real (g : Gang) : Gang := if g.spec = some p.id then { g with spec := none, priority := q.priority } else g
  let mine := (s.launches.filter fun (l : Launch) => l.id == p.launch).map starts
  let rest := s.launches.filter fun (l : Launch) => l.id != p.launch
  let s := { s with launches := rest ++ mine, gangs := s.gangs.map real }
  let parked := s.teams.filter fun t => t.run == .parked &&
    (s.gang? t.id.ticket).any fun g => g.launch == p.launch
  (parked.foldl State.unpark s).orrCount p.ctx 1

/-! ## Starting a speculation (R252, R253) -/

/-- The prediction of a queue's next launch: K, SHAPE and granules (R251). -/
def predict (hist : List HistEntry) (k : Cap) (dc : List Byte) : Option (List Byte × List Cap) :=
  let es := hist.filter fun e => e.kernel == k
  (classify noStride (es.map fun e => some e.shape)).bind fun sh =>
    (allSome ((List.range (shapeArgg sh)).map fun j => predictGranule es sh dc j)).map fun ks => (sh, ks)

/-- Place candidates while any can be placed; a candidate that must take victims does so in its turn. -/
def State.dispatchAll : Nat → State → State
  | 0, s => s
  | n + 1, s =>
    match s.decide with
    | some d => State.dispatchAll n (s.enact d)
    | none => s

/-- What the shadow store holds, in units of 512 KiB: 16 MiB of L2 ways and the banks in shadow mode (R254). -/
def State.shadowUnits (s : State) : Nat := 32 + (s.cores.foldl (fun n x => n + x.2.shadowBanks.length) 0) / 4

/-- Firmware takes cluster-cache banks into shadow mode, from cores that hold no workgroup and up to 16 MiB in all (R254); which
and how many is left open. A cluster left without a caching bank has written back what it held (R182).
DESIGN CHOICE, log entry 23. -/
def State.takeShadow (s : State) : State :=
  let held := s.cores.foldl (fun n x => n + x.2.shadowBanks.length) 0
  let may := (List.range 320).flatMap fun k =>
    let c := s.core k
    if s.powered k && c.issuing.isNone && c.shadow.isNone then
      (c.freeBanks.filter fun b => (c.bank b).mode == .cache).map fun b => 4 * k + b
    else []
  let take := (may.filter fun n => Config.freeBool s.oracle (2 ^ 72 + n)).take (128 - held)
  let s := (take.foldl (fun s n => s.modCore (n / 4) fun c => c.setBank (n % 4) (c.bank (n % 4)).lend) s).tick
  if take.isEmpty then s else s.evictAll fun k => !s.caches (copyCluster k)

/-- True when an ordinary candidate waits for some of the cores of a rectangle (R252): those of a gang in shadow, or those kept for it
while victims leave (R244). Which cores another candidate waits for is left open, but that they make a rectangle that could hold it.
DESIGN CHOICE, log entry 22. -/
def State.wanted (s : State) (cores : List Nat) : Bool :=
  let meets (ks : List Nat) : Bool := ks.any fun k => cores.contains k
  let some' (w h : Nat) : Bool := (origins w h).any fun o =>
    let ks := rectCores o.1 o.2 w h
    ks.all s.powered && meets ks && Config.freeBool s.oracle (2 ^ 104 + o.1 + 16 * o.2)
  s.candidates.any fun c =>
    match s.promised.filter fun p => p.of c, c with
    | some p, _ => meets p.cores
    | none, .gang g => if g.phase = .shadow then meets g.cores else some' g.shape.w g.shape.h
    | none, .launch l => some' l.shape.w l.shape.h

/-- The parts of the descriptor that a kernel capability points to. -/
def State.descriptorParts (s : State) (ctx : Nat) (k : Cap) : List Part :=
  match s.resolve (cpWho ctx) 0 k k.cur 128 permLoad 1 .read with
  | .ok ps => ps
  | .error _ => []

/-- Test R252 for a queue whose LAUNCH has started, and start a speculation of its next launch. Where a condition fails nothing else
happens: not even the descriptor's page is marked. DESIGN CHOICE, log entry 22. -/
def State.speculate (s : State) (slot : Nat) : State :=
  match s.queue? slot with
  | none => s
  | some q =>
    let ctl := s.orreryCtl.getD q.ctx 4
    let quota := ctl.toNat % 32
    let free := s.specs.length < 4 && !s.specs.any (fun p => p.queue == slot) && !s.sweepActive && !s.transitStopped
    if !(ctl.getLsbD 31 && free && !s.held q.ctx) then s
    else
      match classify noStride (q.history.map fun e => some e.kernel) with
      | none => s
      | some k =>
        if !k.isKernel then s
        else
          let desc := s.descriptorParts q.ctx k
          match s.readParts (cpWho q.ctx) desc with
          | (.ok (d, _), s') =>
            match validate k d with
            | none => s
            | some kn =>
              match predict q.history k kn.dontCare with
              | none => s
              | some (sh, ks) =>
                let t := s'.takeShadow
                let fits := s.specs.foldl (fun n p => n + p.quota) 0 + quota ≤ t.shadowUnits
                let room := (t.freeRect kn.shape 0).any fun o => !s'.wanted (rectCores o.1 o.2 kn.shape.w kn.shape.h)
                if !kn.spec || !fits || !room then s
                else
                  match t.tick.argBlock q.ctx ks with
                  | none => s
                  | some (args, src, s') =>
                  let l : Launch :=
                    { id := s'.nextLaunch, ctx := q.ctx, queue := slot, number := 0, tag := 0, priority := q.priority,
                      gx := fieldAt sh 0 4 + 1, gy := fieldAt sh 4 4 + 1, gz := fieldAt sh 8 4 + 1, next := 0, again := [],
                      shape := kn.shape, code := k, args := args, started := s'.timebase, waiting := none, holds := false,
                      overran := false, spec := some s'.nextSpec, argFrom := src }
                  let p : Spec :=
                    { id := s'.nextSpec, ctx := q.ctx, queue := slot, launch := l.id, kernel := k, shape := sh,
                      granules := ks, dontCare := kn.dontCare, argg := shapeArgg sh, hmask := shapeHmask sh,
                      quota := quota, shadow := [],
                      reads := ((desc.filter fun x => x.key < regionSize).flatMap fun x => linesOf x.key x.len).dedup,
                      signature := [], walked := (desc.map Part.page).dedup,
                      marks := desc.map fun x => (x.page, x.pte, x.marks .read) }
                  { (s'.orrCount q.ctx 0) with
                    launches := s'.launches ++ [l], specs := s'.specs ++ [p], nextLaunch := s'.nextLaunch + 1,
                    nextSpec := s'.nextSpec + 1 }
          | _ => s

end Sys2Proof.Machine
end

