-- ==== Sys2Proof/Machine/Packets.lean ====
section
/-!
DEFINITION. Machine/Packets.lean: notify registers (R240, R241), the fetcher (R228, R229), packets (R230 to R239, R294), and
their completion (R231 to R233).
-/

namespace Sys2Proof.Machine

/-! ## Notify (R240, R241, R301) -/

/-- The queue slot a notify of virtual queue `vq` of a function reaches. DESIGN CHOICE, log entry 70. -/
def State.notifySlot (s : State) (fn vq : Nat) : Option Nat :=
  let e1 := s.stage1.getD (512 * fn + vq) 0
  let e2 := s.stage2.getD (4096 * s.fnOwner.getD fn 0 + e1.toNat % 4096) 0
  if e1.getLsbD 31 && e2.getLsbD 31 then
    let slot := e2.toNat % 4096
    match s.queue? slot with
    | some q => if (s.ctx? q.ctx).any fun c => c.function == fn then some slot else none
    | none => none
  else none

/-- A notify of a queue: the fetcher scans, or rechecks once more (R229). -/
def Queue.ring' (q : Queue) : Queue :=
  if q.stopped then q else if q.scanning then { q with latched := true } else { q with scanning := true }

/-- A packet or notify ungates the clock of the context's partition (R306). -/
def State.ungate (s : State) (ctx : Nat) : State :=
  match s.ctx? ctx with
  | none => s
  | some c => { s with partitions := s.partitions.modify c.partition fun p =>
      if p.power = .gated then { p with power := .running } else p }

/-- NOTIFY (R240): an invalid entry, another context's queue, or a confidential context's notify over a port without IDE
is dropped and counted (R301). -/
def State.notify (s : State) (fn vq port : Nat) : State :=
  let dropped : State := { s with notifyDrop := s.notifyDrop + 1 }
  match s.notifySlot fn vq with
  | none => dropped
  | some slot =>
    match (s.queue? slot).bind fun q => s.ctx? q.ctx with
    | none => dropped
    | some c =>
      if c.confidential && !((s.hostPorts.find? port).any HostPort.ide) then dropped
      else (s.modQueue slot Queue.ring').ungate ((s.queue? slot).elim 0 Queue.ctx)

/-- NOTIFY (R240). -/
def execNotify (fn vq port : Nat) (s : State) : Out := .next (s.notify fn vq port)

/-! ## Taking packets (R228, R229, R236) -/

/-- True when a queue's context may take packets: a confidential one needs its function in RUN (R301, R272). -/
def State.mayFetch (s : State) (q : Queue) : Bool :=
  !q.stopped && (s.ctx? q.ctx).any fun c =>
    !c.killed && !c.saving && !c.saved && (!c.confidential || s.tdisp.getD c.function .unlocked == .run)

/-- Take the oldest inlet image (R236, R271). -/
def State.takeInlet (s : State) (slot : Nat) : State :=
  s.modQueue slot fun q =>
    match q.inlet with
    | [] => q
    | (img, task) :: rest =>
      let num := 2 ^ 63 + q.inletTaken
      { q with inlet := rest, inletTaken := q.inletTaken + 1, lastTaken := some num,
               packets := q.packets ++ [newPacket num true img task q.lastTaken] }

/-- The report block cannot be written after the fetch of packet `n`: it does not start, and the queue stops (R229). -/
def State.fetchFails (s : State) (slot n status : Nat) : State :=
  let tag := ((s.queue? slot).bind fun q => q.packets.find? fun p => p.num == n).elim 0 Packet.tag
  let s := s.modQueue slot fun x =>
    { x with packets := x.packets.filter fun p => p.num != n, retired := x.retired + 1 }
  s.stopQueue slot status tag n

/-- Write a report block that has been owed since its page began to migrate (R188, R229). -/
def State.retryReport (s : State) (slot : Nat) : State :=
  match (s.queue? slot).bind Queue.owed with
  | none => s
  | some k =>
    match s.reportNow slot none, k with
    | (some st, s'), n + 1 => s'.fetchFails slot n st
    | (_, s'), _ => s'

/-- Write the report after a packet's completion, or the one still owed for a fetch, whose failure is that packet's (R229). -/
def State.reportDone (s : State) (slot : Nat) : State :=
  if ((s.queue? slot).bind Queue.owed).isSome then s.retryReport slot else (s.reportNow slot none).2

/-- Take the packet of the next ring slot, and write the report block; where that fails the packet does not start and the
queue stops (R229). DESIGN CHOICE, log entry 68. -/
def State.takeRing (s : State) (slot : Nat) (img : List Byte) : State :=
  match s.queue? slot with
  | none => s
  | some q =>
    let wrap := q.idx + 1 == 2 ^ q.log2n
    let s := s.modQueue slot fun q =>
      { q with idx := if wrap then 0 else q.idx + 1, phase := if wrap then !q.phase else q.phase, fetched := q.fetched + 1,
               lastTaken := some q.fetched, packets := q.packets ++ [newPacket q.fetched false img none q.lastTaken] }
    match s.reportNow slot (some q.fetched) with
    | (none, s') => s'
    | (some st, s') => s'.fetchFails slot q.fetched st

/-- The fetcher finds nothing: it goes idle, or looks once more after a notify that came meanwhile (R228, R229). -/
def Queue.idle (q : Queue) : Queue :=
  if q.latched then { q with latched := false } else { q with scanning := false }

/-- PACKET_FETCH (R228): a report still owed, then the inlet; then bytes 0 to 7 of the slot, and the rest if their PHASE is the
expected one. -/
def execPacketFetch (slot : Nat) (s : State) : Out :=
  let s := s.retryReport slot
  match s.queue? slot with
  | none => .next s
  | some q =>
    if !s.mayFetch q then .next s
    else if !q.inlet.isEmpty then .next (s.takeInlet slot)
    else if !q.scanning || q.owed.isSome then .next s
    else
      let va := q.ring + 128 * q.idx
      match s.cpRead q.ctx va 8 with
      | (.error .wait, s') => .next s'
      | (.error _, s') => .next (s'.modQueue slot Queue.idle)
      | (.ok (head, _), s') =>
        if (fieldAt head 0 1 ≥ 128) != q.phase then .next (s'.modQueue slot Queue.idle)
        else
          match s'.cpRead q.ctx (va + 8) 120 with
          | (.error .wait, s'') => .next s''
          | (.error _, s'') => .next (s''.modQueue slot Queue.idle)
          | (.ok (body, _), s'') => .next (s''.takeRing slot (head ++ body))

/-! ## Starting packets (R230, R231) -/

/-- KIND values (R230). -/
def Packet.async (p : Packet) : Bool := (p.kind == 1 || p.kind == 2 || p.kind == 5) && fieldAt p.image 1 1 % 2 == 1
/-- A header without reserved bits, unknown kinds or flags its kind does not take. -/
def Packet.headerOk (p : Packet) : Bool :=
  let b1 := fieldAt p.image 1 1
  fieldAt p.image 0 1 / 16 % 8 == 0 && p.kind ≤ 6 && b1 / 2 % 2 == 0 && b1 < 8 &&
    (b1 % 2 == 0 || p.kind == 1 || p.kind == 2 || p.kind == 5) && (b1 / 4 == 0 || p.kind == 6)

/-- The packet of a queue that may start now, if any (R231): taken, not started, its predecessor completed, or only started
with ASYNC, and every earlier WAITCTR and MARKER completed; its report written (R229). A LAUNCH whose claim waits for the Transit pair waits too
(R260). -/
def State.startable (s : State) (slot : Nat) : Option Packet :=
  match s.queue? slot with
  | none => none
  | some q =>
    if q.stopped || s.held q.ctx then none
    else
      match q.packets.find? fun p => !p.started with
      | none => none
      | some p =>
        let before := q.packets.takeWhile fun x => x.started
        let prevGone := !before.any fun x => p.after == some x.num
        if before.any (fun x => x.kind == 3 || x.kind == 6) || !(prevGone || p.async) || q.owed == some (p.num + 1) then none
        else if p.kind = 1 ∧ s.transitStopped ∧ s.specs.any (fun x => x.queue == slot) then none
        else if p.kind = 2 ∧ (s.engineFor (fieldAt p.image 2 2)).any s.engineFull then none
        else some p

/-- Change one packet of a queue. -/
def State.modPacket (s : State) (slot num : Nat) (f : Packet → Packet) : State :=
  s.modQueue slot fun q => { q with packets := q.packets.map fun p => if p.num = num then f p else p }
def State.setWait (s : State) (slot num : Nat) (w : PacketWait) : State :=
  s.modPacket slot num fun p => { p with wait := w }
/-- End a packet: its completion is due (R231). -/
def State.endPacket (s : State) (slot num status : Nat) (cause : Nat := 0) : State := s.setWait slot num (.done status cause)

/-- Start a packet of a kind: the acquire of R231, the end of a speculation that a packet of another kind ends (R258), and
the header (R230). -/
def startPacket (slot kind : Nat) (body : State → Queue → Packet → Out) (s : State) : Out :=
  match s.queue? slot, s.startable slot with
  | some q, some p =>
    if p.kind != kind then .next s
    else
      let s := s.evictAll fun _ => true
      let s := if kind = 1 then s else s.discardSpecs 1 fun x => x.queue == slot
      if !p.headerOk then .next ((s.discardSpecs 1 fun x => x.queue == slot).endPacket slot p.num stMalformed)
      else body s q p
  | _, _ => .next s

/-- Resolve the header's completion counter and go on with it noted, or end the packet with HANDLE (R231). -/
def withCtr (slot : Nat) (p : Packet) (s : State) (q : Queue) (body : State → Out) : Out :=
  let h := fieldAt p.image 2 2
  if h = 0 then body s
  else
    match s.handleCap q.ctx h with
    | (.error .wait, s') => .next s'
    | (.error _, s') => .next ((s'.discardSpecs 1 fun x => x.queue == slot).endPacket slot p.num stHandle)
    | (.ok k, s') =>
      if k.usable (permAtomic + permStore) && k.cur % 8 == 0 && k.coversCur 8 then
        body (s'.modPacket slot p.num fun x => { x with ctr := some k })
      else .next ((s'.discardSpecs 1 fun x => x.queue == slot).endPacket slot p.num stHandle)

/-- NOP (R231): bytes after the flags are zero, or it ends as malformed. DESIGN CHOICE, log entry 85. -/
def execNopPacket (slot : Nat) (s : State) : Out :=
  startPacket slot 0 (fun s _ p =>
    .next (s.endPacket slot p.num (if zeroAt p.image 2 126 then stOk else stMalformed))) s

/-- ADDCTR (R231): it needs a counter, and its body is zero, or it ends as malformed. DESIGN CHOICE, log entry 85. -/
def execAddctr (slot : Nat) (s : State) : Out :=
  startPacket slot 4 (fun s q p =>
    if fieldAt p.image 2 2 == 0 || !zeroAt p.image 16 112 then .next (s.endPacket slot p.num stMalformed)
    else withCtr slot p s q fun s => .next (s.endPacket slot p.num stOk)) s

/-! ## LAUNCH (R234, R235, R249, R260, R261, R456) -/

/-- Note a LAUNCH whose handles resolved, newest first, eight at most (R249). -/
def Queue.note (q : Queue) (k : Cap) (sh : List Byte) (ks : List Cap) : Queue :=
  { q with history := (⟨k, sh, ks⟩ :: q.history).take 8 }

/-- A plain launch: the descriptor, the argument block, and gangs as candidates. It waits for a frame for the block. -/
def State.startLaunch (s : State) (slot : Nat) (q : Queue) (p : Packet) (k : Cap) (ks : List Cap) : State :=
  match s.descriptor q.ctx k with
  | (.error _, s') => s'
  | (.ok none, s') => s'.endPacket slot p.num stHandle
  | (.ok (some d), s') =>
    let sh := bodyShape p.image
    match validate k d with
    | none => (s'.modQueue slot fun q => q.note k sh ks).endPacket slot p.num stDescriptor
    | some kn =>
      match s'.argBlock q.ctx ks with
      | none => s'
      | some (args, src, s') =>
      let l : Launch :=
        { id := s'.nextLaunch, ctx := q.ctx, queue := slot, number := p.num, tag := p.tag, priority := q.priority,
          gx := fieldAt sh 0 4 + 1, gy := fieldAt sh 4 4 + 1, gz := fieldAt sh 8 4 + 1, next := 0, again := [],
          shape := kn.shape, code := k, args := args, started := s'.timebase, waiting := none, holds := false,
          overran := false, spec := none, argFrom := src }
      let s' : State := { s' with launches := s'.launches ++ [l], nextLaunch := s'.nextLaunch + 1 }
      ((State.dispatchAll 640 ((s'.setWait slot p.num (.launch l.id)).modQueue slot fun q => q.note k sh ks)).noteWaits).speculate slot

/-- Whether the descriptor still gives what a speculation took from it (R262): read again at the claim point, since it may lie
outside the memory whose writes are checked; none while its page is migrating. -/
def State.stillValid (s : State) (x : Spec) : Option Bool × State :=
  match s.descriptor x.ctx x.kernel with
  | (.error _, s') => (none, s')
  | (.ok none, s') => (some false, s')
  | (.ok (some d), s') =>
    let shape := (s'.launches.find? fun (l : Launch) => l.id == x.launch).map Launch.shape
    (some ((validate x.kernel d).any fun kn => shape == some kn.shape && kn.dontCare == x.dontCare), s')

/-- LAUNCH_PACKET (R234): a running speculation of the queue is claimed or discarded before anything else starts (R456). -/
def execLaunchPacket (slot : Nat) (s : State) : Out :=
  startPacket slot 1 (fun s q p =>
    let img := p.image
    let drop (s : State) : State := s.discardSpecs 1 fun x => x.queue == slot
    if !bodyWellFormed img then .next ((drop s).endPacket slot p.num stMalformed)
    else withCtr slot p s q fun s =>
      match s.handleCap q.ctx (fieldAt img 16 2) with
      | (.error .wait, s) => .next s
      | (.error _, s) => .next ((drop s).endPacket slot p.num stHandle)
      | (.ok k, s) =>
        match s.bodyGranules q.ctx img with
        | (.error .wait, s) => .next s
        | (.error _, s) => .next ((drop s).endPacket slot p.num stHandle)
        | (.ok ks, s) =>
          if !k.isKernel then .next ((drop s).endPacket slot p.num stHandle)
          else
            match s.specs.find? fun x => x.queue == slot && x.fits k (bodyShape img) ks with
            | some x =>
              match s.stillValid x with
              | (none, s) => .next s
              | (some false, s) => .next ((drop s).startLaunch slot q p k ks)
              | (some true, s) =>
                -- other agents' copies of the lines it commits come back first (R223, R261)
                let out := (x.shadow.map Prod.fst).filter fun line => s.cohFrame (line / 512) &&
                  (s.snooped line || !(s.sharers.getD line []).isEmpty)
                if !out.isEmpty then
                  .next (out.foldl (fun s line => if s.snooped line then s else s.cohWrite line Copy.empty) s)
                else
                let s := (s.claim x q p.num p.tag ks).setWait slot p.num (.launch x.launch)
                let s := s.modQueue slot fun q => q.note k (bodyShape img) ks
                .next (((State.dispatchAll 640 s).noteWaits.speculate slot).endLaunch x.launch)
            | none => .next ((drop s).startLaunch slot q p k ks)) s

/-! ## JOB (R237, R369) -/

/-- The granules of a card in a packet (R237, R369), CTR, SRC, DST and AUX: one its OPER does not use is ignored. -/
def State.cardCaps (s : State) (ctx : Nat) (o : Oper) (img : List Byte) : Except CpStop (List Cap) × State :=
  [(16, true), (32, o.usesSrc), (48, o.usesDst), (64, o.usesAux)].foldl
    (fun (r : Except CpStop (List Cap) × State) (x : Nat × Bool) =>
      match r with
      | (.error e, s) => (.error e, s)
      | (.ok ks, s) =>
        if !x.2 then (.ok (ks ++ [Cap.null]), s)
        else match s.handleField ctx ((img.drop x.1).take 16) with
          | (.error e, s') => (.error e, s')
          | (.ok k, s') => (.ok (ks ++ [k]), s')) (.ok [], s)

/-- JOB_PACKET (R237, R369): its card goes into the engine's queue; an unusable card or selector ends the packet. -/
def execJobPacket (slot : Nat) (s : State) : Out :=
  startPacket slot 2 (fun s q p =>
    let img := p.image
    match operOf (fieldAt img 80 1) with
    | none => .next (s.endPacket slot p.num stMalformed)
    | some o =>
      match s.cardCaps q.ctx o img with
      | (.error .wait, s) => .next s
      | (.error (.fail st), s) => .next (s.endPacket slot p.num st)
      | (.ok ks, s) =>
        let k (j : Nat) : Cap := ks.getD j Cap.null
        let st := s.cardStatus q.ctx false img (k 0) (k 1) (k 2) (k 3)
        if st != stOk then .next (s.endPacket slot p.num st)
        else
          match s.engineFor (fieldAt img 2 2) with
          | none => .next (s.endPacket slot p.num stHandle)
          | some e =>
            .next ((s.enqueue e (s.makeJob q.ctx e img (k 0) (k 1) (k 2) (k 3) 0 false (some (slot, p.num)) stOk)).setWait slot
              p.num .job)) s

/-! ## WAITCTR (R239) -/

/-- Cycles of a microsecond at the core clock (R4). -/
def cyclesPerUs : Nat := 2100
/-- The name under which a queue slot's requests to peers go out. -/
def slotUnit (slot : Nat) : TeamId := ⟨0, 0, 0, slot⟩

/-- The command processor as it waits on a context's counter: no data of a confidential context enters that way (R301). -/
def counterWho (ctx : Nat) : Who := { cpWho ctx with cipher := false }

/-- A wait on a counter ends with a status; what its queue has asked a peer is taken back. -/
def State.endWait (s : State) (slot num status : Nat) : State := (s.dropAsks fun i => i == slotUnit slot).endPacket slot num status

/-- A waiting packet takes up what its counter held: met, timed out where the read followed the timeout (`last`), or waiting still
(R58, R239). -/
def State.judgeWait (s : State) (slot num : Nat) (target : Dword) (v : Nat) (last : Bool) : State :=
  if target.toNat ≤ v then (s.evictAll fun _ => true).endWait slot num stOk
  else if last then s.endWait slot num stTimeout
  else s

/-- The answer a peer has given to a queue's read of a counter, taken off the requests. -/
def State.tookAnswer (s : State) (slot : Nat) : Option Remote × State :=
  match s.remotes.find? fun r => r.team == slotUnit slot && (r.form == .cwait true || r.form == .cwait false) && r.got.isSome with
  | none => (none, s)
  | some r => (some r, { s with remotes := s.remotes.filter fun x => x.id != r.id })

/-- A waiting packet reads its counter, translating anew (R191, R220, R239): met, failed, timed out, or waiting still. A peer is
asked, once more after the timeout. A page that is no longer there, or refuses, ends it with FAULT. DESIGN CHOICE, log entry 86. -/
def State.pollCtr (s : State) (slot : Nat) (q : Queue) (p : Packet) : State :=
  match p.wait with
  | .counter k _ target deadline _ =>
    let last := deadline.any fun t => t ≤ s.timebase
    match s.tookAnswer slot with
    | (some r, s) =>
      match r.got with
      | some [b] => s.endWait slot p.num (statusOf b.toNat)
      | got => s.judgeWait slot p.num target (natOfBytes (((got.getD []).drop (r.hdr.address.toNat % 128)).take 8)) (r.form == .cwait true)
    | (none, s) =>
      let w := counterWho q.ctx
      let waits (key : Nat) : State := s.setWait slot p.num (.counter k key target deadline s.timebase)
      match s.resolve w 0 k k.cur 8 permLoad 8 .counter with
      | .error .wait => match p.wait with
        | .counter _ key _ _ _ => waits key
        | _ => s
      | .error (.fault f) => s.endWait slot p.num (statusOf f.cause)
      | .ok [x] =>
        let s := (waits x.key).touch w .counter [x]
        if (peerOf x.key).isSome then
          if s.remotes.any fun r => r.team == slotUnit slot && (r.form == .cwait true || (r.form == .cwait false && !last)) then s
          else s.sendRemote (s.header 0 0 3 w.ctx w.ticket x.key (lineImage x.key (List.replicate 8 0)).2 0 false []) [] (slotUnit slot)
            0 0 (.cwait last) (BitVec.ofNat 64 k.cur) none
        else
          match s.readCounter q.ctx noCluster x.key with
          | (.error e, s') => s'.endWait slot p.num (statusOf e)
          | (.ok v, s') => s'.judgeWait slot p.num target v last
      | .ok _ => s.endWait slot p.num stFault
  | _ => s

/-- True when a waiting packet is to read its counter again: a peer has answered, its timeout has passed and no final read been
made, or no monitor sees its counter and 256 cycles have passed (R57, R58, R239). -/
def State.waitDue (s : State) (slot : Nat) (w : PacketWait) : Bool :=
  match w with
  | .counter _ key _ deadline polled =>
    let mine (r : Remote) : Bool := r.team == slotUnit slot && (r.form == .cwait true || r.form == .cwait false)
    let final := s.remotes.any fun r => mine r && r.form == .cwait true
    s.remotes.any (fun r => mine r && r.got.isSome) ||
      (!final && (deadline.any (fun t => t ≤ s.timebase && polled < t) ||
        (polled + 256 ≤ s.timebase && (!monitored key || deadline.any fun t => t ≤ s.timebase))))
  | _ => false

/-- Every packet of a queue that waits on a counter reads it. -/
def State.pollCtrs (s : State) (slot : Nat) : State :=
  match s.queue? slot with
  | none => s
  | some q => q.packets.foldl (fun s p => s.pollCtr slot q p) s

/-- WAITCTR (R239): a packet starts waiting; a packet that waits already reads its counter again. DESIGN CHOICE, log entry 86. -/
def execWaitctr (slot : Nat) (s : State) : Out :=
  startPacket slot 3 (fun s q p =>
    let img := p.image
    if !zeroAt img 48 80 || !zeroAt img 18 14 then .next (s.endPacket slot p.num stMalformed)
    else withCtr slot p s q fun s =>
      match s.handleCap q.ctx (fieldAt img 16 2) with
      | (.error .wait, s) => .next s
      | (.error _, s) => .next (s.endPacket slot p.num stHandle)
      | (.ok k, s) =>
        if !(k.usable permLoad && k.cur % 8 == 0 && k.coversCur 8) then .next (s.endPacket slot p.num stHandle)
        else
          match s.resolve (counterWho q.ctx) 0 k k.cur 8 permLoad 8 .counter with
          | .error .wait => .next s
          | .error (.fault f) => .next (s.endPacket slot p.num (if f.cause = cExpLost then stLost else stHandle))
          | .ok [x] =>
            let us := fieldAt img 40 8
            let dl := if us = 0 then none else some (s.timebase + us * cyclesPerUs)
            .next ((s.setWait slot p.num (.counter k x.key (BitVec.ofNat 64 (fieldAt img 32 8)) dl s.timebase)).pollCtrs slot)
          | .ok _ => .next (s.endPacket slot p.num stHandle)) (s.pollCtrs slot)

/-- WAITCTR_TIMEOUT (R239): a final read. -/
def execWaitctrTimeout (slot num : Nat) (s : State) : Out :=
  match s.queue? slot with
  | none => .next s
  | some q =>
    match q.packets.find? fun p => p.num == num with
    | some p => .next (s.pollCtr slot q p)
    | none => .next s

/-! ## TASK (R239, R294, R435) -/

/-- The GMAC tag of a task image (R294). -/
def taskTag (key : BitVec 256) (salt seq : Nat) (img : List Byte) : List Byte :=
  let aad := (img.take 112).map BitVec.toNat
  let aad := (aad.headD 0 % 128) :: aad.drop 1
  (gcmTag ⟨keyBytes key, ivBytes salt seq⟩ aad []).map fun x => BitVec.ofNat 8 x

/-- The image as it leaves: SEQ and the tag are the device's (R435). -/
def taskImage (key : BitVec 256) (salt seq : Nat) (img : List Byte) : List Byte :=
  let body := img.take 96 ++ bytesOfNat 8 seq ++ bytesOfNat 8 0
  body ++ taskTag key salt seq body

/-- TASK_PACKET (R294): the authenticated image is sent to the expander after a release at POOL scope. -/
def execTaskPacket (slot : Nat) (s : State) : Out :=
  startPacket slot 5 (fun s q p =>
    let img := p.image
    let argg := bodyArgg img
    if 3 < argg || 2 ^ argg ≤ bodyHmask img || !zeroAt img 47 1 then .next (s.endPacket slot p.num stMalformed)
    else withCtr slot p s q fun s =>
      let x := fieldAt img 46 1
      match s.taskKeys.find? fun k => k.ctx == q.ctx && k.expander == x with
      | some k =>
        if !s.expAttached.contains x then .next (s.endPacket slot p.num stHandle)
        else if s.expLost.contains x then .next (s.endPacket slot p.num stLost)
        else
          let seq := k.sent + 1
          let s := s.writeBackAll fun _ => true
          let s : State := { s with taskKeys := s.taskKeys.map fun y =>
            if y.ctx = k.ctx ∧ y.expander = k.expander then { y with sent := seq } else y }
          .next ((s.send (.task x (taskImage k.key k.salt.toNat seq img))).setWait slot p.num .task)
      | none => .next (s.endPacket slot p.num stHandle)) s

/-! ## MARKER and phase drains (R226, R231) -/

/-- True when no earlier packet of a queue is outstanding. -/
def Queue.first (q : Queue) (num : Nat) : Bool := (q.packets.headD (newPacket 0 false [] none none)).num == num

/-- A marker whose earlier packets have completed: done, or at its drain, which a domain in acknowledgement mode refuses at
once with RESULT 1 (R226). -/
def State.passMarker (s : State) (slot : Nat) (p : Packet) : State :=
  if fieldAt p.image 1 1 / 4 % 2 = 0 then s.endPacket slot p.num stOk
  else if s.phaseAck then ({ s with phaseResult := true }).endPacket slot p.num stOk
  else ({ s with phaseBusy := true, phaseResult := false }).setWait slot p.num .drain

/-- MARKER (R231): it starts, and once its earlier packets have completed it goes on. -/
def execMarker (slot : Nat) (s : State) : Out :=
  match s.queue? slot with
  | none => .next s
  | some q =>
    match q.packets.find? fun p => p.wait == .marker with
    | some p => .next (if q.first p.num then s.passMarker slot p else s)
    | none =>
      startPacket slot 6 (fun s q p =>
        if !zeroAt p.image 16 112 then .next (s.endPacket slot p.num stMalformed)
        else withCtr slot p s q fun s =>
          let s := s.setWait slot p.num .marker
          .next (if q.first p.num then s.passMarker slot p else s)) s

/-- True when some started packet drains. -/
def Queue.drains (q : Queue) : Bool := q.packets.any fun p => p.wait == .drain

/-- What the command processor's idle wire says of one queue (R226): nothing of it is being fetched, resolved or completed. -/
def State.queueQuiet (s : State) (slot : Nat) (q : Queue) : Bool :=
  !q.scanning && q.owed.isNone && (s.startable slot).isNone &&
    !(q.packets.any fun p => match p.wait with | .done _ _ => true | _ => false)

/-- The wires of this device (R226): nothing in flight anywhere, no store that an L1 has yet to pass on, and no team ready. -/
def State.idleHere (s : State) : Bool :=
  !(s.copies.any fun x => 100 ≤ copyHolder x.1 && x.2.dirty != 0) && s.heldHost.isEmpty &&
  s.agenda.isEmpty && s.merges.isEmpty && s.remotes.isEmpty && s.snoops.isEmpty && s.heldReqs.isEmpty &&
    (s.ports.all fun x => x.2.waiting.isEmpty) &&
    (s.engines.all fun x => x.2.isEmpty) && (s.wgs.all fun w => w.queue.isEmpty) &&
    (s.teams.all fun t => t.pending.isEmpty &&
      !(t.run == .ready && (s.core (s.coreOfTeam t)).issuing == some t.wg && t.active != 0)) &&
    (s.queues.all fun x => s.queueQuiet x.1 x.2) && s.decide.isNone

/-- The idle tree's output (R226): with the wires of the domain's other devices, which are inputs. -/
def State.idleTree (s : State) : Bool := s.idleHere && (s.domain ≤ 1 || Config.freeBool s.timebase (2 ^ 98))

/-- Core cycles that the output must stay true for (R226, R4): 512, or 20 µs in a domain of several devices. -/
def State.drainTime (s : State) : Nat := if s.domain ≤ 1 then 512 else 42000

/-- True when the tree's output has stayed true for the worst-case transit (R226). -/
def State.drained (s : State) : Bool := s.idleTree && s.busyAt + s.drainTime ≤ s.timebase

/-- PHASE_DRAIN_COMPLETE (R226): the drains of a context's queues end together. DESIGN CHOICE, log entry 37. -/
def execPhaseDrainComplete (ctx : Nat) (s : State) : Out :=
  let due := s.queues.filter fun x => x.2.ctx == ctx && x.2.drains
  if !s.drained || due.isEmpty then .next s
  else
    let n := due.foldl (fun n x => n + (x.2.packets.filter fun p => p.wait == .drain).length) 0
    let s : State := { s with
      phaseDone := s.phaseDone + BitVec.ofNat 64 n,
      queues := s.queues.map fun (x : Nat × Queue) =>
        if x.2.ctx = ctx then (x.1, { x.2 with packets := x.2.packets.map fun p =>
          if p.wait = .drain then { p with wait := .done stOk 0 } else p }) else x }
    .next { s with phaseBusy := s.queues.any fun x => x.2.drains }

/-! ## Completion (R231 to R233) -/

/-- Ask a peer to add to a counter there, for the packet of number `num` or a job, or take its answer: none while it is awaited, else
the cause, 0 for done. -/
def State.peerAdd (s : State) (unit : TeamId) (engine : Option Nat) (num : Nat) (w : Who) (x : Part) (va : Nat) (amount : Dword) :
    Option Nat × State :=
  match s.remotes.find? fun r => r.team == unit && r.engine == engine && r.hdr.kind == 3 && r.lane == num with
  | some r =>
    match r.got with
    | none => (none, s)
    | some b => (some (b.headD 0).toNat, { s with remotes := s.remotes.filter fun x => x.id != r.id })
  | none =>
    let data := bytesOfNat 8 amount.toNat
    let h := s.header 3 0 3 w.ctx w.ticket x.key (lineImage x.key (List.replicate 8 0)).2 0 false data
    (none, (s.touch w .counterAdd [x]).sendRemote h data unit num 0 .nothing (BitVec.ofNat 64 va) engine)

/-- The status and CAUSE that a failure at a peer gives (R232, R238). -/
def peerStatus (cause : Nat) : Nat × Nat := (statusOf cause, if cause = cAtomIndet then cAtomIndet else 0)

/-- Add to a completion counter (R219, R221, R231), for the packet of number `num` or a job: the status and CAUSE, or none while a peer
has not answered. A refusal by the firewall is noticed (R300). -/
def State.ctrAdd (s : State) (unit : TeamId) (engine : Option Nat) (num ctx ticket : Nat) (super : Bool) (k : Cap)
    (amount : Dword) : Option (Nat × Nat) × State :=
  let w : Who := ⟨ctx, ticket, super, noCluster, noCore + 1000, none, false⟩
  match s.resolve w 0 k k.cur 8 (permAtomic + permStore) 8 .counterAdd with
  | .error .wait => (none, s)
  | .error (.fault f) => (some (statusOf f.cause, 0), s.refusals w [f])
  | .ok [x] =>
    if x.fifo.isSome then (some (stFault, 0), s)
    else if (peerOf x.key).isSome then
      match s.peerAdd unit engine num w x k.cur amount with
      | (none, s') => (none, s')
      | (some e, s') => (some (if e = 0 then (stOk, 0) else peerStatus e), s')
    else if x.coh && !(s.sharers.getD (x.key / 128) []).isEmpty then
      (none, if s.snooped (x.key / 128) then s else s.cohWrite (x.key / 128) Copy.empty)
    else if s.snooped (x.key / 128) then (none, s)
    else
      match (s.touch w .counterAdd [x]).atHome noCluster x.key 8 x.coh (fun v => some (saturate v amount.toNat)) (some ctx) with
      | (.ok _, s') => (some (stOk, 0), s')
      | (.error e, s') => (some (statusOf e, 0), s')
  | .ok _ => (some (stFault, 0), s)

/-- Complete a packet with a status: the count, the stop or the report, and a task's answer (R229, R232, R233, R453). -/
def State.retirePacket (s : State) (slot : Nat) (p : Packet) (status : Nat) (cause : Nat := 0) : State :=
  match s.queue? slot with
  | none => s
  | some q =>
    let s := s.modQueue slot fun q =>
      { q with packets := q.packets.filter fun x => x.num != p.num, retired := q.retired + 1 }
    let s := if status = stOk then s.reportDone slot else s.stopQueue slot status p.tag p.num cause
    s.answerTask q p status

/-- PACKET_COMPLETE (R231): a packet whose work has ended, or one of an unknown kind, which ends as it starts (R230). -/
def execPacketComplete (slot num : Nat) (s : State) : Out :=
  match (s.queue? slot).bind fun q => q.packets.find? fun p => p.num == num with
  | none => .next s
  | some p =>
    match p.wait with
    | .done st cause =>
      let s := if p.kind = 1 then s.writeBackAll fun _ => true else s
      match st, p.ctr, (s.queue? slot) with
      | 0, some k, some q =>
        match s.ctrAdd (slotUnit slot) none num q.ctx 0 true k (BitVec.ofNat 64 (fieldAt p.image 8 8)) with
        | (none, s') => .next s'
        | (some x, s') => .next (s'.retirePacket slot p x.1)
      | _, _, _ => .next (s.retirePacket slot p st cause)
    | .notStarted =>
      if (s.startable slot).any fun x => x.num == num && 7 ≤ x.kind then
        .next (((s.discardSpecs 1 fun x => x.queue == slot)).retirePacket slot p stMalformed)
      else .next s
    | _ => .next s

end Sys2Proof.Machine
end

