-- ==== Sys2Proof/Machine/Requests.lean ====
section
/-!
DEFINITION. Machine/Requests.lean: what homes do with requests, the answers that reach a requester (R217, R297), the timers
of an outstanding request, MOVED (R199), and merge buffers as they send (R215).
-/

namespace Sys2Proof.Machine

/-! ## Requests at a home -/

/-- True when the home of a local frame's page has been frozen for its move, or the page has moved away and the frame is no page's
since (R199, R200). -/
def State.movingFrame (s : State) (frame : Nat) : Bool :=
  s.movedAway.contains frame || s.migration.any fun g => g.frozen == some (frameKey 0 0 frame)

/-- A line as it leaves by a port (R274, R275, R277): its bytes and tags, and whether it leaves marked as poisoned. A line
that fails its check is poisoned where it stands, with a NOTICE. -/
def State.lineOut (s : State) (line : Nat) : List Byte × Bool × State :=
  let s := if s.checkBad line then s.failNotice line else s
  (s.readBytes (line * 128) 128 ++ [BitVec.ofNat 8 (s.lineTags line)], s.poisoned line, s)

/-- Bytes of a line as a write of them: data, the bytes of the mask, and tags. -/
def maskedCopy (mask : BitVec 128) (tags : BitVec 8) (data : List Byte) : Copy :=
  ⟨BitVec.ofNat 1024 (natOfBytes (data.take 128)), mask, mask, tags, []⟩

/-- Tags as they enter at a port: while a pass runs, the revocation filter clears that of every granule that the list for its place
names (R174). -/
def State.portTags (s : State) (line : Nat) (c : Copy) : BitVec 8 :=
  if !s.sweepActive then c.tags
  else (s.listFor (line * 128)).elim c.tags fun x => x.keepTags c.data c.tags

/-- A write that arrives for a line at its home (R222, R274 to R277); `bad` marks it as poisoned. -/
def State.arriveWrite (s : State) (line : Nat) (c : Copy) (coh bad : Bool) : State :=
  let c := { c with tags := s.portTags line c }
  if coh then s.cohWrite line c true bad else s.arrive line c true bad

/-- The operation an atomic packet names (R296): its OP byte holds the opcode's low four bits and SUB. -/
inductive FabOp where
  | fetch (n : Nat) (op : AtomOp)
  | swap (n : Nat)
  | reduce (n : Nat) (op : AtomOp)
deriving DecidableEq, Repr

/-- The twelve operations by row and position (R213). -/
def atomAt (row sub : Nat) : AtomOp :=
  match row, sub with
  | 0, 0 => .add | 0, 1 => .and | 0, 2 => .or | 0, _ => .xor
  | 1, 0 => .minS | 1, 1 => .maxS | 1, 2 => .minU | 1, _ => .maxU
  | _, 0 => .xchg | _, 1 => .fadd | _, 2 => .fmin | _, _ => .fmax

/-- OP as an operation: opcode 0x80 + row for ATOM and CAS, 0x88 + row for RED; a swap has no RED. -/
def fabOp (op : Nat) : Option FabOp :=
  let row := op / 16
  let sub := op % 16
  if 3 < sub then none
  else if row < 8 then
    let n := if row < 4 then 4 else 8
    if row % 4 = 3 then (if sub = 0 then some (.swap n) else none) else some (.fetch n (atomAt (row % 4) sub))
  else
    let n := if row < 12 then 4 else 8
    if row % 4 = 3 ∨ (row % 4 = 2 ∧ sub = 0) then none else some (.reduce n (atomAt (row % 4) sub))

/-- Bytes an operation acts on, what it writes, and whether it answers with the old value. -/
def FabOp.width : FabOp → Nat
  | .fetch n _ | .swap n | .reduce n _ => n
def FabOp.write (o : FabOp) (data : List Byte) (old : Nat) : Option Nat :=
  match o with
  | .fetch n op | .reduce n op => some (atomNew op n old (fieldAt data 0 n))
  | .swap n => if old = fieldAt data 0 n then some (fieldAt data n n) else none
def FabOp.answers : FabOp → Bool
  | .reduce _ _ => false
  | _ => true

/-- Perform a request of a kind at its home here: what it answers, a single byte being 0 for done or the cause of a
failure. -/
def State.performAt (s : State) (kind op key : Nat) (mask : BitVec 128) (tags : BitVec 8) (data : List Byte)
    (coh bad : Bool) : List Byte × State :=
  let line := key / 128
  let update (n : Nat) (f : Nat → Option Nat) (old : Bool) : List Byte × State :=
    match s.atHome noCluster key n coh f with
    | (.ok v, s') => (if old then bytesOfNat n v else [0], s')
    | (.error e, s') => ([BitVec.ofNat 8 e], s')
  match kind with
  | 0 =>
    let r := s.lineOut line
    (if r.2.1 then [BitVec.ofNat 8 cPoison] else r.1, r.2.2)
  | 2 =>
    match fabOp op with
    | none => ([BitVec.ofNat 8 cAccess], s)
    | some o => if key % o.width != 0 then ([BitVec.ofNat 8 cAccess], s) else update o.width (o.write data) o.answers
  | 3 | 5 => if key % 8 != 0 then ([BitVec.ofNat 8 cAccess], s)
      else update 8 (fun old => some (saturate old (fieldAt data 0 8))) (kind == 3 && op == 1)
  | _ => ([0], s.arriveWrite line (maskedCopy mask tags data) coh bad)

/-! ## Answers -/

/-- The forms whose answer its requester collects by itself. -/
def Remote.collected (r : Remote) : Bool :=
  r.form == .gather || r.engine.isSome || r.team.ticket == 0 || r.pendingId == noPending

/-- True of a read of the counter a CWAIT waits on. -/
def Remote.polls (r : Remote) : Bool := r.form == .cwait true || r.form == .cwait false

/-- The requests that serve the lanes of one outstanding instruction. -/
def State.siblings (s : State) (r : Remote) : List Remote :=
  s.remotes.filter fun x => x.team == r.team && x.pendingId == r.pendingId && !x.collected && !x.polls

/-- The lanes a request serves, each with its share (R193); an atomic's serves its lane with all that it answers. -/
def Remote.parts (r : Remote) : List Share :=
  if r.shares.isEmpty then [⟨r.lane, r.ea, 0, 0, r.form⟩] else r.shares

/-- The bytes an answer holds of those asked for. -/
def Remote.bytes (r : Remote) : List Byte :=
  ((List.range 128).filter fun i => r.hdr.mask.getLsbD i).map fun i => (r.got.getD []).getD i 0
/-- A lane's share of an answer: its bytes of the line, or the whole of an atomic's. -/
def Remote.shareBytes (r : Remote) (x : Share) : List Byte :=
  if r.shares.isEmpty then r.got.getD [] else ((r.got.getD []).drop x.off).take x.len
/-- The tag of a share's first granule. -/
def Remote.tag (r : Remote) (x : Share) : Bool := ((r.got.getD []).getD 128 0).getLsbD (x.off / 16)
/-- The cause of a failure, if the answer is one. -/
def Remote.failure (r : Remote) : Option Nat :=
  match r.got with
  | some [b] => if b = 0 then none else some b.toNat
  | _ => none

/-- The answers that serve one lane, each with its share, in address order: of two, the one that does not begin its line comes
first. -/
def laneAnswers (rs : List Remote) (lane : Nat) : List (Remote × Share) :=
  let xs := rs.flatMap fun r => (r.parts.filter fun x => x.lane == lane).map fun x => (r, x)
  (xs.filter fun x => x.2.off != 0) ++ xs.filter fun x => x.2.off == 0

/-- The value a lane's answers give its destination. -/
def State.answerFill (s : State) (c : Nat) (xs : List (Remote × Share)) : Nat × Bool :=
  let bs := xs.flatMap fun x => x.1.shareBytes x.2
  let capOf (keep : Bool) : Nat × Bool :=
    let k := s.filterCap c ⟨keep && (xs.head?.any fun x => x.1.tag x.2), BitVec.ofNat 128 (natOfBytes bs)⟩
    (k.bits.toNat, k.tag)
  match xs.head?.map fun (x : Remote × Share) => x.2.form with
  | some (.lane n signed) => (extendBytes n signed bs, false)
  | some (.capLane keep) | some (.capUniform keep) => capOf keep
  | some (.uniform _) | some (.atom _) | some .cadd => (natOfBytes bs, false)
  | _ => (0, false)

/-- The fault of a lane one of whose requests failed: the first in address order, at the page it was met on (R193, R195). -/
def laneFailure : List (Remote × Share) → Nat → Option LaneFault
  | [], _ => none
  | (r, x) :: rest, before =>
    match r.failure with
    | some e =>
      let at' := x.ea.toNat + before
      some ⟨x.lane, e, if at' / 65536 = x.ea.toNat / 65536 then x.ea else BitVec.ofNat 64 at', !r.isRead, false, 0⟩
    | none => laneFailure rest (before + x.len)

/-- One lane settles once every answer it awaits has come: its value, or its fault (R75, R193, R217). -/
def State.settleLane (s : State) (r : Remote) (lane : Nat) : State :=
  let xs := laneAnswers (s.siblings r) lane
  if xs.any fun x => x.1.got.isNone then s
  else
    let ctx := (s.team? r.team).elim 0 Team.ctx
    let v := s.answerFill ctx xs
    let f (p : Pending) : Pending :=
      if p.id != r.pendingId then p
      else match laneFailure xs 0 with
        | some e => { p with faults := p.faults ++ [e] }
        | none => if xs.all (fun x => x.2.form == .nothing) then p else p.fill lane v.1 v.2
    s.modTeam r.team fun t => { t with pending := t.pending.map f }

/-- A line that a load or a PREF asked for may be kept by the L1 of its core and by its cluster's cache (R25, R179): whether it is, is
open. A cache that may no longer take it lets it by, and one that does not take it keeps nothing older (R203). -/
def State.keepLine (s : State) (r : Remote) : State :=
  match r.got, s.gang? r.team.ticket with
  | some (b :: b' :: bs), some g =>
    if !r.isRead || r.shares.isEmpty then s
    else
      let core := g.coreOf r.team.gx r.team.gy
      let line := r.line
      let got := b :: b' :: bs
      let c : Copy := ⟨BitVec.ofNat 1024 (natOfBytes (got.take 128)), r.hdr.mask, 0, (got.getD 128 0), []⟩
      let keep (k j : Nat) (s : State) : State :=
        if r.stale.contains (copyHolder k) then s
        else if Config.freeBool s.oracle (2 ^ 99 + j) then { s with copies := s.copies.insert k c }
        else { s with copies := s.copies.erase k }
      let s' := keep (l1Key core line) 0 s
      let s' := if s.caches (clusterOf core) then keep (copyKey (clusterOf core) line) 1 s' else s'
      (if r.stale.isEmpty then s'.bar (ofCluster (clusterOf core) line) else s').tick
  | _, _ => s

/-- The answer to request `r` has come: each lane that it serves settles as its own answers are complete, and every request all of
whose lanes have settled is awaited no longer. -/
def State.settleAnswer (s : State) (r : Remote) : State :=
  let s := (r.parts.map Share.lane).foldl (fun s l => s.settleLane r l) (s.keepLine r)
  let rs := s.siblings r
  let full := rs.filter fun x => x.got.isSome &&
    x.parts.all fun y => (laneAnswers rs y.lane).all fun z => z.1.got.isSome
  let ids := full.map Remote.id
  let s := { s with remotes := s.remotes.filter fun x => !ids.contains x.id }
  ids.foldl (fun s i => s.settle r.team r.pendingId i id) s

/-- A sleeping team's counter has arrived from its peer (R58, R220); one whose workgroup stands in no slot, or whose context is
frozen, reads again later. -/
def State.counterArrived (s : State) (r : Remote) : State :=
  let s := { s with remotes := s.remotes.filter fun x => x.id != r.id }
  let s' := s.asTeam r.team fun s =>
    match s.team.sleep with
    | none => s
    | some z =>
      if s.team.run != .asleep then s
      else if !s.resident s.team then s.setTeam fun t => { t with sleep := some { z with asked := false, again := true } }
      else
        match r.failure with
        | none => s.judge z (natOfBytes (r.bytes.take 8)) (r.form == .cwait true)
        | some e => s.wakeTrap z ⟨0, e, z.ea, false, false, 0⟩
  match s'.team? r.team with
  | some t => if t.run = .ready then s'.requeue r.team else s'
  | none => s'

/-- The answer to request `id` arrives. One that nothing waits for is dropped. -/
def State.answer (s : State) (id : Nat) (got : List Byte) : State :=
  match s.remotes.find? fun r => r.id == id with
  | none => s
  | some r =>
    if r.got.isSome then s
    else
      let r' := { r with got := some got }
      let s := { s with remotes := s.remotes.map fun (x : Remote) => if x.id = id then r' else x }
      -- a PREF's line is for the caches alone (R410)
      if r.form == .pref then ({ s with remotes := s.remotes.filter fun (x : Remote) => x.id != id } : State).keepLine r'
      else if r.collected then s
      else if r.polls then s.counterArrived r'
      else s.settleAnswer r'

/-! ## Timers of a request (R217, R298) -/

/-- Nanoseconds of 500 µs and of 2 ms. -/
def retransmitAfter : Nat := 500000
def indetAfter : Nat := 2000000

/-- REMOTE_RETRANSMIT (R217): once, with the same identifier and send time. -/
def execRemoteRetransmit (id : Nat) (s : State) : Out :=
  match s.remotes.find? fun r => r.id == id with
  | none => .next s
  | some r =>
    if r.got.isSome || r.again || r.held || s.domainClock < r.sent + retransmitAfter then .next s
    else
      let s := { s with remotes := s.remotes.map fun (x : Remote) => if x.id = id then { x with again := true } else x }
      .next (s.sendPacket r.hdr r.data)

/-- ATOM_INDET (R217, R238, R298): no response 2 ms after the first send, or held for 2 ms. -/
def execAtomIndet (id : Nat) (s : State) : Out :=
  match s.remotes.find? fun r => r.id == id with
  | none => .next s
  | some r =>
    if r.got.isSome || s.domainClock < r.sent + indetAfter then .next s
    else .next (s.answer id [BitVec.ofNat 8 cAtomIndet])

/-! ## MOVED (R199) -/

/-- The context on whose behalf a request was made. -/
def Remote.ctx (r : Remote) : Nat := r.hdr.sctx.toNat

/-- A refused request goes to its new home: to a peer, or performed here. -/
def State.reissue (s : State) (r : Remote) (key : Nat) (coh : Bool) : State :=
  let kind := r.hdr.kind.toNat
  if (peerOf key).isSome then
    let h : FabHdr := { r.hdr with dst := BitVec.ofNat 16 ((peerOf key).getD 0), address := BitVec.ofNat 64 (key % regionSize) }
    let s := { s with remotes := s.remotes.map fun (x : Remote) => if x.id = r.id then { x with hdr := h } else x }
    s.sendPacket h r.data
  else
    let x := s.performAt kind r.hdr.op.toNat key r.hdr.mask r.hdr.tags r.data coh false
    x.2.answer r.id x.1

/-- Where an address is translated to by the tables now. -/
def Ctx.placeOf (c : Ctx) (va : Nat) : Except (Nat × Bool) Nat :=
  (c.walk va).map fun e => frameKey (pteLoc e) (ptePeer e) (pteFrame e) + va % 65536

/-- A queued transfer's pieces by the translations that stand now; a piece whose page has none keeps its place. -/
def MEntry.moved (c : Ctx) (e : MEntry) : MEntry :=
  { e with pieces := (e.pieces.foldl (fun (r : List Piece × Nat) p =>
      (r.1 ++ [match c.placeOf r.2 with | .ok k => { p with key := k } | .error _ => p], r.2 + p.len)) ([], e.ea.toNat)).1 }

/-- The page of a team's queued transfer that holds a key. -/
def State.transferPage (s : State) (i : TeamId) (key : Nat) : Option Nat :=
  (s.wg? ⟨i.ticket, i.gx, i.gy⟩).bind fun g => (g.queue.filter fun e => e.team == i).findSome? fun e =>
    ((transferLines e.pieces).find? fun q => q.key == key).map fun q => pageOf (e.ea.toNat + q.off)

/-- What is collected by asking again is asked for anew: a transfer's lines by what its pages are translated to now, once none of them
is on the move. -/
def State.regather (s : State) (r : Remote) : State :=
  let key := r.hdr.address.toNat + regionSize * (300 + r.hdr.dst.toNat)
  match s.ctx? r.ctx, s.transferPage r.team key with
  | some c, some page =>
    match c.walk (65536 * page) with
    | .error _ => s.answer r.id [BitVec.ofNat 8 cPage]
    | .ok e =>
      if pteMig e then
        { s with remotes := s.remotes.map fun (x : Remote) => if x.id = r.id then { x with moved := true } else x }
      else
        State.modWg { s with remotes := s.remotes.filter fun x => !(x.team == r.team && x.form == .gather && x.engine == none) }
          ⟨r.team.ticket, r.team.gx, r.team.gy⟩ fun g =>
            { g with queue := g.queue.map fun e => if e.team == r.team && !e.pieces.isEmpty then e.moved c else e }
  | _, _ => { s with remotes := s.remotes.filter fun x => x.id != r.id }

/-- MOVED_REFUSAL (R199 step 4): the requester translates anew by a walk, waits while the page migrates, and reissues to the new
home. A request whose address is of no page now fails as unmapped. DESIGN CHOICE, log entry 57. -/
def execMovedRefusal (id : Nat) (s : State) : Out :=
  match s.remotes.find? fun r => r.id == id with
  | none => .next s
  | some r =>
    if r.got.isSome then .next s
    else if r.form = .gather then .next (s.regather r)
    -- a PREF's line is no longer asked for (R410)
    else if r.form = .pref then .next { s with remotes := s.remotes.filter fun x => x.id != id }
    else
      match s.ctx? r.ctx with
      | none => .next (s.answer id [BitVec.ofNat 8 cPage])
      | some c =>
        match c.walk r.ea.toNat with
        | .error _ => .next (s.answer id [BitVec.ofNat 8 cPage])
        | .ok e =>
          if pteMig e then
            .next { s with remotes := s.remotes.map fun (x : Remote) => if x.id = id then { x with moved := true } else x }
          else
            let line := frameKey (pteLoc e) (ptePeer e) (pteFrame e) + r.ea.toNat % 65536 / 128 * 128
            .next (s.reissue r (line + r.hdr.address.toNat % 128) (pteCoh e))

/-! ## Merge buffers -/

/-- MERGE_BUFFER_SEND (R215, R216): a buffer sends what it holds: a request with those merged into it, which of the ones
for its place have been being left open. DESIGN CHOICE, log entry 20. -/
def execMergeBufferSend (k : Nat) (s : State) : Out :=
  match s.merges.find? fun m => m.id == k with
  | none => .next s
  | some m =>
    let with? (x : Merge) : Bool := x.id == k || (mergeable m x && Config.freeBool s.oracle (2 ^ 66 + x.id))
    .next (State.performMerges s.merges.length s.tick with?)

end Sys2Proof.Machine
end

