-- ==== Sys2Proof/Machine/Engines.lean ====
section
/-!
DEFINITION. Machine/Engines.lean: the copy engines (R35, R36, R238, R299, R302, R460): the footprint scheduler, the nine job
kinds, and the end of a job (R221, R231). A job's reads are taken once all of them have come, and its writes made then.
-/

namespace Sys2Proof.Machine

/-! ## Footprints (R36, R238) -/

/-- The bounds of a capability, as a range. -/
def Cap.range (k : Cap) : Nat × Nat := (capDecode k).getD (0, 0)
/-- A footprint: `n` bytes from the cursor, or the whole bounds for 0. -/
def Cap.footprint (k : Cap) (n : Nat) : Nat × Nat := if n = 0 then k.range else (k.cur, k.cur + n)

def Job.srcFoot (j : Job) : Nat × Nat := j.src.footprint j.snarrow
def Job.dstFoot (j : Job) : Nat × Nat := j.dst.footprint j.dnarrow

/-- The ranges a job touches, each with whether it writes them. -/
def Job.footprint (j : Job) : List ((Nat × Nat) × Bool) :=
  (if j.oper.usesSrc then [(j.srcFoot, false)] else []) ++ (if j.oper.usesDst then [(j.dstFoot, true)] else []) ++
    (if j.oper.usesAux then [(j.aux.range, false)] else []) ++
    (if j.ctr = Cap.null then [] else [((j.ctr.cur, j.ctr.cur + 8), true)])

/-- True when two jobs of one context overlap with a writer among them (R36). -/
def Job.conflicts (i j : Job) : Bool :=
  i.ctx == j.ctx && i.footprint.any fun x => j.footprint.any fun y =>
    (x.2 || y.2) && rangesMeet x.1.1 (x.1.2 - x.1.1) y.1.1 (y.1.2 - y.1.1)

/-- The jobs of every queue that have not completed. -/
def State.jobs (s : State) : List Job := s.engines.flatMap Prod.snd
/-- True while the footprint scheduler holds a job. -/
def State.jobHeld (s : State) (j : Job) : Bool :=
  s.jobs.any fun i => i.seq < j.seq && !(i.ended.isSome && !i.started) && i.conflicts j

/-- The job at the head of an engine's queue. -/
def State.headJob (s : State) (e : Nat) : Option Job := (s.engineQueue e).head?
/-- True when an engine may work on its head: it has started, or it may start (R238, R269). -/
def State.jobRuns (s : State) (j : Job) : Bool :=
  j.ended.isNone && (j.started || (!((s.ctx? j.ctx).all fun c => c.frozen || c.killed) && !s.jobHeld j))

def State.modJob (s : State) (e : Nat) (f : Job → Job) : State :=
  { s with engines := s.engines.modify e fun q => match q with
      | [] => []
      | j :: rest => f j :: rest }

/-- The work of a job ends with a status; the CAUSE is that of R238. -/
def State.endJob (s : State) (e status cause : Nat) : State :=
  s.modJob e fun j => { j with ended := some status, cause := cause }

/-! ## Accesses of an engine -/

/-- On whose behalf an engine works (R238, R370); CIN and COUT alone move a confidential context's data (R301). -/
def Job.who (j : Job) : Who :=
  ⟨j.ctx, j.ticket, j.super, noCluster, noCore + j.engine, none, j.oper == .cin || j.oper == .cout⟩

/-- Traffic class of a job kind as a virtual channel (R35, R238, R295). -/
def Oper.channel : Oper → Nat
  | .redscat | .allgath | .publish => 2
  | _ => 0

/-- A byte an engine has read, with whether a tagged granule begins there. -/
abbrev TByte := Byte × Bool

/-- What an engine's access comes to: a value, a peer's answer awaited, or the status and CAUSE the job ends with. -/
inductive Eng (α : Type) where
  | ok (x : α)
  | wait
  | fail (status cause : Nat)

/-- Resolve a range within a footprint through a capability; an access outside it fails, and so does one of a FIFO bank. -/
def State.engPlace (s : State) (j : Job) (k : Cap) (foot : Nat × Nat) (va n need : Nat) (a : Access) : Eng (List Part) :=
  if n = 0 then .ok []
  else if va < foot.1 || foot.2 < va + n then .fail stFault 0
  else
    match s.resolve j.who 0 k va n need 1 a with
    | .ok ps => if ps.any fun p => p.fifo.isSome then .fail stFault 0 else .ok ps
    | .error .wait => .wait
    | .error (.fault f) => .fail (statusOf f.cause) 0

/-- What a refused place leaves behind: the firewall's NOTICE to the frame's owner (R300). -/
def State.engRefused (s : State) (j : Job) (k : Cap) (va n need : Nat) (a : Access) : State :=
  if n = 0 then s
  else
    match s.resolve j.who 0 k va n need 1 a with
    | .error (.fault f) => s.refusals j.who [f]
    | _ => s

/-- A line's bytes with the tags of the granules that begin among them. -/
def withTags (key : Nat) (bs : List Byte) (tags : Nat) : List TByte :=
  ((List.range bs.length).zip bs).map fun (i, b) =>
    (b, (key + i) % 16 == 0 && (BitVec.ofNat 8 tags).getLsbD ((key + i) % 128 / 16) && regionTagged key)

/-- Read line pieces. Those of peers are asked for together, and stay until the job ends. -/
def State.engRead (s : State) (e : Nat) (j : Job) (ps : List Part) : Eng (List TByte) × State :=
  let s := s.touch j.who .read ps
  let pieces := ps.flatMap fun p => linePieces p.key p.len
  let asks := (pieces.filter fun p => (peerOf p.1).isSome && (s.asked ⟨0, 0, 0, 0⟩ (some e) p.1 p.2).isNone).dedup
  let s := asks.foldl (fun s p =>
    s.sendRemote (s.header 0 0 j.oper.channel j.ctx j.ticket p.1 (lineImage p.1 (List.replicate p.2 0)).2 0 false []) []
      ⟨0, 0, 0, 0⟩ 0 0 .gather (BitVec.ofNat 64 (p.1 % regionSize)) (some e)) s
  pieces.foldl (fun (r : Eng (List TByte) × State) p =>
    match r with
    | (.fail st c, s) => (.fail st c, s)
    | (acc, s) =>
      if (peerOf p.1).isSome then
        match (s.asked ⟨0, 0, 0, 0⟩ (some e) p.1 p.2).bind Remote.got with
        | none => (.wait, s)
        | some [b] => (.fail (peerStatus b.toNat).1 (peerStatus b.toNat).2, s)
        | some g =>
          match acc with
          | .ok bs => (.ok (bs ++ withTags p.1 ((g.drop (p.1 % 128)).take p.2) (g.getD 128 0).toNat), s)
          | _ => (.wait, s)
      else
        match s.readRun j.who p.1 p.2 with
        | (.error c, s') => (.fail (statusOf c) 0, s')
        | (.ok (bs, ts), s') =>
          match acc with
          | .ok old => (.ok (old ++ withTags p.1 bs (ts.headD 0)), s')
          | _ => (.wait, s')) (.ok [], s)

/-- Resolve and read a range. -/
def State.engFetch (s : State) (e : Nat) (j : Job) (k : Cap) (foot : Nat × Nat) (va n : Nat) : Eng (List TByte) × State :=
  match s.engPlace j k foot va n permLoad .read with
  | .ok ps => s.engRead e j ps
  | .wait => (.wait, s)
  | .fail st c => (.fail st c, s.engRefused j k va n permLoad .read)

/-- Write one line's share: at its home, or sent to the peer that holds it as a packet of `kind` (R224, R274). Only a whole
granule carries a tag. `va` is the address of its first byte. -/
def State.engLine (s : State) (e kind : Nat) (j : Job) (key va : Nat) (bs : List TByte) (coh : Bool) : State :=
  let lo := key % 128
  let tags := BitVec.ofNat 8 ((List.range 8).foldl (fun a g =>
    if lo ≤ 16 * g && 16 * g + 16 ≤ lo + bs.length && (bs.getD (16 * g - lo) (0, false)).2 then a + 2 ^ g else a) 0)
  let data := bs.map Prod.fst
  if (peerOf key).isSome then
    let img := lineImage key data
    let h := s.header kind 0 j.oper.channel j.ctx j.ticket key img.2 tags.toNat true img.1
    s.sendRemote h img.1 ⟨0, 0, 0, 0⟩ 0 0 .nothing (BitVec.ofNat 64 va) (some e)
  else
    let c := { Copy.empty.write lo data false with tags := tags }
    if coh then s.cohWrite (key / 128) c else s.homeMerge (key / 128) c true

/-- Write a range that begins at address `va`. -/
def State.engWrite (s : State) (e kind : Nat) (j : Job) (va : Nat) (ps : List Part) (bs : List TByte) : State :=
  (ps.foldl (fun (r : State × List TByte × Nat) p =>
    ((linePieces p.key p.len).foldl (fun s q =>
      s.engLine e kind j q.1 (r.2.2 + (q.1 - p.key)) ((r.2.1.drop (q.1 - p.key)).take q.2) p.coh) r.1,
      r.2.1.drop p.len, r.2.2 + p.len)) (s.touch j.who .write ps, bs, va)).1

/-! ## Tags of copies (R166, R167) -/

/-- The bytes of a copy as they reach an address: a tag stays only where the capabilities, the addresses and the value allow
it. -/
def State.copyTags (s : State) (j : Job) (dst : Cap) (sva dva : Nat) (ps : List Part) (bs : List TByte) : List TByte :=
  let may := j.src.has permLoadCap && dst.has permStoreCap && sva % 16 == dva % 16
  let keyAt (i : Nat) : Nat :=
    (ps.foldl (fun (r : Nat × Nat) p => if r.1 < p.len then (r.1, if r.2 = 0 then p.key + r.1 + 1 else r.2)
      else (r.1 - p.len, r.2)) (i, 0)).2 - 1
  let pass (i : Nat) : Bool :=
    let v := s.filterCap j.ctx ⟨true, BitVec.ofNat 128 (natOfBytes (((bs.drop i).take 16).map Prod.fst))⟩
    let key := keyAt i
    v.tag && (v.has permGlobal || winRegion 0 ≤ key / regionSize) && regionTagged key &&
      ((peerOf key).isNone || v.has permShare)
  ((List.range bs.length).zip bs).map fun (i, b) => (b.1, b.2 && may && pass i)

/-! ## Moves -/

/-- One contiguous move of a job. -/
structure Move where
  src : Nat
  dst : Nat
  len : Nat
deriving DecidableEq, Repr

/-- The share of each source line in a move. -/
def Move.chunks (m : Move) : List Move :=
  if m.len = 0 then []
  else (linePieces m.src m.len).map fun p => ⟨p.1, m.dst + (p.1 - m.src), p.2⟩

/-- What a chunk comes to: its bytes and where they go. -/
def State.chunk (s : State) (e : Nat) (j : Job) (tags : Bool) (m : Move) : Eng (List Part × List TByte) × State :=
  match s.engFetch e j j.src j.srcFoot m.src m.len with
  | (.wait, s) => (.wait, s)
  | (.fail st c, s) => (.fail st c, s)
  | (.ok bs, s) =>
    match s.engPlace j j.dst j.dstFoot m.dst m.len permStore .write with
    | .wait => (.wait, s)
    | .fail st c => (.fail st c, s.engRefused j j.dst m.dst m.len permStore .write)
    | .ok ps =>
      (.ok (ps, if tags then s.copyTags j j.dst m.src m.dst ps bs else bs.map fun b => (b.1, false)), s)

/-- Run a list of moves. With no failure every move is made, line by line of its destination. Where some chunk fails, which
of the others are written is left open, and the job ends with the first failure's status. -/
def State.runMoves (s : State) (e : Nat) (j : Job) (tags : Bool) (ms : List Move) : State :=
  let r := ms.foldl (fun (r : List (List (Eng (List Part × List TByte))) × State) m =>
    let x := m.chunks.foldl (fun (q : List (Eng (List Part × List TByte)) × State) c =>
      let y := q.2.chunk e j tags c
      (q.1 ++ [y.1], y.2)) ([], r.2)
    (r.1 ++ [x.1], x.2)) ([], s)
  let s := r.2
  let all := r.1.flatten
  if all.any fun c => match c with | .wait => true | _ => false then s
  else
    match all.findSome? fun c => match c with | .fail st cause => some (st, cause) | _ => none with
    | some f =>
      let cs := ms.flatMap Move.chunks
      let s' := ((List.range all.length).zip all).foldl (fun (s' : State) x =>
        match x.2 with
        | .ok (ps, bs) => if Config.freeBool s.oracle (2 ^ 71 + x.1) then s'.engWrite e 1 j (cs.getD x.1 ⟨0, 0, 0⟩).dst ps bs else s'
        | _ => s') s
      s'.tick.endJob e f.1 f.2
    | none =>
      let s' := (ms.zip r.1).foldl (fun (s' : State) x =>
        let bs := x.2.flatMap fun c => match c with | .ok y => y.2 | _ => []
        match s'.engPlace j j.dst j.dstFoot x.1.dst x.1.len permStore .write with
        | .ok ps => s'.engWrite e 1 j x.1.dst ps bs
        | _ => s') s
      s'.endJob e stOk 0

/-- Start the head of an engine's queue if it is of kind `o` and may run, then go on with `body`.
DESIGN CHOICE, log entry 61. -/
def engineStep (e : Nat) (o : Oper) (body : State → Job → State) (s : State) : Out :=
  match s.headJob e with
  | none => .next s
  | some j => if j.oper = o ∧ s.jobRuns j then .next (body (s.modJob e fun x => { x with started := true }) j) else .next s

/-- COPY (R237, R238). -/
def execCopy (e : Nat) (s : State) : Out :=
  engineStep e .copy (fun s j => s.runMoves e j true [⟨j.src.cur, j.dst.cur, j.len⟩]) s

/-- COPY2D (R238): rows, each a move of its own. -/
def execCopy2d (e : Nat) (s : State) : Out :=
  engineStep e .copy2d (fun s j =>
    s.runMoves e j true ((List.range (j.len % 4294967296)).map fun i =>
      ⟨j.src.cur + i * j.p1, j.dst.cur + i * j.p2, j.len / 4294967296⟩)) s

/-- Write bytes an engine has made, line by line of their destination, to where a capability leads: which lines are written
beside one that fails is left open. -/
def State.runWrite (s : State) (e : Nat) (j : Job) (bs : List TByte) : State :=
  match s.engPlace j j.dst j.dstFoot j.dst.cur bs.length permStore .write with
  | .wait => s
  | .ok ps => (s.engWrite e 1 j j.dst.cur ps bs).endJob e stOk 0
  | .fail st c =>
    let s := s.engRefused j j.dst j.dst.cur bs.length permStore .write
    let ls := linePieces j.dst.cur bs.length
    let s' := ((List.range ls.length).zip ls).foldl (fun (s' : State) x =>
      match s.engPlace j j.dst j.dstFoot x.2.1 x.2.2 permStore .write with
      | .ok ps => if Config.freeBool s.oracle (2 ^ 71 + x.1)
          then s'.engWrite e 1 j x.2.1 ps ((bs.drop (x.2.1 - j.dst.cur)).take x.2.2) else s'
      | _ => s') s
    s'.tick.endJob e st c

/-- FILL (R238): byte i is byte i mod 8 of P1. -/
def execFill (e : Nat) (s : State) : Out :=
  engineStep e .fill (fun s j =>
    s.runWrite e j ((List.range j.len).map fun i => (BitVec.ofNat 8 (j.p1 / 256 ^ (i % 8)), false))) s

/-- Read a range whole, or end or hold the job. -/
def withBytes (s : State) (e : Nat) (j : Job) (k : Cap) (foot : Nat × Nat) (va n : Nat)
    (body : State → List Byte → State) : State :=
  match s.engFetch e j k foot va n with
  | (.wait, s) => s
  | (.fail st c, s) => s.endJob e st c
  | (.ok bs, s) => body s (bs.map Prod.fst)

/-- GATHER (R238): 32-bit indices from AUX, elements of P1 bytes. -/
def execGather (e : Nat) (s : State) : Out :=
  engineStep e .gather (fun s j =>
    withBytes s e j j.aux j.aux.range j.aux.cur (4 * j.len) fun s ix =>
      s.runMoves e j false ((List.range j.len).map fun k =>
        ⟨j.src.cur + fieldAt ix (4 * k) 4 * j.p1, j.dst.cur + k * j.p1, j.p1⟩)) s

/-! ## Collectives (R299) -/

/-- The format and element size of an input type. -/
def collectiveFmt : Nat → FFmt
  | 0 => fmtBf16
  | 1 => fmtF16
  | _ => fmtF32
def collectiveSize (t : Nat) : Nat := if t = 2 then 4 else 2

/-- A group descriptor. -/
structure Group where
  rank : Nat
  input : Nat
  output : Nat
  members : List Nat
deriving DecidableEq, Repr

/-- Rounding of collectives: nearest-even, subnormals kept. -/
def collectiveCtl : FCtl := ⟨0, false, false⟩

/-- Bytes of an output element, and an f32 value as one. -/
def Group.outSize (g : Group) : Nat := if g.output = 1 then 4 else collectiveSize g.input
def Group.out (g : Group) (x : Nat) : List Byte :=
  if g.output = 1 ∨ g.input = 2 then bytesOfNat g.outSize x
  else bytesOfNat g.outSize ((collectiveFmt g.input).encode collectiveCtl (fmtF32.unpack false x)).1

/-- An input element as f32: exact for the narrow types. -/
def Group.widen (g : Group) (x : Nat) : Nat :=
  if g.input = 2 then x else (fmtF32.encode collectiveCtl ((collectiveFmt g.input).unpack false x)).1

/-- The sum in rank order, each addition rounded nearest-even to f32. -/
def rankSum : List Nat → Nat
  | [] => 0
  | x :: xs => xs.foldl (fun a y => (fmtF32.sum collectiveCtl [fmtF32.unpack false a, fmtF32.unpack false y]).1) x

/-- True when every page of a range, or the page of its first address, is of location 3 (R180, R299). -/
def State.onPeer (s : State) (ctx va n : Nat) : Bool :=
  (pagePieces va (max n 1)).all fun x => s.locOf ctx x.1 == some 3

/-- Read the group descriptor: MALFORMED where it breaks R299. `span` gives the bytes that stand at each member. -/
def withGroup (s : State) (e : Nat) (j : Job) (span : Group → Nat) (body : State → Group → State) : State :=
  withBytes s e j j.aux j.aux.range j.aux.cur 16 fun s hd =>
    let n := fieldAt hd 0 2
    if n < 2 ∨ 256 < n ∨ n ≤ fieldAt hd 2 2 ∨ 2 < fieldAt hd 4 1 ∨ 1 < fieldAt hd 5 1 ∨ !zeroAt hd 6 10 ∨ j.len % n ≠ 0 then
      s.endJob e stMalformed 0
    else
      withBytes s e j j.aux j.aux.range (j.aux.cur + 16) (8 * n) fun s ms =>
        let g : Group := ⟨fieldAt hd 2 2, fieldAt hd 4 1, fieldAt hd 5 1, (List.range n).map fun i => fieldAt ms (8 * i) 8⟩
        if g.members.all fun va => s.onPeer j.ctx va (span g) then body s g else s.endJob e stMalformed 0

/-- Read a member's bytes at its virtual address, which the descriptor alone gives: checked against page rights. -/
def State.memberRead (s : State) (e : Nat) (j : Job) (va n : Nat) : Eng (List TByte) × State :=
  match s.ctx? j.ctx with
  | none => (.fail stFault 0, s)
  | some c =>
    let gen := match c.walk va with | .ok x => pteGen x | .error _ => 0
    if n = 0 then (.ok [], s)
    else
      match s.parts j.who c gen .read false (pagePieces va n) with
      | .error (code, at', _, _) =>
        (.fail (statusOf code) 0, s.refusals j.who [⟨0, code, BitVec.ofNat 64 at', false, false, 0⟩])
      | .ok none => (.wait, s)
      | .ok (some ps) => s.engRead e j ps

/-- Read the shares of every member in rank order, the job's own from SRC. -/
def withShares (s : State) (e : Nat) (j : Job) (g : Group) (own n : Nat) (at' : Nat → Nat)
    (body : State → List (List Byte) → State) : State :=
  let r := ((List.range g.members.length).zip g.members).foldl
    (fun (r : List (Eng (List TByte)) × State) x =>
      let y := if x.1 = g.rank then r.2.engFetch e j j.src j.srcFoot (j.src.cur + own) n
        else r.2.memberRead e j (at' x.2) n
      (r.1 ++ [y.1], y.2)) ([], s)
  let s := r.2
  if r.1.any fun c => match c with | .wait => true | _ => false then s
  else
    match r.1.findSome? fun c => match c with | .fail st cause => some (st, cause) | _ => none with
    | some f => s.endJob e f.1 f.2
    | none => body s (r.1.map fun c => match c with | .ok bs => bs.map Prod.fst | _ => [])

/-- REDSCAT (R299): member r ends with chunk r of the sum. DESIGN CHOICE, log entry 63. -/
def execRedscat (e : Nat) (s : State) : Out :=
  engineStep e .redscat (fun s j =>
    withGroup s e j (fun g => j.len * collectiveSize g.input) fun s g =>
      let z := collectiveSize g.input
      let n := j.len / g.members.length
      let off := g.rank * n * z
      withShares s e j g off (n * z) (fun va => va + off) fun s shares =>
        s.runWrite e j ((List.range n).flatMap fun k =>
          (g.out (rankSum (shares.map fun b => g.widen (fieldAt b (k * z) z)))).map fun b => (b, false))) s

/-- ALLGATH (R299): every member ends with the chunks of all, in rank order. -/
def execAllgath (e : Nat) (s : State) : Out :=
  engineStep e .allgath (fun s j =>
    withGroup s e j (fun g => j.len / g.members.length * collectiveSize g.input) fun s g =>
      let z := collectiveSize g.input
      let n := j.len / g.members.length
      withShares s e j g 0 (n * z) id fun s shares =>
        s.runWrite e j (shares.flatMap fun b => (List.range n).flatMap fun k =>
          (if g.output = 1 then g.out (g.widen (fieldAt b (k * z) z)) else bytesOfNat z (fieldAt b (k * z) z)).map
            fun b => (b, false))) s

/-! ## PUBLISH (R224, R299) -/

/-- Requests of an engine that move its payload. -/
def State.engRemotes (s : State) (e : Nat) : List Remote :=
  s.remotes.filter fun r => r.engine == some e && r.form != .gather
def State.dropRemotes (s : State) (e : Nat) : State :=
  { s with remotes := s.remotes.filter fun r => r.engine != some e }

/-- Where a subscriber's bytes lie. -/
def State.subscriber (s : State) (j : Job) (va n : Nat) (a : Access) : Eng (List Part) :=
  match s.ctx? j.ctx with
  | none => .fail stFault 0
  | some c =>
    let gen := match c.walk va with | .ok x => pteGen x | .error _ => 0
    if n = 0 then .ok []
    else
      match s.parts j.who c gen a false (pagePieces va n) with
      | .error (code, _, _, _) => .fail (statusOf code) 0
      | .ok none => .wait
      | .ok (some ps) => if ps.any fun p => p.fifo.isSome then .fail stFault 0 else .ok ps

/-- What a refused subscriber leaves behind: the firewall's NOTICE (R300). -/
def State.subRefused (s : State) (j : Job) (va n : Nat) (a : Access) : State :=
  match (s.ctx? j.ctx).map fun c =>
      s.parts j.who c (match c.walk va with | .ok x => pteGen x | .error _ => 0) a false (pagePieces va n) with
  | some (.error (code, at', _, _)) => s.refusals j.who [⟨0, code, BitVec.ofNat 64 at', true, false, 0⟩]
  | _ => s

/-- A version add (R224): 1, at the subscriber's counter. -/
def State.versionAdd (s : State) (e : Nat) (j : Job) (va : Nat) : State :=
  match s.subscriber j va 8 .counterAdd with
  | .ok [p] =>
    if va % 8 ≠ 0 then s.endJob e stFault 0
    else if (peerOf p.key).isSome then
      let data := bytesOfNat 8 1
      let h := s.header 5 0 3 j.ctx j.ticket p.key (lineImage p.key (List.replicate 8 0)).2 0 false data
      (s.touch j.who .counterAdd [p]).sendRemote h data ⟨0, 0, 0, 0⟩ 0 0 .nothing (BitVec.ofNat 64 va) (some e)
    else
      match (s.touch j.who .counterAdd [p]).atHome noCluster p.key 8 p.coh (fun v => some (saturate v 1)) (some j.ctx) with
      | (.ok _, s') => s'
      | (.error c, s') => s'.endJob e (statusOf c) 0
  | .fail st c => (s.subRefused j va 8 .counterAdd).endJob e st c
  | _ => s.endJob e stFault 0

/-- Shared-coherent lines of the subscribers' counters that other agents hold: they are recalled before an add (R222, R223). -/
def State.versionShared (s : State) (j : Job) (subs : List (Nat × Nat)) : List Nat :=
  subs.filterMap fun x => match s.subscriber j x.2 8 .counterAdd with
    | .ok [p] => if p.coh && (peerOf p.key).isNone && !(s.sharers.getD (p.key / 128) []).isEmpty then some (p.key / 128) else none
    | _ => none

/-- The second half of a publish job: the version adds, once every payload is acknowledged and visible at its home (R224). -/
def State.publishAdds (s : State) (e : Nat) (j : Job) (subs : List (Nat × Nat)) : State :=
  if !s.snoops.isEmpty then s
  else
    match s.versionShared j subs with
    | [] => subs.foldl (fun s x => s.versionAdd e j x.2) (s.endJob e stOk 0)
    | ls => ls.dedup.foldl (fun s l => s.cohWrite l Copy.empty) s

/-- PUBLISH (R224): the payload to each subscriber, then its version. DESIGN CHOICE, log entry 64. -/
def execPublish (e : Nat) (s : State) : Out :=
  engineStep e .publish (fun s j =>
    let sent := (s.engRemotes e).filter fun r => r.hdr.kind == 4
    if sent.any fun r => r.got.isNone then s
    else
      match sent.findSome? Remote.failure with
      | some c => (s.dropRemotes e).endJob e (peerStatus c).1 (peerStatus c).2
      | none =>
        withBytes s e j j.aux j.aux.range j.aux.cur 16 fun s hd =>
          let n := fieldAt hd 0 2
          if n = 0 ∨ 64 < n ∨ !zeroAt hd 2 14 then s.endJob e stMalformed 0
          else
            withBytes s e j j.aux j.aux.range (j.aux.cur + 16) (16 * n) fun s es =>
              let subs := (List.range n).map fun i => (fieldAt es (16 * i) 8, fieldAt es (16 * i + 8) 8)
              if subs.any fun x => match s.subscriber j x.2 8 .counterAdd with | .wait => true | _ => false then s
              else if j.paid then (s.dropRemotes e).publishAdds e j subs
              else
                match s.engFetch e j j.src j.srcFoot j.src.cur j.len with
                | (.wait, s) => s
                | (.fail st c, s) => s.endJob e st c
                | (.ok bs, s) =>
                  let places := subs.map fun x => (x.1, s.subscriber j x.1 j.len .write)
                  if places.any fun x => match x.2 with | .wait => true | _ => false then s
                  else
                    match places.findSome? fun x => match x.2 with | .fail st c => some (x.1, st, c) | _ => none with
                    | some f => (s.subRefused j f.1 j.len .write).endJob e f.2.1 f.2.2
                    | none =>
                      let s := places.foldl (fun (s : State) x =>
                        match x.2 with
                        | .ok ps => s.engWrite e 4 j x.1 ps
                            (s.copyTags j { j.src with bits := (j.src.setPerm 1023).bits } j.src.cur x.1 ps bs)
                        | _ => s) s
                      let s := s.modJob e fun x => { x with paid := true }
                      if (s.engRemotes e).isEmpty then s.publishAdds e j subs else s) s

/-! ## Confidential copies (R302, R460) -/

/-- The key slot of a job's context (R302). -/
def State.slotFor (s : State) (j : Job) (id : Nat) : Option KeySlot :=
  match s.keySlots.find? id, s.ctx? j.ctx with
  | some k, some c => if k.fn = c.function then some k else none
  | _, _ => none

/-- The counter rule, taken once as the job starts: the slot as it stands after, the job holding the key and the descriptor it runs
with from then on, or none for BADTAG. -/
def State.counterRule (s : State) (e : Nat) (inward : Bool) (d : List Byte) (k : KeySlot) : Option State :=
  let ctr := fieldAt d 8 8
  if ctr ≤ (if inward then k.lastCin else k.lastCout).getD 0 then none
  else
    some ({ s with keySlots := s.keySlots.modify (fieldAt d 0 4) fun k =>
      if inward then { k with lastCin := some ctr } else { k with lastCout := some ctr } }.modJob e fun x =>
        { x with keyed := some (k.key, d) })

/-- The key and the initial counter block that a descriptor gives (R302). -/
def gcmKeyOf (key : BitVec 256) (d : List Byte) : GcmKey := ⟨keyBytes key, ivBytes (fieldAt d 4 4) (fieldAt d 8 8)⟩

/-- The shared form of CIN and COUT: the length, the descriptor, the slot and the counter. A job that waited goes on with what its
counter was compared for. -/
def cipherJob (e : Nat) (o : Oper) (inward : Bool) (body : State → Job → GcmKey → State) (s : State) : Out :=
  engineStep e o (fun s j =>
    if !cipherLen j.len then s.endJob e stMalformed 0
    else
      match j.keyed with
      | some (key, d) => body s j (gcmKeyOf key d)
      | none =>
        withBytes s e j j.aux j.aux.range j.aux.cur 16 fun s d =>
          match s.slotFor j (fieldAt d 0 4) with
          | none => s.endJob e stBadtag 0
          | some k =>
            match s.counterRule e inward d k with
            | none => s.endJob e stBadtag 0
            | some s => body s j (gcmKeyOf k.key d)) s

/-- CIN (R302): nothing is written before the tag verifies. -/
def execCin (e : Nat) (s : State) : Out :=
  cipherJob e .cin true (fun s j g =>
    withBytes s e j j.src j.srcFoot j.src.cur (j.len + 16) fun s bs =>
      let ct := (bs.take j.len).map BitVec.toNat
      if gcmTag g [] ct = (bs.drop j.len).map BitVec.toNat then
        s.runWrite e j ((gcmCrypt g ct).map fun x => (BitVec.ofNat 8 x, false))
      else s.endJob e stBadtag 0) s

/-- COUT (R302): ciphertext, then its tag. -/
def execCout (e : Nat) (s : State) : Out :=
  cipherJob e .cout false (fun s j g =>
    withBytes s e j j.src j.srcFoot j.src.cur j.len fun s bs =>
      let ct := gcmCrypt g (bs.map BitVec.toNat)
      s.runWrite e j ((ct ++ gcmTag g [] ct).map fun x => (BitVec.ofNat 8 x, false))) s

/-! ## The end of a job (R221, R231, R233, R238) -/

/-- Take a job out of its queue and tell whoever submitted it. -/
def State.retireJob (s : State) (e : Nat) (j : Job) (status cause : Nat) : State :=
  let s := { s with engines := s.engines.put [] e ((s.engineQueue e).drop 1) }
  match j.packet with
  | some (slot, num) => s.endPacket slot num status cause
  | none => if status = stOk then s else s.jobRecord j.ctx e j.index status cause j.tag j.ticket

/-- JOB_COMPLETE (R221): the counter add follows every payload write; a peer's failure ends the job (R238). -/
def execJobComplete (e : Nat) (s : State) : Out :=
  match s.headJob e with
  | none => .next s
  | some j =>
    match j.ended with
    | none => .next s
    | some st =>
      let rs := (s.engRemotes e).filter fun r => r.hdr.kind != 3
      if rs.any fun r => r.got.isNone then .next s
      else
        match rs.findSome? Remote.failure with
        | some c =>
          if st = stOk then .next ((s.dropRemotes e).retireJob e j (peerStatus c).1 (peerStatus c).2)
          else .next ((s.dropRemotes e).retireJob e j st j.cause)
        | none =>
          let s := { s with remotes := s.remotes.filter fun r => r.engine != some e || r.hdr.kind == 3 }
          if st ≠ stOk ∨ j.ctr = Cap.null then .next (s.retireJob e j st j.cause)
          else if !s.snoops.isEmpty then .next s
          else
            match s.ctrAdd ⟨0, 0, 0, 0⟩ (some e) 0 j.ctx j.ticket j.super j.ctr j.amount with
            | (none, s') => .next s'
            | (some x, s') => .next (s'.retireJob e j x.1 x.2)

end Sys2Proof.Machine
end

