-- ==== Sys2Proof/Machine/SaveArea.lean ====
section
/-!
DEFINITION. Machine/SaveArea.lean: the save area of a suspended gang (R84, R246, R268), as debug access reads and writes it
(R305). A gang's state stays where it is while the gang is away or stopped; a save area is that state laid out in bytes.
-/

namespace Sys2Proof.Machine

/-- One field of a save area: its place, and how its value is read and replaced. -/
structure Field where
  off : Nat
  len : Nat
  get : State → Nat
  set : Nat → State → State

/-- A field that a write leaves as it is. -/
def Field.fixed (off len : Nat) (get : State → Nat) : Field := ⟨off, len, get, fun _ s => s⟩

/-- The `n` bytes at an offset; bytes of no field are zero. -/
def readFields (fs : List Field) (s : State) (o n : Nat) : Nat :=
  natOfBytes ((List.range n).map fun i =>
    match fs.find? fun f => f.off ≤ o + i && o + i < f.off + f.len with
    | some f => BitVec.ofNat 8 (f.get s / 256 ^ (o + i - f.off))
    | none => 0)

/-- Replace the bytes of [o, o + n) that lie in a field. -/
def Field.patch (f : Field) (o n v : Nat) (s : State) : State :=
  if f.off + f.len ≤ o ∨ o + n ≤ f.off then s
  else
    let old := f.get s
    f.set (natOfBytes ((List.range f.len).map fun i =>
      BitVec.ofNat 8 (if o ≤ f.off + i ∧ f.off + i < o + n then v / 256 ^ (f.off + i - o) else old / 256 ^ i))) s
def writeFields (fs : List Field) (o n v : Nat) (s : State) : State := fs.foldl (fun s f => f.patch o n v s) s

/-! ## Teams -/

/-- A field of a team's own data. -/
def teamField (i : TeamId) (off len : Nat) (get : Team → Nat) (set : Nat → Team → Team) : Field :=
  ⟨off, len, fun s => (s.team? i).elim 0 get, fun v s => s.modTeam i (set v)⟩

/-- The capability a debug write leaves: untagged (R166). -/
def rawCap (v : Nat) : Cap := ⟨false, BitVec.ofNat 128 v⟩

/-- A field of what trap entry saved. -/
def savedField (i : TeamId) (off len : Nat) (get : Saved → Nat) (set : Nat → Saved → Saved) : Field :=
  teamField i off len (fun t => t.saved.elim 0 get) fun v t => { t with saved := t.saved.map (set v) }
/-- A field of the inner trap state. -/
def innerField (i : TeamId) (off len : Nat) (get : TrapRec → Nat) (set : Nat → TrapRec → TrapRec) : Field :=
  teamField i off len (fun t => t.inner.elim 0 get) fun v t => { t with inner := t.inner.map (set v) }
/-- A field of the trap registers. -/
def trapField (i : TeamId) (off len : Nat) (get : TrapRec → Nat) (set : Nat → TrapRec → TrapRec) : Field :=
  teamField i off len (fun t => get t.trap) fun v t => { t with trap := set v t.trap }
/-- A field of a sleeping team's wait. -/
def sleepField (i : TeamId) (off len : Nat) (get : Sleep → Nat) (set : Nat → Sleep → Sleep) : Field :=
  teamField i off len (fun t => t.sleep.elim 0 get) fun v t => { t with sleep := t.sleep.map (set v) }

/-- Replace element `n` of a list. -/
def setAt {α : Type} (l : List α) (n : Nat) (x : α) : List α :=
  ((List.range l.length).zip l).map fun (i, y) => if i = n then x else y

/-- Codes of a privilege (R97). -/
def privCode : Priv → Nat
  | .user => 0 | .super => 1 | .firm => 2 | .boot => 3
def privOfCode (v : Nat) (old : Priv) : Priv := if v = 0 then .user else if v = 1 then .super else old

/-- The team control block (R246), at `o`. -/
def controlFields (i : TeamId) (o : Nat) : List Field :=
  let mask (t : Team) (v : Nat) : Mask := BitVec.ofNat 1024 v &&& fullMask t.width
  let mode (v : Nat) (old : Word) : Word := if modeLegal (BitVec.ofNat 32 v) && v < 2 ^ 32 then BitVec.ofNat 32 v else old
  let fmt (v : Nat) (old : Word) : Word := if fmtLegal (BitVec.ofNat 32 v) && v < 2 ^ 32 then BitVec.ofNat 32 v else old
  let addr (v : Nat) : Dword := BitVec.ofNat 64 v &&& 0x01FFFFFFFFFFFFFC
  [ teamField i o 8 (fun t => t.pc.toNat) (fun v t => { t with pc := addr v }),
    teamField i (o + 0x008) 4 (fun t => t.mode.toNat) (fun v t => { t with mode := mode v t.mode }),
    teamField i (o + 0x00C) 4 (fun t => t.fmt.toNat) (fun v t => { t with fmt := fmt v t.fmt }),
    teamField i (o + 0x010) 4 (fun t => t.flags.toNat) (fun v t => { t with flags := BitVec.ofNat 32 (v % 64) }),
    teamField i (o + 0x014) 4 (fun t => t.stack.length + t.spilled * 256 + t.why * 65536)
      (fun v t => { t with spilled := bitsAt v 8 8, stack := t.stack.drop (t.stack.length - v % 64) }),
    teamField i (o + 0x018) 8 (fun t => (if t.sleep.isSome then 1 else 0) + (if t.saved.isSome then 2 else 0)
        + (t.sleep.elim 0 fun z => z.dest.elim 0 fun d => 4 + d * 256))
      (fun v t => { t with sleep := t.sleep.map fun z => { z with dest := z.dest.map fun _ => bitsAt v 8 6 } }),
    sleepField i (o + 0x020) 8 (fun z => z.ea.toNat) (fun v z => { z with ea := BitVec.ofNat 64 v }),
    sleepField i (o + 0x028) 8 (fun z => z.target.toNat) (fun v z => { z with target := BitVec.ofNat 64 v }),
    sleepField i (o + 0x030) 8 (fun z => z.limit.getD 0) (fun v z => { z with limit := z.limit.map fun _ => v }),
    .fixed (o + 0x038) 8 (fun s => (s.gang? i.ticket).elim 0 Gang.outAt),
    teamField i (o + 0x040) 128 (fun t => t.active.toNat) (fun v t => { t with active := mask t v }),
    teamField i (o + 0x0C0) 128 (fun t => t.exited.toNat) (fun v t => { t with exited := mask t v }),
    trapField i (o + 0x140) 128 (fun r => r.replay.toNat) (fun v r => { r with replay := r.replay &&& BitVec.ofNat 1024 v }),
    savedField i (o + 0x1C0) 16 (fun x => x.c13.bits.toNat) (fun v x => { x with c13 := rawCap v }),
    trapField i (o + 0x1D0) 8 (fun r => r.pc.toNat) (fun v r => { r with pc := addr v }),
    trapField i (o + 0x1D8) 4 (fun r => r.faultCtl.toNat) (fun v r => { r with faultCtl := BitVec.ofNat 32 v &&& 0x17F }),
    trapField i (o + 0x1DC) 4 (fun r => r.cause.toNat) (fun v r => { r with cause := BitVec.ofNat 32 v &&& 0xFFF }),
    trapField i (o + 0x1E0) 8 (fun r => r.rec0.toNat) (fun v r => { r with rec0 := BitVec.ofNat 64 v }),
    trapField i (o + 0x1E8) 8 (fun r => r.rec1.toNat) (fun v r => { r with rec1 := BitVec.ofNat 64 v }),
    trapField i (o + 0x1F0) 8 (fun r => r.rec2.toNat) (fun v r => { r with rec2 := BitVec.ofNat 64 v }),
    trapField i (o + 0x1F8) 8 (fun r => r.rec3.toNat) (fun v r => { r with rec3 := BitVec.ofNat 64 v }),
    savedField i (o + 0x1800) 128 (fun x => x.active.toNat) (fun v x => { x with active := BitVec.ofNat 1024 v }),
    savedField i (o + 0x1880) 16 (fun x => x.codeCap.bits.toNat) (fun v x => { x with codeCap := rawCap v }),
    teamField i (o + 0x1890) 16 (fun t => t.codeCap.bits.toNat) (fun v t => { t with codeCap := rawCap v }),
    savedField i (o + 0x18A0) 4 (fun x => x.mode.toNat) (fun v x => { x with mode := mode v x.mode }),
    savedField i (o + 0x18A4) 4 (fun x => x.fmt.toNat) (fun v x => { x with fmt := fmt v x.fmt }),
    savedField i (o + 0x18A8) 4 (fun x => privCode x.priv) (fun v x => { x with priv := privOfCode v x.priv }),
    teamField i (o + 0x18AC) 4 (fun t => privCode t.priv) (fun v t => { t with priv := privOfCode v t.priv }),
    innerField i (o + 0x18B0) 8 (fun r => r.pc.toNat) (fun v r => { r with pc := addr v }),
    innerField i (o + 0x18B8) 8 (fun r => r.cause.toNat) (fun v r => { r with cause := BitVec.ofNat 32 v &&& 0xFFF }),
    innerField i (o + 0x18C0) 8 (fun r => r.rec0.toNat) (fun v r => { r with rec0 := BitVec.ofNat 64 v }),
    innerField i (o + 0x18C8) 8 (fun r => r.rec1.toNat) (fun v r => { r with rec1 := BitVec.ofNat 64 v }),
    innerField i (o + 0x18D0) 8 (fun r => r.rec2.toNat) (fun v r => { r with rec2 := BitVec.ofNat 64 v }),
    innerField i (o + 0x18D8) 8 (fun r => r.rec3.toNat) (fun v r => { r with rec3 := BitVec.ofNat 64 v }),
    innerField i (o + 0x18E0) 128 (fun r => r.replay.toNat)
      (fun v r => { r with replay := r.replay &&& BitVec.ofNat 1024 v }) ]

/-- Fault records and the divergence stack of a control block (R246). -/
def stackFields (i : TeamId) (o : Nat) : List Field :=
  ((List.range 64).flatMap fun n =>
    [ trapField i (o + 0x200 + 16 * n) 8 (fun r => (r.faultRec.getD n 0).toNat)
        (fun v r => { r with faultRec := setAt r.faultRec n (BitVec.ofNat 64 v) }),
      trapField i (o + 0x208 + 16 * n) 8 (fun r => (r.faultLane.getD n 0).toNat)
        (fun v r => { r with faultLane := setAt r.faultLane n (BitVec.ofNat 32 v) }) ]) ++
  (List.range 32).flatMap fun n =>
    [ teamField i (o + 0x600 + 144 * n) 8
        (fun t => (t.entry? n).elim 0 fun e => e.addr.toNat + if e.kind = .path then 2 ^ 63 else 0)
        (fun v t => t.modEntry n fun e => { e with
          kind := if v / 2 ^ 63 % 2 = 1 then .path else .join, addr := BitVec.ofNat 64 v &&& 0x01FFFFFFFFFFFFFC }),
      teamField i (o + 0x608 + 144 * n) 4 (fun t => (t.entry? n).elim 0 fun e => e.mode.toNat)
        (fun v t => t.modEntry n fun e => { e with
          mode := if modeLegal (BitVec.ofNat 32 v) then BitVec.ofNat 32 v else e.mode }),
      teamField i (o + 0x60C + 144 * n) 4 (fun t => (t.entry? n).elim 0 fun e => e.fmt.toNat)
        (fun v t => t.modEntry n fun e => { e with
          fmt := if fmtLegal (BitVec.ofNat 32 v) then BitVec.ofNat 32 v else e.fmt }),
      teamField i (o + 0x610 + 144 * n) 128 (fun t => (t.entry? n).elim 0 fun e => e.mask.toNat)
        (fun v t => t.modEntry n fun e => { e with mask := BitVec.ofNat 1024 v &&& fullMask t.width }) ]

/-- Lanes of a register as one number, and back. -/
def lanesNat {α : Type} (w bits : Nat) (f : Nat → α) (g : α → Nat) : Nat :=
  (List.range w).foldl (fun a l => a + g (f l) * 2 ^ (bits * l)) 0

/-- Bytes of a team register image (R84). -/
def imageSize (sh : Shape) : Nat :=
  0x300 + roundUpTo 128 sh.width + 4 * sh.width * allocV sh.nv + 16 * sh.width * allocQ sh.nq

/-- The team register image (R84), at `o`. -/
def imageFields (i : TeamId) (sh : Shape) (o : Nat) : List Field :=
  let w := sh.width
  let pv := o + 0x300 + roundUpTo 128 w
  let qv := pv + 4 * w * allocV sh.nv
  ((List.range 64).map fun r =>
    teamField i (o + 8 * r) 8 (fun t => (t.getS r).toNat) fun v t => t.setS r (BitVec.ofNat 64 v)) ++
  ((List.range 16).map fun r =>
    teamField i (o + 0x200 + 16 * r) 16 (fun t => (t.getC r).bits.toNat) fun v t => t.setC r (rawCap v)) ++
  ((List.range 8).map fun r =>
    teamField i (o + 0x300 + w / 8 * r) (w / 8) (fun t => if r = 0 then 0 else (t.p.getD r 0).toNat)
      fun v t => t.setP r (fullMask w) fun l => v / 2 ^ l % 2 = 1) ++
  ((List.range (allocV sh.nv)).map fun r =>
    teamField i (pv + 4 * w * r) (4 * w) (fun t => lanesNat w 32 (t.getV r) BitVec.toNat)
      fun v t => t.setV r fun l => some (BitVec.ofNat 32 (v / 2 ^ (32 * l)))) ++
  (List.range (allocQ sh.nq)).map fun r =>
    teamField i (qv + 16 * w * r) (16 * w) (fun t => lanesNat w 128 (t.getQ r) fun k => k.bits.toNat)
      fun v t => t.setQ r fun l =>
        let x := BitVec.ofNat 128 (v / 2 ^ (128 * l))
        if x = (t.getQ r l).bits then none else some ⟨false, x⟩

/-! ## Workgroups -/

def wgField (g : WgId) (off len : Nat) (get : Workgroup → Nat) (set : Nat → Workgroup → Workgroup) : Field :=
  ⟨off, len, fun s => (s.wg? g).elim 0 get, fun v s => s.modWg g (set v)⟩

/-- What a save area keeps in a form the manual does not give: the queue's entries and the handshake. -/
def openField (off len : Nat) : Field :=
  .fixed off len fun s => Config.freeNat s.oracle (2 ^ 72 + off) % 256 ^ len

/-- The FIFO bank of a segment slot, set aside or in its bank (R184, R246), and its replacement. -/
def State.heldFifo (s : State) (g : WgId) (slot : Nat) : Option (List (BitVec 128)) :=
  (s.wg? g).bind fun w =>
    match w.fifos.find? slot with
    | some q => some q
    | none => ((s.core w.core).banks.find? fun b => b.owner == some g && b.mode == .fifo && b.slot == slot).map Bank.fifo
def Bank.refill (g : WgId) (slot : Nat) (q : List (BitVec 128)) (b : Bank) : Bank :=
  if b.owner == some g && b.mode == .fifo && b.slot == slot then { b with fifo := q } else b
def State.setHeldFifo (s : State) (g : WgId) (slot : Nat) (q : List (BitVec 128)) : State :=
  match s.wg? g with
  | none => s
  | some w =>
    if (w.fifos.find? slot).isSome then s.modWg g fun w => { w with fifos := SMap.insert w.fifos slot q }
    else s.modCore w.core fun c => { c with banks := c.banks.map (Bank.refill g slot q) }

/-- The workgroup's own fields (R246), in its record. -/
def wgFields (g : WgId) (sh : Shape) : List Field :=
  [ wgField g 0x000 8 (fun w => w.stamp) (fun v w => { w with stamp := v }),
    .fixed 0x008 8 (fun _ => g.ticket),
    .fixed 0x010 8 (fun _ => (placementWord sh g.gx g.gy 0).toNat),
    .fixed 0x018 4 (fun _ => sh.scratch),
    .fixed 0x01C 4 (fun s => (s.wg? g).elim 0 fun w => w.queue.length),
    openField 0x100 512,
    wgField g 0x400 8 (fun w => w.mchk.toNat) (fun v w => { w with mchk := BitVec.ofNat 64 v }),
    openField 0x408 8 ] ++
  ((List.range 4).map fun j =>
    .fixed (0x020 + 8 * j) 8 fun s => (s.heldFifo g j).elim 0 fun q => q.length * 2 ^ 32) ++
  (List.range 16).map fun m =>
    wgField g (0x300 + 16 * m) 16 (fun w => (w.maps.getD m 0).toNat) fun v w =>
      { w with maps := SMap.put 0 w.maps m (BitVec.ofNat 128 v) }

/-- One byte of the tile file or of the accumulator store, as a field. -/
def fileFields (g : WgId) (o : Nat) : List Field :=
  (List.range 8).map fun k =>
    if o < 0x8800 then
      wgField g (o + k) 1 (fun w => (w.tiles.getD (o + k - 0x800) 0).toNat) fun v w =>
        { w with tiles := SMap.put 0 w.tiles (o + k - 0x800) (BitVec.ofNat 8 v) }
    else
      wgField g (o + k) 1 (fun w => (w.accs.getD (o + k - 0x8800) 0).toNat) fun v w =>
        { w with accs := SMap.put 0 w.accs (o + k - 0x8800) (BitVec.ofNat 8 v) }

/-- Eight bytes of a scratchpad slot: window memory, or the entries of a FIFO from its head. -/
def bankFields (g : WgId) (sh : Shape) (o : Nat) : List Field :=
  let at' := o - 0x60800
  let slot := at' / 131072
  let key := regionSize * winRegion g.ticket + (g.gx + sh.w * g.gy) * 524288 + at'
  [ ⟨o, 8,
      fun s => match s.heldFifo g slot with
        | some q => ((q.getD (at' % 131072 / 16) 0).toNat / 2 ^ (8 * (at' % 16))) % 2 ^ 64
        | none => natOfBytes (s.readBytes key 8),
      fun v s => match s.heldFifo g slot with
        | some q =>
          let n := at' % 131072 / 16
          let q' := setAt q n (setField (q.getD n 0) (8 * (at' % 16)) 64 v)
          s.setHeldFifo g slot q'
        | none => s.homeWrite key (bytesOfNat 8 v)⟩ ]

/-- The fields that an eight-byte access at offset `o` of a workgroup's record may meet. -/
def recordFields (g : WgId) (sh : Shape) (o : Nat) : List Field :=
  if o < 0x800 then wgFields g sh
  else if o < 0x10800 then fileFields g o
  else if o < 0x30800 then
    let i := (o - 0x10800) / 8192
    let at' := 0x10800 + 8192 * i
    if sh.nteam ≤ i then []
    else if 0x200 ≤ o - at' ∧ o - at' < 0x1800 then stackFields ⟨g.ticket, g.gx, g.gy, i⟩ at'
    else controlFields ⟨g.ticket, g.gx, g.gy, i⟩ at'
  else if o < 0x60800 then
    let i := (o - 0x30800) / imageSize sh
    if sh.nteam ≤ i then [] else imageFields ⟨g.ticket, g.gx, g.gy, i⟩ sh (0x30800 + imageSize sh * i)
  else if o < 0x60800 + 524288 then bankFields g sh o
  else []

/-- Bytes of a gang's save area: 1 MiB a workgroup. DESIGN CHOICE, log entry 27. -/
def areaSize (sh : Shape) : Nat := 1048576 * (sh.w * sh.h)

/-- Read eight bytes of a gang's save area. -/
def State.areaRead (s : State) (g : Gang) (o : Nat) : Nat :=
  readFields (recordFields (segWg g (o / 1048576)) g.shape (o % 1048576)) s (o % 1048576) 8

/-- Write eight bytes of a gang's save area. -/
def State.areaWrite (s : State) (g : Gang) (o v : Nat) : State :=
  writeFields (recordFields (segWg g (o / 1048576)) g.shape (o % 1048576)) (o % 1048576) 8 v s

end Sys2Proof.Machine
end

