-- ==== Sys2Proof/Machine/Mailbox.lean ====
section
/-!
DEFINITION. Machine/Mailbox.lean: the management mailbox (R290 to R292) and its commands about contexts and queues (R227, R248,
R269, R272), notify tables (R240, R241), capabilities (R168) and containment.
-/

namespace Sys2Proof.Machine

/-! ## The frame of a command (R291) -/

def mailParams (m : Mail) : List Dword := [m.p0, m.p1, m.p2, m.p3, m.p4, m.p5, m.p6]

/-- True when every parameter bit lies in a field that R292 names. -/
def mailFits (m : Mail) (masks : List Nat) : Bool :=
  ((List.range 7).zip (mailParams m)).all fun x => x.2 &&& ~~~(BitVec.ofNat 64 (masks.getD x.1 0)) == 0

def allBits : Nat := 2 ^ 64 - 1

/-- What a command comes to: refused with a status, or done, with results and the device after it. -/
inductive MailEnd where
  | no (status : Nat)
  | done (q : List Nat) (s : State)
  /-- It runs on, and answers later. -/
  | later (s : State)

/-- The response (R291): written whole before BUSY clears, then the interrupt. -/
def State.respond (s : State) (seq : Word) (status : Nat) (q : List Nat) : State :=
  ({ s with
      response := ⟨status, seq, (List.range 7).map fun i => BitVec.ofNat 64 (q.getD i 0)⟩, mailBusy := none }).send (.msix 0 0)

/-- True while a doorbell is ignored: a command runs, or bring-up has not ended in READY (R290, R309). A reset request is
taken then, unless one is under way. -/
def State.mailDeaf (s : State) (reset : Bool) : Bool :=
  s.mailBusy.isSome || s.resetDue || (s.bringUp != 0 && !reset)

/-- Run a command: reserved bits, then its own rules; nothing changes but on OK. -/
def mailCommand (m : Mail) (masks : List Nat) (body : State → MailEnd) (s : State) (reset : Bool := false) : Out :=
  if s.mailDeaf reset then .next s
  else if m.reserved ≠ 0 ∨ !mailFits m masks then .next (s.respond m.seq stMalformed [])
  else
    match body s with
    | .no st => .next (s.respond m.seq st [])
    | .done q s' => .next (s'.respond m.seq stOk q)
    | .later s' => .next { s' with mailBusy := some m.seq }

/-- A command about a context that must exist. DESIGN CHOICE, log entry 58. -/
def onCtx (n : Nat) (body : State → Ctx → MailEnd) (s : State) : MailEnd :=
  match s.ctx? n with
  | none => .no stRefused
  | some c => body s c

/-- MAILBOX_MALFORMED (R291): an OPCODE that R292 does not list. -/
def execMailboxMalformed (_opcode : BitVec 16) (m : Mail) (s : State) : Out :=
  .next (if s.mailDeaf false then s else s.respond m.seq stMalformed [])

/-! ## Contexts -/

/-- The creation block as a context, if its fields are within range (R292). -/
def creation (b : List Byte) : Option Ctx :=
  let flags := fieldAt b 2 1
  if 255 < fieldAt b 0 2 || 3 < flags || fieldAt b 4 1 < 8 || 16 < fieldAt b 4 1 || fieldAt b 5 1 < 6 || 16 < fieldAt b 5 1
      || !zeroAt b 6 2 || !zeroAt b 84 44 || fieldAt b 16 8 % 16777216 != 0 || vaTop < fieldAt b 16 8 + 16777216
      || (capExact (fieldAt b 40 8) (fieldAt b 48 8) 0 0).isNone || (capExact (fieldAt b 56 8) (fieldAt b 64 8) 0 0).isNone
  then none
  else some
    { function := fieldAt b 0 2, confidential := flags % 2 == 1, viralPolicy := flags / 2 == 1, partition := fieldAt b 3 1,
      capLog2 := fieldAt b 4 1, evtLog2 := fieldAt b 5 1, quota := fieldAt b 8 8, window := fieldAt b 16 8,
      evtRing := fieldAt b 24 8, evtCtl := fieldAt b 32 8, supBase := fieldAt b 40 8, supLen := fieldAt b 48 8,
      codeBase := fieldAt b 56 8, codeLen := fieldAt b 64 8,
      trapVec := BitVec.ofNat 64 (fieldAt b 72 8) &&& 0x81FFFFFFFFFFFFFC, watchdog := fieldAt b 80 4,
      ptes := [], tables := [], root := 0, pool := [], reserve := [], remote := [], peers := [], revBase := [],
      revCtl := [], evtWritten := 0, evtLost := 0, evtDue := [], frozen := false, killed := false, viral := false,
      dropped := 0, delegates := [], saving := false, saved := false }

/-- The debug state of a partition: LOCKED until it is defined (R305). -/
def State.debugOf (s : State) (p : Nat) : Debug := (SMap.find? s.partitions p).elim .locked Partition.debug

/-- An unused number below a bound, which one being left open. DESIGN CHOICE, log entry 26. -/
def freePick (s : State) (n : Nat) (used : Nat → Bool) : Option Nat :=
  let free := (List.range n).filter fun k => !used k
  free[Config.freeNat s.oracle (2 ^ 74) % free.length]?

/-- A root table's place (R186): two of firmware's on a 32 KiB boundary, in a frame of its own where it has none. Without such a
frame no context is created. DESIGN CHOICE, log entry 49. -/
def State.rootPlace (s : State) : Option (Nat × State) :=
  let even (s : State) : Option Nat := s.tableFree.find? fun p => p % 2 == 0 && s.tableFree.contains (p + 1)
  let grown := if (even s).isSome then some s else s.growTables
  grown.bind fun s => (even s).map fun p => (p, { s with tableFree := s.tableFree.filter fun x => x != p && x != p + 1 })

/-- CTX_CREATE (R292, R186, R263, R285, R305). -/
def execCtxCreate (m : Mail) (s : State) : Out :=
  mailCommand m [allBits] (fun s =>
    match creation (s.readBytes (hostKey m.p0.toNat) 128) with
    | none => .no stMalformed
    | some c =>
      if s.deviceFault || (c.function != 0 && s.ctxs.any fun x => x.2.function == c.function)
          || (c.confidential && s.debugOf c.partition != .locked) then .no stRefused
      else
        match freePick s 256 fun k => (s.ctx? k).isSome with
        | none => .no stRefused
        | some n =>
        match s.tick.rootPlace with
        | none => .no stRefused
        | some (root, s) => .done [n] { s with
            ctxs := s.ctxs.insert n { c with root := root },
            orreryStat := s.orreryStat.filter fun x => x.1 / 16 != n }) s

/-- True when nothing of a context is at work. -/
def State.ctxIdle (s : State) (n : Nat) : Bool :=
  !(s.gangs.any fun g => g.ctx == n) && !(s.launches.any fun l => l.ctx == n) && !(s.jobs.any fun j => j.ctx == n) &&
    !(s.queues.any fun x => x.2.ctx == n && (!x.2.packets.isEmpty || !x.2.inlet.isEmpty))

/-- Tasks of a context that nobody has answered are answered as discarded (R453). -/
def State.discardTasks (s : State) (n : Nat) : State :=
  (s.queues.filter fun x => x.2.ctx == n).foldl (fun s x => s.answerAll x.1 stDiscarded) s

/-- A context's gangs, launches, jobs and queues are gone (R292, R301), the tasks among its packets answered (R453). -/
def State.emptyCtx (s : State) (n : Nat) : State :=
  let s := s.discardTasks n
  let s := s.discardSpecs 9 fun p => p.ctx == n
  let s := ((s.gangs.filter fun g => g.ctx = n).map Gang.ticket).foldl State.endGang s
  { s with
    launches := s.launches.filter fun l => l.ctx != n,
    engines := (s.engines.map fun (x : Nat × List Job) => (x.1, x.2.filter fun (j : Job) => j.ctx != n)).filter
      fun (x : Nat × List Job) => !x.2.isEmpty,
    queues := s.queues.filter fun x => x.2.ctx != n }

/-- Remove a context: its frames return, those of a confidential one scrubbed, firmware takes back its tables, and its translations leave the TLBs. -/
def State.removeCtx (s : State) (n : Nat) : State :=
  match s.ctx? n with
  | none => s
  | some c =>
    let s := s.emptyCtx n
    let fs := s.framesOf n
    let s := if c.confidential then fs.foldl State.scrubFrame s else s
    { s with
      owner := s.owner.filter fun x => x.2 != n + 1,
      tableFree := s.tableFree ++ c.root :: (c.root + 1) :: c.tables.map fun (x : Nat × BitVec 128) => tablePlace x.2,
      chosen := s.chosen.filter fun x => x.1 != n,
      tlbs := (s.tlbs.map fun (x : Nat × List TlbEntry) => (x.1, x.2.filter fun e => e.ctx != n)).filter
        fun (x : Nat × List TlbEntry) => !x.2.isEmpty,
      ctxs := s.ctxs.erase n }

/-- CTX_DESTROY (R292): a context that is frozen, killed or idle. -/
def execCtxDestroy (m : Mail) (s : State) : Out :=
  mailCommand m [0xFF] (fun s =>
    let n := m.p0.toNat
    onCtx n (fun s c =>
      if c.frozen || c.killed || s.ctxIdle n then .done [] (s.removeCtx n) else .no stRefused) s) s

/-- A gang whose stream-in has not begun gives its slots up again: its save area still holds it, under the stamp it has (R175). -/
def State.unseat (s : State) (g : Gang) : State :=
  (g.wgIds.zip g.cores).foldl (fun s x =>
    (s.modWg x.1 fun w => { w with fifos := (s.core x.2).savedFifos x.1 }).modCore x.2 fun c => c.drop x.1) s

/-- A gang leaves its slots, or stays in its save area, because its context is saved (R55, R248). One that was not suspended yet is
so from now on (R242). -/
def State.leaveFor (s : State) (g : Gang) : State :=
  let back := g.phase == .entering && g.stored
  let s := if back then s.unseat g else s
  let since := if g.phase = .running ∨ g.phase = .entering then s.nextOrder else g.since
  { (s.modGang g.ticket fun g => { g with
      saved := true, since := since,
      phase := if g.phase = .streamed ∨ back then .streamed else .leaving }) with nextOrder := s.nextOrder + 1 }

/-- The gangs of a context that is being saved leave, unless the Transit pair stands: it suspends none then (R34). -/
def State.leaveAll (s : State) (n : Nat) : State :=
  if s.transitStopped then s else (s.gangs.filter fun g => g.ctx == n).foldl State.leaveFor s

/-- CTX_SAVE (R248): its queues' speculations and histories go. -/
def execCtxSave (m : Mail) (s : State) : Out :=
  mailCommand m [0xFF] (fun s =>
    let n := m.p0.toNat
    onCtx n (fun s c =>
      if c.frozen || c.killed || c.saving || c.saved then .no stRefused
      else
        let s := s.discardSpecs 9 fun p => p.ctx == n
        let s := s.modCtx n fun c => { c with saving := true }
        let s := s.leaveAll n
        .later { s with
          queues := s.queues.map fun (x : Nat × Queue) => if x.2.ctx = n then (x.1, { x.2 with history := [] }) else x }) s) s

/-- True when a save has nothing left to wait for (R248). -/
def State.saveDue (s : State) (n : Nat) : Bool :=
  (s.gangs.all fun g => g.ctx != n || g.phase == .streamed) && !(s.jobs.any fun j => j.ctx == n)

/-- CTX_SAVE_COMPLETE (R248, R307): the context's shared-coherent lines are written back, and the command is answered. A save
whose context a containment trap has frozen ends as refused. -/
def execCtxSaveComplete (n : Nat) (s : State) : Out :=
  match s.ctx? n, s.mailBusy with
  | some c, some seq =>
    if !c.saving then .next s
    else if c.frozen || c.killed then
      let s := s.modCtx n fun c => { c with saving := false }
      let s := { s with gangs := s.gangs.map fun (g : Gang) =>
        if g.ctx = n then { g with saved := false, phase := if g.phase = GangPhase.leaving then GangPhase.running else g.phase } else g }
      .next (s.respond seq stRefused [])
    else if !s.saveDue n then .next s
    else
      let coh (line : Nat) : Bool := c.ptes.any fun e => pteType e.2 == 2 && pteCoh e.2 &&
        frameKey (pteLoc e.2) (ptePeer e.2) (pteFrame e.2) / 65536 == line * 128 / 65536
      let s := s.writeBackAll fun k => coh (copyLine k)
      .next ((s.modCtx n fun c => { c with saving := false, saved := true }).respond seq stOk [])
  | _, _ => .next s

/-- CTX_RESTORE (R248): its gangs are suspended candidates again, and its queues may start packets. -/
def execCtxRestore (m : Mail) (s : State) : Out :=
  mailCommand m [0xFF] (fun s =>
    let n := m.p0.toNat
    onCtx n (fun s c =>
      if !c.saved then .no stRefused
      else
        let s := s.modCtx n fun c => { c with saved := false }
        .done [] { s with gangs := s.gangs.map fun g => if g.ctx = n then { g with saved := false } else g }) s) s

/-! ## Queues (R227 to R229, R249) -/

/-- A queue as it is created. -/
def Queue.fresh (ctx n ring report prio log2n : Nat) : Queue :=
  { ctx := ctx, number := n, ring := ring, report := report, priority := prio, log2n := log2n, idx := 0, phase := true,
    fetched := 0, retired := 0, stopped := false, stopStatus := 0, stopTag := 0, stopNumber := 0, scanning := false,
    latched := false, inlet := [], inletTaken := 0, packets := [], lastTaken := none, history := [], owed := none }

/-- QUEUE_CREATE (R227, R292). -/
def execQueueCreate (m : Mail) (s : State) : Out :=
  mailCommand m [0x1F1F3FFF, allBits, allBits] (fun s =>
    let p := m.p0.toNat
    let n := p % 256
    let q := bitsAt p 8 6
    let ring := m.p1.toNat
    let rep := m.p2.toNat
    if 23 < bitsAt p 16 5 || bitsAt p 24 5 < 6 || 16 < bitsAt p 24 5 || ring % 128 != 0 || vaTop ≤ ring || rep % 64 != 0
        || vaTop ≤ rep then .no stMalformed
    else
      onCtx n (fun s c =>
        if c.killed || (s.slotOf n q).isSome then .no stRefused
        else
          match freePick s 4096 fun k => (s.queue? k).isSome with
          | none => .no stRefused
          | some slot => .done [slot] { s.tick with
              queues := s.queues.insert slot (Queue.fresh n q ring rep (bitsAt p 16 5) (bitsAt p 24 5)) }) s) s

/-- Tasks that a queue holds are answered as discarded (R453), a speculation of it goes (R258), and what its packets have running or
out at a peer answers to no packet any more. -/
def State.clearQueue (s : State) (slot : Nat) (_q : Queue) : State :=
  let s := (s.answerAll slot stDiscarded).discardSpecs 9 fun p => p.queue == slot
  { s with
    engines := s.engines.map fun (x : Nat × List Job) => (x.1, x.2.map fun (j : Job) =>
      if j.packet.any fun n => n.1 == slot then { j with packet := none } else j),
    remotes := s.remotes.filter fun r => r.team != slotUnit slot }

/-- A command about a queue that must exist. -/
def onQueue (m : Mail) (body : State → Nat → Queue → MailEnd) (s : State) : MailEnd :=
  match s.slotOf (m.p0.toNat % 256) (bitsAt m.p0.toNat 8 6) with
  | none => .no stRefused
  | some slot =>
    match s.queue? slot with
    | none => .no stRefused
    | some q => body s slot q

/-- QUEUE_RESET (R292, R228, R229, R233, R249). A queue that is reset, or created, while its context is viral takes packets: the stop
of R279 is at the moment viral mode begins. DESIGN CHOICE, log entry 105. -/
def execQueueReset (m : Mail) (s : State) : Out :=
  mailCommand m [0x3FFF] (onQueue m fun s slot q =>
    .done [] { (s.clearQueue slot q) with
      queues := (s.clearQueue slot q).queues.insert slot
        (Queue.fresh q.ctx q.number q.ring q.report q.priority q.log2n) }) s

/-- QUEUE_DESTROY (R292). -/
def execQueueDestroy (m : Mail) (s : State) : Out :=
  mailCommand m [0x3FFF] (onQueue m fun s slot q =>
    .done [] { (s.clearQueue slot q) with queues := (s.clearQueue slot q).queues.erase slot }) s

/-! ## Notify tables (R240, R241) -/

/-- The bits of a notify entry. -/
def notifyEntry (v : Dword) : Word := v.setWidth 32 &&& 0x80000FFF

/-- NOTIFY_STAGE1 (R240). -/
def execNotifyStage1 (m : Mail) (s : State) : Out :=
  mailCommand m [0x1FFFF, 0xFFFFFFFF] (fun s =>
    .done [] { s with stage1 := SMap.put 0 s.stage1 (512 * (m.p0.toNat % 256) + bitsAt m.p0.toNat 8 9) (notifyEntry m.p1) }) s

/-- NOTIFY_STAGE2 (R240). -/
def execNotifyStage2 (m : Mail) (s : State) : Out :=
  mailCommand m [0xFFFFF, 0xFFFFFFFF] (fun s =>
    .done [] { s with stage2 := SMap.put 0 s.stage2 (4096 * (m.p0.toNat % 256) + bitsAt m.p0.toNat 8 12) (notifyEntry m.p1) }) s

/-- FUNC_OWNER (R241). -/
def execFuncOwner (m : Mail) (s : State) : Out :=
  mailCommand m [0xFFFF] (fun s =>
    .done [] { s with fnOwner := SMap.put 0 s.fnOwner (m.p0.toNat % 256) (bitsAt m.p0.toNat 8 8) }) s

/-! ## The capability table (R168) -/

/-- Write entry `h` of a context's capability table. -/
def State.setEntry (s : State) (n h : Nat) (c : Ctx) (k : Cap) : MailEnd :=
  if 2 ^ c.capLog2 ≤ h then .no stHandle
  else
    match s.cpPlace n (c.supBase + 16 * h) 16 .write with
    | .error _ => .no stRefused
    | .ok p =>
      let s := s.touch (cpWho n) .write [p]
      let w := Copy.empty.write (p.key % 128) (bytesOfNat 16 k.bits.toNat) k.tag
      .done [k.bits.toNat % 2 ^ 64, k.bits.toNat / 2 ^ 64]
        (if p.coh then s.cohWrite (p.key / 128) w else s.homeMerge (p.key / 128) w)

/-- True when every mapped page of a range carries a GEN. -/
def Ctx.genIs (c : Ctx) (base len gen : Nat) : Bool :=
  c.ptes.all fun e => pteType e.2 != 2 || pteGen e.2 == gen || len == 0 || e.1 * 65536 + 65536 ≤ base || base + len ≤ e.1 * 65536

/-- CAP_MINT (R168): exact bounds, and the GEN of the pages mapped. -/
def execCapMint (m : Mail) (s : State) : Out :=
  mailCommand m [0xFFFF00FF, allBits, allBits, 0x3FF, 0xF] (fun s =>
    match capExact m.p1.toNat m.p2.toNat m.p3.toNat m.p4.toNat with
    | none => .no stMalformed
    | some k => onCtx (m.p0.toNat % 256) (fun s c =>
        if c.genIs m.p1.toNat m.p2.toNat m.p4.toNat then s.setEntry (m.p0.toNat % 256) (bitsAt m.p0.toNat 16 16) c k
        else .no stRefused) s) s

/-- CAP_CLEAR (R292). -/
def execCapClear (m : Mail) (s : State) : Out :=
  mailCommand m [0xFFFF00FF] (fun s => onCtx (m.p0.toNat % 256) (fun s c =>
    match s.setEntry (m.p0.toNat % 256) (bitsAt m.p0.toNat 16 16) c Cap.null with
    | .done _ s' => .done [] s'
    | x => x) s) s

/-! ## Containment (R272, R278, R279) -/

/-- FREEZE (R272): a containment trap with cause 0x00. -/
def execFreeze (m : Mail) (s : State) : Out :=
  mailCommand m [0xFF] (fun s =>
    let n := m.p0.toNat
    onCtx n (fun s c =>
      if c.frozen || c.killed then .no stRefused
      else .done [] (((s.freeze n).owe (EventRec.plain 1 n s.domainClock)).serveEvents n)) s) s

/-- CONTAIN with an ACTION (R272, R285): the ACTION field says which choice is made. -/
def mailContain (m : Mail) (s : State) : Out :=
  mailCommand m [0x3FF] (fun s =>
    let n := m.p0.toNat % 256
    onCtx n (fun s _ =>
      let a := choiceOf (bitsAt m.p0.toNat 8 2)
      if s.choiceRefused n a then .no stRefused else .done [] (s.choose n a)) s) s

/-- RESUME (R272). -/
def execResume (m : Mail) (s : State) : Out := mailContain m s
/-- SKIP (R272). -/
def execSkip (m : Mail) (s : State) : Out := mailContain m s
/-- RESTART (R272). -/
def execRestart (m : Mail) (s : State) : Out := mailContain m s
/-- KILL (R272). -/
def execKill (m : Mail) (s : State) : Out := mailContain m s

/-- DELEGATE (R272). -/
def execDelegate (m : Mail) (s : State) : Out :=
  mailCommand m [0x1FFFF] (fun s =>
    let d := bitsAt m.p0.toNat 8 8
    onCtx (m.p0.toNat % 256) (fun s c =>
      let left := c.delegates.filter fun x => x != d
      .done [] (s.modCtx (m.p0.toNat % 256) fun c =>
        { c with delegates := if bitsAt m.p0.toNat 16 1 = 1 then left ++ [d] else left })) s) s

/-- A context enters viral mode for no trap of its own (R278, R279): a NOTICE records it. -/
def State.viralBy (s : State) (n : Nat) : State :=
  ((s.goViral n).owe (EventRec.plain 4 n s.domainClock)).serveEvents n

/-- VIRAL (R278, R279): a request of the host runtime. -/
def mailViral (m : Mail) (s : State) : Out :=
  mailCommand m [0x1FF] (fun s =>
    let n := m.p0.toNat % 256
    onCtx n (fun s c =>
      if bitsAt m.p0.toNat 8 1 = 0 then .done [] (s.modCtx n fun c => { c with viral := false })
      else if c.viral then .done [] s
      else .done [] (s.viralBy n)) s) s

/-- VIRAL_ENTER (R278). -/
def execViralEnter (m : Mail) (s : State) : Out := mailViral m s
/-- VIRAL_CLEAR (R279). -/
def execViralClear (m : Mail) (s : State) : Out := mailViral m s

end Sys2Proof.Machine
end

