-- ==== Sys2Proof/Machine/Commands.lean ====
section
/-!
DEFINITION. Machine/Commands.lean: the mailbox commands about frames, pages, grants and migration (R189, R192, R197 to R199, R297,
R459), the Orrery, the network, partitions, debug, the injector and reset (R32, R263, R283, R305, R307).
-/

namespace Sys2Proof.Machine

/-! ## Frames (R192, R197, R198) -/

/-- FRAME_GRANT (R292, R197, R198, R459): frames no context owns, or on a Bilran L frames of the extent reserve. -/
def execFrameGrant (m : Mail) (s : State) : Out :=
  mailCommand m [0xFF, allBits] (fun s =>
    let n := m.p0.toNat
    let k := m.p1.toNat
    onCtx n (fun s c =>
      if c.quota < s.heldFrames n c + k then .no stRefused
      else if s.isL then
        if c.reserve.length < k then .no stRefused
        else .done [c.pool.length + k] (s.modCtx n fun c =>
          { c with pool := c.pool ++ c.reserve.take k, reserve := c.reserve.drop k })
      else
        let fs := s.freshFrames k
        if fs.length < k then .no stRefused
        else .done [c.pool.length + k] (State.modCtx { s.tick with
          owner := fs.foldl (fun o f => SMap.put 0 o f (n + 1)) s.owner } n fun c => { c with pool := c.pool ++ fs })) s) s

/-- FRAME_RECLAIM (R292, R192): free pool frames, after every translation of them is gone. -/
def execFrameReclaim (m : Mail) (s : State) : Out :=
  mailCommand m [0xFF, allBits] (fun s =>
    let n := m.p0.toNat
    onCtx n (fun s c =>
      let fs := c.pool.take m.p1.toNat
      let s := s.shootDown n fun page => s.tlbs.any fun x => x.2.any fun e =>
        e.covers n page && pteLoc (e.pte page) == 0 && fs.contains (pteFrame (e.pte page))
      let s := s.modCtx n fun c => { c with
        pool := c.pool.drop fs.length, reserve := if s.isL then c.reserve ++ fs else c.reserve }
      .done [fs.length] (if s.isL then s else { s with owner := s.owner.filter fun x => !fs.contains x.1 })) s) s

/-- QUOTA_SET (R197). -/
def execQuotaSet (m : Mail) (s : State) : Out :=
  mailCommand m [0xFF, allBits] (fun s =>
    onCtx m.p0.toNat (fun s _ => .done [] (s.modCtx m.p0.toNat fun c => { c with quota := m.p1.toNat })) s) s

/-! ## Pages -/

/-- PAGE_MAP (R292, R192). -/
def execPageMap (m : Mail) (s : State) : Out :=
  mailCommand m [0xFF, allBits, allBits, allBits] (fun s =>
    let e : BitVec 128 := m.p3 ++ m.p2
    if vaTop ≤ m.p1.toNat || pteType e == 1 || pteType e == 3 || (pteType e == 2 && pteReserved e) then .no stMalformed
    else
      onCtx m.p0.toNat (fun s _ =>
        match s.pgmap m.p0.toNat m.p1 e with
        | (.done, s') => .done [] s'
        | _ => .no stRefused) s) s

/-- PAGE_STATE (R189). -/
def execPageState (m : Mail) (s : State) : Out :=
  mailCommand m [0xFF, allBits, 1] (fun s =>
    if vaTop ≤ m.p1.toNat then .no stMalformed
    else onCtx m.p0.toNat (fun s _ =>
      let r := s.pageState m.p0.toNat m.p1.toNat (m.p2 == 1)
      .done [r.1] r.2) s) s

/-- True when a range of frames elsewhere meets one granted to another context, of which one is confidential (R459). -/
def State.secretRange (s : State) (n loc peer first count : Nat) : Bool :=
  let secret := (s.ctx? n).any Ctx.confidential
  loc != 1 && s.ctxs.any fun x => x.1 != n && (secret || x.2.confidential) && x.2.remote.any fun g =>
    g.loc == loc && g.peer == peer && g.first < first + count && first < g.first + g.count

/-- REMOTE_GRANT (R192, R292, R459). -/
def execRemoteGrant (m : Mail) (s : State) : Out :=
  mailCommand m [0x1FFF03FF, allBits, allBits] (fun s =>
    let loc := bitsAt m.p0.toNat 8 2
    let peer := bitsAt m.p0.toNat 16 13
    if loc = 0 ∨ (loc = 1 ∧ peer ≠ 0) ∨ (loc = 2 ∧ 255 < peer) then .no stMalformed
    else onCtx (m.p0.toNat % 256) (fun s _ =>
      if s.secretRange (m.p0.toNat % 256) loc peer m.p1.toNat m.p2.toNat then .no stRefused
      else .done [] (s.modCtx (m.p0.toNat % 256) fun c =>
        { c with remote := c.remote ++ [⟨loc, peer, m.p1.toNat, m.p2.toNat⟩] })) s) s

/-- True when a range of local frames holds one of a confidential context (R459). -/
def State.secretFrames (s : State) (first count : Nat) : Bool :=
  s.owner.any fun x => first ≤ x.1 && x.1 < first + count && x.2 != 0 && (s.ctx? (x.2 - 1)).any Ctx.confidential

/-- The grant a PEER_GRANT or PEER_REVOKE names. -/
def peerGrantOf (m : Mail) : PeerGrant :=
  ⟨bitsAt m.p0.toNat 16 13, bitsAt m.p0.toNat 32 8, m.p1.toNat, m.p2.toNat, m.p3.toNat⟩

/-- PEER_GRANT (R297, R459). -/
def execPeerGrant (m : Mail) (s : State) : Out :=
  mailCommand m [0xFF1FFF00FF, allBits, allBits, 0xFFFFFFFF] (fun s =>
    onCtx (m.p0.toNat % 256) (fun s c =>
      let g := peerGrantOf m
      if c.confidential || s.secretFrames g.first g.count then .no stRefused
      else .done [] (s.modCtx (m.p0.toNat % 256) fun c => { c with peers := c.peers ++ [g] })) s) s

/-- PEER_REVOKE (R292). -/
def execPeerRevoke (m : Mail) (s : State) : Out :=
  mailCommand m [0xFF1FFF00FF, allBits, allBits] (fun s =>
    onCtx (m.p0.toNat % 256) (fun s _ =>
      let g := peerGrantOf m
      .done [] (s.modCtx (m.p0.toNat % 256) fun c => { c with peers := c.peers.filter fun x =>
        !(x.src == g.src && x.sctx == g.sctx && x.first == g.first && x.count == g.count) })) s) s

/-! ## Extents (R198) -/

/-- The entry of an extent's page: local, readable and writable, GEN 0. -/
def extentEntry (frame : Nat) : BitVec 128 := BitVec.ofNat 128 (frame * 65536 + 8 + 4 + 2)

/-- EXTENT_BIND (R198): Bilran L only; pages it maps count against QUOTA (R197). DESIGN CHOICE, log entry 59. -/
def execExtentBind (m : Mail) (s : State) : Out :=
  mailCommand m [0xFFFFFF, allBits] (fun s =>
    let n := m.p0.toNat % 256
    let x := bitsAt m.p0.toNat 8 16
    let va := m.p1.toNat
    if va % 65536 ≠ 0 ∨ vaTop < va + 268435456 then .no stMalformed
    else
      match s.isL, s.ctx? n, s.extents.find? x with
      | true, some c, some t =>
        if t.ctx ≠ n ∨ t.bound ∨ t.released ∨ (va ≠ 0 ∧ c.quota < s.heldFrames n c + 4096) then .no stRefused
        else
          let s := { s with extents := s.extents.modify x fun t => { t with bound := true } }
          if va = 0 then .done [] (s.modCtx n fun c =>
            { c with reserve := c.reserve ++ (List.range 4096).map fun i => t.first + i })
          else
            let r := (List.range 4096).foldl (fun (r : Bool × State) i =>
              match r.2.pgmap n (BitVec.ofNat 64 (va + 65536 * i)) (extentEntry (t.first + i)) with
              | (.done, s') => (r.1, s')
              | (_, s') => (false, s')) (true, s)
            if r.1 then .done [] r.2 else .no stRefused
      | _, _, _ => .no stRefused) s

/-! ## Migration (R199) -/

/-- True when some granule of a page holds a tag. -/
def State.pageTagged (s : State) (key : Nat) : Bool :=
  (s.tags.any fun x => x.1 / 4096 == key / 65536) ||
    s.copies.any fun x => copyLine x.1 / 512 == key / 65536 && x.2.tags != 0

/-- True when a page was mapped for an instruction that waits to replay: it is held from eviction (R195). -/
def State.heldForReplay (s : State) (ctx page : Nat) : Bool :=
  s.teams.any fun t => t.ctx == ctx && t.replayPages.contains page

/-- MIGRATE (R199 step 1): the page is marked; its move answers the command. No page of a confidential context leaves local memory
(R301). -/
def execMigrate (m : Mail) (s : State) : Out :=
  mailCommand m [0xFF, allBits, 0x1FFF00C0, allBits] (fun s =>
    let n := m.p0.toNat
    let va := m.p1.toNat
    let loc := bitsAt m.p2.toNat 6 2
    let peer := bitsAt m.p2.toNat 16 13
    if vaTop ≤ va ∨ (loc ≤ 1 ∧ peer ≠ 0) ∨ (loc = 2 ∧ 255 < peer) ∨ 2 ^ 48 ≤ m.p3.toNat then .no stMalformed
    else
      onCtx n (fun s c =>
        let e := c.pte (pageOf va)
        let old := frameKey (pteLoc e) (ptePeer e) (pteFrame e)
        let fresh := loc == 0 && m.p3.toNat == 0
        if pteType e ≠ 2 || pteMig e || e.getLsbD 9 || s.heldForReplay n (pageOf va) || (loc == 1 && s.pageTagged old)
            || (loc != 0 && c.confidential) || (loc != 0 && c.viral) || (loc == 2 && s.expLost.contains peer)
            || (fresh && c.pool.isEmpty) || (!fresh && !s.granted n loc peer m.p3.toNat)
            || (pteLoc e == 2 && s.expLost.contains (ptePeer e)) then .no stRefused
        else
          let x := if fresh then s.takeFrame n else (some m.p3.toNat, s)
          match x with
          | (none, _) => .no stRefused
          | (some f, s) =>
            .later { (s.modCtx n fun c => { c with ptes := c.ptes.put 0 (pageOf va) (e ||| 0x1000) }) with
              migration := some ⟨n, pageOf va, loc, peer, f, none⟩ }) s) s

/-- The name under which firmware's requests to peers go out. -/
def moveUnit : TeamId := ⟨0, 0, 0, 4096⟩
/-- The 512 lines of a page. -/
def pageLines (key : Nat) : List Nat := (List.range 512).map fun i => key / 128 + i

/-- The metadata and bytes of a page copied from one place of this device, its host or its expanders to another (R166, R199
step 5); host memory takes no tag (R165). Every line of a local frame it lands in is written (R256). -/
def State.copyPage (s : State) (old new : Nat) : State :=
  let mv {α : Type} (d : Nat) (m : SMap α) : SMap α :=
    let mine := m.filter fun x => x.1 / (65536 / d) == old / 65536
    mine.foldl (fun r x => r.insert (x.1 - old / d + new / d) x.2) (m.filter fun x => x.1 / (65536 / d) != new / 65536)
  let old' := s.tags.filter fun x => x.1 / 4096 != new / 65536
  let s := if new < regionSize then s.frameChanged (new / 65536) else s
  { s with mem := mv 1 s.mem, tags := if new / regionSize = 1 then old' else mv 16 s.tags, poison := mv 128 s.poison, checkErr := mv 128 s.checkErr }

/-- A page's lines as they arrive from a peer, each with its tags; a poisoned one is poisoned where it lands (R166). -/
def State.placePage (s : State) (new : Nat) (lines : List (List Byte)) : State :=
  ((List.range 512).zip lines).foldl (fun s x =>
    let line := new / 128 + x.1
    (s.homeMerge line (maskedCopy (BitVec.allOnes 128) (x.2.getD 128 0) (x.2.take 128))).setPoison line (x.2.length == 1)) s

/-- The bytes and marks of a page's place are gone. -/
def State.clearPage (s : State) (key : Nat) : State :=
  let off (d k : Nat) : Bool := k / (65536 / d) != key / 65536
  { s with
    mem := s.mem.filter fun x => off 1 x.1, tags := s.tags.filter fun x => off 16 x.1,
    poison := s.poison.filter fun x => off 128 x.1, checkErr := s.checkErr.filter fun x => off 128 x.1 }

/-- A page's lines sent to a peer. -/
def State.sendPage (s : State) (w : Who) (old new : Nat) : State :=
  (List.range 512).foldl (fun s i =>
    let r := s.lineOut (old / 128 + i)
    let h := s.header 1 0 1 w.ctx 0 (new + 128 * i) (BitVec.allOnes 128) (r.1.getD 128 0).toNat true (r.1.take 128)
    let h := if r.2.1 then { h with flags := h.flags ||| 4 } else h
    r.2.2.sendRemote h (r.1.take 128) moveUnit 0 0 .nothing (BitVec.ofNat 64 ((new + 128 * i) % regionSize)) none) s

/-- Places that name a line of a moved page by its key follow it: sleeping teams and waiting packets. -/
def State.rekey (s : State) (ctx old new : Nat) : State :=
  let f (k : Nat) : Nat := if k / 65536 = old / 65536 then k - old + new else k
  let s := s.modTeams (fun t => t.ctx == ctx) fun t => { t with sleep := t.sleep.map fun z => { z with key := f z.key } }
  { s with queues := s.queues.map fun (x : Nat × Queue) =>
      if x.2.ctx = ctx then (x.1, { x.2 with packets := x.2.packets.map fun p =>
        match p.wait with
        | .counter c k t d n => { p with wait := .counter c (f k) t d n }
        | _ => p }) else x }

/-- The end of a migration (R199 step 5): the entry is rewritten, the old frame returns to its pool and refuses what still comes for
the page, refused requests go to the new home, and the command is answered. DESIGN CHOICE, log entry 57. -/
def State.endMove (s : State) (g : Migration) (e : BitVec 128) (status : Nat) : State :=
  let old := frameKey (pteLoc e) (ptePeer e) (pteFrame e)
  let new := frameKey g.loc g.peer g.frame
  let s := { s with remotes := s.remotes.filter fun r => r.team != moveUnit, migration := none }
  let s := if status = stOk then
      (s.modCtx g.ctx fun c =>
        let e' := setField (setField (setField (setField (c.pte g.page) 16 48 g.frame) 6 2 g.loc) 80 13 g.peer) 12 1 0
        { c with ptes := c.ptes.put 0 g.page e', pool := if pteLoc e = 0 then c.pool ++ [pteFrame e] else c.pool }).rekey
        g.ctx old new
    else s.modCtx g.ctx fun c => { c with
      ptes := c.ptes.put 0 g.page (setField (c.pte g.page) 12 1 0),
      pool := if g.loc = 0 && !c.maps g.frame && !c.pool.contains g.frame then c.pool ++ [g.frame] else c.pool }
  let s := { s with movedAway :=
    (s.movedAway ++ if status = stOk ∧ pteLoc e = 0 then [pteFrame e] else []).filter fun f =>
      !(status == stOk && g.loc == 0 && f == g.frame) }
  let late := s.remotes.filter fun r => r.moved && r.ctx == g.ctx && pageOf r.ea.toNat == g.page
  let s := { s with remotes := s.remotes.map fun (r : Remote) =>
    if r.moved && r.ctx == g.ctx && pageOf r.ea.toNat == g.page then { r with moved := false } else r }
  let s := s.postAll (late.map fun r => Instr.movedRefusal r.id)
  match s.mailBusy with
  | some seq => s.respond seq status []
  | none => s

/-- True while a request for the page of a key that came before its freeze waits (R199 step 3): in a merge buffer, for a snoop, or on
its way to a peer's home and back (R200). -/
def State.pageBusy (s : State) (key : Nat) : Bool :=
  let here (k : Nat) : Bool := k / 65536 == key / 65536
  s.merges.any (fun m => here m.key) || s.snoops.any (fun x => here (128 * x.line)) ||
    s.heldReqs.any (fun x => here x.1.address.toNat) || s.heldHost.any (fun x => (linesOf x.addr x.len).any fun l => here (128 * l)) ||
    s.remotes.any fun r => r.team != moveUnit && r.got.isNone && !r.moved && here (128 * r.line)

/-- MIGRATION_MOVE (R199 steps 2 to 5): once no queued transfer holds a translation of the page, it leaves every translation
cache and cluster cache, merge buffers go to the old home, which is frozen once it has executed what reached it, and the page moves. A
page in which a tag has been set meanwhile does not go to host memory. -/
def execMigrationMove (ctx page : Nat) (s : State) : Out :=
  match s.migration, s.ctx? ctx with
  | some g, some c =>
    if g.ctx ≠ ctx ∨ g.page ≠ page then .next s
    else
      let e := c.pte page
      let old := frameKey (pteLoc e) (ptePeer e) (pteFrame e)
      let new := frameKey g.loc g.peer g.frame
      let w := cpWho ctx
      if s.transferHolds ctx fun p => p == page then .next s
      else
        let s := (s.shootDown ctx fun p => p == page).evictAll fun k => copyLine k / 512 == old / 65536
        let s := State.performMerges s.merges.length s fun m => m.key / 65536 == old / 65536
        if s.pageBusy old then .next s
        else
          let s := { s with migration := some { g with frozen := some old } }
          let sent := s.remotes.filter fun r => r.team == moveUnit && r.form == .nothing
          if !sent.isEmpty then
            if sent.any fun r => r.got.isNone then .next s
            else .next (s.endMove g e (if (sent.findSome? Remote.failure).isSome then stRefused else stOk))
          else if (peerOf old).isSome then
            match s.gatherRaw w moveUnit none 1 ((pageLines old).map fun l => (128 * l, 128)) with
            | (none, s) => .next s
            | (some got, s) =>
              let lines := got.map Prod.snd
              if lines.any (fun b => b.length == 1 && b.headD 0 != BitVec.ofNat 8 cPoison) ||
                  (g.loc == 1 && lines.any fun b => b.getD 128 0 != 0) then .next (s.endMove g e stRefused)
              else if (peerOf new).isSome then
                -- the bytes stand in the frame's image while they leave for the other peer
                .next (((s.placePage old lines).sendPage w old new).clearPage old)
              else .next ((s.placePage new lines).endMove g e stOk)
          else if g.loc = 1 && s.pageTagged old then .next (s.endMove g e stRefused)
          else if (peerOf new).isSome then .next (s.sendPage w old new)
          else .next ((s.copyPage old new).endMove g e stOk)
  | _, _ => .next s

/-! ## The Orrery, the network and the injector -/

/-- ORRERY (R263). -/
def execOrrery (m : Mail) (s : State) : Out :=
  mailCommand m [0x1FF, 0xFFFFFFFF, 0xF] (fun s =>
    let n := m.p0.toNat % 256
    let s := if bitsAt m.p0.toNat 8 1 = 1 then s.writeOrreryCtl n (m.p1.setWidth 32) else s
    .done [(s.orreryCtl.getD n 4).toNat, (s.orreryStat.getD (16 * n + m.p2.toNat) 0).toNat] s) s

/-- NOC_WEIGHT (R32). -/
def execNocWeight (m : Mail) (s : State) : Out :=
  mailCommand m [0xFFF] (fun s => .done [] { s with nocWeight := m.p0.setWidth 32 }) s

/-- INJECT (R283): it names a test partition's context, or leaves the injector off. -/
def execInject (m : Mail) (s : State) : Out :=
  mailCommand m [0xFFFFFFFF, allBits, 0xFFFFFFFF] (fun s =>
    let v : Word := m.p0.setWidth 32
    if 6 ≤ injKind v then .no stMalformed
    else if injEn v && !s.testCtx (injContext v) then .no stRefused
    else
      let s := s.writeInjCtl v
      .done [] { s with injSeed := if m.p1 = 0 then s.injSeed else m.p1, injRate := m.p2.setWidth 32 }) s

/-! ## Partitions and debug (R305) -/

/-- The clusters of two masks. -/
def maskClusters (a b : Nat) : List Nat := (List.range 80).filter fun i => (a + b * 2 ^ 64) / 2 ^ i % 2 = 1

/-- PARTITION (R305): a new one is LOCKED. -/
def execPartition (m : Mail) (s : State) : Out :=
  mailCommand m [0x1FF, allBits, 0xFFFF] (fun s =>
    let n := m.p0.toNat % 256
    let old := (SMap.find? s.partitions n).getD ⟨[], false, .locked, .running⟩
    let new : Partition := { old with
      clusters := maskClusters m.p1.toNat m.p2.toNat, test := bitsAt m.p0.toNat 8 1 == 1 }
    .done [] { s with partitions := s.partitions.insert n new }) s

/-- DEBUG_STATE (R305). -/
def execDebugState (m : Mail) (s : State) : Out :=
  mailCommand m [0x3FF] (fun s =>
    let n := m.p0.toNat % 256
    let secret := s.ctxs.any fun x => x.2.partition == n && x.2.confidential
    let set (d : Debug) : MailEnd := .done [] { s with partitions := s.partitions.modify n fun p => { p with debug := d } }
    match bitsAt m.p0.toNat 8 2 with
    | 0 => set .locked
    | 1 => if secret || (SMap.find? s.partitions n).isNone then .no stRefused else set .tenant
    | 2 => if secret || !((SMap.find? s.partitions n).any Partition.test) then .no stRefused else set .vendor
    | _ => .no stMalformed) s

/-- What debug access to a gang wakes (R306): its partition's clock, the clusters in retention that hold it, an idle device. -/
def State.debugWake (s : State) (part : Nat) (g : Gang) : State :=
  { s with
    partitions := s.partitions.modify part fun p => if p.power = .gated then { p with power := .running } else p,
    clusterPower := s.clusterPower.filter fun x =>
      !(x.2 == .retention && g.phase != .streamed && g.cores.any fun k => clusterOf k == x.1),
    pstate := if s.pstate = 1 then 0 else s.pstate }

/-- The clusters of a partition: all, until it is defined. -/
def State.partClusters (s : State) (p : Nat) : List Nat := (SMap.find? s.partitions p).elim (List.range 80) Partition.clusters

/-- What VENDOR's access to arrays wakes: the partition's clock, its clusters in retention, an idle device (R306). -/
def State.vendorWake (s : State) (part : Nat) : State :=
  let cls := s.partClusters part
  { s with
    partitions := s.partitions.modify part fun p => if p.power = .gated then { p with power := .running } else p,
    clusterPower := s.clusterPower.filter fun x => !(x.2 == .retention && cls.contains x.1),
    pstate := if s.pstate = 1 then 0 else s.pstate }

/-- True when a gang's state stands still: it is suspended, or its context is frozen (R269, R305). -/
def Ctx.still (c : Ctx) (g : Gang) : Bool := c.frozen || g.phase == .streamed || g.phase == .shadow

/-- DEBUG_ACCESS (R292, R246, R305, R306): to a suspended or frozen gang of an ordinary context whose partition is in TENANT or
VENDOR. DESIGN CHOICE, log entry 74. In VENDOR, ticket 0, which no gang has, names firmware and array state: what stands there is
open, and a write there changes nothing that the spec names. DESIGN CHOICE, log entry 95. A BKPT word is a word of code
(R318): R292 lists no command that places one, and there is none here; it gets there as code does. DESIGN CHOICE, log entry 108. -/
def execDebugAccess (m : Mail) (s : State) : Out :=
  mailCommand m [0x1FF, 0xFFFFFFFF, allBits, allBits] (fun s =>
    let n := m.p0.toNat % 256
    let o := m.p2.toNat
    if o % 8 ≠ 0 then .no stMalformed
    else
      onCtx n (fun s c =>
        if m.p1 = 0 ∧ !c.confidential ∧ s.debugOf c.partition = .vendor then
          .done (if bitsAt m.p0.toNat 8 1 = 1 then [] else [Config.freeNat s.oracle (2 ^ 81 + o)]) (s.vendorWake c.partition).tick
        else
        match s.gang? m.p1.toNat with
        | none => .no stRefused
        | some g =>
          if g.ctx ≠ n ∨ c.confidential ∨ s.debugOf c.partition = .locked ∨ !c.still g then .no stRefused
          else if areaSize g.shape ≤ o then .no stMalformed
          else if bitsAt m.p0.toNat 8 1 = 1 then .done [] ((s.debugWake c.partition g).areaWrite g o m.p3.toNat)
          else .done [s.areaRead g o] (s.debugWake c.partition g).tick) s) s

/-! ## Reset (R307, R309) -/

/-- The preamble: every line held modified goes home. -/
def State.preamble (s : State) : State := s.evictAll fun _ => true

/-- RESET (R307): the command is answered, and the reset begins after the preamble. -/
def execReset (m : Mail) (s : State) : Out :=
  mailCommand m [1] (fun s =>
    if m.p0 = 0 then .done [] s else .done [] { s.preamble with resetDue := true, pstate := 2 }) s true

end Sys2Proof.Machine
end

