-- ==== Sys2Proof/Machine/Fetch.lean ====
section
/-!
DEFINITION. Machine/Fetch.lean: fetching and decoding one prefixed instruction (R78, R160, R188).
-/

namespace Sys2Proof.Machine

/-- What a fetch ends in. -/
inductive FetchStop where
  /-- A trap, with the words of the group before the one that raised it. -/
  | trap (c : Cause) (words : Nat)
  /-- The page is migrating (R188), or a peer's answer is awaited: the team tries again. -/
  | wait
  /-- The word of a speculative team stands outside local memory (R257). -/
  | park
deriving DecidableEq, Repr

/-- The trap of a failed fetch: a capability failure is that of straight-line execution (R160), an instruction cause
like a branch's; any other is a lane cause of the whole active set (R159). -/
def fetchCause (f : LaneFault) : Cause :=
  if f.cause < 0x16 then .instr f.cause 0 else .uniform f 0

/-- Read the instruction word at `pc` through the code capability (R160), for a group of `n` words before it. A speculation
notes the page it walked, wherever the walk ended (R258). -/
def State.fetchWord (s : State) (pc : Dword) (n : Nat := 0) : Except FetchStop Nat × State :=
  match s.resolve s.who 0 s.team.codeCap pc.toNat 4 permExec 4 .fetch with
  | .error (.fault f) => (.error (.trap (fetchCause f) n), s.noteWalk (s.specOf s.team) [pageOf pc.toNat])
  | .error .wait => (.error .wait, s.noteWalk (s.specOf s.team) [pageOf pc.toNat])
  | .ok ps =>
    if s.speculative && ps.any fun q => q.loc != 0 then (.error .park, s.noteWalk (s.specOf s.team) (ps.map Part.page))
    else
      match (s.touch s.who .fetch ps).readAll s.who s.team.id ps with
      | (.ok (some (bs, _)), s') => (.ok (natOfBytes bs), s')
      | (.ok none, s') => (.error .wait, s')
      | (.error e, s') => (.error (.trap (.uniform ⟨0, e.1, pc, false, false, 0⟩ 0) n), s')

/-- True of the two prefixes (R76). -/
def isPrefix : Instr → Bool
  | .imm _ | .uni _ => true
  | _ => false

/-- Two prefixes of one kind (R78). -/
def sameKind : Instr → Instr → Bool
  | .imm _, .imm _ | .uni _, .uni _ => true
  | _, _ => false

/-- True when some prefix of a group repeats the kind of an earlier one (R78 step 2). -/
def repeats : List Instr → Bool
  | [] => false
  | p :: ps => ps.any (sameKind p) || repeats ps

/-- A team with the first prefix of each kind of a list in its latch. -/
def Team.prefixed (t : Team) (pre : List Instr) : Team :=
  let imm := pre.findSome? fun (p : Instr) => match p with | .imm x => some x | _ => none
  let uni := pre.findSome? fun (p : Instr) => match p with | .uni x => some x | _ => none
  { t with latch := { t.latch with imm := imm, uni := uni } }

/-- A group with a prefix repeated (R78, R98): its instruction word makes the rest of step 1's checks, registers and alignment
among them, and PREFIX is raised otherwise. -/
def Team.repeated (t : Team) (pre : List Instr) (i : Instr) : Cause :=
  .instr (if ((t.prefixed pre).uses i).all fun x => x.ok t then cPrefix else cIllegal) (insnOf i)

/-- Fetch a prefixed instruction: its prefixes and its instruction word. The decode checks of R78 step 1 come first, over every
word; a group that repeats a prefix is no instruction. A run of as many prefixes as a fetch follows repeats one. DESIGN CHOICE,
log entry 92. -/
def State.fetchGroup (s : State) : Nat → Dword → List Instr → Except FetchStop (List Instr × Instr) × State
  | 0, _, pre => (.error (.trap (s.team.repeated pre .nop) pre.length), s)
  | n + 1, pc, pre =>
    match s.fetchWord pc pre.length with
    | (.error e, s') => (.error e, s')
    | (.ok w, s') =>
      match decodeWord w with
      | .error _ => (.error (.trap (.instr cIllegal w) pre.length), s')
      | .ok i =>
        if isPrefix i then s'.fetchGroup n (pc + 4) (pre ++ [i])
        else if repeats pre then (.error (.trap (s'.team.repeated pre i) pre.length), s')
        else (.ok (pre, i), s')

/-- The most words a fetch follows. -/
def groupWords : Nat := 64

end Sys2Proof.Machine
end

