-- ==== Sys2Proof/Machine/Errors.lean ====
section
/-!
DEFINITION. Machine/Errors.lean: errors of shared structures (R25, R281), timing detectors (R282), the Transit pair (R34, R285),
watchdogs (R286), the loss of expanders and of host links (R280, R307), and CXL viral indications (R278).
-/

namespace Sys2Proof.Machine

/-! ## Traps that no team holds -/

/-- A containment trap of a context away from its teams (R264, R269, R281): the record, viral mode where its policy asks for
it, and the freeze. `flags` adds TAGLINE. DEDUCED, log entry 29. -/
def State.ctxTrap (s : State) (ctx code flags : Nat) (addr : Dword) : State :=
  let s := s.modCtx ctx fun c => { c with viral := c.viral || (c.viralPolicy && (code == cPoison || code == cCheck)) }
  (s.owe { EventRec.plain 1 ctx s.domainClock with cause := code, flags := 2 + flags, address := addr }).post
    (.containmentFreeze ctx)

/-! ## Uncorrectable errors (R281) -/

/-- Lines are poisoned where they stand. -/
def State.poisonLines (s : State) (first n : Nat) : State :=
  (List.range n).foldl (fun s i => s.setPoison (first + i) true) s

/-- An error in a cluster cache's line: the copy, with what it alone held, is lost to a poisoned line. -/
def State.poisonCopy (s : State) (cl line : Nat) : State :=
  if (s.copy? cl line).isSome then (s.dropCopy (copyKey cl line)).setPoison line true else s

/-- Contexts that hold a frame (R281): its owner. -/
def State.holdersOf (s : State) (frame : Nat) : List Nat :=
  match s.owner.find? frame with
  | some (c + 1) => if c < 256 then [c] else []
  | _ => []

/-- An error in a tag-region line: 1,024 tags go, and the holders of the range are told. DESIGN CHOICE, log entry 71. -/
def State.loseTags (s : State) (block : Nat) : State :=
  let s := (s.holdersOf (block / 4)).foldl (fun s c => s.ctxTrap c cPoison 4 (BitVec.ofNat 64 (16384 * block))) s
  (s.tags.map Prod.fst).foldl (fun s g =>
    if g / 1024 = block then (s.setTag (16 * g) false).homeChanged (g / 8) else s) s

/-- An error in a home slice's sharer tracking: the slice's shared-coherent lines go home and leave every cluster cache, and other
agents that may hold one are snooped for it (R223). Whether a line's write-back fails is left open; a failure is POISON in the contexts that hold the line.
DESIGN CHOICE, log entry 31. -/
def State.loseSharers (s : State) (line : Nat) : State :=
  let mine (l : Nat) : Bool :=
    l * 128 < regionSize && Config.homeSlice l % 64 == Config.homeSlice line % 64 && s.cohFrame (l / 512)
  let fails (k : Nat) : Bool := Config.freeBool s.oracle (8 * k + 6)
  let out (r : State) (k : Nat) : State :=
    if fails k then
      (s.holdersOf (copyLine k / 512)).foldl (fun (r : State) c => r.ctxTrap c cPoison 0 (BitVec.ofNat 64 (128 * copyLine k)))
        ((r.dropCopy k).setPoison (copyLine k) true)
    else r.evict k
  let s' := (s.copyKeys true fun k => mine (copyLine k)).foldl out s
  let s' := (s'.copyKeys false fun k => mine (copyLine k)).foldl out s'
  (s'.sharers.filter fun x => mine x.1 && !x.2.isEmpty).foldl (fun s x =>
    if s.snooped x.1 then s else s.cohWrite x.1 Copy.empty) s'.tick

/-- An error in a router merge buffer: what it holds is not performed, and each lane that contributed raises POISON at the line
address. Which of the requests for its place it held is left open. -/
def State.loseMerges (s : State) (k : Nat) : State :=
  match s.merges.find? fun m => m.id == k with
  | none => s
  | some m =>
    let lost := s.merges.filter fun x => x.id == k || (mergeable m x && Config.freeBool s.oracle (2 ^ 66 + x.id))
    lost.foldl (fun (s : State) (x : Merge) =>
      ({ s with merges := s.merges.filter fun y => y.id != x.id } : State).settle x.team x.pendingId (mergeReq x.id) fun p =>
        { p with faults := p.faults ++ [⟨x.lane, cPoison, BitVec.ofNat 64 (x.ea.toNat / 128 * 128), true, false, 0⟩] }) s.tick

/-- UNCORRECTABLE_ERROR (R281), by structure. -/
def execUncorrectableError (site : ErrSite) (s : State) : Out :=
  .next (match site with
    | .line l => s.setPoison l true
    | .clusterLine cl l => s.poisonCopy cl l
    | .checkRegion b => s.poisonLines (32 * b) 32
    | .tagRegion b => s.loseTags b
    -- firmware rebuilds the level from its mirror, and walks wait meanwhile: nothing else comes of it
    | .pageTable _ _ _ => s
    | .leaf ctx page => if (s.ctx? ctx).isSome then s.ctxTrap ctx cPoison 0 (BitVec.ofNat 64 (65536 * page)) else s
    | .sharers l => s.loseSharers l
    | .mergeBuffer k => s.loseMerges k
    | .coreState t => match s.team? t with
        | some x => if x.id.ticket = 0 then s else s.containAsync t cPoison 0 x.pc 0 0
        | none => s)

/-- L1_PARITY_ERROR (R25): the L1's line is discarded, its stores having been passed on, and fetched again from the cluster's level;
the error is counted. -/
def execL1ParityError (core line : Nat) (s : State) : Out :=
  let held := (s.copies.find? (l1Key core line)).isSome
  let s := s.evict (l1Key core line)
  let s := if held then (s.loadLine core (clusterOf core) (128 * line) 128).2 else s
  .next { s with parityCount := SMap.put 0 s.parityCount core (s.parityCount.getD core 0 + 1) }

/-! ## Timing detectors (R282) -/

/-- Add to a saturating half of a cluster's TIMING_STAT. DESIGN CHOICE, log entry 72. -/
def State.countTiming (s : State) (cl : Nat) (second : Bool) : State :=
  let v := s.timingStat.getD cl 0
  let top := bitsAt v.toNat 32 32
  let low := v.toNat % 2 ^ 32
  let w := if second then min (top + 1) 4294967295 * 2 ^ 32 + low else top * 2 ^ 32 + min (low + 1) 4294967295
  { s with timingStat := SMap.put 0 s.timingStat cl (BitVec.ofNat 64 w) }

/-- TIMING in the issuing team (R282): the instruction it was about to execute stops before it changes anything.
DESIGN CHOICE, log entry 30. -/
def State.timingTrap (s : State) (stage : Nat) : State :=
  match s.fetchGroup groupWords s.team.pc [] with
  | (.ok (pre, i), s') =>
    takeTrap (.detailed cTiming stage (insnOf i)) 0
      (s'.setTeam fun t => { t with latch := { t.latch with words := pre.length } })
  | (.error _, s') => takeTrap (.detailed cTiming stage 0) 0 s'

/-- The cluster of a team. -/
def State.clusterOfTeam (s : State) (t : Team) : Nat := clusterOf (s.coreOfTeam t)

/-- TIMING_DETECTION (R282): the first replays the cycle; a second one on that replay raises TIMING. -/
def execTimingDetection (i : TeamId) (stage : Nat) (s : State) : Out :=
  match s.team? i with
  | none => .next s
  | some t =>
    if t.run ≠ .ready ∨ t.id.ticket = 0 ∨ 6 < stage then .next s
    else if s.timingArmed.contains i then
      .next ((({ s with timingArmed := s.timingArmed.filter fun x => x != i } : State).countTiming (s.clusterOfTeam t) true).asTeam i fun s => s.timingTrap stage)
    else .next ({ s with timingArmed := s.timingArmed ++ [i] }.countTiming (s.clusterOfTeam t) false)

/-- The injector's timing kinds (R283): one use of the pipeline by the issuing team. True when the instruction has been
stopped; the stage of an injected detection is left open. -/
def State.injectTiming (s : State) : Bool × State :=
  if !injEn s.injCtl then (false, s)
  else
    let k := injKind s.injCtl
    if k != 4 && k != 5 then (false, s)
    else
      let r := s.injected k s.team.ctx
      if !r.1 then (false, r.2)
      else
        let cl := r.2.clusterOfTeam r.2.team
        let s := r.2.countTiming cl false
        if k = 4 then (false, s)
        else (true, ((s.tick.countTiming cl true).timingTrap (Config.freeNat s.oracle (2 ^ 76) % 7)))

/-! ## The Transit pair (R34, R285) -/

/-- The device fault: every context frozen, each with its record. -/
def State.faultDevice (s : State) : State :=
  s.ctxs.foldl (fun s x =>
    ((s.freeze x.1).owe (EventRec.plain 5 x.1 s.domainClock)).serveEvents x.1) { s with deviceFault := true }

/-- Core cycles of a second (R4). -/
def cyclesPerS : Nat := 2100000000

/-- TRANSIT_MISMATCH (R34): the pair stops; a second one within 1 s of the first is the device fault. A pair that stands
compares nothing. DESIGN CHOICE, log entry 52. -/
def execTransitMismatch (s : State) : Out :=
  if s.transitStopped then .next s
  else
    let again := s.lastMismatch.any fun t => s.timebase - t ≤ cyclesPerS
    let s := { s with transitStopped := true, lastMismatch := if again then s.lastMismatch else some s.timebase }
    .next (if again && !s.deviceFault then s.faultDevice else s)

/-! ## Watchdogs (R286) -/

/-- True when a launch has run longer than its context's limit, and its watchdog has not gone off. -/
def State.overdue (s : State) (l : Launch) : Bool :=
  !l.overran && l.spec.isNone && (s.ctx? l.ctx).any fun c => c.watchdog != 0 && c.watchdog * cyclesPerMs < s.timebase - l.started

/-- WATCHDOG (R286): the record names the packet, and the context is frozen. -/
def execWatchdog (id : Nat) (s : State) : Out :=
  match s.launches.find? fun l => l.id == id with
  | none => .next s
  | some l =>
    if !s.overdue l then .next s
    else
      let s := { s with launches := s.launches.map fun (m : Launch) => if m.id = id then { m with overran := true } else m }
      .next ((s.owe { EventRec.plain 1 l.ctx s.domainClock with
        cause := cWatchdog, flags := 2, queue := (s.queues.find? l.queue).elim 0xFFFF Queue.number, tag := l.tag,
        number := l.number }).post (.containmentFreeze l.ctx))

/-! ## Expanders and host links (R280, R307) -/

/-- Contexts that hold an extent of an expander. -/
def State.expHolders (s : State) (n : Nat) : List Nat :=
  (s.ctxs.filter fun x => x.2.remote.any fun g => g.loc == 2 && g.peer == n).map Prod.fst

/-- Copies of a region leave every cluster cache, with the bytes that they alone held. -/
def State.discardRegion (s : State) (region : Nat) : State :=
  { s with copies := s.copies.filter fun c => copyLine c.1 * 128 / regionSize != region }

/-- A task sent to a lost expander completes with LOST. -/
def Packet.cutTask (n : Nat) (p : Packet) : Packet :=
  if p.wait == PacketWait.task && fieldAt p.image 46 1 == n then { p with wait := .done stLost 0 } else p

/-- A load's lanes whose expander is lost before it completes: their values go, and their faults stand (R280). -/
def Pending.loseFar (p : Pending) (n : Nat) : Pending :=
  let lost := (p.far.filter fun x => x.1 == n).map Prod.snd
  let hit := lost.foldl (fun fs f => if (p.faults ++ fs).any fun g => g.lane == f.lane then fs else fs ++ [f]) ([] : List LaneFault)
  { p with
    far := p.far.filter fun x => x.1 != n, faults := p.faults ++ hit,
    dests := p.dests.map fun d => d.without (maskOf 1024 fun l => lost.any fun f => f.lane == l) }

/-- Loads outstanding to a lost expander complete with EXP_LOST in their lanes (R280). -/
def State.loseLoads (s : State) (n : Nat) : State :=
  let hit := s.teams.flatMap fun t => (t.pending.filter fun p => p.far.any fun x => x.1 == n).map fun p => (t.id, p.id)
  hit.foldl (fun s x => s.settle x.1 x.2 (2 ^ 65) fun p => p.loseFar n) s

/-- An expander is lost (R280): its tasks complete with LOST, loads outstanding to it and held reductions fail, its lines and stores
to it that wait for a snoop are discarded, waits on its counters look again, and contexts with an extent of it receive a NOTICE. -/
def State.loseExpander (s : State) (n : Nat) : State :=
  if !s.expAttached.contains n || s.expLost.contains n then s
  else
    let there (key : Nat) : Bool := key / regionSize == 2 + n
    let s := ({ s with expLost := s.expLost ++ [n], snoops := s.snoops.filter fun x => !there (128 * x.line) } : State).discardRegion (2 + n)
    let s := s.loseLoads n
    let s := { s with queues := s.queues.map fun (x : Nat × Queue) =>
      (x.1, { x.2 with packets := x.2.packets.map (Packet.cutTask n) }) }
    let lost := s.merges.filter fun m => there m.key
    let s := lost.foldl (fun (s : State) (m : Merge) =>
      ({ s with merges := s.merges.filter fun y => y.id != m.id } : State).settle m.team m.pendingId (mergeReq m.id) fun p =>
        { p with faults := p.faults ++ [⟨m.lane, cExpLost, m.ea, true, false, 0⟩] }) s
    let s := s.postAll ((s.teams.filter fun t => t.run == .asleep && t.sleep.any fun z => there z.key).map fun t =>
      Instr.monitorWake t.id)
    let s := s.postAll ((s.queues.filter fun x => x.2.packets.any fun p =>
      (match p.wait with | .counter _ k _ _ _ => there k | _ => false)).map fun x => Instr.waitctr x.1)
    (s.expHolders n).foldl (fun s c =>
      (s.owe { EventRec.plain 4 c s.domainClock with status := stLost }).serveEvents c) s

/-- EXP_LINK_DOWN (R280). -/
def execExpLinkDown (n : Nat) (s : State) : Out := .next (s.loseExpander n)
/-- EXPANDER_TIMEOUT (R280): a request to it has had no completion for 50 ms. -/
def execExpanderTimeout (n : Nat) (s : State) : Out := .next (s.loseExpander n)

/-- EXPANDER_ADD (R280): the host runtime adds an expander, a lost one again. -/
def execExpanderAdd (n : Nat) (s : State) : Out :=
  if 255 < n then .next s
  else .next { s with
    expAttached := if s.expAttached.contains n then s.expAttached else s.expAttached ++ [n],
    expLost := s.expLost.filter fun x => x != n }

/-- CXL_VIRAL_INDICATION (R278): every context of the function enters viral mode. -/
def execCxlViralIndication (fn : Nat) (s : State) : Out :=
  let due := s.ctxs.filter fun x => x.2.function == fn && !x.2.viral && !x.2.killed
  .next (due.foldl (fun s x => s.viralBy x.1) s)

/-- A context is killed and every frame it owns then, those of its gangs' save areas among them, is scrubbed (R301).
DESIGN CHOICE, log entry 48. -/
def State.endTenant (s : State) (c : Nat) : State :=
  let s := (s.freeze c).killCtx c
  (s.framesOf c).foldl State.scrubFrame s

/-- TDIs leave RUN for ERROR on the loss of an IDE stream or a change of configuration (R301): the confidential contexts of
the functions are killed, and their frames scrubbed. -/
def State.tdiError (s : State) (p : Nat → Bool) : State :=
  let fns := (s.tdisp.filter fun x => x.2 == .run && p x.1).map Prod.fst
  let s := { s with tdisp := s.tdisp.map fun (x : Nat × Tdisp) => if fns.contains x.1 then (x.1, .error) else x }
  let hit := (s.ctxs.filter fun (x : Nat × Ctx) => fns.contains x.2.function && x.2.confidential && !x.2.killed).map Prod.fst
  hit.foldl State.endTenant s

/-- The IDE stream of a port ends. DESIGN CHOICE, log entry 47. -/
def State.loseIde (s : State) (port : Nat) : State :=
  if (s.hostPorts.find? port).any HostPort.ide then
    { s with hostPorts := s.hostPorts.modify port fun h => { h with ide := false, ideKeys := false } }.tdiError fun _ => true
  else s

/-- IDE_STREAM_LOSS (R301). -/
def execIdeStreamLoss (port : Nat) (s : State) : Out := .next (s.loseIde port)

/-- LINK_SURPRISE_LOSS (R307): the lines held modified that went by this port are discarded, and they read as poisoned. With the other port still up, which lines those were is left open (R38). -/
def execLinkSurpriseLoss (port : Nat) (s : State) : Out :=
  match s.hostPorts.find? port with
  | none => .next s
  | some h =>
    if !h.up then .next s
    else
      let other := s.hostPorts.any fun x => x.1 != port && x.2.up
      let ks := (s.copies.filter fun x => x.2.dirty != 0 && 1 ≤ copyLine x.1 * 128 / regionSize &&
        copyLine x.1 * 128 / regionSize < 300).map Prod.fst
      let gone := ks.filter fun k => !other || Config.freeBool s.oracle (8 * k + 7)
      let s := if ks.isEmpty then s else s.tick
      let s := gone.foldl (fun (s : State) k =>
        (s.dropCopy k).setPoison (copyLine k) true) s
      let s := s.loseIde port
      .next { s with hostPorts := s.hostPorts.modify port fun h => { h with up := false } }

end Sys2Proof.Machine
end

