-- ==== Sys2Proof/Machine/Fabric.lean ====
section
/-!
DEFINITION. Machine/Fabric.lean: what arrives over the fabric (R217, R224, R295 to R298): requests of peers and the answers
to them, answers to this device's own requests, links, flow control and the domain clock.
-/

namespace Sys2Proof.Machine

/-! ## Headers (R296) -/

/-- A header the receiving port drops: an unknown KIND or a non-zero reserved byte. -/
def hdrBad (h : FabHdr) : Bool := 7 < h.kind.toNat || h.zeros != 0
def hdrPoison (h : FabHdr) : Bool := h.flags.getLsbD 2
def hdrTagged (h : FabHdr) : Bool := h.flags.getLsbD 3

/-- Drop a packet and count it. -/
def State.dropHeader (s : State) : State := { s with hdrDropped := s.hdrDropped + 1 }

/-- FABRIC_HEADER_DROP (R296). -/
def execFabricHeaderDrop (h : FabHdr) (s : State) : Out := .next (if hdrBad h then s.dropHeader else s)

/-! ## Requests of peers (R217, R222, R224, R297) -/

/-- OP of an answer that refuses a request to a page that has moved (R199). -/
def opMoved : Nat := 0x80

/-- The answer to a peer's request: KIND 6 with data or KIND 7 without, in FV3. OP is 0 for done, else the CAUSE that the
requesting lane raises. DESIGN CHOICE, log entry 53. -/
def State.reply (s : State) (h : FabHdr) (result : List Byte) : State :=
  let op := if result.length = 1 then (result.headD 0).toNat else 0
  let data := if result.length = 1 then [] else result.take 128
  let tags := if result.length = 129 then result.getD 128 0 else 0
  let kind := if data.isEmpty then 7 else 6
  s.sendPacket
    { kind := BitVec.ofNat 8 kind,
      flags := BitVec.ofNat 8 (3 + (if op = cPoison then 4 else 0) + (if result.length = 129 then 8 else 0)
        + (data.length + 63) / 64 * 16),
      dst := h.src, src := BitVec.ofNat 16 s.deviceNumber, sctx := 0, op := BitVec.ofNat 8 op, address := h.address,
      reqid := h.reqid, sent := BitVec.ofNat 64 s.domainClock, ticket := 0, tags := tags,
      check := BitVec.ofNat 32 (lineCheck data tags.toNat), mask := 0, zeros := 0 } data

/-- Entries the dedupe window still holds (R217): the last 65,536, each for at most 2 ms. -/
def State.window (s : State) : List Dedupe :=
  let live := s.dedupe.filter fun d => s.domainClock < d.sent + indetAfter
  live.drop (live.length - 65536)

/-- True of a request that a window does not cover (R217): sent before its coverage start plus 2 µs. A window that holds nothing
covers the last 2 ms, for what it held before then is gone. DESIGN CHOICE, log entry 56. -/
def State.uncovered (s : State) (sent : Nat) : Bool :=
  match s.dedupe with
  | d :: _ => sent < d.sent + 2000
  | [] => sent + indetAfter < s.domainClock + 2000

/-- The peer grants of a frame's owner to a request's source (R297). -/
def State.grantsFor (s : State) (h : FabHdr) : List PeerGrant :=
  let frame := h.address.toNat / 65536
  match s.owner.find? frame with
  | some (c + 1) => (s.ctx? c).elim [] fun x => x.peers.filter fun g =>
      g.src == h.src.toNat && g.sctx == h.sctx.toNat && g.first ≤ frame && frame < g.first + g.count
  | _ => []

/-- Tags a request may store (R167, R297): with FLAGS[3], and a grant without a ticket or with the packet's. -/
def State.grantedTags (s : State) (h : FabHdr) : BitVec 8 :=
  if hdrTagged h && (s.grantsFor h).any (fun g => g.ticket == 0 || g.ticket == h.ticket.toNat) then h.tags else 0

/-- Perform a request that has not been performed, and keep its result for a retransmission. -/
def State.performPeer (s : State) (h : FabHdr) (data : List Byte) : State :=
  let frame := h.address.toNat / 65536
  let coh := s.cohFrame frame
  let x := s.performAt h.kind.toNat h.op.toNat h.address.toNat h.mask (s.grantedTags h) data coh (hdrPoison h)
  let s := x.2
  let s := { s with dedupe := s.window ++ [(⟨h.reqid.toNat, h.src.toNat, h.sent.toNat, x.1⟩ : Dedupe)] }
  s.reply h x.1

/-- A request of a peer (R217, R297): found in the window, refused for want of a grant (R459), stale, held for a snoop, refused with
MOVED, or performed. -/
def State.serve (s : State) (h : FabHdr) (data : List Byte) : State :=
  let s := { s with dedupe := s.window }
  let line := h.address.toNat / 128
  -- its granules pass the revocation filter as they are received (R174)
  let h := { h with tags := s.portTags line (maskedCopy h.mask h.tags data) }
  let frame := h.address.toNat / 65536
  match s.dedupe.find? fun d => d.id == h.reqid.toNat && d.src == h.src.toNat with
  | some d => s.reply h d.result
  | none =>
    if (s.grantsFor h).isEmpty then (s.notice line cFirewall 0 0).reply h [BitVec.ofNat 8 cFirewall]
    else if s.uncovered h.sent.toNat then s.reply h [BitVec.ofNat 8 cAtomIndet]
    else if s.movingFrame frame then s.reply h [BitVec.ofNat 8 opMoved]
    else if s.snooped line then { s with heldReqs := s.heldReqs ++ [(h, data)] }
    else if h.kind.toNat != 0 && s.cohFrame frame && !(s.sharers.getD line []).isEmpty then
      { (s.cohWrite line Copy.empty) with heldReqs := s.heldReqs ++ [(h, data)] }
    else s.performPeer h data

/-! ## Receive buffers (R295) -/

/-- Bytes of receive buffer of a virtual channel, and the free space below which PAUSE is sent and above which RESUME. -/
def recvBuffer : Nat := 131072
def pauseBelow : Nat := 65536
def resumeAbove : Nat := 98304

/-- Bytes a packet takes in whole flits: its header and its data. -/
def packetSize (data : List Byte) : Nat := 64 + (data.length + 63) / 64 * 64

/-- Bytes that packets not yet taken out of it fill of a port's buffer for a channel. -/
def State.filled (s : State) (port vc : Nat) : Nat :=
  (s.heldReqs.filter fun x => s.portTo x.1.src.toNat == some port && x.1.flags.toNat % 4 == vc).foldl
    (fun n x => n + packetSize x.2) 0

/-- PAUSE or RESUME for one channel of a port, as its free space asks for. -/
def State.flowOne (s : State) (port vc : Nat) : State :=
  let free := recvBuffer - s.filled port vc
  let halted := (s.ports.find? port).any fun p => p.halted.contains vc
  if !halted && free < pauseBelow then
    { s with ports := s.ports.modify port fun p => { p with halted := p.halted ++ [vc] } }.send (.pause port vc)
  else if halted && resumeAbove < free then
    { s with ports := s.ports.modify port fun p => { p with halted := p.halted.filter fun v => v != vc } }.send (.resume port vc)
  else s

/-- The receiver's flow control on every channel of every link (R295). -/
def State.flow (s : State) : State :=
  (s.ports.filter fun x => x.2.up).foldl
    (fun (s : State) (x : Nat × FabPort) => (List.range 4).foldl (fun (s : State) vc => s.flowOne x.1 vc) s) s

/-- A request of the kind its event names. -/
def serveKind (kind : Nat) (h : FabHdr) (data : List Byte) (s : State) : Out :=
  .next (if hdrBad h then s.dropHeader else if h.kind.toNat = kind then (s.serve h data).flow else s)

/-- FABRIC_READ (R297). -/
def execFabricRead (h : FabHdr) (s : State) : Out := serveKind 0 h [] s
/-- FABRIC_WRITE (R297). -/
def execFabricWrite (h : FabHdr) (data : List Byte) (s : State) : Out := serveKind 1 h data s
/-- FABRIC_ATOMIC (R217). -/
def execFabricAtomic (h : FabHdr) (data : List Byte) (s : State) : Out := serveKind 2 h data s
/-- FABRIC_COUNTER_ADD (R217). -/
def execFabricCounterAdd (h : FabHdr) (data : List Byte) (s : State) : Out := serveKind 3 h data s
/-- PUBLISH_PAYLOAD (R224). -/
def execPublishPayload (h : FabHdr) (data : List Byte) (s : State) : Out := serveKind 4 h data s
/-- PUBLISH_VERSION_ADD (R224): its payload has been written before, since the publisher adds only once it is
acknowledged. -/
def execPublishVersionAdd (h : FabHdr) (data : List Byte) (s : State) : Out := serveKind 5 h data s

/-- Peers' held requests are served again once the snoop of their line is answered. -/
def State.serveHeld (s : State) : State :=
  let due := s.heldReqs
  (due.foldl (fun (s : State) (x : FabHdr × List Byte) => s.serve x.1 x.2) { s with heldReqs := [] }).flow

/-! ## Answers of peers -/

/-- What an answer says: MOVED, the cause of a failure, or its data. -/
def State.answered (s : State) (h : FabHdr) (data : List Byte) : State :=
  match s.remotes.find? fun r => r.id == h.reqid.toNat && r.hdr.dst == h.src with
  | none => s
  | some r =>
    if h.op.toNat = opMoved then s.post (.movedRefusal r.id)
    else if (hdrPoison h) then s.answer r.id [BitVec.ofNat 8 cPoison]
    else if h.op != 0 then s.answer r.id [h.op]
    else if r.isRead then
      let got := (List.range 128).map (fun i => data.getD i 0) ++ [if hdrTagged h then h.tags else 0]
      -- its granules pass the revocation filter as they are received (R174)
      s.answer r.id (if s.sweepActive then (s.ctx? r.hdr.sctx.toNat).elim got fun c => c.keepLineTags got else got)
    else if data.isEmpty then s.answer r.id [0]
    else s.answer r.id data

/-- FABRIC_RESPONSE (R296): one without data answers no read. -/
def execFabricResponse (h : FabHdr) (data : List Byte) (s : State) : Out :=
  .next (if hdrBad h then s.dropHeader else if h.kind.toNat = 6 then s.answered h data else s)

/-- FABRIC_ACKNOWLEDGEMENT (R296): of a request that returns nothing, or a refusal of any. -/
def execFabricAcknowledgement (h : FabHdr) (s : State) : Out :=
  let plain := s.remotes.any fun r => r.id == h.reqid.toNat && r.form == .nothing
  .next (if hdrBad h then s.dropHeader else if h.kind.toNat = 7 && (plain || h.op != 0 || (hdrPoison h)) then s.answered h [] else s)

/-! ## Links (R295) -/

/-- Requests held while synchronisation was lost leave now (R298): their times run from here. -/
def State.releaseHeld (s : State) : State :=
  let now := s.domainClock
  let held := s.remotes.filter fun r => r.held && r.got.isNone
  let fresh (r : Remote) : Remote := { r with held := false, sent := now, hdr := { r.hdr with sent := BitVec.ofNat 64 now } }
  let s := { s with remotes := s.remotes.map fun r => if r.held && r.got.isNone then fresh r else r }
  held.foldl (fun s r => s.sendPacket (fresh r).hdr r.data) s

/-- A successful exchange with the time root, whose clock reads `ns` (R298): the difference is made up by running slow or
fast. -/
def State.synchronise (s : State) (ns : Nat) : State :=
  { s with lastSync := s.domainClock, syncLost := false, clockBehind := (ns : Int) - s.domainClock }.releaseHeld

/-- A port as it comes up: above 300 ns of round trip it trains at a lower rate. -/
def FabPort.trained (old : Option FabPort) (peer rt : Nat) : FabPort :=
  { up := true, peer := peer, roundTrip := rt, reducedRate := decide (300 < rt), keyed := true, paused := [], halted := [],
    retries := old.elim 0 FabPort.retries, waiting := [] }

/-- FABRIC_LINK_BRINGUP (R295): the device at the other end is of the domain. -/
def execFabricLinkBringup (port peer rt : Nat) (s : State) : Out :=
  if 128 ≤ port ∨ 8192 ≤ peer then .next s
  else
    let old := s.ports.find? port
    let s := { s with ports := s.ports.insert port (FabPort.trained old peer rt), domain := max s.domain 2,
                      domainRoot := min s.domainRoot peer }
    .next ((old.elim [] FabPort.waiting).foldl (fun s x => s.sendPacket x.1 x.2) s)

/-- FABRIC_PAUSE (R295): sending stops on one virtual channel of a port. -/
def execFabricPause (port vc : Nat) (s : State) : Out :=
  .next { s with ports := s.ports.modify port fun p =>
    if p.paused.contains (vc % 4) then p else { p with paused := p.paused ++ [vc % 4] } }

/-- FABRIC_RESUME (R295): what waited on the channel leaves in order. -/
def execFabricResume (port vc : Nat) (s : State) : Out :=
  let mine (x : FabHdr × List Byte) : Bool := x.1.flags.toNat % 4 == vc % 4
  let due := (s.ports.find? port).elim [] fun p => p.waiting.filter mine
  let s := { s with ports := s.ports.modify port fun p =>
    { p with paused := p.paused.filter fun v => v != vc % 4, waiting := p.waiting.filter fun x => !mine x } }
  .next (due.foldl (fun s x => s.send (.packet x.1 x.2)) s)

/-- LINK_LEVEL_RETRY (R295): the flit crosses at last, and nothing above the link sees it. -/
def execLinkLevelRetry (port : Nat) (s : State) : Out :=
  .next ({ s with ports := s.ports.modify port fun p => { p with retries := p.retries + 1 } }.send (.linkRetry port))

/-! ## The domain clock (R298) -/

/-- True of the device with the lowest number of its domain. -/
def State.timeRoot (s : State) : Bool := s.deviceNumber ≤ s.domainRoot
def State.fabricUp (s : State) : Bool := s.ports.any fun x => x.2.up

/-- CLOCK_SYNC (R298): the time root and a device alone follow nobody. -/
def execClockSync (ns : Nat) (s : State) : Out :=
  .next (if s.fabricUp && !s.timeRoot then s.synchronise ns else s)

/-- Nanoseconds of 100 ms. -/
def syncLimit : Nat := 100000000

/-- SYNC_LOST (R298): 100 ms without an exchange. -/
def execSyncLost (s : State) : Out :=
  .next (if s.fabricUp && !s.timeRoot && s.lastSync + syncLimit ≤ s.domainClock then { s with syncLost := true } else s)

/-- The domain clock one core cycle on: 10 ns in 21 cycles (R4), one nanosecond in 1,000 slow or fast while it is off.
DESIGN CHOICE, log entry 12. -/
def State.tickClock (s : State) : State :=
  let n := (s.timebase + 1) * 10 / 21 - s.timebase * 10 / 21
  if n = 0 ∨ s.clockBehind = 0 ∨ (s.timebase + 1) * 10 / 21 % 1000 ≠ 0 then { s with domainClock := s.domainClock + n }
  else if 0 < s.clockBehind then { s with domainClock := s.domainClock + n + 1, clockBehind := s.clockBehind - 1 }
  else { s with domainClock := s.domainClock + n - 1, clockBehind := s.clockBehind + 1 }

end Sys2Proof.Machine
end

