-- ==== Sys2Proof/Machine/Faithful.lean ====
section
/-!
DEFINITION. Machine/Faithful.lean: division, reciprocals and roots, rounded once (R337, R347, R348), and the four faithful
functions (R115, R334, R335): the exact result is bracketed by fixed-point arithmetic, and which neighbour is given is
left free.
-/

namespace Sys2Proof.Machine

/-! ## Division and roots -/

/-- The integer square root, bit by bit from bit `k - 1`. -/
def isqrt (n : Nat) : Nat → Nat → Nat
  | 0, r => r
  | k + 1, r => if (r + 2 ^ k) * (r + 2 ^ k) ≤ n then isqrt n k (r + 2 ^ k) else isqrt n k r

/-- Fraction bits carried before the one rounding: more than any element type needs. -/
def guardBits : Nat := 128

/-- x / y rounded once (R337). -/
def fltDiv (F : FFmt) (c : FCtl) (x y : FVal) : Nat × Word :=
  match x, y with
  | .nan _, _ => (F.nanBits, nvOf [x, y])
  | _, .nan _ => (F.nanBits, nvOf [x, y])
  | .inf _, .inf _ => (F.nanBits, fNV)
  | .inf s, .fin t _ _ => (F.infBits (s != t), 0)
  | .fin s _ _, .inf t => (F.zeroBits (s != t), 0)
  | .fin s m e, .fin t n f =>
    if n = 0 then (if m = 0 then (F.nanBits, fNV) else (F.infBits (s != t), fDZ))
    else
      let a := m * 2 ^ guardBits
      F.round c (s != t) (stick (a / n) (a % n != 0)) (e - f - guardBits - 1)

/-- FRCP (R347, R348). -/
def fltRcp (F : FFmt) (c : FCtl) (x : FVal) : Nat × Word := fltDiv F c (.fin false 1 0) x

/-- m·2^e as m'·2^(2k): an even exponent. -/
def evenExp (m : Nat) (e : Int) : Nat × Int := if e % 2 = 0 then (m, e / 2) else (2 * m, (e - 1) / 2)

/-- FSQRT (R347, R348). -/
def fltSqrt (F : FFmt) (c : FCtl) (x : FVal) : Nat × Word :=
  match x with
  | .nan s => (F.nanBits, if s then fNV else 0)
  | .inf s => if s then (F.nanBits, fNV) else (F.infBits false, 0)
  | .fin s m e =>
    if m = 0 then (F.zeroBits s, 0)
    else if s then (F.nanBits, fNV)
    else
      let (m, h) := evenExp m e
      let a := m * 2 ^ (2 * guardBits)
      let r := isqrt a (guardBits + 32) 0
      F.round c false (stick r (r * r != a)) (h - guardBits - 1)

/-- FRSQ (R347, R348): the reciprocal square root of a zero is an infinity without DZ. -/
def fltRsq (F : FFmt) (c : FCtl) (x : FVal) : Nat × Word :=
  match x with
  | .nan s => (F.nanBits, if s then fNV else 0)
  | .inf s => if s then (F.nanBits, fNV) else (F.zeroBits false, 0)
  | .fin s m e =>
    if m = 0 then (F.infBits s, 0)
    else if s then (F.nanBits, fNV)
    else
      let (m, h) := evenExp m e
      let a := 2 ^ (2 * (guardBits + 32))
      let r := isqrt (a / m) (guardBits + 33) 0
      F.round c false (stick r (r * r * m != a)) (-h - (guardBits + 32) - 1)

/-! ## Fixed-point arithmetic for the faithful functions

A number of N fraction bits stands for x / 2^N; each function below errs by less than `slack` units. -/

/-- Fraction bits. -/
def fixN : Nat := 384
/-- A bound on the error of any of the sums below, in units of 2^-N. -/
def slack : Nat := 2 ^ 40

/-- Terms 1 / (k · b^k) of a sum for odd k, with alternating or equal signs; `p` is the current 1 / b^k. -/
def atanTerms (b : Nat) (alt : Bool) : Nat → Nat → Nat → Int
  | 0, _, _ => 0
  | n + 1, k, p =>
    let term : Int := (p / k : Nat)
    term + (if alt then - atanTerms b alt n (k + 2) (p / (b * b)) else atanTerms b alt n (k + 2) (p / (b * b)))

/-- arctan(1 / b), and artanh(1 / b), with `n` fraction bits. -/
def atanInv (n b : Nat) : Int := atanTerms b true (n + 8) 1 (2 ^ n / b)
def atanhInv (n b : Nat) : Int := atanTerms b false (n + 8) 1 (2 ^ n / b)

/-- π with `n` fraction bits: 16 arctan(1/5) − 4 arctan(1/239). -/
def piFix (n : Nat) : Nat := (16 * atanInv (n + 16) 5 - 4 * atanInv (n + 16) 239).toNat / 2 ^ 16
/-- ln 2 = 2 artanh(1/3). -/
def ln2Fix (n : Nat) : Nat := (2 * atanhInv (n + 16) 3).toNat / 2 ^ 16

/-- e^x for 0 ≤ x < 1: the sum of x^k / k!. -/
def expTerms (n x : Nat) : Nat → Nat → Nat → Nat
  | 0, _, _ => 0
  | fuel + 1, k, p => p + expTerms n x fuel (k + 1) (p * x / 2 ^ n / k)
def expFix (n x : Nat) : Nat := expTerms n x 120 1 (2 ^ n)

/-- sin x and cos x for 0 ≤ x < 2, by their alternating sums. -/
def trigTerms (n x2 : Nat) : Nat → Nat → Nat → Int
  | 0, _, _ => 0
  | fuel + 1, k, p => (p : Int) - trigTerms n x2 fuel (k + 2) (p * x2 / 2 ^ n / (k * (k + 1)))
def sinFix (n x : Nat) : Nat := (trigTerms n (x * x / 2 ^ n) 70 2 x).toNat
def cosFix (n x : Nat) : Nat := (trigTerms n (x * x / 2 ^ n) 70 1 (2 ^ n)).toNat

/-- log2 of x / 2^n for 1 ≤ x / 2^n < 2, one bit at a time by squaring: `k` bits of the fraction. -/
def log2Bits (n : Nat) : Nat → Nat → Nat → Nat
  | 0, _, acc => acc
  | k + 1, x, acc =>
    let y := x * x / 2 ^ n
    if 2 ^ (n + 1) ≤ y then log2Bits n k (y / 2) (2 * acc + 1) else log2Bits n k y (2 * acc)

/-! ## Faithful rounding -/

/-- Deliver an inexact result m·2^e ± error (R115): one of the two representable neighbours, by the free choice `up`;
a representable value within the error brackets the exact one in any case. MODE.RND has no effect; overflow and tiny
results follow R117 and R118. A result below half the least subnormal is delivered as zero (R339). -/
def faithful (F : FFmt) (c : FCtl) (up : Bool) (neg : Bool) (m : Nat) (e : Int) (err : Nat) : Nat × Word :=
  let c0 : FCtl := ⟨0, c.sat, c.ftz⟩
  let x : Int := e + m.log2
  let ulp := max x F.emin - F.fb
  if x + 1 < ulp then (F.zeroBits neg, fUF ||| fNX)
  else
    let sh := (ulp - e).toNat
    let lo := (m - err) / 2 ^ sh
    let hi := (m + err) / 2 ^ sh
    let n := if lo = hi then (if up then lo + 1 else lo) else hi
    let r := F.round c0 neg n ulp
    -- not tiny when the upper neighbour, range unbounded, is the least normal and is the one given
    let tiny := x < F.emin && !(x + 1 == F.emin && up && m / 2 ^ (sh - 1) == 2 ^ (F.fb + 1) - 1)
    (r.1, r.2 ||| fNX ||| (if tiny && (!c.ftz || n == 0) then fUF else 0))

/-- 2^x (R334, R335). DEDUCED, log entry 33. -/
def fltExp2 (F : FFmt) (c : FCtl) (up : Bool) (x : FVal) : Nat × Word :=
  match x with
  | .nan s => (F.nanBits, if s then fNV else 0)
  | .inf s => if s then (F.zeroBits false, 0) else (F.infBits false, 0)
  | .fin s m e =>
    let c0 : FCtl := ⟨0, c.sat, c.ftz⟩
    if m = 0 then F.round c0 false 1 0
    else if 4096 ≤ m * 2 ^ e.toNat / 2 ^ (-e).toNat then
      if s then (F.zeroBits false, fUF ||| fNX) else F.overflow c0 false
    else if e + m.log2 < -80 then
      -- 2^x is 1 plus or minus less than 2^-80
      if s then faithful F c up false (2 ^ 100 - 2 ^ 10) (-100) 1 else faithful F c up false (2 ^ 100 + 2 ^ 10) (-100) 1
    else
      -- x = k + f with 0 <= f < 1 in units of 2^-N
      let v : Int := if e ≥ 0 then (m * 2 ^ e.toNat : Nat) * 2 ^ fixN
        else ((m * 2 ^ fixN / 2 ^ (-e).toNat : Nat) : Int)
      let v := if s then -v else v
      let k := v / 2 ^ fixN
      let f := (v % 2 ^ fixN).toNat
      if f = 0 then
        if k < F.emin - F.fb then faithful F c up false (2 ^ 100) (k - 100) 0 else F.round c0 false 1 k
      else faithful F c up false (expFix fixN (f * ln2Fix fixN / 2 ^ fixN)) (k - fixN) slack

/-- log2 x (R334, R335). -/
def fltLog2 (F : FFmt) (c : FCtl) (up : Bool) (x : FVal) : Nat × Word :=
  match x with
  | .nan s => (F.nanBits, if s then fNV else 0)
  | .inf s => if s then (F.nanBits, fNV) else (F.infBits false, 0)
  | .fin s m e =>
    if m = 0 then (F.infBits true, fDZ)
    else if s then (F.nanBits, fNV)
    else
      let k : Int := e + m.log2
      if m = 2 ^ m.log2 then F.round ⟨0, c.sat, c.ftz⟩ (k < 0) k.natAbs 0
      else
        let f := log2Bits fixN (fixN - 64) (m * 2 ^ fixN / 2 ^ m.log2) 0
        let v : Int := k * 2 ^ (fixN - 64) + f
        faithful F c up (v < 0) v.natAbs (-(fixN - 64 : Nat)) slack

/-- sin x or cos x (R334, R335, R351), the argument reduced by multiples of π/2 exactly. -/
def fltTrig (cosine : Bool) (F : FFmt) (c : FCtl) (up : Bool) (x : FVal) : Nat × Word :=
  match x with
  | .nan s => (F.nanBits, if s then fNV else 0)
  | .inf _ => (F.nanBits, fNV)
  | .fin s m e =>
    if m = 0 then (if cosine then F.round ⟨0, c.sat, c.ftz⟩ false 1 0 else (F.zeroBits s, 0))
    else if e + m.log2 < -40 then
      -- cos x lies just below 1, and sin x just below x in magnitude
      if cosine then faithful F c up false (2 ^ 100 - 2 ^ 10) (-100) 1
      else faithful F c up s (m * 2 ^ 100 - 2 ^ 10) (e - 100) 1
    else
      let n := fixN + e.toNat + m.log2
      let v := m * 2 ^ e.toNat * 2 ^ n / 2 ^ (-e).toNat
      let half := piFix n / 2
      let q := v / half
      let r := v % half / 2 ^ (n - fixN)
      let useCos := (q % 2 == 1) != cosine
      let y := if useCos then cosFix fixN r else sinFix fixN r
      -- sin: + + - - over the quadrants; cos: + - - +
      let neg := if cosine then q % 4 == 1 || q % 4 == 2 else (2 ≤ q % 4) != s
      faithful F c up neg y (-(fixN : Nat)) slack

/-! ## The instructions -/

/-- A long-latency operation on one element (R71, R72): its values and flags arrive when it completes. -/
def longFloat (i : Instr) (d la : Nat) (f : Team → FFmt → FCtl → Nat → Nat × Word) (s : State) : Out :=
  issue i s fun s =>
    let t := s.team
    let F := t.ffmt
    let c := ctlOf t.mode
    let vals := (List.range t.width).map fun l => if t.selected l then some (f t F c l) else none
    let flags := vals.foldl (fun (w : Word) v => w ||| (v.elim 0 Prod.snd)) 0
    let lows := vals.map fun v => v.map fun r => BitVec.ofNat 32 r.1
    let dests := if F = fmtF64 then [Dest.v d lows, Dest.v (d + 1) (vals.map fun v => v.map fun r =>
      BitVec.ofNat 32 (r.1 / 4294967296))] else [Dest.v d lows]
    .next { s with team := t.launchPending la dests flags [] (insnOf i) }

/-- A one-operand form, with the free choice of its neighbour: a function of operation, type and operand (R115). -/
def longFloat1 (i : Instr) (op d a la : Nat) (f : FFmt → FCtl → Bool → FVal → Nat × Word) (s : State) : Out :=
  longFloat i d la (fun t F c l =>
    f F c (Config.faithfulUp op (modeEtype t.mode) (t.elem F a l)) (F.unpack c.ftz (t.elem F a l))) s

/-- FRCP (R347). -/
def execFrcp (d a la : Nat) (s : State) : Out := longFloat1 (.frcp d a la) 4 d a la (fun F c _ x => fltRcp F c x) s
/-- FRSQ (R350). -/
def execFrsq (d a la : Nat) (s : State) : Out := longFloat1 (.frsq d a la) 5 d a la (fun F c _ x => fltRsq F c x) s
/-- FSQRT (R352). -/
def execFsqrt (d a la : Nat) (s : State) : Out := longFloat1 (.fsqrt d a la) 6 d a la (fun F c _ x => fltSqrt F c x) s
/-- FEXP2 (R339). -/
def execFexp2 (d a la : Nat) (s : State) : Out := longFloat1 (.fexp2 d a la) 0 d a la fltExp2 s
/-- FLOG2 (R340). -/
def execFlog2 (d a la : Nat) (s : State) : Out := longFloat1 (.flog2 d a la) 1 d a la fltLog2 s
/-- FSIN (R351). -/
def execFsin (d a la : Nat) (s : State) : Out := longFloat1 (.fsin d a la) 2 d a la (fltTrig false) s
/-- FCOS (R334). -/
def execFcos (d a la : Nat) (s : State) : Out := longFloat1 (.fcos d a la) 3 d a la (fltTrig true) s

/-- FDIV (R337): IMM supplies the divisor, and with both prefixes UNI the dividend. -/
def execFdiv (d a b la : Nat) (s : State) : Out :=
  longFloat (.fdiv d a b la) d la (fun t F c l =>
    let y := t.fB b l
    let r := fltDiv F c (F.unpack c.ftz (t.fA a l)) (F.unpack c.ftz y.1)
    (r.1, r.2 ||| y.2)) s

end Sys2Proof.Machine
end

