-- ==== Sys2Proof/Machine/Host.lean ====
section
/-!
DEFINITION. Machine/Host.lean: what arrives at the host ports (R223, R240, R288 to R291, R293, R294, R300, R301, R303, R304, R308,
R453, R460): host reads and writes, back-invalidation, TDISP, IDE, SPDM, keys, extents and tasks.
-/

namespace Sys2Proof.Machine

/-! ## Ports (R288) -/

def HostPort.fresh : HostPort := ⟨false, 0, 0, false, false⟩

/-- CXL.cache and CXL.mem run at 64 GT/s on all lanes alone; rates are in tenths of GT/s. DESIGN CHOICE, log entry 46. -/
def HostPort.cxl (h : HostPort) : Bool := h.up && h.rate == 640 && h.width == 16

/-- HOST_LINK_TRAINING (R288): at 2.5 to 64 GT/s and x16, x8 or x4; no other rate or width trains. -/
def execHostLinkTraining (port rate width : Nat) (s : State) : Out :=
  let old := (s.hostPorts.find? port).getD HostPort.fresh
  let new : HostPort := { old with up := true, rate := rate, width := width }
  .next (if 1 < port || !([25, 50, 80, 160, 320, 640].contains rate) || !([4, 8, 16].contains width) then s
    else { s with hostPorts := s.hostPorts.insert port new })

/-- IDE_KEY_MANAGEMENT (R288, R301): keys are set, and the link IDE stream of a port that is up is established. -/
def execIdeKeyManagement (port : Nat) (s : State) : Out :=
  .next { s with hostPorts := s.hostPorts.modify port fun h => if h.up then { h with ide := true, ideKeys := true } else h }

/-! ## TDISP (R301, R306) -/

/-- TDISP_RUN (R301): a virtual function's TDI enters RUN. -/
def execTdispRun (fn : Nat) (s : State) : Out :=
  .next (if fn = 0 ∨ 255 < fn ∨ s.tdisp.getD fn .unlocked ≠ .unlocked then s
    else { s with tdisp := SMap.put .unlocked s.tdisp fn .run })

/-- TDISP_STOP (R301): from ERROR to CONFIG_UNLOCKED. -/
def execTdispStop (fn : Nat) (s : State) : Out :=
  .next (if s.tdisp.getD fn .unlocked = .error then { s with tdisp := SMap.put .unlocked s.tdisp fn .unlocked } else s)

/-- Lines of a context's shared-coherent pages. -/
def Ctx.cohLine (c : Ctx) (line : Nat) : Bool :=
  c.ptes.any fun e => pteType e.2 == 2 && pteCoh e.2 &&
    frameKey (pteLoc e.2) (ptePeer e.2) (pteFrame e.2) / 65536 == line / 512

/-- FUNCTION_LEVEL_RESET (R301, R306, R307): the preamble for the function's lines, then its contexts are killed, their frames
scrubbed, and its TDI is CONFIG_UNLOCKED. -/
def execFunctionLevelReset (fn : Nat) (s : State) : Out :=
  let mine := s.ctxs.filter fun x => x.2.function == fn
  let s := s.writeBackAll fun k => mine.any fun x => x.2.cohLine (copyLine k)
  let s := (mine.map Prod.fst).foldl State.endTenant s
  .next { s with tdisp := SMap.put .unlocked s.tdisp fn .unlocked }

/-! ## Keys (R294, R302, R460) -/

/-- KEY_SLOT_BIND (R460): the last accepted CTR of each direction is 0. -/
def execKeySlotBind (fn id : Nat) (key : BitVec 256) (s : State) : Out :=
  .next (if 255 < fn ∨ 2 ^ 32 ≤ id then s
    else { s with keySlots := s.keySlots.insert id ⟨fn, key, some 0, some 0⟩ })

/-- The context number of a task key that is no longer bound: its counters stay with it (R453). -/
def unbound : Nat := 256

/-- TASK_KEY_INSTALL (R294, R453): bound to a context and an expander on a Bilran H, to a context and a function on a Bilran L.
A key that comes again keeps its counters. -/
def execTaskKeyInstall (ctx expander fn : Nat) (key : BitVec 256) (salt : Word) (s : State) : Out :=
  let clash (k : TaskKey) : Bool := if s.isL then k.fn == fn else k.ctx == ctx && k.expander == expander
  let old := s.taskKeys.find? fun k => k.key == key
  let left := (s.taskKeys.filter fun k => k.key != key).map fun (k : TaskKey) =>
    if clash k && k.ctx != unbound then { k with ctx := unbound } else k
  .next (if 255 < ctx ∨ 255 < expander ∨ 255 < fn then s
    else { s with taskKeys := left ++
      [⟨ctx, expander, fn, key, salt, old.elim 0 TaskKey.sent, old.bind TaskKey.accepted⟩] })

/-! ## Tasks on a Bilran L (R294, R453) -/

/-- The image that a task's launch executes. -/
def launchImage (img : List Byte) : List Byte :=
  [1] ++ (img.drop 1).take 1 ++ [0, 0] ++ (img.drop 4).take 4 ++ bytesOfNat 8 0 ++ (img.drop 16).take 30 ++ [0]
    ++ (img.drop 47).take 49 ++ bytesOfNat 32 0

/-- The key a task image that arrives through a function is held against. -/
def State.taskKeyOf (s : State) (fn : Nat) : Option TaskKey :=
  s.taskKeys.find? fun k => k.fn == fn && k.ctx != unbound && (s.ctx? k.ctx).any fun c => c.function == fn

/-- TASK_IMAGE_ARRIVAL (R294, R306): the tag, then SEQ; an accepted image enters the task queue's inlet, and ungates the partition.
DESIGN CHOICE, log entry 67. -/
def State.taskArrives (s : State) (fn : Nat) (img : List Byte) : State :=
  let seq := fieldAt img 96 8
  let bad : State := s.send (.taskStatus fn seq stBadtag)
  match s.taskKeyOf fn with
  | none => bad
  | some k =>
    if taskTag k.key k.salt.toNat seq img ≠ img.drop 112 ∨ k.accepted.any (fun n => seq ≤ n) then bad
    else
      let s := { s with taskKeys := s.taskKeys.map fun (x : TaskKey) => if x.key = k.key then { x with accepted := some seq } else x }
      match s.slotOf k.ctx 0 with
      | none => s.send (.taskStatus fn seq stHandle)
      | some slot =>
        -- an image that finds the inlet full waits in line behind it
        if (s.ctx? k.ctx).any Ctx.killed then s.send (.taskStatus fn seq stDiscarded)
        else ({ s with queues := s.queues.modify slot fun q =>
          { q with inlet := q.inlet ++ [(launchImage img, some seq)] } } : State).ungate k.ctx

/-- TASK_IMAGE_ARRIVAL (R294). -/
def execTaskImageArrival (fn : Nat) (img : List Byte) (s : State) : Out :=
  .next (if s.isL && img.length == 128 then s.taskArrives fn img else s)

/-- TASK_STATUS_RETURN (R453): the TASK packet completes with the status sent back. -/
def execTaskStatusReturn (slot num status : Nat) (s : State) : Out :=
  .next (if (s.queue? slot).any fun q => q.packets.any fun p => p.num == num && p.wait == .task then s.endPacket slot num status
    else s)

/-! ## Extents (R198, R293) -/

/-- EXTENT_ADD (R198): 4,096 frames bound to one context. One that meets frames in use is not accepted. A Bilran H learns that
an expander has added frames again, which may then be reached. -/
def execExtentAdd (num first ctx : Nat) (s : State) (expander : Option Nat := none) : Out :=
  match expander with
  | some n => .next { s with expReleased := s.expReleased.filter fun x =>
      !(x.1 == n && x.2 < first + 4096 && first < x.2 + 4096) }
  | none =>
  let clear := (List.range 4096).all fun i => s.owner.getD (first + i) 0 == 0
  .next (if !s.isL || 65535 < num || lFrames < first + 4096 || (s.ctx? ctx).isNone || !clear ||
      (s.extents.find? num).any (fun x => !x.released) then s
    else
      let left := s.extents.filter fun x => x.1 != num && (!x.2.released || x.2.first + 4096 ≤ first || first + 4096 ≤ x.2.first)
      { s with extents := SMap.insert left num ⟨ctx, first, false, false⟩,
               owner := (List.range 4096).foldl (fun o i => SMap.put 0 o (first + i) (ctx + 1)) s.owner })

/-- Every key of 4,096 frames from a key on is scrubbed (R198): zero data, no tag, no poison, fresh checks, no copy. -/
def State.scrubKeys (s : State) (base : Nat) : State :=
  let off (d k : Nat) : Bool := k * d < base || base + 268435456 ≤ k * d
  { s with
    mem := s.mem.filter fun x => off 1 x.1, tags := s.tags.filter fun x => off 16 x.1,
    poison := s.poison.filter fun x => off 128 x.1, checkErr := s.checkErr.filter fun x => off 128 x.1,
    copies := s.copies.filter fun x => off 128 (copyLine x.1) }

/-- A Bilran H learns that an expander has released an extent (R198): what it had accepted for it completes, and accesses fault
from then on. -/
def State.releaseFar (s : State) (n first : Nat) : State :=
  let base := frameKey 2 n first
  let inside (key : Nat) : Bool := base ≤ key && key < base + 268435456
  let busy := s.wgs.any fun w => w.queue.any fun e => e.pieces.any fun p => inside p.key
  if busy || s.snoops.any (fun y => inside (128 * y.line)) || s.expReleased.contains (n, first) then s
  else
    let s := State.performMerges s.merges.length s fun m => inside m.key
    let s := (s.evictAll fun k => inside (128 * copyLine k)).scrubKeys base
    { s with expReleased := s.expReleased ++ [(n, first)] }

/-- EXTENT_RELEASE (R198): reductions on their way are performed, matrix transfers that hold its pages are waited for, and the scrub
ends before the release completes. With `expander`, an expander and its first frame, a Bilran H learns of a release there. -/
def execExtentRelease (num : Nat) (s : State) (expander : Option (Nat × Nat) := none) : Out :=
  match expander with
  | some (n, first) => .next (s.releaseFar n first)
  | none =>
  match s.extents.find? num with
  | none => .next s
  | some x =>
    let inside (key : Nat) : Bool := key < regionSize && x.first ≤ key / 65536 && key / 65536 < x.first + 4096
    let busy := s.wgs.any fun w => w.queue.any fun e => e.pieces.any fun p => inside p.key
    if x.released || busy || s.snoops.any (fun y => inside (128 * y.line)) then .next s
    else
      let s := State.performMerges s.merges.length s fun m => inside m.key
      let s := (List.range 4096).foldl (fun s i => s.scrubFrame (x.first + i)) s
      let mine (f : Nat) : Bool := x.first ≤ f && f < x.first + 4096
      let s := s.modCtx x.ctx fun c =>
        { c with pool := c.pool.filter fun f => !mine f, reserve := c.reserve.filter fun f => !mine f }
      .next { s with extents := s.extents.modify num fun y => { y with released := true },
                     owner := s.owner.filter fun y => !mine y.1 }

/-! ## Back-invalidation (R223) -/

/-- BACK_INVALIDATION_SNOOP (R223): dirty bytes go home by mask, the line leaves every cluster cache, and the answer is sent. -/
def execBackInvalidationSnoop (line : Nat) (s : State) : Out :=
  .next ((s.evictAll fun k => copyLine k == line).send (.snoopDone line))

/-- Writes whose snoops have all been answered become visible, in order, once every copy of the line on the device is gone (R222). -/
def State.endSnoops (s : State) : State :=
  let due := s.snoops.filter fun x => x.holders.isEmpty
  let s := { s with snoops := s.snoops.filter fun x => !x.holders.isEmpty }
  due.foldl (fun s x => if x.held.dirty = 0 then s
    else (s.evictAll fun k => copyLine k == x.line).arrive x.line x.held x.made x.bad) s

/-! ## Reads by the host (R300) -/

/-- What the firewall says of a host request to a local frame: accepted when an ordinary context owns it.
DESIGN CHOICE, log entry 45. -/
def State.hostMay (s : State) (frame : Nat) : Bool :=
  match s.owner.find? frame with
  | some (c + 1) => (s.ctx? c).any fun x => !x.confidential
  | _ => false

/-- The lines a request touches. -/
def hostLines (addr len : Nat) : List Nat := if len = 0 then [] else linesOf addr len

/-- The number of a requester as a holder of lines (R223): on a Bilran H the host, on a Bilran L whoever comes through a
function. -/
def State.holderOf (s : State) (fn : Nat) : Nat := if s.isL then fn else 0

/-- Room for one more line in a Bilran L's snoop filter (R223): whether it is full, and which entry then goes, is open; that
entry's holders are snooped. DESIGN CHOICE, log entry 96. -/
def State.filterRoom (s : State) : State :=
  if !s.isL || s.sharers.isEmpty || !Config.freeBool s.oracle (2 ^ 93) then s
  else
    match s.sharers[Config.freeNat s.oracle (2 ^ 83) % s.sharers.length]? with
    | none => s
    | some x =>
      if s.snooped x.1 then s
      else
        let s := (s.evictAll fun k => copyLine k == x.1).tick
        let s := { s with snoops := s.snoops ++ [⟨x.1, x.2, Copy.empty, false, false⟩] }
        x.2.foldl (fun s h => s.send (.snoop h x.1)) s

/-- A requester may cache lines of shared-coherent pages (R223): its read is noted. -/
def State.hostShares (s : State) (fn line : Nat) : State :=
  let old := s.sharers.getD line []
  if s.cohFrame (line / 512) && !old.contains (s.holderOf fn) then
    let s := if old.isEmpty then s.filterRoom else s
    { s with sharers := SMap.put [] s.sharers line (s.sharers.getD line [] ++ [s.holderOf fn]) }
  else s

/-- Read device memory for a requester: refused whole where the firewall refuses a line, with a NOTICE, or with MOVED where a page
is on the move (R199), and held while a write to a line waits for a snoop (R223); a poisoned line answers with poison (R277). A
Bilran H reads a Bilran L's tags too (R293). -/
def State.hostReadDevice (s : State) (fn addr len : Nat) (tagged : Bool) : State :=
  let ls := hostLines addr len
  match ls.find? fun l => !s.hostMay (l / 512) with
  | some l => (s.notice l cFirewall 0 0).send (.hostAbort fn addr)
  | none =>
    if ls.any fun l => s.movingFrame (l / 512) then s.send (.hostMoved fn addr)
    else if ls.any s.snooped then { s with heldHost := s.heldHost ++ [⟨fn, addr, len, tagged⟩] }
    else
      let (bad, s) := ls.foldl (fun (r : Bool × State) l =>
        let x := (r.2.hostShares fn l).lineOut l
        (r.1 || x.2.1, x.2.2)) (false, s)
      if bad then s.send (.hostPoison fn addr)
      else if tagged && s.isL then s.send (.memData fn addr (s.readBytes addr len) (ls.map s.lineTags))
      else s.send (.hostData fn addr (s.readBytes addr len))

/-- The host's held reads are served again once the snoop of their line is answered. -/
def State.serveHosts (s : State) : State :=
  s.heldHost.foldl (fun (s : State) x => s.hostReadDevice x.fn x.addr x.len x.tagged) { s with heldHost := [] }

/-- BACK_INVALIDATION_RESPONSE (R223): a holder has let a line go. Once all have, what waited for the line goes on. -/
def execBackInvalidationResponse (holder line : Nat) (s : State) : Out :=
  if !s.snoops.any (fun x => x.line == line && x.holders.contains holder) then .next s
  else
    let s := { s with
      snoops := s.snoops.map fun (x : Snoop) => if x.line = line then { x with holders := x.holders.filter fun h => h != holder } else x,
      sharers := SMap.put [] s.sharers line ((s.sharers.getD line []).filter fun h => h != holder) }
    .next (if s.snooped line && s.snoops.any (fun x => x.line == line && !x.holders.isEmpty) then s
      else s.endSnoops.serveHeld.serveHosts)

/-- The mailbox's 256 bytes as a host reads them (R291). -/
def State.mailByte (s : State) (o : Nat) : Byte :=
  let resp := bytesOfNat 1 s.response.status ++ [0, 0, 0] ++ bytesOfNat 4 s.response.seq.toNat
    ++ s.response.q.flatMap fun q => bytesOfNat 8 q.toNat
  if o < 0x40 then s.mailArea.getD o 0
  else if o < 0x80 then resp.getD (o - 0x40) 0
  else if o = 0x84 then (if s.mailBusy.isSome then 1 else 0)
  else 0

/-- An extended capability's first dword: its identifier, version 1, and the place of the next. -/
def extHeader (id next : Nat) : List Byte := bytesOfNat 4 (id + 65536 + next * 1048576)

/-- The first dwords of a DVSEC: vendor, length and DVSEC identifier. -/
def dvsecHeader (next vendor length id : Nat) : List Byte :=
  extHeader 0x23 next ++ bytesOfNat 4 (vendor + length * 1048576) ++ bytesOfNat 2 id

/-- The bytes of a function's configuration space that are not left open, by offset: PF0's Vendor ID and the lists of the capabilities
that R288 gives, which hold no other; PF0's begin with the device's DVSEC, whose registers follow its header (R289). PRESUMED, log entry
97. -/
def State.configImage (s : State) (fn : Nat) : List (Nat × List Byte) :=
  let id : List (Nat × List Byte) := if fn = 0 then [(0, bytesOfNat 2 Config.vendorId.toNat)] else []
  -- PCI Express: payload 512, function-level reset, 64 GT/s at x16, 10-bit tags
  let express := [(0x34, bytesOfNat 1 0x40), (0x40, bytesOfNat 2 0xB010), (0x44, bytesOfNat 4 0x10000002),
    (0x4C, bytesOfNat 2 0x0106), (0x64, bytesOfNat 4 0x30000)]
  -- MSI-X: 64 vectors
  let msix := [(0xB0, bytesOfNat 4 0x3F0011)]
  let extended : List (Nat × List Byte) :=
    if fn ≠ 0 then [(0x100, bytesOfNat 4 0)]
    else
      [(0x100, dvsecHeader 0x140 Config.vendorId.toNat 24 1),
        (0x10C, bytesOfNat 4 s.deviceInfo.toNat ++ bytesOfNat 4 s.bringUp ++ bytesOfNat 4 s.pstate),
        -- SR-IOV: 255 virtual functions
        (0x140, extHeader 0x10 0x180), (0x14C, bytesOfNat 4 0xFF00FF),
        -- DOE; IDE: a link stream of AES-256-GCM, no selective ones
        (0x180, extHeader 0x2E 0x1C0), (0x1C0, extHeader 0x30 0x200), (0x1C4, bytesOfNat 4 1),
        -- CXL: a device with CXL.io and CXL.mem, and on a Bilran H CXL.cache
        (0x200, dvsecHeader 0 0x1E98 60 0), (0x20A, bytesOfNat 2 (if s.isL then 6 else 7))]
  id ++ express ++ msix ++ extended

/-- A byte of a function's configuration space. -/
def State.configByte (s : State) (fn o : Nat) : Byte :=
  match (s.configImage fn).find? fun x => x.1 ≤ o && o < x.1 + x.2.length with
  | some x => x.2.getD (o - x.1) 0
  | none => if o = 6 then Config.configByte fn o ||| 0x10 else Config.configByte fn o

/-- Which space a host address lies in, in the model's own numbering: device memory, or a BAR or the configuration space of
the function at multiples of 2^64. -/
inductive HostSpace where
  | device | bar0 | bar2 | bar4 | config | other | outside (key : Nat)
deriving DecidableEq, Repr

/-- Where addresses of an outside agent's own writes begin. -/
def outsideBase : Nat := 2 ^ 70

/-- DESIGN CHOICE, log entry 42. -/
def hostSpace (addr : Nat) : HostSpace :=
  if outsideBase ≤ addr then .outside (addr - outsideBase)
  else match addr / regionSize with
    | 0 => .device
    | 2 => .bar0
    | 3 => .bar2
    | 4 => .bar4
    | 5 => .config
    | _ => .other

/-- True while the port answers nothing but configuration requests (R308). -/
def State.retrying (s : State) : Bool := s.bringUp == 1 || s.resetDue

/-- True when some page of some context maps a frame of host memory as shared-coherent. -/
def State.cohHost (s : State) (line : Nat) : Bool := s.ctxs.any fun x => x.2.cohLine line

/-- A host port, as it stands. -/
def State.port (s : State) (port : Nat) : HostPort := (s.hostPorts.find? port).getD HostPort.fresh

/-- HOST_READ (R288, R300): by space, of at most 4,096 bytes; device memory is reached by CXL.mem alone. The host's own memory is
read after what the device holds of a shared-coherent line has come back (R307). -/
def execHostRead (port fn addr len : Nat) (s : State) (tagged : Bool := false) : Out :=
  let o := addr % regionSize
  let got (f : Nat → Byte) : Out := .next (s.send (.hostData fn addr ((List.range len).map fun i => f (o + i))))
  if (!(s.port port).up && s.bringUp == 0) || 4096 < len then .next s
  else
    match hostSpace addr with
    | .config => got (s.configByte fn)
    | sp =>
      if s.retrying then .next (s.send (.hostRetry fn addr))
      else
        match sp with
        | .device => .next (if (s.port port).cxl then s.hostReadDevice fn addr len tagged else s.send (.hostAbort fn addr))
        | .bar0 => if fn = 0 then got s.mailByte else .next (s.send (.hostAbort fn addr))
        | .bar2 => got fun _ => 0
        | .bar4 => if s.isL then got fun _ => 0 else .next (s.send (.hostAbort fn addr))
        | .outside key =>
          let ls := (hostLines key len).filter s.cohHost
          let s := s.evictAll fun k => ls.contains (copyLine k)
          if (hostLines key len).any s.poisoned then .next (s.send (.hostPoison fn addr))
          else .next (s.send (.hostData fn addr (s.readBytes key len)))
        | _ => .next (s.send (.hostAbort fn addr))

/-! ## Writes by the host (R240, R291, R293, R300) -/

/-- The share of a write that falls on one line, with the tags that go to the granules it writes. -/
def hostPiece (line addr : Nat) (data : List Byte) (tags : BitVec 8) : Copy :=
  let idx := (List.range 128).filter fun i => addr ≤ 128 * line + i && 128 * line + i < addr + data.length
  let dirty := BitVec.ofNat 128 (idx.foldl (fun a i => a + 2 ^ i) 0)
  maskedCopy dirty tags ((List.range 128).map fun i => data.getD (128 * line + i - addr) 0)

/-- A requester's write of a line: the other holders are snooped, its own copy needs none (R223). -/
def State.hostWriteLine (s : State) (fn line : Nat) (c : Copy) (bad : Bool) : State :=
  let old := s.sharers.getD line []
  let me := s.holderOf fn
  let s := { s with sharers := SMap.put [] s.sharers line (old.filter fun h => h != me) }
  let s := s.arriveWrite line c (s.cohFrame (line / 512)) bad
  if old.contains me then { s with sharers := SMap.put [] s.sharers line ((s.sharers.getD line []) ++ [me]) } else s

/-- Write device memory for a requester: lines that the firewall refuses are dropped, with a NOTICE, and those of a page on the
move are refused with MOVED (R199). Tags come from a Bilran H alone, to a Bilran L (R293). -/
def State.hostWriteDevice (s : State) (fn addr : Nat) (data : List Byte) (poison : Bool) (tags : Option (BitVec 8)) : State :=
  let ts := if s.isL then tags.getD 0 else 0
  (hostLines addr data.length).foldl (fun s l =>
    if !s.hostMay (l / 512) then s.notice l cFirewall 0 0
    else if s.movingFrame (l / 512) then s.send (.hostMoved fn (max addr (128 * l)))
    else s.hostWriteLine fn l (hostPiece l addr data ts) poison) s

/-- The command area as a command (R291). -/
def State.mailNow (s : State) : Nat × Mail :=
  let b := (List.range 64).map fun o => SMap.getD s.mailArea o 0
  let p (i : Nat) : Dword := BitVec.ofNat 64 (fieldAt b (8 + 8 * i) 8)
  (fieldAt b 0 2, ⟨BitVec.ofNat 16 (fieldAt b 2 2), BitVec.ofNat 32 (fieldAt b 4 4), p 0, p 1, p 2, p 3, p 4, p 5, p 6⟩)

/-- The command an OPCODE names (R292). DESIGN CHOICE, log entry 43. -/
def mailRun (op : Nat) (m : Mail) : State → Out :=
  match op with
  | 0x01 => execCtxCreate m
  | 0x02 => execCtxDestroy m
  | 0x03 => execCtxSave m
  | 0x04 => execCtxRestore m
  | 0x10 => execQueueCreate m
  | 0x11 => execQueueReset m
  | 0x12 => execQueueDestroy m
  | 0x18 => execNotifyStage1 m
  | 0x19 => execNotifyStage2 m
  | 0x1A => execFuncOwner m
  | 0x20 => execCapMint m
  | 0x21 => execCapClear m
  | 0x28 => execFrameGrant m
  | 0x29 => execFrameReclaim m
  | 0x2A => execQuotaSet m
  | 0x2B => execPageMap m
  | 0x2C => execRemoteGrant m
  | 0x2D => execPageState m
  | 0x30 => execPeerGrant m
  | 0x31 => execPeerRevoke m
  | 0x34 => execExtentBind m
  | 0x38 => execMigrate m
  | 0x40 => execFreeze m
  | 0x41 => mailContain m
  | 0x42 => execDelegate m
  | 0x43 => mailViral m
  | 0x48 => execOrrery m
  | 0x49 => execNocWeight m
  | 0x50 => execPartition m
  | 0x51 => execDebugState m
  | 0x52 => execDebugAccess m
  | 0x58 => execInject m
  | 0x60 => execReset m
  | _ => execMailboxMalformed (BitVec.ofNat 16 op) m

/-- A write to PF0's BAR0: the command area, and the doorbell, which submits it. -/
def State.mailWrite (s : State) (o : Nat) (data : List Byte) : Out :=
  let s := { s with mailArea := ((List.range data.length).zip data).foldl (fun m x =>
    if o + x.1 < 0x40 then SMap.put 0 m (o + x.1) x.2 else m) s.mailArea }
  if o < 0x84 ∧ 0x80 < o + data.length then mailRun s.mailNow.1 s.mailNow.2 s else .next s

/-- An outside agent's write to host or expander memory (R222, R277, R293): shared-coherent lines leave the device's caches first;
tags of written granules clear, the line's monitors wake, and a poisoned write leaves its lines poisoned. -/
def State.outsideWrite (s : State) (key : Nat) (data : List Byte) (poison : Bool) : State :=
  if key / regionSize = 0 ∨ 300 ≤ key / regionSize then s
  else
    let ls := hostLines key data.length
    let s := s.evictAll fun k => ls.contains (copyLine k) && s.cohHost (copyLine k)
    let s := s.homeWrite key data
    if poison then ls.foldl (fun s l => s.setPoison l true) s else s

/-- HOST_WRITE (R288, R300): by space, of at most 512 bytes; device memory is reached by CXL.mem alone. A write to the configuration space changes the function's configuration (R301).
DESIGN CHOICE, log entry 44. -/
def execHostWrite (port fn addr : Nat) (data : List Byte) (s : State) (poison : Bool := false)
    (tags : Option (BitVec 8) := none) : Out :=
  let o := addr % regionSize
  if (!(s.port port).up && s.bringUp == 0) || 512 < data.length then .next s
  else
    match hostSpace addr with
    | .config => .next (s.tdiError fun f => f == fn)
    | sp =>
      if s.retrying then .next (s.send (.hostRetry fn addr))
      else
        match sp with
        | .device => .next (if (s.port port).cxl then s.hostWriteDevice fn addr data poison tags else s)
        | .bar0 => if fn = 0 then s.mailWrite o data else .next s
        | .bar2 => .next (if data.length = 8 ∧ o % 8 = 0 ∧ o < 4096 then s.notify fn (o / 8) port else s)
        | .bar4 => .next (if s.isL ∧ o = 0 ∧ data.length = 128 then s.taskArrives fn data else s)
        | .outside key => .next (s.outsideWrite key data poison)
        | _ => .next s

/-! ## Attestation (R303, R304, R306) -/

/-- The partition whose state a report about a function gives: that of its context. -/
def State.partitionOf (s : State) (fn : Nat) : Nat :=
  ((List.find? (fun (x : Nat × Ctx) => x.2.function == fn) s.ctxs).map fun x => x.2.partition).getD 0

/-- POWER of a report (R303, R304): reset; off, once every cluster of the partition is off; gated, while its clock stands or none of
its clusters runs; else running. DESIGN CHOICE, log entry 51. -/
def State.powerCode (s : State) (part : Nat) : Nat :=
  let ps := (s.partClusters part).map fun c => s.clusterPower.getD c .running
  if s.bringUp = 1 ∨ s.resetDue then 3
  else if s.pstate = 1 ∨ (!ps.isEmpty && ps.all fun p => p == .off) then 2
  else if (SMap.find? s.partitions part).any (fun p => p.power == .gated) || (!ps.isEmpty && ps.all fun p => p != .running) then 1
  else 0

/-- The fields of a report (R303), in the order of their table. -/
def State.evidence (s : State) (fn : Nat) (nonce : BitVec 256) : List Nat :=
  let p := s.partitionOf fn
  let q := (SMap.find? s.partitions p).getD ⟨[], false, .locked, .running⟩
  [s.deviceInfo.toNat] ++ Config.firmware ++ ((List.range 80).map fun i => (s.clusterMap.getD i 0).toNat)
    ++ ((List.range 3).map fun i => (s.stestPass.getD i 0).toNat)
    ++ [p, if q.test then 1 else 0, match q.debug with | .locked => 0 | .tenant => 1 | .vendor => 2]
    ++ [if s.partitions.any fun x => x.2.debug != .locked then 1 else 0]
    ++ [fn, (match s.tdisp.getD fn .unlocked with | .unlocked => 0 | .run => 1 | .error => 2),
        if s.ctxs.any fun x => x.2.function == fn && x.2.confidential then 1 else 0]
    ++ [s.powerCode p, nonce.toNat]

/-- SPDM_REQUEST (R303, R304): evidence is the same from the always-on store, and asking for it changes no power state. -/
def execSpdmRequest (fn : Nat) (nonce : BitVec 256) (s : State) : Out :=
  .next (s.send (.report (s.evidence fn nonce) (Config.signature (s.evidence fn nonce))))

end Sys2Proof.Machine
end

