-- ==== Sys2Proof/Machine/Ksweep.lean ====
section
/-!
DEFINITION. Machine/Ksweep.lean: KSWEEP (R176, R383, R384).
-/

namespace Sys2Proof.Machine

/-- What one lane's KSWEEP may clear (R176, R384): nothing, or the granules of a part; and the capability it leaves.
DESIGN CHOICE, log entry 40. -/
def sweepPlan (s : State) (w : Who) (l : Nat) (k : Cap) : Except Stop (Option Part × Cap) :=
  let fault (code level : Nat) (malf : Bool) : Stop := .fault ⟨l, code, BitVec.ofNat 64 k.cur, true, malf, level⟩
  match s.resolve w l k k.cur 0 (permLoadCap + permStoreCap + permSys) 1 .update with
  | .error e => .error e
  | .ok _ =>
    match capDecode k, s.ctx? w.ctx with
    | some (_, top), some c =>
      let hi := min top ((k.cur / 65536 + 1) * 65536)
      if hi ≤ k.cur then .ok (none, k)
      else
        match capMove k hi with
        | .error e => .error (fault e 0 false)
        | .ok d =>
          match s.pagePart w c k.gen .update k.cur (hi - k.cur) with
          | .error (code, level, malf) => if code = cPage ∧ malf = false then .ok (none, d) else .error (fault code level malf)
          | .ok none => .error .wait
          | .ok (some p) => if p.fifo.isSome then .error (fault cAccess 0 false) else .ok (some p, d)
    | _, _ => .error (fault cPage 0 false)

/-- True when some entry of the context's revocation list is valid (R171). -/
def Ctx.lists (c : Ctx) : Bool := (List.range 32).any fun n => (c.revCtl.getD n 0).getLsbD 63

/-- The granules of a line that KSWEEP clears, of those wholly inside a part (R383, R384): the tagged ones that match the list, and
every tagged one of a line that is poisoned, or whose check fails as it is read. -/
def State.sweepHits (s : State) (c : Ctx) (p : Part) (line : Nat) : List Nat :=
  ((List.range 8).map fun g => 8 * line + g).filter fun g =>
    s.tagAt (16 * g) && p.key ≤ 16 * g && 16 * g + 16 ≤ p.key + p.len &&
      (s.checkBad line || s.poisoned line || c.stale? ⟨true, BitVec.ofNat 128 (natOfBytes (s.readBytes (16 * g) 16))⟩)

/-- The lines of a part with a tagged granule. -/
def State.taggedLines (s : State) (p : Part) : List Nat :=
  ((s.tags.map Prod.fst).filter fun g => p.key ≤ 16 * g && 16 * g + 16 ≤ p.key + p.len).map (fun g => g / 8) |>.dedup

/-- Clear them: each clearing is a write performed at the home that changes the granule's tag only (R166, R256, R274). The line is
used for context `ctx` (R283). -/
def State.sweepLine (s : State) (ctx : Nat) (c : Ctx) (p : Part) (line : Nat) : State :=
  let s := s.injectRead ctx line
  let hits := s.sweepHits c p line
  let s := if s.checkBad line then s.failNotice line else s
  hits.foldl (fun (s : State) g =>
    let m : BitVec 128 := BitVec.ofNat 128 (65535 * 2 ^ (16 * (g % 8)))
    s.homeMerge line ⟨(s.homeCopy line).data, m, m, 0, []⟩) s

/-- The lines of a part come home before it is swept: from the issuing cluster, and on a shared-coherent page from every
cluster (R203, R222). -/
def State.sweepHome (s : State) (w : Who) (p : Part) : State :=
  let lines := linesOf p.key p.len
  s.evictAll fun k => lines.contains (copyLine k) && (p.coh || copyCluster k == w.cluster)

/-- The lines a sweep writes that another agent holds: it is snooped first (R222, R223). -/
def State.sweepShared (s : State) (c : Ctx) (p : Part) : List Nat :=
  if p.coh then (s.taggedLines p).filter fun line => !(s.sharers.getD line []).isEmpty && !(s.sweepHits c p line).isEmpty else []

/-- KSWEEP (R176, R383, R384): ordered as a store of the granules it clears (R204). -/
def execKsweep (lane : Bool) (d a la : Nat) (s : State) : Out :=
  let i := Instr.ksweep lane d a la
  issue i s fun s =>
    if s.speculative then park s
    else
      let t := s.team
      let w := s.who
      let lanes := if lane then (List.range t.width).filter t.selected else [0]
      let plans := lanes.map fun l => (l, sweepPlan s w l (t.getK a l))
      let ps : List Plan := plans.map fun x => ⟨x.1, (t.getK a x.1).cur, x.2.map fun y => y.1.toList, []⟩
      withPlans ps true s fun s =>
        let parts := ps.flatMap Plan.parts
        let s := parts.foldl (fun s p => (s.touch w .update [p]).sweepHome w p) s
        let c := (s.ctx? t.ctx).filter Ctx.lists
        match s.recallLines (c.elim [] fun c => (parts.flatMap (s.sweepShared c)).dedup) with
        | some s' => retry s'
        | none =>
          let s := c.elim s fun c => parts.foldl (fun s p => (s.taggedLines p).foldl (fun s line => s.sweepLine t.ctx c p line) s) s
          let faults := ps.filterMap Plan.fault?
          let val (l : Nat) : Option Cap := plans.findSome? fun (m, p) =>
            if m = l then (match p with | .ok (_, k) => some k | _ => none) else none
          let insn := insnOf i
          if faults.isEmpty then
            let dest := if lane then Dest.q (d - 16) ((List.range t.width).map val) else Dest.c d (val 0)
            .next (s.setTeam fun t => t.launchPending la [dest] 0 [] insn)
          else
            let s := s.setTeam fun t => if lane then t.setQ (d - 16) val else t
            .next (faultTrap i (!lane) faults s)

end Sys2Proof.Machine
end

