-- ==== Sys2Proof/Machine/Lane.lean ====
section
/-!
DEFINITION. Machine/Lane.lean: SETMODE and SETFMT, the predicate instructions, and the lane exchanges and votes (R102,
R407, R413, R421, R422, R440).
-/

namespace Sys2Proof.Machine

/-- SETMODE (R421): FORMAT where MODE could not hold the value (R86). -/
def execSetmode (b : Nat) (s : State) : Out :=
  issue (.setmode b) s fun s =>
    let x : Word := (s.team.sBz b).setWidth 32
    if modeLegal x then done (fun t => { t with mode := x }) s else trapWith cFormat (.setmode b) s

/-- SETFMT (R421). -/
def execSetfmt (b : Nat) (s : State) : Out :=
  issue (.setfmt b) s fun s =>
    let x : Word := (s.team.sBz b).setWidth 32
    if fmtLegal x then done (fun t => { t with fmt := x }) s else trapWith cFormat (.setfmt b) s

/-- A predicate operation: its result in each selected lane (R407). -/
def predOp (i : Instr) (d : Nat) (f : Team → Nat → Bool) (s : State) : Out :=
  issue i s (done fun t => t.setP d t.selMask (f t))

/-- PAND (R407). -/
def execPand (d a b : Nat) (s : State) : Out := predOp (.pand d a b) d (fun t l => t.getP a l && t.getP b l) s
/-- POR (R407). -/
def execPor (d a b : Nat) (s : State) : Out := predOp (.por d a b) d (fun t l => t.getP a l || t.getP b l) s
/-- PXOR (R407). -/
def execPxor (d a b : Nat) (s : State) : Out := predOp (.pxor d a b) d (fun t l => t.getP a l != t.getP b l) s
/-- PNOT (R407). -/
def execPnot (d a : Nat) (s : State) : Out := predOp (.pnot d a) d (fun t l => !t.getP a l) s

/-- RFL (R413): the first selected lane's value; sD is unchanged when no lane is selected. -/
def execRfl (d a : Nat) (wide : Bool) (s : State) : Out :=
  issue (.rflLane d a wide) s (done fun t =>
    match (List.range t.width).find? t.selected with
    | some l => t.setS d (if wide then t.getV64 a l else (t.getV a l).setWidth 64)
    | none => t)

/-- SHFL (R422): `src` finds the source lane as an exact integer; a lane without a valid source keeps its own A. -/
def shfl (i : Instr) (d a b : Nat) (src : Nat → Nat → Int) (s : State) : Out :=
  issue i s (done fun t => t.setV d fun l =>
    if t.selected l then
      let x := src l (t.vB b l).toNat
      some (if 0 ≤ x && x < t.width && t.active.getLsbD x.toNat then t.vA a x.toNat else t.vA a l)
    else none)

/-- SHFL_IDX (R422). -/
def execShflIdx (d a b : Nat) (s : State) : Out := shfl (.shflIdx d a b) d a b (fun _ n => (n : Int)) s
/-- SHFL_UP (R422). -/
def execShflUp (d a b : Nat) (s : State) : Out := shfl (.shflUp d a b) d a b (fun l n => (l : Int) - n) s
/-- SHFL_DOWN (R422). -/
def execShflDown (d a b : Nat) (s : State) : Out := shfl (.shflDown d a b) d a b (fun l n => (l : Int) + n) s
/-- SHFL_XOR (R422). -/
def execShflXor (d a b : Nat) (s : State) : Out := shfl (.shflXor d a b) d a b (fun l n => ((l ^^^ n : Nat) : Int)) s

/-- Selected lanes on which predicate `p` holds. -/
def Team.hits (t : Team) (p : Nat) : Nat := ((List.range t.width).filter fun l => t.selected l && t.getP p l).length

/-- VOTE_ANY (R440). -/
def execVoteAny (d a : Nat) (s : State) : Out :=
  issue (.voteAny d a) s (done fun t => t.setS d (if t.vote false a then 1 else 0))
/-- VOTE_ALL (R440). -/
def execVoteAll (d a : Nat) (s : State) : Out :=
  issue (.voteAll d a) s (done fun t => t.setS d (if t.vote true a then 1 else 0))
/-- VOTE_COUNT (R440). -/
def execVoteCount (d a : Nat) (s : State) : Out :=
  issue (.voteCount d a) s (done fun t => t.setS d (BitVec.ofNat 64 (t.hits a)))

end Sys2Proof.Machine
end

