-- ==== Sys2Proof/Machine/Pfx.lean ====
section
/-!
DEFINITION. Machine/Pfx.lean: the two prefixes (R76 to R78). A prefix leaves its value with the team for the one
instruction that follows it in the same step; the team's latch is empty between steps.
-/

namespace Sys2Proof.Machine

/-- IMM (R361, R76, R78): a second one in a group raises PREFIX at the first prefix. -/
def execImm (p : Nat) (s : State) : Out :=
  match s.team.latch.imm with
  | some _ => trapWith cPrefix (.imm p) s
  | none => .next (s.setTeam fun t => { t with latch := { t.latch with imm := some p, words := t.latch.words + 1 } })

/-- UNI (R438, R76, R78): a second one in a group raises PREFIX at the first prefix. -/
def execUni (r : Nat) (s : State) : Out :=
  match s.team.latch.uni with
  | some _ => trapWith cPrefix (.uni r) s
  | none => .next (s.setTeam fun t => { t with latch := { t.latch with uni := some r, words := t.latch.words + 1 } })

end Sys2Proof.Machine
end

