-- ==== Sys2Proof/Machine/Power.lean ====
section
/-!
DEFINITION. Machine/Power.lean: bring-up and warm reset (R3, R18 to R20, R284, R289, R308, R309) and the power states of
partitions, clusters and the device (R306, R307).
-/

namespace Sys2Proof.Machine

/-! ## Repair (R18, R19, R20) -/

/-- The mainline row east of which each spare lies (R18). -/
def spareRow : Nat → Nat
  | 0 => 1 | 1 => 3 | 2 => 6 | _ => 8

/-- Network hops from a mainline cluster's position to a spare (R19). -/
def spareHops (i sp : Nat) : Nat :=
  let away (a b : Nat) : Nat := max a b - min a b
  away (i % 8) 7 + away (i / 8) (spareRow sp) + 1

/-- The nearest of the candidate spares, the lowest number winning a tie. -/
def nearest (i : Nat) : List Nat → Option Nat
  | [] => none
  | a :: rest =>
    match nearest i rest with
    | none => some a
    | some b => if spareHops i a ≤ spareHops i b then some a else some b

/-- Serve failed mainline clusters in ascending order from the spares that passed: logical cluster and spare. None when the
spares run out. -/
def repair : List Nat → List Nat → Option (List (Nat × Nat))
  | [], _ => some []
  | i :: rest, spares =>
    match nearest i spares with
    | none => none
    | some a => (repair rest (spares.filter fun b => b != a)).map fun xs => (i, a) :: xs

/-- The repair that a list of failed physical clusters calls for. -/
def repairFor (failed : List Nat) : Option (List (Nat × Nat)) :=
  repair ((List.range 80).filter failed.contains) ((List.range 4).filter fun a => !failed.contains (80 + a))

/-- CLUSTER_MAP of a logical cluster (R20). -/
def mapWord (fix : List (Nat × Nat)) (i : Nat) : Word :=
  match fix.find? fun x => x.1 == i with
  | some x => BitVec.ofNat 32 (2 ^ 31 + 80 + x.2)
  | none => BitVec.ofNat 32 i

/-- Self-test pass bits (R284): which home slice failed is left open. -/
def passBits (failed : List Nat) (homes : Nat) : SMap Dword :=
  let bits (lo n : Nat) : Nat := (List.range n).foldl (fun a i => if failed.contains (lo + i) then a else a + 2 ^ i) 0
  ((SMap.put 0 [] 0 (BitVec.ofNat 64 (bits 0 64))).put 0 1 (BitVec.ofNat 64 (bits 64 20))).put 0 2 (BitVec.ofNat 64 homes)

/-! ## Warm reset and bring-up (R307 to R309) -/

/-- What a warm reset leaves (R308, R309): contexts, keys and everything of the device's own goes; host and expander memory, which
expanders are attached or lost and what they have released, the fitting of the part and what has been sent stay. DESIGN CHOICE, log entry 50. -/
def State.warmReset (s : State) : State :=
  let away (d : Nat) (k : Nat) : Bool := 1 ≤ k * d / regionSize && k * d / regionSize < 300
  { State.reset with
    agenda := s.agenda, oracle := s.oracle, mem := s.mem.filter fun x => away 1 x.1, tags := s.tags.filter fun x => away 16 x.1,
    poison := s.poison.filter fun x => away 128 x.1, checkErr := s.checkErr.filter fun x => away 128 x.1,
    expAttached := s.expAttached, expLost := s.expLost, expReleased := s.expReleased,
    deviceInfo := s.deviceInfo &&& 0xFFFFF0FF, out := s.out }

/-- Host ports as links train in bring-up (R308 step 4): at which of the supported rates and widths is left open. -/
def State.trainPorts (s : State) : State :=
  let pick (k : Nat) (xs : List Nat) : Nat := xs.getD (Config.freeNat s.oracle (2 ^ 77 + k) % xs.length) 0
  let one (k : Nat) : HostPort := ⟨true, pick (2 * k) [25, 50, 80, 160, 320, 640], pick (2 * k + 1) [4, 8, 16], false, false⟩
  { s.tick with hostPorts := [(0, one 0), (1, one 1)] }

/-- Fabric ports as links train in bring-up, with their keys agreed (R308 step 4, R295): which of them have a link, to which device and
over what distance is left open; a device alone has none. -/
def State.trainFabric (s : State) (domain : Nat) : SMap FabPort :=
  if domain ≤ 1 then []
  else (List.range 128).filterMap fun k =>
    let free (j : Nat) : Nat := Config.freeNat s.oracle (2 ^ 105 + 4 * k + j)
    if free 0 % 2 = 0 then none else some (k, FabPort.trained none (free 1 % 8192) (free 2))

/-- BRING_UP (R308): the signature, self-test and repair, then the links; the first failure is the final status (R309). The
device's number in its domain, the domain's size and its lowest number, its fabric links, and the frames firmware keeps for tables are left open;
the drain mode goes by the size (R226). DESIGN CHOICE, log entry 49. -/
def execBringUp (signatureOk : Bool) (failed : List Nat) (homesOk memoryOk : Bool) (s : State) : Out :=
  if s.bringUp ≠ 1 ∧ !s.resetDue then .next s
  else
    let s := s.warmReset
    if !signatureOk then .next { s with bringUp := 2 }
    else
      let k := s.oracle
      let some64 := Config.freeNat k (2 ^ 78) % (2 ^ 64 - 1)
      let s := { s.tick with stestPass := passBits failed (if homesOk then 2 ^ 64 - 1 else some64) }
      match repairFor failed with
      | none => .next { s with bringUp := 3 }
      | some fix =>
        let s := { s with
          clusterMap := (List.range 80).map fun i => (i, mapWord fix i),
          deviceInfo := s.deviceInfo ||| BitVec.ofNat 32 (256 * fix.length) }
        if !homesOk then .next { s with bringUp := 4 }
        else if !memoryOk then .next { s with bringUp := 5 }
        else
          let free (i : Nat) : Nat := Config.freeNat k (2 ^ 78 + i)
          let domain := free 3 % 8192 + 1
          let fs := (List.range (free 2 % 1048576)).map fun i => (free 5 + i) % s.localFrames
          .next { s.trainPorts with
            ports := s.trainFabric domain, bringUp := 0, deviceNumber := free 1 % 8192, domain := domain, domainRoot := free 4 % (free 1 % 8192 + 1),
            phaseAck := decide (64 < domain),
            tableFree := fs.flatMap fun f => (List.range 4).map fun i => 4 * f + i,
            owner := fs.foldl (fun m f => SMap.put 0 m f 257) s.owner }

/-! ## Power (R306, R307) -/

/-- Shared-coherent lines of any context. -/
def State.cohAny (s : State) (line : Nat) : Bool := s.ctxs.any fun x => x.2.cohLine line

/-- True when a core of a cluster has a workgroup in a slot. -/
def State.slotted (s : State) (cl : Nat) (issuing : Bool) : Bool :=
  (coresOf cl).any fun c => if issuing then (s.core c).issuing.isSome else (s.core c).issuing.isSome || (s.core c).shadow.isSome

/-- CLUSTER_RETENTION (R306, R307): with no issuing workgroup; shared-coherent lines are written back first, and SRAM and shadow
slots keep what they hold. -/
def execClusterRetention (cl : Nat) (s : State) : Out :=
  if 79 < cl || s.clusterPower.getD cl .running != .running || s.slotted cl true then .next s
  else
    let s := s.writeBackAll fun k => copyCluster k == cl && s.cohAny (copyLine k)
    .next { s with clusterPower := SMap.put .running s.clusterPower cl .retention }

/-- The gangs with a workgroup in a slot of a cluster. -/
def State.gangsIn (s : State) (cl : Nat) : List Gang :=
  s.gangs.filter fun g => g.phase != .streamed && g.cores.any fun c => clusterOf c == cl

/-- The clusters that a request to turn off names: one, or with 80 every one of the device. -/
def closingClusters (cl : Nat) : List Nat := if cl = 80 then List.range 80 else [cl]

/-- Clusters that no gang stands on go off (R306): what their banks cache goes home, and their shadow banks are withdrawn (R254); with
the device all modified shared-coherent lines are written back (R307). -/
def State.powerOff (s : State) (cl : Nat) : State :=
  let cls := closingClusters cl
  let s := (cls.flatMap coresOf).foldl (fun s k => s.returnBanks k 4) (s.evictAll fun k => cls.contains (copyCluster k))
  let s := { s with closing := s.closing.filter fun c => c != cl,
                    clusterPower := cls.foldl (fun m c => SMap.put .running m c .off) s.clusterPower }
  if cl = 80 then { (s.writeBackAll fun k => s.cohAny (copyLine k)) with pstate := if s.pstate = 2 then 2 else 1 } else s

/-- Turn clusters off (R306): their workgroups stream out first, so their gangs are suspended; the clusters go off once none stands
there. A frozen gang keeps its cores (R269), and powering down discards no speculation (R258): where one stands, or a gang streams in,
the request lapses. The Transit pair suspends nothing while it stands (R34). DESIGN CHOICE, log entry 104. -/
def State.turnOff (s : State) (cl : Nat) : State :=
  let gs := (closingClusters cl).flatMap s.gangsIn
  let rest := s.closing.filter fun c => c != cl
  if gs.isEmpty then s.powerOff cl
  else if s.transitStopped then { s with closing := rest ++ [cl] }
  else if gs.any fun g => g.phase == .entering || g.spec.isSome || (s.ctx? g.ctx).any Ctx.frozen then { s with closing := rest }
  else
    let out (g : Gang) : Bool := gs.any (fun x => x.ticket == g.ticket) && g.phase != .leaving
    { s with
      gangs := s.gangs.map fun (g : Gang) => if out g then
        { g with phase := GangPhase.leaving, since := if g.phase = .shadow then g.since else s.nextOrder } else g,
      nextOrder := s.nextOrder + 1, closing := rest ++ [cl] }

/-- Clusters on their way off that no gang stands on any more go off. -/
def State.finishClosing (s : State) : State :=
  match s.closing with
  | [] => s
  | cls => cls.foldl (fun s cl => if ((closingClusters cl).flatMap s.gangsIn).isEmpty then s.powerOff cl else s) s

/-- TRANSIT_RESTART (R34): from the last committed state, which every completed step is part of. The choices that waited are carried
out, and the gangs of contexts being saved and of clusters on their way off leave. -/
def execTransitRestart (s : State) : Out :=
  let held := s.chosen
  let s := { s with transitStopped := false, chosen := [] }
  let s := held.foldl (fun s x => if s.choiceRefused x.1 x.2 then s else s.choose x.1 x.2) s
  let s := (s.ctxs.filter fun x => x.2.saving).foldl (fun s x => s.leaveAll x.1) s
  .next (s.closing.foldl State.turnOff s)

/-- CLUSTER_OFF (R306). -/
def execClusterOff (cl : Nat) (s : State) : Out := .next (if 79 < cl then s else s.turnOff cl)

/-- DEVICE_IDLE (R306, R307): every cluster off, and then every modified shared-coherent line written back. -/
def execDeviceIdle (s : State) : Out := .next (s.turnOff 80)

/-- WAKE (R306): a partition's clock and clusters run again, what was to be turned off of them stays on, and the device leaves its
idle state. -/
def execWake (part : Nat) (s : State) : Out :=
  let cls := s.partClusters part
  .next { s with
    partitions := s.partitions.modify part fun p => { p with power := .running },
    clusterPower := s.clusterPower.filter fun x => !cls.contains x.1,
    closing := s.closing.filter fun c => c != 80 && !cls.contains c,
    pstate := if s.pstate = 1 then 0 else s.pstate }

/-- CLOCK_GATING (R306): the partition's clock stops, with its state kept. DESIGN CHOICE, log entry 51. -/
def execClockGating (part : Nat) (s : State) : Out :=
  .next { s with partitions := s.partitions.modify part fun p => if p.power = .running then { p with power := .gated } else p }

end Sys2Proof.Machine
end

