-- ==== Sys2Proof/Machine/VecInt.lean ====
section
/-!
DEFINITION. Machine/VecInt.lean: the vector integer instructions (R103, R104, R125, R311 and the entries it names). Each
operation is one function on N-bit values, N = 32 or 64, applied in every selected lane.
-/

namespace Sys2Proof.Machine

/-! ## The operations on N-bit values -/

/-- The high N bits of the 2N-bit signed product (R364). -/
def mulhS {n : Nat} (a b : BitVec n) : BitVec n := BitVec.ofInt n (a.toInt * b.toInt / 2 ^ n)
/-- The high N bits of the unsigned product (R364). -/
def mulhU {n : Nat} (a b : BitVec n) : BitVec n := BitVec.ofNat n (a.toNat * b.toNat / 2 ^ n)
def minS {n : Nat} (a b : BitVec n) : BitVec n := if a.toInt ≤ b.toInt then a else b
def minU {n : Nat} (a b : BitVec n) : BitVec n := if a.toNat ≤ b.toNat then a else b
def maxS {n : Nat} (a b : BitVec n) : BitVec n := if b.toInt ≤ a.toInt then a else b
def maxU {n : Nat} (a b : BitVec n) : BitVec n := if b.toNat ≤ a.toNat then a else b
/-- IABS (R355): the most negative value is returned unchanged. -/
def absI {n : Nat} (a : BitVec n) : BitVec n := BitVec.ofInt n a.toInt.natAbs
/-- The shift count: B[7:0] (R423). -/
def shiftCount {n : Nat} (b : BitVec n) : Nat := b.toNat % 256
/-- SHL, SHR, SAR (R423, R417): a count of N or more shifts every bit out. -/
def shlI {n : Nat} (a b : BitVec n) : BitVec n := if n ≤ shiftCount b then 0 else a <<< shiftCount b
def shrI {n : Nat} (a b : BitVec n) : BitVec n := if n ≤ shiftCount b then 0 else a >>> shiftCount b
def sarI {n : Nat} (a b : BitVec n) : BitVec n :=
  if n ≤ shiftCount b then (if a.msb then BitVec.allOnes n else 0) else a.sshiftRight (shiftCount b)
/-- A field's pos = B[7:0] and len = B[15:8], at most N (R316). -/
def fieldPos {n : Nat} (b : BitVec n) : Nat := b.toNat % 256
def fieldLen {n : Nat} (b : BitVec n) : Nat := min (b.toNat / 256 % 256) n
/-- BFX (R317). -/
def bfxI {n : Nat} (signed : Bool) (a b : BitVec n) : BitVec n :=
  let len := fieldLen b
  let field := a.toNat / 2 ^ fieldPos b % 2 ^ len
  if signed && 0 < len && 2 ^ (len - 1) ≤ field then BitVec.ofInt n ((field : Int) - 2 ^ len) else BitVec.ofNat n field
/-- BFI (R316). -/
def bfiI {n : Nat} (d a b : BitVec n) : BitVec n :=
  let mask := BitVec.ofNat n ((2 ^ fieldLen b - 1) * 2 ^ fieldPos b)
  (d &&& ~~~mask) ||| (BitVec.ofNat n (a.toNat * 2 ^ fieldPos b) &&& mask)
/-- The number of set bits (R409). -/
def popCount {n : Nat} (a : BitVec n) : BitVec n :=
  BitVec.ofNat n ((List.range n).filter fun i => a.getLsbD i).length
/-- The number of leading zero bits; N for zero (R325). -/
def leadZeros {n : Nat} (a : BitVec n) : BitVec n :=
  BitVec.ofNat n (((List.range n).find? fun i => a.getLsbD (n - 1 - i)).getD n)
/-- The ten conditions (R104). -/
def condHolds {n : Nat} (a b : BitVec n) : Cond → Bool
  | .eq => a == b | .ne => a != b
  | .lt => a.toInt < b.toInt | .le => a.toInt ≤ b.toInt | .gt => b.toInt < a.toInt | .ge => b.toInt ≤ a.toInt
  | .ltu => a.toNat < b.toNat | .leu => a.toNat ≤ b.toNat | .gtu => b.toNat < a.toNat | .geu => b.toNat ≤ a.toNat

/-! ## The operand forms -/

/-- Write `f` into the selected lanes of a 32-bit destination. -/
def Team.laneOp (t : Team) (d : Nat) (f : Nat → Word) : Team :=
  t.setV d fun l => if t.selected l then some (f l) else none
/-- The same for a pair. -/
def Team.laneOp64 (t : Team) (d : Nat) (f : Nat → Dword) : Team :=
  t.setV64 d fun l => if t.selected l then some (f l) else none

/-- A binary operation `D := op A B` (R311), 32 or 64 bits wide. -/
def binary (i : Instr) (wide : Bool) (d a b : Nat) (f : {n : Nat} → BitVec n → BitVec n → BitVec n) (s : State) : Out :=
  issue i s (done fun t =>
    if wide then t.laneOp64 d fun l => f (t.vA64 a l) (t.vB64 b l) else t.laneOp d fun l => f (t.vA a l) (t.vB b l))

/-- A binary operation that reads D as well. -/
def ternary (i : Instr) (wide : Bool) (d a b : Nat) (f : {n : Nat} → BitVec n → BitVec n → BitVec n → BitVec n)
    (s : State) : Out :=
  issue i s (done fun t =>
    if wide then t.laneOp64 d fun l => f (t.getV64 d l) (t.vA64 a l) (t.vB64 b l)
    else t.laneOp d fun l => f (t.getV d l) (t.vA a l) (t.vB b l))

/-- A unary operation. -/
def unary (i : Instr) (wide : Bool) (d a : Nat) (f : {n : Nat} → BitVec n → BitVec n) (s : State) : Out :=
  issue i s (done fun t =>
    if wide then t.laneOp64 d fun l => f (t.getV64 a l) else t.laneOp d fun l => f (t.getV a l))

/-- A short-immediate operation: IMM12 sign-extended to 32 bits (R311). -/
def shortImm (i : Instr) (d a : Nat) (k : Int) (f : {n : Nat} → BitVec n → BitVec n → BitVec n) (s : State) : Out :=
  issue i s (done fun t => t.laneOp d fun l => f (t.getV a l) (BitVec.ofInt 32 k))

/-! ## The instructions -/

/-- IADD (R356). -/
def execIadd (w : Bool) (d a b : Nat) (s : State) : Out := binary (.iadd w d a b) w d a b (fun x y => x + y) s
/-- IADD_I (R356). -/
def execIaddI (d a : Nat) (k : Int) (s : State) : Out := shortImm (.iaddI d a k) d a k (fun x y => x + y) s
/-- ISUB (R367). -/
def execIsub (w : Bool) (d a b : Nat) (s : State) : Out := binary (.isub w d a b) w d a b (fun x y => x - y) s
/-- IMUL (R363). -/
def execImul (w : Bool) (d a b : Nat) (s : State) : Out := binary (.imul w d a b) w d a b (fun x y => x * y) s
/-- IMUL_I (R363). -/
def execImulI (d a : Nat) (k : Int) (s : State) : Out := shortImm (.imulI d a k) d a k (fun x y => x * y) s
/-- IMULH (R364). -/
def execImulh (w : Bool) (d a b : Nat) (s : State) : Out := binary (.imulh w d a b) w d a b mulhS s
/-- IMULH_UNSIGNED (R364). -/
def execImulhUnsigned (w : Bool) (d a b : Nat) (s : State) : Out := binary (.imulhUnsigned w d a b) w d a b mulhU s
/-- IMAD (R358). -/
def execImad (w : Bool) (d a b : Nat) (s : State) : Out :=
  ternary (.imad w d a b) w d a b (fun z x y => x * y + z) s
/-- IMIN (R360). -/
def execImin (w : Bool) (d a b : Nat) (u : Bool) (s : State) : Out :=
  binary (.imin w d a b u) w d a b (fun x y => if u then minU x y else minS x y) s
/-- IMAX (R359). -/
def execImax (w : Bool) (d a b : Nat) (u : Bool) (s : State) : Out :=
  binary (.imax w d a b u) w d a b (fun x y => if u then maxU x y else maxS x y) s
/-- IABS (R355). -/
def execIabs (w : Bool) (d a : Nat) (s : State) : Out := unary (.iabs w d a) w d a absI s
/-- AND (R313). -/
def execAnd (w : Bool) (d a b : Nat) (s : State) : Out := binary (.and w d a b) w d a b (fun x y => x &&& y) s
/-- AND_I (R313). -/
def execAndI (d a : Nat) (k : Int) (s : State) : Out := shortImm (.andI d a k) d a k (fun x y => x &&& y) s
/-- ANDN (R313). -/
def execAndn (w : Bool) (d a b : Nat) (s : State) : Out := binary (.andn w d a b) w d a b (fun x y => x &&& ~~~y) s
/-- OR (R406). -/
def execOr (w : Bool) (d a b : Nat) (s : State) : Out := binary (.or w d a b) w d a b (fun x y => x ||| y) s
/-- OR_I (R406). -/
def execOrI (d a : Nat) (k : Int) (s : State) : Out := shortImm (.orI d a k) d a k (fun x y => x ||| y) s
/-- XOR (R441). -/
def execXor (w : Bool) (d a b : Nat) (s : State) : Out := binary (.xor w d a b) w d a b (fun x y => x ^^^ y) s
/-- XOR_I (R441). -/
def execXorI (d a : Nat) (k : Int) (s : State) : Out := shortImm (.xorI d a k) d a k (fun x y => x ^^^ y) s
/-- SHL (R423). -/
def execShl (w : Bool) (d a b : Nat) (s : State) : Out := binary (.shl w d a b) w d a b shlI s
/-- SHL_I (R423). -/
def execShlI (d a : Nat) (k : Int) (s : State) : Out := shortImm (.shlI d a k) d a k shlI s
/-- SHR (R423). -/
def execShr (w : Bool) (d a b : Nat) (s : State) : Out := binary (.shr w d a b) w d a b shrI s
/-- SHR_I (R423). -/
def execShrI (d a : Nat) (k : Int) (s : State) : Out := shortImm (.shrI d a k) d a k shrI s
/-- SAR (R417). -/
def execSar (w : Bool) (d a b : Nat) (s : State) : Out := binary (.sar w d a b) w d a b sarI s
/-- SAR_I (R417). -/
def execSarI (d a : Nat) (k : Int) (s : State) : Out := shortImm (.sarI d a k) d a k sarI s
/-- BFX (R317). -/
def execBfx (w : Bool) (d a b : Nat) (u : Bool) (s : State) : Out :=
  binary (.bfx w d a b u) w d a b (fun x y => bfxI (!u) x y) s
/-- BFI (R316). -/
def execBfi (w : Bool) (d a b : Nat) (s : State) : Out := ternary (.bfi w d a b) w d a b bfiI s
/-- POPC (R409). -/
def execPopc (w : Bool) (d a : Nat) (s : State) : Out := unary (.popc w d a) w d a popCount s
/-- CLZ (R325). -/
def execClz (w : Bool) (d a : Nat) (s : State) : Out := unary (.clz w d a) w d a leadZeros s

/-- MOV (R401): B, from the register, an IMM or a UNI prefix. -/
def execMov (w : Bool) (d b : Nat) (s : State) : Out :=
  issue (.mov w d b) s (done fun t => if w then t.laneOp64 d (t.vB64 b) else t.laneOp d (t.vB b))
/-- MOVI (R402). -/
def execMovi (d : Nat) (k : Int) (s : State) : Out :=
  issue (.movi d k) s (done fun t => t.laneOp d fun _ => BitVec.ofInt 32 k)

/-- ICMP (R357). -/
def execIcmp (w : Bool) (d a b : Nat) (c : Cond) (s : State) : Out :=
  issue (.icmp w d a b c) s (done fun t => t.setP d t.selMask fun l =>
    if w then condHolds (t.vA64 a l) (t.vB64 b l) c else condHolds (t.vA a l) (t.vB b l) c)

/-- SEL (R420). -/
def execSel (d a b : Nat) (w neg : Bool) (p : Nat) (s : State) : Out :=
  issue (.sel d a b w neg p) s (done fun t =>
    if w then t.laneOp64 d fun l => if t.getP p l != neg then t.vA64 a l else t.vB64 b l
    else t.laneOp d fun l => if t.getP p l != neg then t.vA a l else t.vB b l)

end Sys2Proof.Machine
end

