-- ==== Sys2Proof/Machine/UniInt.lean ====
section
/-!
DEFINITION. Machine/UniInt.lean: the uniform integer instructions (R103, R387, R415 to R419, R424 to R426).
-/

namespace Sys2Proof.Machine

/-- A uniform binary operation (R387): 64 bits, or 32 bits of each operand with the result sign-extended (R83). -/
def uBinary (i : Instr) (wide : Bool) (d a b : Nat) (f : {n : Nat} → BitVec n → BitVec n → BitVec n) (s : State) : Out :=
  issue i s (done fun t =>
    t.setS d (if wide then f (t.getS a) (t.sB b)
      else (f ((t.getS a).setWidth 32) ((t.sB b).setWidth 32)).signExtend 64))

/-- A short-immediate uniform operation: always 64 bits (R387). -/
def uShort (i : Instr) (d a : Nat) (k : Int) (f : {n : Nat} → BitVec n → BitVec n → BitVec n) (s : State) : Out :=
  issue i s (done fun t => t.setS d (f (t.getS a) (BitVec.ofInt 64 k)))

/-- SADD (R415). -/
def execSadd (w : Bool) (d a b : Nat) (s : State) : Out := uBinary (.sadd w d a b) w d a b (fun x y => x + y) s
/-- SADD_I (R415). -/
def execSaddI (d a : Nat) (k : Int) (s : State) : Out := uShort (.saddI d a k) d a k (fun x y => x + y) s
/-- SSUB (R424). -/
def execSsub (w : Bool) (d a b : Nat) (s : State) : Out := uBinary (.ssub w d a b) w d a b (fun x y => x - y) s
/-- SMUL (R424). -/
def execSmul (w : Bool) (d a b : Nat) (s : State) : Out := uBinary (.smul w d a b) w d a b (fun x y => x * y) s
/-- SMUL_I (R424). -/
def execSmulI (d a : Nat) (k : Int) (s : State) : Out := uShort (.smulI d a k) d a k (fun x y => x * y) s
/-- SMULH (R424). -/
def execSmulh (w : Bool) (d a b : Nat) (s : State) : Out := uBinary (.smulh w d a b) w d a b mulhS s
/-- SMULH_UNSIGNED (R424). -/
def execSmulhUnsigned (w : Bool) (d a b : Nat) (s : State) : Out := uBinary (.smulhUnsigned w d a b) w d a b mulhU s

/-- SMAD (R424): D := A·B + D. -/
def execSmad (w : Bool) (d a b : Nat) (s : State) : Out :=
  issue (.smad w d a b) s (done fun t =>
    let x := t.getS a * t.sB b + t.getS d
    t.setS d (if w then x else (x.setWidth 32).signExtend 64))

/-- SMIN (R424). -/
def execSmin (w : Bool) (d a b : Nat) (u : Bool) (s : State) : Out :=
  uBinary (.smin w d a b u) w d a b (fun x y => if u then minU x y else minS x y) s
/-- SMAX (R424). -/
def execSmax (w : Bool) (d a b : Nat) (u : Bool) (s : State) : Out :=
  uBinary (.smax w d a b u) w d a b (fun x y => if u then maxU x y else maxS x y) s
/-- SAND (R416). -/
def execSand (w : Bool) (d a b : Nat) (s : State) : Out := uBinary (.sand w d a b) w d a b (fun x y => x &&& y) s
/-- SAND_I (R416). -/
def execSandI (d a : Nat) (k : Int) (s : State) : Out := uShort (.sandI d a k) d a k (fun x y => x &&& y) s
/-- SOR (R424). -/
def execSor (w : Bool) (d a b : Nat) (s : State) : Out := uBinary (.sor w d a b) w d a b (fun x y => x ||| y) s
/-- SOR_I (R424). -/
def execSorI (d a : Nat) (k : Int) (s : State) : Out := uShort (.sorI d a k) d a k (fun x y => x ||| y) s
/-- SXOR (R424). -/
def execSxor (w : Bool) (d a b : Nat) (s : State) : Out := uBinary (.sxor w d a b) w d a b (fun x y => x ^^^ y) s
/-- SXOR_I (R424). -/
def execSxorI (d a : Nat) (k : Int) (s : State) : Out := uShort (.sxorI d a k) d a k (fun x y => x ^^^ y) s
/-- SSHL (R424). -/
def execSshl (w : Bool) (d a b : Nat) (s : State) : Out := uBinary (.sshl w d a b) w d a b shlI s
/-- SSHL_I (R424). -/
def execSshlI (d a : Nat) (k : Int) (s : State) : Out := uShort (.sshlI d a k) d a k shlI s
/-- SSHR (R424). -/
def execSshr (w : Bool) (d a b : Nat) (s : State) : Out := uBinary (.sshr w d a b) w d a b shrI s
/-- SSHR_I (R424). -/
def execSshrI (d a : Nat) (k : Int) (s : State) : Out := uShort (.sshrI d a k) d a k shrI s
/-- SSAR (R424). -/
def execSsar (w : Bool) (d a b : Nat) (s : State) : Out := uBinary (.ssar w d a b) w d a b sarI s
/-- SSAR_I (R424). -/
def execSsarI (d a : Nat) (k : Int) (s : State) : Out := uShort (.ssarI d a k) d a k sarI s
/-- SBFX (R418). -/
def execSbfx (w : Bool) (d a b : Nat) (u : Bool) (s : State) : Out :=
  uBinary (.sbfx w d a b u) w d a b (fun x y => bfxI (!u) x y) s

/-- SMOV (R425). -/
def execSmov (w : Bool) (d b : Nat) (s : State) : Out :=
  issue (.smov w d b) s (done fun t => t.setS d (if w then t.sB b else ((t.sB b).setWidth 32).signExtend 64))
/-- SMOVI (R425). -/
def execSmovi (d : Nat) (k : Int) (s : State) : Out :=
  issue (.smovi d k) s (done fun t => t.setS d (BitVec.ofInt 64 k))

/-- SCMP (R419): one bit, written in the selected lanes. -/
def execScmp64 (d a b : Nat) (c : Cond) (s : State) : Out :=
  issue (.scmp64 d a b c) s (done fun t => t.setP d t.selMask fun _ => condHolds (t.getS a) (t.sB b) c)
/-- SCMP_32 (R419). -/
def execScmp32 (d a b : Nat) (c : Cond) (s : State) : Out :=
  issue (.scmp32 d a b c) s (done fun t => t.setP d t.selMask fun _ =>
    condHolds (n := 32) ((t.getS a).setWidth 32) ((t.sB b).setWidth 32) c)

/-- SSEL (R426). -/
def execSsel (d a b : Nat) (all : Bool) (p : Nat) (s : State) : Out :=
  issue (.ssel d a b all p) s (done fun t => t.setS d (if t.vote all p then t.getS a else t.sB b))

end Sys2Proof.Machine
end

