-- ==== Sys2Proof/Machine/Dispatch.lean ====
section
/-! DEFINITION. Machine/Dispatch.lean: one arm per constructor, each one call of its meaning. -/

namespace Sys2Proof.Machine

def exec (i : Instr) (s : State) : Host.Outcome State Fault Refusal :=
  match i with
  | .bra off => Sys2Proof.Machine.execBra off s
  | .brc all p off => Sys2Proof.Machine.execBrc all p off s
  | .brd neg p off => Sys2Proof.Machine.execBrd neg p off s
  | .call off => Sys2Proof.Machine.execCall off s
  | .mark off => Sys2Proof.Machine.execMark off s
  | .nop => Sys2Proof.Machine.execNop s
  | .ret a => Sys2Proof.Machine.execRet a s
  | .join => Sys2Proof.Machine.execJoin s
  | .exit => Sys2Proof.Machine.execExit s
  | .yield => Sys2Proof.Machine.execYield s
  | .rte => Sys2Proof.Machine.execRte s
  | .bkpt => Sys2Proof.Machine.execBkpt s
  | .trap code => Sys2Proof.Machine.execTrap code s
  | .setmode b => Sys2Proof.Machine.execSetmode b s
  | .setfmt b => Sys2Proof.Machine.execSetfmt b s
  | .pand d a b => Sys2Proof.Machine.execPand d a b s
  | .por d a b => Sys2Proof.Machine.execPor d a b s
  | .pxor d a b => Sys2Proof.Machine.execPxor d a b s
  | .pnot d a => Sys2Proof.Machine.execPnot d a s
  | .rflLane d a wide => Sys2Proof.Machine.execRfl d a wide s
  | .shflIdx d a b => Sys2Proof.Machine.execShflIdx d a b s
  | .shflUp d a b => Sys2Proof.Machine.execShflUp d a b s
  | .shflDown d a b => Sys2Proof.Machine.execShflDown d a b s
  | .shflXor d a b => Sys2Proof.Machine.execShflXor d a b s
  | .voteAny d a => Sys2Proof.Machine.execVoteAny d a s
  | .voteAll d a => Sys2Proof.Machine.execVoteAll d a s
  | .voteCount d a => Sys2Proof.Machine.execVoteCount d a s
  | .iadd wide d a b => Sys2Proof.Machine.execIadd wide d a b s
  | .iaddI d a b => Sys2Proof.Machine.execIaddI d a b s
  | .isub wide d a b => Sys2Proof.Machine.execIsub wide d a b s
  | .imul wide d a b => Sys2Proof.Machine.execImul wide d a b s
  | .imulI d a b => Sys2Proof.Machine.execImulI d a b s
  | .imulh wide d a b => Sys2Proof.Machine.execImulh wide d a b s
  | .imulhUnsigned wide d a b => Sys2Proof.Machine.execImulhUnsigned wide d a b s
  | .imad wide d a b => Sys2Proof.Machine.execImad wide d a b s
  | .imin wide d a b unsigned => Sys2Proof.Machine.execImin wide d a b unsigned s
  | .imax wide d a b unsigned => Sys2Proof.Machine.execImax wide d a b unsigned s
  | .iabs wide d a => Sys2Proof.Machine.execIabs wide d a s
  | .and wide d a b => Sys2Proof.Machine.execAnd wide d a b s
  | .andI d a b => Sys2Proof.Machine.execAndI d a b s
  | .andn wide d a b => Sys2Proof.Machine.execAndn wide d a b s
  | .or wide d a b => Sys2Proof.Machine.execOr wide d a b s
  | .orI d a b => Sys2Proof.Machine.execOrI d a b s
  | .xor wide d a b => Sys2Proof.Machine.execXor wide d a b s
  | .xorI d a b => Sys2Proof.Machine.execXorI d a b s
  | .shl wide d a b => Sys2Proof.Machine.execShl wide d a b s
  | .shlI d a b => Sys2Proof.Machine.execShlI d a b s
  | .shr wide d a b => Sys2Proof.Machine.execShr wide d a b s
  | .shrI d a b => Sys2Proof.Machine.execShrI d a b s
  | .sar wide d a b => Sys2Proof.Machine.execSar wide d a b s
  | .sarI d a b => Sys2Proof.Machine.execSarI d a b s
  | .bfx wide d a b unsigned => Sys2Proof.Machine.execBfx wide d a b unsigned s
  | .bfi wide d a b => Sys2Proof.Machine.execBfi wide d a b s
  | .popc wide d a => Sys2Proof.Machine.execPopc wide d a s
  | .clz wide d a => Sys2Proof.Machine.execClz wide d a s
  | .mov wide d b => Sys2Proof.Machine.execMov wide d b s
  | .movi d b => Sys2Proof.Machine.execMovi d b s
  | .icmp wide d a b c => Sys2Proof.Machine.execIcmp wide d a b c s
  | .sel d a b wide neg p => Sys2Proof.Machine.execSel d a b wide neg p s
  | .sadd wide d a b => Sys2Proof.Machine.execSadd wide d a b s
  | .saddI d a b => Sys2Proof.Machine.execSaddI d a b s
  | .ssub wide d a b => Sys2Proof.Machine.execSsub wide d a b s
  | .smul wide d a b => Sys2Proof.Machine.execSmul wide d a b s
  | .smulI d a b => Sys2Proof.Machine.execSmulI d a b s
  | .smulh wide d a b => Sys2Proof.Machine.execSmulh wide d a b s
  | .smulhUnsigned wide d a b => Sys2Proof.Machine.execSmulhUnsigned wide d a b s
  | .smad wide d a b => Sys2Proof.Machine.execSmad wide d a b s
  | .smin wide d a b unsigned => Sys2Proof.Machine.execSmin wide d a b unsigned s
  | .smax wide d a b unsigned => Sys2Proof.Machine.execSmax wide d a b unsigned s
  | .sand wide d a b => Sys2Proof.Machine.execSand wide d a b s
  | .sandI d a b => Sys2Proof.Machine.execSandI d a b s
  | .sor wide d a b => Sys2Proof.Machine.execSor wide d a b s
  | .sorI d a b => Sys2Proof.Machine.execSorI d a b s
  | .sxor wide d a b => Sys2Proof.Machine.execSxor wide d a b s
  | .sxorI d a b => Sys2Proof.Machine.execSxorI d a b s
  | .sshl wide d a b => Sys2Proof.Machine.execSshl wide d a b s
  | .sshlI d a b => Sys2Proof.Machine.execSshlI d a b s
  | .sshr wide d a b => Sys2Proof.Machine.execSshr wide d a b s
  | .sshrI d a b => Sys2Proof.Machine.execSshrI d a b s
  | .ssar wide d a b => Sys2Proof.Machine.execSsar wide d a b s
  | .ssarI d a b => Sys2Proof.Machine.execSsarI d a b s
  | .sbfx wide d a b unsigned => Sys2Proof.Machine.execSbfx wide d a b unsigned s
  | .smov wide d b => Sys2Proof.Machine.execSmov wide d b s
  | .smovi d b => Sys2Proof.Machine.execSmovi d b s
  | .scmp64 d a b c => Sys2Proof.Machine.execScmp64 d a b c s
  | .scmp32 d a b c => Sys2Proof.Machine.execScmp32 d a b c s
  | .ssel d a b all p => Sys2Proof.Machine.execSsel d a b all p s
  | .fadd d a b => Sys2Proof.Machine.execFadd d a b s
  | .fsub d a b => Sys2Proof.Machine.execFsub d a b s
  | .fmul d a b => Sys2Proof.Machine.execFmul d a b s
  | .fma d a b => Sys2Proof.Machine.execFma d a b s
  | .fmin d a b => Sys2Proof.Machine.execFmin d a b s
  | .fmax d a b => Sys2Proof.Machine.execFmax d a b s
  | .fabs d a => Sys2Proof.Machine.execFabs d a s
  | .fneg d a => Sys2Proof.Machine.execFneg d a s
  | .frint d a => Sys2Proof.Machine.execFrint d a s
  | .fclass d a => Sys2Proof.Machine.execFclass d a s
  | .fcmp d a b c => Sys2Proof.Machine.execFcmp d a b c s
  | .fcvt d a src dst => Sys2Proof.Machine.execFcvt d a src dst s
  | .f2i d a t => Sys2Proof.Machine.execF2i d a t s
  | .i2f d a t => Sys2Proof.Machine.execI2f d a t s
  | .frcp d a la => Sys2Proof.Machine.execFrcp d a la s
  | .frsq d a la => Sys2Proof.Machine.execFrsq d a la s
  | .fsqrt d a la => Sys2Proof.Machine.execFsqrt d a la s
  | .fdiv d a b la => Sys2Proof.Machine.execFdiv d a b la s
  | .fexp2 d a la => Sys2Proof.Machine.execFexp2 d a la s
  | .flog2 d a la => Sys2Proof.Machine.execFlog2 d a la s
  | .fsin d a la => Sys2Proof.Machine.execFsin d a la s
  | .fcos d a la => Sys2Proof.Machine.execFcos d a la s
  | .kinc lane d a b => Sys2Proof.Machine.execKinc lane d a b s
  | .kincI lane d a b => Sys2Proof.Machine.execKincI lane d a b s
  | .kset lane d a b => Sys2Proof.Machine.execKset lane d a b s
  | .kbnd lane d a b => Sys2Proof.Machine.execKbnd lane d a b s
  | .kprm lane d a b => Sys2Proof.Machine.execKprm lane d a b s
  | .kseal lane d a b => Sys2Proof.Machine.execKseal lane d a b s
  | .kopen lane d a b => Sys2Proof.Machine.execKopen lane d a b s
  | .kget lane d a f => Sys2Proof.Machine.execKget lane d a f s
  | .ksub lane d a b => Sys2Proof.Machine.execKsub lane d a b s
  | .kmov lane d a => Sys2Proof.Machine.execKmov lane d a s
  | .kclr lane d => Sys2Proof.Machine.execKclr lane d s
  | .ksweep lane d a la => Sys2Proof.Machine.execKsweep lane d a la s
  | .ld w d a b ix la => Sys2Proof.Machine.execLd w d a b ix la s
  | .st w d a b ix la => Sys2Proof.Machine.execSt w d a b ix la s
  | .ldc d a b ix la => Sys2Proof.Machine.execLdc d a b ix la s
  | .stc d a b ix la => Sys2Proof.Machine.execStc d a b ix la s
  | .ldu wide d a b ix la => Sys2Proof.Machine.execLdu wide d a b ix la s
  | .stu wide d a b ix la => Sys2Proof.Machine.execStu wide d a b ix la s
  | .ldcu d a b ix la => Sys2Proof.Machine.execLdcu d a b ix la s
  | .stcu d a b ix la => Sys2Proof.Machine.execStcu d a b ix la s
  | .pref a b indexed la => Sys2Proof.Machine.execPref a b indexed la s
  | .flush c a sel la => Sys2Proof.Machine.execFlush c a sel la s
  | .inval c a sel la => Sys2Proof.Machine.execInval c a sel la s
  | .fence c k la => Sys2Proof.Machine.execFence c k la s
  | .drain la => Sys2Proof.Machine.execDrain la s
  | .atom wide op d a b la => Sys2Proof.Machine.execAtom wide op d a b la s
  | .cas wide d a b la => Sys2Proof.Machine.execCas wide d a b la s
  | .red wide op d a b la => Sys2Proof.Machine.execRed wide op d a b la s
  | .cadd d a b returns la => Sys2Proof.Machine.execCadd d a b returns la s
  | .cwait d a b timed la => Sys2Proof.Machine.execCwait d a b timed la s
  | .job a b la => Sys2Proof.Machine.execJob a b la s
  | .task a b la => Sys2Proof.Machine.execTask a b la s
  | .launch a b la => Sys2Proof.Machine.execLaunch a b la s
  | .mma acc tile map reuse pair overwrite la => Sys2Proof.Machine.execMma acc tile map reuse pair overwrite la s
  | .mza acc la => Sys2Proof.Machine.execMza acc la s
  | .mldt d a b colMajor la => Sys2Proof.Machine.execMldt d a b colMajor la s
  | .mlda d a b la => Sys2Proof.Machine.execMlda d a b la s
  | .msta d a b toAtype la => Sys2Proof.Machine.execMsta d a b toAtype la s
  | .mmap d a la => Sys2Proof.Machine.execMmap d a la s
  | .mchk d la => Sys2Proof.Machine.execMchk d la s
  | .sysr d b => Sys2Proof.Machine.execSysr d b s
  | .sysw a b => Sys2Proof.Machine.execSysw a b s
  | .tlbinv a => Sys2Proof.Machine.execTlbinv a s
  | .tlbinvAll => Sys2Proof.Machine.execTlbinvAll s
  | .pgmap d a => Sys2Proof.Machine.execPgmap d a s
  | .imm payload => Sys2Proof.Machine.execImm payload s
  | .uni src => Sys2Proof.Machine.execUni src s
  | .longLatencyComplete t k => Sys2Proof.Machine.execLongLatencyComplete t k s
  | .matrixQueueExecute g => Sys2Proof.Machine.execMatrixQueueExecute g s
  | .pairingRequest g => Sys2Proof.Machine.execPairingRequest g s
  | .pairingReply g => Sys2Proof.Machine.execPairingReply g s
  | .pairTimeout g => Sys2Proof.Machine.execPairTimeout g s
  | .trapEntry t => Sys2Proof.Machine.execTrapEntry t s
  | .containmentFreeze ctx => Sys2Proof.Machine.execContainmentFreeze ctx s
  | .eventLost ctx => Sys2Proof.Machine.execEventLost ctx s
  | .resume m => Sys2Proof.Machine.execResume m s
  | .skip m => Sys2Proof.Machine.execSkip m s
  | .restart m => Sys2Proof.Machine.execRestart m s
  | .kill m => Sys2Proof.Machine.execKill m s
  | .trapEsc v => Sys2Proof.Machine.execTrapEsc v s
  | .bankMode bank v => Sys2Proof.Machine.execBankMode bank v s
  | .bankSwitchComplete core bank => Sys2Proof.Machine.execBankSwitchComplete core bank s
  | .sweepCtl v => Sys2Proof.Machine.execSweepCtl v s
  | .revCtl n v => Sys2Proof.Machine.execRevCtl n v s
  | .injCtl v => Sys2Proof.Machine.execInjCtl v s
  | .systemRegisterWrite num inst v => Sys2Proof.Machine.execSystemRegisterWrite num inst v s
  | .sweepPassStart ctx => Sys2Proof.Machine.execSweepPassStart ctx s
  | .sweepRegisterSweep g => Sys2Proof.Machine.execSweepRegisterSweep g s
  | .sweepMemoryScan ctx => Sys2Proof.Machine.execSweepMemoryScan ctx s
  | .sweepPassEnd ctx => Sys2Proof.Machine.execSweepPassEnd ctx s
  | .monitorWake t => Sys2Proof.Machine.execMonitorWake t s
  | .cwaitPoll t => Sys2Proof.Machine.execCwaitPoll t s
  | .cwaitTimeout t => Sys2Proof.Machine.execCwaitTimeout t s
  | .mergeBufferSend k => Sys2Proof.Machine.execMergeBufferSend k s
  | .remoteRetransmit id => Sys2Proof.Machine.execRemoteRetransmit id s
  | .atomIndet id => Sys2Proof.Machine.execAtomIndet id s
  | .movedRefusal id => Sys2Proof.Machine.execMovedRefusal id s
  | .gangRetire ticket => Sys2Proof.Machine.execGangRetire ticket s
  | .dispatch => Sys2Proof.Machine.execDispatch s
  | .preempt => Sys2Proof.Machine.execPreempt s
  | .dispatchHold launchId => Sys2Proof.Machine.execDispatchHold launchId s
  | .slotSwitch core => Sys2Proof.Machine.execSlotSwitch core s
  | .streamOut ticket => Sys2Proof.Machine.execStreamOut ticket s
  | .streamIn ticket => Sys2Proof.Machine.execStreamIn ticket s
  | .notify fn vq port => Sys2Proof.Machine.execNotify fn vq port s
  | .packetFetch slot => Sys2Proof.Machine.execPacketFetch slot s
  | .nopPacket slot => Sys2Proof.Machine.execNopPacket slot s
  | .launchPacket slot => Sys2Proof.Machine.execLaunchPacket slot s
  | .jobPacket slot => Sys2Proof.Machine.execJobPacket slot s
  | .waitctr slot => Sys2Proof.Machine.execWaitctr slot s
  | .waitctrTimeout slot num => Sys2Proof.Machine.execWaitctrTimeout slot num s
  | .addctr slot => Sys2Proof.Machine.execAddctr slot s
  | .taskPacket slot => Sys2Proof.Machine.execTaskPacket slot s
  | .marker slot => Sys2Proof.Machine.execMarker slot s
  | .packetComplete slot num => Sys2Proof.Machine.execPacketComplete slot num s
  | .phaseDrainComplete ctx => Sys2Proof.Machine.execPhaseDrainComplete ctx s
  | .copy e => Sys2Proof.Machine.execCopy e s
  | .copy2d e => Sys2Proof.Machine.execCopy2d e s
  | .fill e => Sys2Proof.Machine.execFill e s
  | .gather e => Sys2Proof.Machine.execGather e s
  | .redscat e => Sys2Proof.Machine.execRedscat e s
  | .allgath e => Sys2Proof.Machine.execAllgath e s
  | .publish e => Sys2Proof.Machine.execPublish e s
  | .cin e => Sys2Proof.Machine.execCin e s
  | .cout e => Sys2Proof.Machine.execCout e s
  | .jobComplete e => Sys2Proof.Machine.execJobComplete e s
  | .ctxSaveComplete ctx => Sys2Proof.Machine.execCtxSaveComplete ctx s
  | .migrationMove ctx page => Sys2Proof.Machine.execMigrationMove ctx page s
  | .watchdog launchId => Sys2Proof.Machine.execWatchdog launchId s
  | .syncLost => Sys2Proof.Machine.execSyncLost s
  | .transitRestart => Sys2Proof.Machine.execTransitRestart s
  | .wake part => Sys2Proof.Machine.execWake part s
  | .expanderTimeout n => Sys2Proof.Machine.execExpanderTimeout n s
  | .ctxCreate m => Sys2Proof.Machine.execCtxCreate m s
  | .ctxDestroy m => Sys2Proof.Machine.execCtxDestroy m s
  | .ctxSave m => Sys2Proof.Machine.execCtxSave m s
  | .ctxRestore m => Sys2Proof.Machine.execCtxRestore m s
  | .queueCreate m => Sys2Proof.Machine.execQueueCreate m s
  | .queueReset m => Sys2Proof.Machine.execQueueReset m s
  | .queueDestroy m => Sys2Proof.Machine.execQueueDestroy m s
  | .notifyStage1 m => Sys2Proof.Machine.execNotifyStage1 m s
  | .notifyStage2 m => Sys2Proof.Machine.execNotifyStage2 m s
  | .funcOwner m => Sys2Proof.Machine.execFuncOwner m s
  | .capMint m => Sys2Proof.Machine.execCapMint m s
  | .capClear m => Sys2Proof.Machine.execCapClear m s
  | .frameGrant m => Sys2Proof.Machine.execFrameGrant m s
  | .frameReclaim m => Sys2Proof.Machine.execFrameReclaim m s
  | .quotaSet m => Sys2Proof.Machine.execQuotaSet m s
  | .pageMap m => Sys2Proof.Machine.execPageMap m s
  | .remoteGrant m => Sys2Proof.Machine.execRemoteGrant m s
  | .pageState m => Sys2Proof.Machine.execPageState m s
  | .peerGrant m => Sys2Proof.Machine.execPeerGrant m s
  | .peerRevoke m => Sys2Proof.Machine.execPeerRevoke m s
  | .extentBind m => Sys2Proof.Machine.execExtentBind m s
  | .migrate m => Sys2Proof.Machine.execMigrate m s
  | .freeze m => Sys2Proof.Machine.execFreeze m s
  | .delegate m => Sys2Proof.Machine.execDelegate m s
  | .viralEnter m => Sys2Proof.Machine.execViralEnter m s
  | .viralClear m => Sys2Proof.Machine.execViralClear m s
  | .orrery m => Sys2Proof.Machine.execOrrery m s
  | .nocWeight m => Sys2Proof.Machine.execNocWeight m s
  | .partition m => Sys2Proof.Machine.execPartition m s
  | .debugState m => Sys2Proof.Machine.execDebugState m s
  | .debugAccess m => Sys2Proof.Machine.execDebugAccess m s
  | .inject m => Sys2Proof.Machine.execInject m s
  | .reset m => Sys2Proof.Machine.execReset m s
  | .bringUp signatureOk failedClusters homesOk memoryOk => Sys2Proof.Machine.execBringUp signatureOk failedClusters homesOk memoryOk s
  | .transitMismatch => Sys2Proof.Machine.execTransitMismatch s
  | .uncorrectableError site => Sys2Proof.Machine.execUncorrectableError site s
  | .l1ParityError core line => Sys2Proof.Machine.execL1ParityError core line s
  | .timingDetection t stage => Sys2Proof.Machine.execTimingDetection t stage s
  | .expLinkDown n => Sys2Proof.Machine.execExpLinkDown n s
  | .cxlViralIndication fn => Sys2Proof.Machine.execCxlViralIndication fn s
  | .linkSurpriseLoss port => Sys2Proof.Machine.execLinkSurpriseLoss port s
  | .backInvalidationSnoop line => Sys2Proof.Machine.execBackInvalidationSnoop line s
  | .hostRead port fn addr len tagged => Sys2Proof.Machine.execHostRead port fn addr len s tagged
  | .hostWrite port fn addr data poison tags => Sys2Proof.Machine.execHostWrite port fn addr data s poison tags
  | .functionLevelReset fn => Sys2Proof.Machine.execFunctionLevelReset fn s
  | .tdispStop fn => Sys2Proof.Machine.execTdispStop fn s
  | .ideStreamLoss port => Sys2Proof.Machine.execIdeStreamLoss port s
  | .spdmRequest fn nonce => Sys2Proof.Machine.execSpdmRequest fn nonce s
  | .keySlotBind fn keyId key => Sys2Proof.Machine.execKeySlotBind fn keyId key s
  | .extentAdd num firstFrame ctx expander => Sys2Proof.Machine.execExtentAdd num firstFrame ctx s expander
  | .extentRelease num expander => Sys2Proof.Machine.execExtentRelease num s expander
  | .taskImageArrival fn image => Sys2Proof.Machine.execTaskImageArrival fn image s
  | .taskStatusReturn slot num status => Sys2Proof.Machine.execTaskStatusReturn slot num status s
  | .fabricLinkBringup port peer roundTripNs => Sys2Proof.Machine.execFabricLinkBringup port peer roundTripNs s
  | .fabricPause port vc => Sys2Proof.Machine.execFabricPause port vc s
  | .fabricResume port vc => Sys2Proof.Machine.execFabricResume port vc s
  | .fabricRead h => Sys2Proof.Machine.execFabricRead h s
  | .fabricWrite h data => Sys2Proof.Machine.execFabricWrite h data s
  | .fabricAtomic h data => Sys2Proof.Machine.execFabricAtomic h data s
  | .fabricCounterAdd h data => Sys2Proof.Machine.execFabricCounterAdd h data s
  | .publishPayload h data => Sys2Proof.Machine.execPublishPayload h data s
  | .publishVersionAdd h data => Sys2Proof.Machine.execPublishVersionAdd h data s
  | .fabricResponse h data => Sys2Proof.Machine.execFabricResponse h data s
  | .fabricAcknowledgement h => Sys2Proof.Machine.execFabricAcknowledgement h s
  | .clockSync ns => Sys2Proof.Machine.execClockSync ns s
  | .clusterRetention cluster => Sys2Proof.Machine.execClusterRetention cluster s
  | .clusterOff cluster => Sys2Proof.Machine.execClusterOff cluster s
  | .deviceIdle => Sys2Proof.Machine.execDeviceIdle s
  | .expanderAdd n => Sys2Proof.Machine.execExpanderAdd n s
  | .clockGating part => Sys2Proof.Machine.execClockGating part s
  | .ideKeyManagement port => Sys2Proof.Machine.execIdeKeyManagement port s
  | .tdispRun fn => Sys2Proof.Machine.execTdispRun fn s
  | .taskKeyInstall ctx expander fn key salt => Sys2Proof.Machine.execTaskKeyInstall ctx expander fn key salt s
  | .backInvalidationResponse holder line => Sys2Proof.Machine.execBackInvalidationResponse holder line s
  | .mailboxMalformed opcode m => Sys2Proof.Machine.execMailboxMalformed opcode m s
  | .fabricHeaderDrop h => Sys2Proof.Machine.execFabricHeaderDrop h s
  | .linkLevelRetry port => Sys2Proof.Machine.execLinkLevelRetry port s
  | .hostLinkTraining port rate width => Sys2Proof.Machine.execHostLinkTraining port rate width s

end Sys2Proof.Machine
end

