-- ==== Sys2Proof/Machine/Due.lean ====
section
/-!
DEFINITION. Machine/Due.lean: what the device does next: which teams may issue and which issues (R56, R65, R245, R269, R306), the
timers that have run out, and the steps that its engines, queues, ports and firmware have ready.
-/

namespace Sys2Proof.Machine

/-! ## Issue -/

/-- True when a core's cluster and its partition's clock run (R306). -/
def State.clocked (s : State) (core : Nat) : Bool :=
  s.powered core && !(s.partitions.any fun x => x.2.power == .gated && x.2.clusters.contains (clusterOf core))

/-- True when a team may issue: it is ready, its gang runs, its workgroup holds the issuing slot of a core that runs, and its
context is not frozen (R56, R63, R65, R269). -/
def State.canIssue (s : State) (t : Team) : Bool :=
  t.run == .ready &&
    match s.gang? t.id.ticket with
    | none => false
    | some g =>
      g.phase == .running && (s.core (g.coreOf t.id.gx t.id.gy)).issuing == some t.wg &&
        s.clocked (g.coreOf t.id.gx t.id.gy) && !((s.ctx? t.ctx).any Ctx.frozen) && !s.resetDue

/-- The issue slot that takes an instruction (R22): a prefix goes with its instruction. -/
def issueSlot : Instr → Nat
  | .bra _ | .brc _ _ _ | .brd _ _ _ | .call _ | .mark _ | .nop | .ret _ | .join | .exit | .yield | .rte | .bkpt | .trap _ => 1
  | .ld _ _ _ _ _ _ | .st _ _ _ _ _ _ | .ldc _ _ _ _ _ | .stc _ _ _ _ _ | .ldu _ _ _ _ _ _ | .stu _ _ _ _ _ _
  | .ldcu _ _ _ _ _ | .stcu _ _ _ _ _ | .pref _ _ _ _ | .flush _ _ _ _ | .inval _ _ _ _ | .fence _ _ _ | .drain _ => 1
  | .atom _ _ _ _ _ _ | .cas _ _ _ _ _ | .red _ _ _ _ _ _ | .cadd _ _ _ _ _ | .cwait _ _ _ _ _ => 1
  | .job _ _ _ | .task _ _ _ | .launch _ _ _ => 1
  | .mma _ _ _ _ _ _ _ | .mza _ _ | .mldt _ _ _ _ _ | .mlda _ _ _ _ | .msta _ _ _ _ _ | .mmap _ _ _ | .mchk _ _ => 1
  | .sysr _ _ | .sysw _ _ | .tlbinv _ | .tlbinvAll | .pgmap _ _ | .ksweep _ _ _ _ => 1
  | _ => 0

/-- A team's next instruction with its prefixes, where it can be fetched. -/
def State.nextGroup (s : State) (t : Team) : Option (List Instr × Instr) :=
  match (State.fetchGroup { s with team := t } groupWords t.pc []).1 with
  | .ok x => some x
  | .error _ => none

/-- The issue slot of a team's next instruction; a fetch that fails is taken as control. -/
def State.nextSlot (s : State) (t : Team) : Nat := (s.nextGroup t).elim 1 fun x => issueSlot x.2

/-- A team whose next instruction waits for a register still awaited is not ready (R56): from when its result has landed it counts
as ready again (R245). -/
def State.stallNote (s : State) (t : Team) : Team :=
  if t.stalled || t.pending.isEmpty || !s.canIssue t then t
  else { t with stalled := (s.nextGroup t).any fun x => (t.prefixed x.1).blocked x.2 }

/-- The teams of a list on which `p` holds, of each workgroup and issue slot the one that has been ready longest (R245). -/
def State.oldest (s : State) (p : Team → Bool) (ts : List Team) : List Team :=
  ((ts.filter p).foldl (fun (acc : List (WgId × Nat × Team)) t =>
    let k := s.nextSlot t
    if acc.any fun x => x.1 == t.wg && x.2.1 == k then acc else acc ++ [(t.wg, k, t)]) []).map fun x => x.2.2

/-- The teams that may issue next (R245): those that are ready; where none is, those that wait for a register and look again. -/
def State.issuers (s : State) (ts : List Team) : List Team :=
  match s.oldest (fun t => s.canIssue t && !t.stalled) ts with
  | [] => s.oldest s.canIssue ts
  | xs => xs

/-- The issuing team goes behind the others, and another comes to the front: of its workgroup and issue slot the one ready longest
(R245). Which core and which of its slots issues next is left open. -/
def State.rotate (s : State) : State :=
  match s.others with
  | [] => s
  | _ =>
    let order := ((s.others ++ [s.team]).filter fun t => t.id.ticket != 0).map s.stallNote
    match s.issuers order with
    | [] => s
    | [t] => { s with team := t, others := order.filter fun u => u.id != t.id }
    | t :: ts =>
      let k := (t :: ts).getD (Config.freeNat s.oracle (2 ^ 79) % (ts.length + 1)) t
      { s.tick with team := k, others := order.filter fun u => u.id != k.id }

/-! ## Timers -/

/-- Sleeping teams whose timeout has run out (R58), or that re-read: at once after a stream-in (R65), or, with `late`, every 256
cycles without a monitor (R57) or while a page is on the move. -/
def State.sleepers (s : State) (late : Bool) : List Instr :=
  s.teams.filterMap fun t =>
    match t.sleep with
    | none => none
    | some z =>
      let out (last : Bool) : Bool := s.remotes.any fun r => r.team == t.id && r.form == .cwait last
      if t.run != .asleep || !s.resident t || out true || (z.again && s.timebase < z.polled + 256) then none
      else if z.expired s.timebase then (if late then none else some (.cwaitTimeout t.id))
      else if out false then none
      else if z.asked then (if late then none else some (.cwaitPoll t.id))
      else if late && (!z.monitor || z.again) && z.polled + 256 ≤ s.timebase then some (.cwaitPoll t.id)
      else none

/-- Requests to peers that are sent again, or given up (R217, R298). -/
def State.lateRemotes (s : State) : List Instr :=
  s.remotes.filterMap fun r =>
    if r.got.isSome then none
    else if r.sent + indetAfter ≤ s.domainClock then some (.atomIndet r.id)
    else if !r.again && !r.held && r.sent + retransmitAfter ≤ s.domainClock then some (.remoteRetransmit r.id)
    else none

/-- Packets whose wait on a counter has passed its deadline, and whose final read is due (R239). -/
def State.lateWaits (s : State) : List Instr :=
  s.queues.flatMap fun x => x.2.packets.filterMap fun p =>
    match p.wait with
    | .counter _ _ _ (some t) _ => if t ≤ s.timebase && s.waitDue x.1 p.wait then some (.waitctrTimeout x.1 p.num) else none
    | _ => none

/-- Launches that have waited 1 ms for a rectangle (R242), or run past their context's limit (R286). -/
def State.lateLaunches (s : State) : List Instr :=
  s.launches.flatMap fun l =>
    (if !l.holds && l.offer.isSome && l.waiting.any (fun t => cyclesPerMs ≤ s.timebase - t) then [.dispatchHold l.id] else []) ++
      (if s.overdue l && !((s.ctx? l.ctx).any fun c => c.frozen || c.killed) then [.watchdog l.id] else [])

/-- What has run out of time: it is done before anything else. -/
def State.due (s : State) : List Instr :=
  s.sleepers false ++ s.lateRemotes ++ s.lateWaits ++ s.lateLaunches ++
    ((s.merges.filter fun m => m.since + 64 ≤ s.timebase).map fun m => Instr.mergeBufferSend m.id) ++
    ((s.wgs.filter s.pairOver).map fun w => Instr.pairTimeout w.id) ++
    (if s.fabricUp && !s.timeRoot && !s.syncLost && s.lastSync + syncLimit ≤ s.domainClock then [.syncLost] else [])

/-! ## Steps that are ready -/

/-- A paired request that has been matched is answered; one at the head is sent (R148). -/
def State.matrixReady (s : State) : List Instr :=
  s.wgs.filterMap fun w =>
    if !s.engineRuns w then none
    else
      match w.queue, w.pairHead with
      | [], _ => none
      | _, none => some (.matrixQueueExecute w.id)
      | _, some _ =>
        match w.pair with
        | .quiet => some (.pairingRequest w.id)
        | .waiting => none
        | .reserved => some (.pairingReply (partnerOf w.id))

/-- The event of a job kind. -/
def Oper.event (e : Nat) : Oper → Instr
  | .copy => .copy e | .copy2d => .copy2d e | .fill => .fill e | .gather => .gather e | .redscat => .redscat e
  | .allgath => .allgath e | .publish => .publish e | .cin => .cin e | .cout => .cout e

/-- Engines whose head can go on, or has ended; one that awaits a peer's answer has nothing to do. -/
def State.enginesReady (s : State) : List Instr :=
  s.engines.filterMap fun x =>
    match x.2.head? with
    | none => none
    | some j =>
      if s.remotes.any fun r => r.engine == some x.1 && r.got.isNone then none
      else if j.ended.isSome then some (.jobComplete x.1)
      else if s.jobRuns j then some (j.oper.event x.1)
      else none

/-- The event that starts a packet, by KIND; one of an unknown kind completes as it starts (R230). -/
def Packet.event (slot : Nat) (p : Packet) : Instr :=
  match p.kind with
  | 0 => .nopPacket slot
  | 1 => .launchPacket slot
  | 2 => .jobPacket slot
  | 3 => .waitctr slot
  | 4 => .addctr slot
  | 5 => .taskPacket slot
  | 6 => .marker slot
  | _ => .packetComplete slot p.num

/-- The command processor's steps for one queue. -/
def State.queueReady (s : State) (slot : Nat) (q : Queue) : List Instr :=
  (if q.owed.isSome || (s.mayFetch q && (q.scanning || !q.inlet.isEmpty)) then [.packetFetch slot] else []) ++
    ((s.startable slot).elim [] fun p => [p.event slot]) ++
    (q.packets.flatMap fun p =>
      match p.wait with
      | .done _ _ => [.packetComplete slot p.num]
      | .marker => if q.first p.num then [.marker slot] else []
      | .counter _ _ _ _ _ => if s.waitDue slot p.wait then [.waitctr slot] else []
      | _ => []) ++
    (if q.drains && s.drained then [.phaseDrainComplete q.ctx] else [])

/-- Gangs that may stream, or retire; none enters while the Transit pair stands (R34). -/
def State.gangsReady (s : State) : List Instr :=
  s.gangs.filterMap fun g =>
    if g.phase = .leaving ∧ s.settled g.ticket then some (.streamOut g.ticket)
    else if g.phase = .entering then (if s.transitStopped || (!g.stored && s.rereading g.ticket) then none else some (.streamIn g.ticket))
    else if s.teams.all fun t => t.id.ticket != g.ticket || t.run == .retired then some (.gangRetire g.ticket)
    else none

/-- The partition of a candidate's context, if a condition on it holds. -/
def State.partIf (s : State) (p : Nat → Bool) (c : Candidate) : Option Nat :=
  ((s.ctx? (match c with | .gang g => g.ctx | .launch l => l.ctx)).map Ctx.partition).filter p

/-- The gang distributor's steps (R242 to R244), and a partition that must wake before a candidate can be placed, or run (R306). -/
def State.distributorReady (s : State) : List Instr :=
  let gated (n : Nat) : Bool := (SMap.find? s.partitions n).any fun p => p.power == Power.gated
  let down (n : Nat) : Bool := (s.partClusters n).any fun cl => s.clusterPower.getD cl Power.running != Power.running
  match s.decide with
  | some (.place c _) => (s.partIf gated c).elim [.dispatch] fun n => [.wake n]
  | some (.preempt c _) => (s.partIf gated c).elim [.preempt] fun n => [.wake n]
  | none =>
    if s.specPlacement.isSome || s.launches.any (fun l => l.spec.isNone && l.offer.isSome && l.waiting.isNone) then [.dispatch]
    else ((s.candidates.filterMap (s.partIf down)).take 1).map Instr.wake

/-- The steps of a sweep pass (R173). -/
def State.sweepReady (s : State) : List Instr :=
  if !s.sweepActive then []
  else if s.sweepDue then [.sweepPassEnd 0]
  else ((s.wgs.filter Workgroup.sweepPending).map fun w => Instr.sweepRegisterSweep w.id) ++
    (if s.sweepScanned then [] else [.sweepMemoryScan 0])

/-- Banks that are switching (R182). -/
def State.banksReady (s : State) : List Instr :=
  s.cores.flatMap fun x => (List.range 4).filterMap fun b =>
    if (x.2.bank b).switching.isSome && !s.bankNamed x.1 b then some (.bankSwitchComplete x.1 b) else none

/-- Traps whose awaited results have landed and whose team's matrix operations are done, and results that land in teams that do not issue (R72, R75). -/
def State.teamsReady (s : State) : List Instr :=
  s.teams.flatMap fun t =>
    if t.run = .ready then []
    else
      (if t.run == .trapping && t.pending.all (fun p => p.waits.isEmpty) && !s.queueOf t then [.trapEntry t.id] else []) ++
        (t.pending.filter fun p => p.waits.isEmpty && p.faults.isEmpty).map fun p => Instr.longLatencyComplete t.id p.id

/-- Firmware's own work: records it owes (R270), saves that may end (R248), a page on the move (R199), the Transit pair. -/
def State.firmwareReady (s : State) : List Instr :=
  (s.ctxs.filterMap fun x =>
    if !x.2.evtDue.isEmpty || (x.2.evtLost != 0 && s.eventRoom x.2) then some (Instr.eventLost x.1) else none) ++
    (s.ctxs.filterMap fun x =>
      if x.2.saving && (x.2.frozen || x.2.killed || s.saveDue x.1) then some (Instr.ctxSaveComplete x.1) else none) ++
    (s.migration.elim [] fun g => [.migrationMove g.ctx g.page]) ++
    (if s.transitStopped then [.transitRestart] else [])

/-- Every step that is ready. -/
def State.enabled (s : State) : List Instr :=
  s.matrixReady ++ (s.merges.map fun m => Instr.mergeBufferSend m.id) ++ s.enginesReady ++
    (s.queues.flatMap fun x => s.queueReady x.1 x.2) ++ s.gangsReady ++ s.distributorReady ++ s.sweepReady ++ s.banksReady ++
    s.teamsReady ++ s.firmwareReady ++ s.sleepers true

/-- The next step that is no team's issue, if there is one: what has run out of time, else one that is ready, if no team may
issue or a free choice prefers it. -/
def State.nextEvent (s : State) : Option Instr × State :=
  match s.due with
  | i :: _ => (some i, s)
  | [] =>
    match s.enabled with
    | [] => (none, s)
    | i :: is =>
      if s.canIssue s.team && Config.freeBool s.oracle 9 then (none, s.tick)
      else (some ((i :: is).getD (Config.freeNat s.oracle (2 ^ 80) % (is.length + 1)) i), s.tick)

/-! ## Around an instruction -/

/-- One cycle passes (R58, R298); a device with something in flight has not been idle (R226), and clusters that their gangs have left
go off (R306). DESIGN CHOICE, log entry 11. -/
def State.cycle (s : State) : State :=
  let s := s.finishClosing
  { s.tickClock with timebase := s.timebase + 1, busyAt := if s.idleTree then s.busyAt else s.timebase + 1 }

/-- What may happen before an instruction issues: caches let lines go, as they choose and for want of room (R21), and a detection
awaiting its replay is past (R282). -/
def State.ready (s : State) : State :=
  let s := s.background.trim
  { s with timingArmed := s.timingArmed.filter fun i => i != s.team.id }

end Sys2Proof.Machine
end

