-- ==== Sys2Proof/Machine/Step.lean ====
section
/-!
DEFINITION. Machine/Step.lean: one step of the device. The agenda comes first: inputs from outside, and what a step owes. Then
what has run out of time, or a step that is ready; else the issuing team fetches and executes one prefixed instruction.
-/

namespace Sys2Proof.Machine

/-- Execute the prefixes of a group and its instruction as one step (R78). -/
def runGroup : List Instr → Instr → State → Out
  | [], i, s => exec i s
  | p :: ps, i, s =>
    match exec p s with
    | .next s' => runGroup ps i s'
    | .fault r => .fault r
    | .refused r => .refused r

/-- The issuing team's next prefixed instruction; then another team has its turn. -/
def stepTeam (s : State) : Out :=
  match s.fetchGroup groupWords s.team.pc [] with
  | (.error .wait, s') => .next s'.rotate
  | (.error .park, s') => match park s' with
    | .next s'' => .next s''.rotate
    | .fault r => .fault r
    | .refused r => .refused r
  | (.error (.trap c n), s') =>
    .next (takeTrap c 0 ((s'.refuseTeam s'.team.id (s'.refusedLines s'.who c.faults)).setTeam fun t => { t with latch := { t.latch with words := n } })).rotate
  | (.ok (pre, i), s') =>
    match runGroup pre i s' with
    | .next s' => .next s'.rotate
    | .fault r => .fault r
    | .refused r => .refused r

/-- The issuing team's turn: a team whose active set is empty takes up its stack (R44); an injected detection may stop the
instruction (R283). DESIGN CHOICE, log entry 3. -/
def turn (s : State) : Out :=
  if s.canIssue s.team then
    let s := s.ready
    if s.team.active = 0 ∧ s.team.saved = none then popEmpty .exit s
    else
      match s.injectTiming with
      | (true, s') => .next s'.rotate
      | (false, s') => stepTeam s'
  else .next s.rotate

/-- One step. DESIGN CHOICE, log entry 2. DESIGN CHOICE, log entry 9. -/
def step (s : State) : Host.Outcome State Fault Refusal :=
  match s.cycle.agenda with
  | i :: rest => if i.encoded then .fault .strayInstruction else exec i { s.cycle with agenda := rest }
  | [] =>
    match s.cycle.nextEvent with
    | (some i, s') => exec i s'
    | (none, s') => turn s'

/-- A device with one ready team and a page for its code, where `s` has none: context 0 maps page 1 onto its local frame
1, and a one-team gang with ticket 1 stands at its first instruction. -/
def State.placeTeam (s : State) : State :=
  let c : Ctx :=
    { function := 0, confidential := false, viralPolicy := false, partition := 0, capLog2 := 0, evtLog2 := 6, quota := 16,
      window := 16777216, evtRing := 0, evtCtl := 0, supBase := 0, supLen := 0, codeBase := 0, codeLen := 0, trapVec := 0,
      watchdog := 0, ptes := [(1, BitVec.ofNat 128 0x1001E)], tables := [(tableKey 0 65536, tableEntry 3),
        (tableKey 1 65536, tableEntry 2), (tableKey 2 65536, tableEntry 8)],
      root := 0, pool := [], reserve := [], remote := [], peers := [], revBase := [], revCtl := [], evtWritten := 0,
      evtLost := 0, evtDue := [], frozen := false, killed := false, viral := false, dropped := 0, delegates := [],
      saving := false, saved := false }
  let sh : Shape := ⟨65536, 32, 1, 1, 1, 64, 8, 0⟩
  let g : Gang := ⟨1, 0, 0, 0, 0, 0, 0, 0, 0, 0, sh, .running, 0, 0, false, none, []⟩
  let code := (capExact 65536 65536 (permLoad + permExec) 0).getD Cap.null
  { s with
    ctxs := SMap.insert s.ctxs 0 c, owner := SMap.put 0 (SMap.put 0 (SMap.put 0 s.owner 0 257) 1 1) 2 257, gangs := g :: s.gangs,
    wgs := Workgroup.fresh ⟨1, 0, 0⟩ 0 0 0 :: s.wgs,
    cores := SMap.insert s.cores 0 { (SMap.getD s.cores 0 CoreState.reset) with issuing := some ⟨1, 0, 0⟩ },
    team := Team.start g c code Cap.null 0 0 0 }

/-- The memory keys of the twelve bytes the issuing team's next fetch reads, if it may fetch them. -/
def State.fetchKeys (s : State) : Option (List Nat) :=
  match s.resolve s.who 0 s.team.codeCap s.team.pc.toNat 12 permExec 4 .fetch with
  | .ok ps =>
    if s.team.run = .ready ∧ s.team.active ≠ 0 then
      some (ps.flatMap fun p => (List.range p.len).map fun i => p.key + i)
    else none
  | .error _ => none

/-- Put bytes at their homes, dropping cluster copies, poison and check errors of their lines. -/
def State.plant (s : State) (keys : List Nat) (bs : List Byte) : State :=
  let lines := keys.map fun k => k / 128
  { s with
    mem := (keys.zip bs).foldl (fun m (k, b) => SMap.put 0 m k b) s.mem,
    copies := s.copies.filter fun c => !lines.contains (copyLine c.1),
    poison := s.poison.filter fun c => !lines.contains c.1,
    checkErr := s.checkErr.filter fun c => !lines.contains c.1 }

/-- The state with an instruction where the next fetch reads: its word, and zeros up to three words, the longest prefixed
instruction (R78). Where no team can fetch, one is placed first. -/
def State.withFetchWord (s : State) (nbits w : Nat) : State :=
  let s : State := { s with agenda := [] }
  let bs := bytesOfNat 12 (w % 2 ^ min nbits 96)
  match s.fetchKeys with
  | some keys => s.plant keys bs
  | none =>
    let s := s.placeTeam
    match s.fetchKeys with
    | some keys => s.plant keys bs
    | none => s

end Sys2Proof.Machine
end

