-- ==== Sys2Proof/Safety.lean ====
section
/-!
DEFINITION. Safety.lean: what a safe run is, and the words statements are written in: that an instruction issues, that
it ends with the issuing team alone changed, and what it leaves of that team.
-/

namespace Sys2Proof.Machine

/-! ## Safe runs -/

/-- No run of a state with this property stops, and memory stays in its form: every owed step is an event, memory is
canonical, and host memory holds no tag (R165). -/
structure State.Inv (s : State) : Prop where
  agenda : ∀ i ∈ s.agenda, i.encoded = false
  mem : Memory.wf s.mem = true
  host : ∀ g, regionSize ≤ 16 * g → 16 * g < 2 * regionSize → SMap.getD s.tags g false = false

/-! ## What an instruction does to its team -/

/-- An instruction passes the checks of R98 and waits for no remote result (R56): it issues. -/
def State.issues (s : State) (i : Instr) : Bool :=
  (s.team.refuses i (s.entering i).team).isNone && !s.team.blocked i

/-- An instruction completes with nothing changed but the issuing team: no byte of memory, no other team, no context, no
unit of the device. `post` relates the team as the instruction reads it to the team it leaves. -/
def State.Ends (s : State) (i : Instr) (post : Team → Team → Prop) : Prop :=
  s.issues i = true →
    ∃ u : Team, exec i s = .next { s.entering i with team := u } ∧ post (s.entering i).team u ∧
      ∀ a, State.readByte { s.entering i with team := u } a = s.readByte a

/-- The same where the issuing team meets a further condition. -/
def State.EndsWhen (s : State) (i : Instr) (pre : Team → Prop) (post : Team → Team → Prop) : Prop :=
  pre (s.entering i).team → s.Ends i post

/-- Where the issuing team meets a condition, an instruction that issues takes the trap `c` (R266) from the state it
reads. -/
def State.TrapsWhen (s : State) (i : Instr) (pre : Team → Prop) (c : Team → Cause) : Prop :=
  s.issues i = true → pre (s.entering i).team →
    exec i s = .next (takeTrap (c (s.entering i).team) 0 (s.entering i))

/-- Where the issuing team meets a condition, an instruction that issues ends the team (R16 Retire, R60): it is left as
`f` says, no longer runs, and its gang is asked to retire (R54). -/
def State.RetiresWhen (s : State) (i : Instr) (pre : Team → Prop) (f : Team → Team) : Prop :=
  s.issues i = true → pre (s.entering i).team →
    exec i s = .next { s.entering i with
      team := { f (s.entering i).team with run := .retired, latch := Latch.empty, replay := none },
      agenda := s.agenda ++ [Instr.gangRetire (s.entering i).team.id.ticket] }

/-- `e` is the first entry of the stack, from the top, with a lane outside `x`, and `rest` stands below it: FindLive
(R60). -/
def Team.LiveAt (t : Team) (x : Mask) (e : StackEntry) (rest : List StackEntry) : Prop :=
  ∃ dead, t.stack = dead ++ e :: rest ∧ (∀ d ∈ dead, d.mask &&& ~~~x = 0) ∧ e.mask &&& ~~~x ≠ 0

/-- No entry of the stack has a lane outside `x` (R60). -/
def Team.NoneLive (t : Team) (x : Mask) : Prop := ∀ d ∈ t.stack, d.mask &&& ~~~x = 0

/-- `m` is the lane set of `f` among the team's lanes. -/
def Team.IsSet (t : Team) (m : Mask) (f : Nat → Bool) : Prop :=
  ∀ l, l < 1024 → m.getLsbD l = (decide (l < t.width) && f l)

/-- The team goes on past the instruction and only vector registers changed, none but those listed. -/
def Team.OnlyV (t u : Team) (ds : List Nat) : Prop :=
  u = { t.advance with v := u.v } ∧ ∀ r, r ∉ ds → ∀ l, u.getV r l = t.getV r l

/-- The same for one predicate; p0 stays true whatever is written (R83). -/
def Team.OnlyP (t u : Team) (d : Nat) : Prop :=
  u = { t.advance with p := u.p } ∧ ∀ r, r ≠ d → ∀ l, u.getP r l = t.getP r l

/-- The same for one uniform register. -/
def Team.OnlyS (t u : Team) (d : Nat) : Prop :=
  u = { t.advance with s := u.s } ∧ ∀ r, r ≠ d → u.getS r = t.getS r

/-- Register `d` holds `f` in the selected lanes and what it held in the others (R42, R310). -/
def Team.Lanes (t u : Team) (d : Nat) (f : Nat → Word) : Prop :=
  ∀ l, l < t.width → u.getV d l = if t.selected l then f l else t.getV d l

/-- The same for the pair at `d` (R82). -/
def Team.Lanes64 (t u : Team) (d : Nat) (f : Nat → Dword) : Prop :=
  ∀ l, l < t.width → u.getV64 d l = if t.selected l then f l else t.getV64 d l

/-- Predicate `d` holds `f` in the selected lanes and what it held in the others; p0 holds true (R83). A mask has 1,024
bits (R42). -/
def Team.LanesP (t u : Team) (d : Nat) (f : Nat → Bool) : Prop :=
  ∀ l, l < t.width → l < 1024 → u.getP d l = if d ≠ 0 ∧ t.selected l = true then f l else t.getP d l

/-- The instruction writes `f` into one vector register, in the selected lanes, and changes nothing else. -/
def State.WritesV (s : State) (i : Instr) (d : Nat) (f : Team → Nat → Word) : Prop :=
  s.Ends i fun t u => t.OnlyV u [d] ∧ t.Lanes u d (f t)

/-- The same for a register pair. -/
def State.WritesV64 (s : State) (i : Instr) (d : Nat) (f : Team → Nat → Dword) : Prop :=
  s.Ends i fun t u => t.OnlyV u [d, d + 1] ∧ t.Lanes64 u d (f t)

/-- The instruction writes one uniform register and changes nothing else. -/
def State.WritesS (s : State) (i : Instr) (d : Nat) (f : Team → Dword) : Prop :=
  s.Ends i fun t u => t.OnlyS u d ∧ u.getS d = f t

/-- The instruction writes one predicate, in the selected lanes, and changes nothing else. -/
def State.WritesP (s : State) (i : Instr) (d : Nat) (f : Team → Nat → Bool) : Prop :=
  s.Ends i fun t u => t.OnlyP u d ∧ t.LanesP u d (f t)

/-- A vector instruction with a 32-bit and a 64-bit form: `D := f A B` in both. -/
def State.Binary (s : State) (i : Bool → Nat → Nat → Nat → Instr)
    (f : (n : Nat) → BitVec n → BitVec n → BitVec n) : Prop :=
  ∀ d a b, s.WritesV (i false d a b) d (fun t l => f 32 (t.vA a l) (t.vB b l)) ∧
    s.WritesV64 (i true d a b) d (fun t l => f 64 (t.vA64 a l) (t.vB64 b l))

/-- The same where D is read as well. -/
def State.Ternary (s : State) (i : Bool → Nat → Nat → Nat → Instr)
    (f : (n : Nat) → BitVec n → BitVec n → BitVec n → BitVec n) : Prop :=
  ∀ d a b, s.WritesV (i false d a b) d (fun t l => f 32 (t.getV d l) (t.vA a l) (t.vB b l)) ∧
    s.WritesV64 (i true d a b) d (fun t l => f 64 (t.getV64 d l) (t.vA64 a l) (t.vB64 b l))

/-- The same with one operand. -/
def State.Unary (s : State) (i : Bool → Nat → Nat → Instr) (f : (n : Nat) → BitVec n → BitVec n) : Prop :=
  ∀ d a, s.WritesV (i false d a) d (fun t l => f 32 (t.getV a l)) ∧
    s.WritesV64 (i true d a) d (fun t l => f 64 (t.getV64 a l))

/-- A short-immediate vector instruction. -/
def State.Short (s : State) (i : Nat → Nat → Int → Instr) (f : BitVec 32 → BitVec 32 → BitVec 32) : Prop :=
  ∀ d a k, s.WritesV (i d a k) d (fun t l => f (t.getV a l) (BitVec.ofInt 32 k))

/-- A uniform instruction with a 64-bit form and a 32-bit form, whose result is sign-extended (R83, R387). -/
def State.UBinary (s : State) (i : Bool → Nat → Nat → Nat → Instr)
    (f : (n : Nat) → BitVec n → BitVec n → BitVec n) : Prop :=
  ∀ d a b, s.WritesS (i true d a b) d (fun t => f 64 (t.getS a) (t.sB b)) ∧
    s.WritesS (i false d a b) d (fun t => (f 32 ((t.getS a).setWidth 32) ((t.sB b).setWidth 32)).signExtend 64)

/-- A short-immediate uniform instruction: always 64 bits (R387). -/
def State.UShort (s : State) (i : Nat → Nat → Int → Instr) (f : BitVec 64 → BitVec 64 → BitVec 64) : Prop :=
  ∀ d a k, s.WritesS (i d a k) d (fun t => f (t.getS a) (BitVec.ofInt 64 k))

/-! ## Fetching -/

/-- The words `ws` stand at `pc` and after it, and fetching them one after another leads from `s` to `t`; `n` words of the group come
before them. -/
def Fetches : State → Dword → Nat → List Nat → State → Prop
  | s, _, _, [], t => t = s
  | s, pc, n, w :: ws, t => ∃ v : State, s.fetchWord pc n = (.ok w, v) ∧ Fetches v (pc + 4) (n + 1) ws t

/-- A trap of the issuing team at its fetch, after `n` words of the group (R268), with the NOTICE of a refusal (R300). -/
def fetchTrap (c : Cause) (n : Nat) (s : State) : State :=
  takeTrap c 0 ((s.refuseTeam s.team.id (s.refusedLines s.who c.faults)).setTeam fun t =>
    { t with latch := { t.latch with words := n } })

/-! ## Capability results -/

/-- The team goes on past the instruction and only one c register changed. -/
def Team.OnlyC (t u : Team) (d : Nat) (k : Cap) : Prop :=
  u = { t.advance with c := u.c } ∧ u.getC d = k ∧ ∀ r, r ≠ d → u.getC r = t.getC r

/-- Only lane-capability register `d` changed, in the lanes where `f` gives a value. -/
def Team.LanesQ (t u : Team) (d : Nat) (f : Nat → Option Cap) : Prop :=
  (∀ l, l < t.width → u.getQ d l = (f l).getD (t.getQ d l)) ∧ ∀ r, r ≠ d → ∀ l, u.getQ r l = t.getQ r l

/-- The value of a derivation, if it has one. -/
def okCap : Except Nat Cap → Option Cap
  | .ok k => some k
  | .error _ => none

/-- A derivation in the uniform class (R159, R372): its result stands in D and nothing else changed, or the instruction
traps with the cause, for all lanes. -/
def State.DerivesC (s : State) (i : Instr) (d : Nat) (f : Team → Except Nat Cap) : Prop :=
  ∀ k e, s.EndsWhen i (fun t => f t = .ok k) (fun t u => t.OnlyC u d k) ∧
    s.TrapsWhen i (fun t => f t = .error e) (fun _ => .uniform ⟨0, e, 0, false, false, 0⟩ (insnOf i))

/-- A derivation in the lane class (R158, R372): every selected lane computes by itself. Where all pass, D takes their
results in those lanes; else the lanes that pass write, and one trap names those that do not, in ascending order. -/
def State.DerivesQ (s : State) (i : Instr) (d : Nat) (f : Team → Nat → Except Nat Cap) : Prop :=
  let val (t : Team) (l : Nat) : Option Cap := if t.selected l then okCap (f t l) else none
  s.EndsWhen i (fun t => ∀ l < t.width, t.selected l = true → ∃ k, f t l = .ok k)
      (fun t u => u = { t.advance with q := u.q } ∧ t.LanesQ u d (val t)) ∧
    (s.issues i = true →
      (∃ l, l < (s.entering i).team.width ∧ (s.entering i).team.selected l = true ∧ okCap (f (s.entering i).team l) = none) →
      ∃ (u : Team) (faults : List LaneFault),
        exec i s = .next (takeTrap (.lanes faults (insnOf i)) 0 { s.entering i with team := u }) ∧
        u = { (s.entering i).team with q := u.q } ∧ (s.entering i).team.LanesQ u d (val (s.entering i).team) ∧
        faults = (List.range (s.entering i).team.width).filterMap fun l =>
          if (s.entering i).team.selected l then
            (match f (s.entering i).team l with | .ok _ => none | .error e => some ⟨l, e, 0, false, false, 0⟩)
          else none)

/-! ## Floating results -/

/-- A floating instruction: the element `f` stands in the selected lanes of its destination, a register, or a pair for
f64, zero above it (R111); the flags that any selected lane raises are merged (R130), and nothing else changes. -/
def State.WritesF (s : State) (i : Instr) (d : Nat) (F : Team → FFmt) (f : Team → Nat → Nat × Word) : Prop :=
  s.Ends i fun t u =>
    u = { t.advance with v := u.v, flags := u.flags } ∧
    (∀ r, r ≠ d → (F t = fmtF64 → r ≠ d + 1) → ∀ l, u.getV r l = t.getV r l) ∧
    (F t = fmtF64 → t.Lanes64 u d fun l => BitVec.ofNat 64 (f t l).1) ∧
    (F t ≠ fmtF64 → t.Lanes u d fun l => BitVec.ofNat 32 (f t l).1) ∧
    ∀ k, k < 32 → u.flags.getLsbD k =
      (t.flags.getLsbD k || (List.range t.width).any fun l => t.selected l && (f t l).2.getLsbD k)

/-- The element of a register as MODE.FTZ lets an instruction read it (R118). -/
def Team.val (t : Team) (r l : Nat) : FVal := t.ffmt.unpack (modeFtz t.mode) (t.elem t.ffmt r l)
/-- The A and B operands of a floating instruction, under its prefixes (R76, R77). -/
def Team.valA (t : Team) (a l : Nat) : FVal := t.ffmt.unpack (modeFtz t.mode) (t.fA a l)
def Team.valB (t : Team) (b l : Nat) : FVal := t.ffmt.unpack (modeFtz t.mode) (t.fB b l).1

/-- A long-latency floating instruction leaves issue with one result outstanding (R72, R73): its values stand in the
selected lanes, and its flags and registers wait for its completion. -/
def State.LaunchesF (s : State) (i : Instr) (d la : Nat) (f : Team → Nat → Nat × Word) : Prop :=
  s.Ends i fun t u => ∃ p : Pending,
    u = { t.advance with pending := t.advance.pending ++ [p] } ∧ (∀ x ∈ t.pending, x.id ≠ p.id) ∧ p.window = la ∧
    p.waits = [] ∧ p.faults = [] ∧
    p.dests = (if t.ffmt = fmtF64 then
        [.v d ((List.range t.width).map fun l => if t.selected l then some (BitVec.ofNat 32 (f t l).1) else none),
         .v (d + 1) ((List.range t.width).map fun l =>
            if t.selected l then some (BitVec.ofNat 32 ((f t l).1 / 2 ^ 32)) else none)]
      else [.v d ((List.range t.width).map fun l => if t.selected l then some (BitVec.ofNat 32 (f t l).1) else none)]) ∧
    ∀ k, k < 32 → p.flags.getLsbD k = (List.range t.width).any fun l => t.selected l && (f t l).2.getLsbD k

/-- The exact value a finite operand stands for; 0 for the others. -/
def FVal.rat : FVal → ℚ
  | .fin n m e => (if n then -1 else 1) * m * (2 : ℚ) ^ e
  | _ => 0

/-- An operand that is neither a NaN nor an infinity. -/
def FVal.isFin : FVal → Bool
  | .fin _ _ _ => true
  | _ => false

/-- Node `i` of level `n` of the balanced tree over the products `p` (R128): its two nodes below summed and rounded once; absent where
both are. -/
def treeNode (F : FFmt) (c : FCtl) (p : Nat → Option FVal) : Nat → Nat → Option FVal
  | 0, i => p i
  | n + 1, i => match [treeNode F c p n (2 * i), treeNode F c p n (2 * i + 1)].filterMap id with
    | [] => none
    | xs => some (F.unpack c.ftz (F.sum c xs).1)

/-- What block `b` comes to without C, its two halves being nodes of level `n`; none where both are absent (R128). -/
def blockRoot (F : FFmt) (c : FCtl) (p : Nat → Option FVal) (n b : Nat) : Option Nat :=
  match [treeNode F c p n (2 * b), treeNode F c p n (2 * b + 1)].filterMap id with
  | [] => none
  | xs => some (F.sum c xs).1

/-- The first block with C as the third term of its root; a C that stands alone passes bit for bit (R128). -/
def firstRoot (F : FFmt) (c : FCtl) (p : Nat → Option FVal) (n C : Nat) : Nat :=
  match [treeNode F c p n 0, treeNode F c p n 1].filterMap id with
  | [] => C
  | xs => (F.sum c (xs ++ [F.unpack c.ftz C])).1

/-- A second block's root added to what the first gave (R128). -/
def addRoot (F : FFmt) (c : FCtl) : Option Nat → Option Nat → Option Nat
  | acc, none => acc
  | none, some r => some r
  | some acc, some r => some (F.sum c [F.unpack c.ftz acc, F.unpack c.ftz r]).1

/-- The four binary formats (R112). -/
def FFmt.standard (F : FFmt) : Prop := F = fmtF32 ∨ F = fmtF16 ∨ F = fmtBf16 ∨ F = fmtF64

/-! ## Memory as an access sees it -/

/-- A byte of a line as a cache's copy holds it, or what `below` says where the copy holds none there; and the tag of its
granule. -/
def copyByte (c : Option Copy) (key : Nat) (below : Byte) : Byte :=
  match c with
  | some c => if c.valid.getLsbD (key % 128) then (c.data >>> (8 * (key % 128))).setWidth 8 else below
  | none => below
def copyTag (c : Option Copy) (key : Nat) (below : Bool) : Bool :=
  match c with
  | some c =>
    if (List.range 16).any fun i => c.valid.getLsbD (16 * (key % 128 / 16) + i) then c.tags.getLsbD (key % 128 / 16) else below
  | none => below

/-- The byte and the tag that cluster `cl` has at a key: its cache's, else the home's (R27, R165, R179). -/
def State.clusterByte (s : State) (cl key : Nat) : Byte := copyByte (s.copy? cl (key / 128)) key (s.readByte key)
def State.clusterTag (s : State) (cl key : Nat) : Bool := copyTag (s.copy? cl (key / 128)) key (s.tagAt key)

/-- The byte and the tag that an access of core `core` sees: those of its L1, else its cluster's (R25, R179). -/
def State.seen (s : State) (core key : Nat) : Byte :=
  copyByte (s.copies.find? (l1Key core (key / 128))) key (s.clusterByte (clusterOf core) key)
def State.seenTag (s : State) (core key : Nat) : Bool :=
  copyTag (s.copies.find? (l1Key core (key / 128))) key (s.clusterTag (clusterOf core) key)

/-- True of a byte that a core's L1 holds written and not passed on (R25, R205). -/
def State.unpassed (s : State) (core key : Nat) : Bool :=
  (s.copies.find? (l1Key core (key / 128))).any fun c => c.dirty.getLsbD (key % 128)

/-- What a core's L1 holds written of a line stands in it, as it does from every write on (R25). -/
def State.OwnWrites (s : State) (core key : Nat) : Prop :=
  ∀ c, s.copies.find? (l1Key core (key / 128)) = some c → c.dirty &&& ~~~c.valid = 0

/-- What a copy of a line holds besides its own writes agrees with the level below. -/
def Copy.Agrees (c : Copy) (line : Nat) (byte : Nat → Byte) (tag : Nat → Bool) : Prop :=
  c.dirty &&& ~~~c.valid = 0 ∧
  (∀ i, i < 128 → c.valid.getLsbD i = true → c.dirty.getLsbD i = false → (c.data >>> (8 * i)).setWidth 8 = byte (128 * line + i)) ∧
  ∀ g, g < 8 → (∀ i, i < 16 → c.dirty.getLsbD (16 * g + i) = false) → (∃ i < 16, c.valid.getLsbD (16 * g + i) = true) →
    c.tags.getLsbD g = tag (128 * line + 16 * g)

/-- Where the bytes of a footprint stand, in address order. -/
def Plan.keys (p : Plan) : List Nat := p.parts.flatMap fun q => (List.range q.len).map fun i => q.key + i

/-- No old byte of a list of accesses stands in the L1 of the issuing core or in its cluster's cache: what they hold besides their
own writes is what the level below holds. -/
def State.Fresh (s : State) (ps : List Plan) : Prop :=
  ∀ p ∈ ps, ∀ k ∈ p.keys, let line := k / 128
    (∀ c, s.copies.find? (l1Key s.who.core line) = some c →
      c.Agrees line (s.clusterByte s.who.cluster) (s.clusterTag s.who.cluster)) ∧
    ∀ c, s.copy? s.who.cluster line = some c → c.Agrees line s.readByte s.tagAt

/-- The plan of lane `l`'s access of a lane-class memory instruction, and of those of all selected lanes (R193, R385). -/
def State.lanePlan (s : State) (a b : Nat) (ix : Index) (n need align : Nat) (acc : Access) (fifoOk : Bool) (l : Nat) :
    Plan :=
  s.plan s.who l (s.team.getK a l) (s.team.laneEa a b ix n l) n need align acc fifoOk
def State.lanePlans (s : State) (a b : Nat) (ix : Index) (n need align : Nat) (acc : Access) (fifoOk : Bool) :
    List Plan :=
  ((List.range s.team.width).filter s.team.selected).map (s.lanePlan a b ix n need align acc fifoOk)
/-- The plan of a uniform memory instruction's access (R159). -/
def State.uniPlan (s : State) (a b : Nat) (ix : Index) (n need align : Nat) (acc : Access) (fifoOk : Bool) : Plan :=
  s.plan s.who 0 (s.team.getC a) (s.team.uniEa a b ix n) n need align acc fifoOk

/-- Nothing of the device stands before the issuing team's memory accesses: no reduction is held in a merge buffer, no
snoop is unanswered, nothing runs speculatively, the error injector is off, and the matrix queue
holds no access of the team. Its core is one of the device, its ticket has 32 bits, its context's window is whole pages (R50,
R51), and only lines outside gang windows have copies, in L1s and in the caches of clusters that cache (R179). -/
def State.Clear (s : State) : Prop :=
  s.merges = [] ∧ s.snoops = [] ∧ s.specs = [] ∧ s.speculative = false ∧ injEn s.injCtl = false ∧
    s.queueOwes = false ∧ s.who.core < 320 ∧
    s.team.id.ticket < 2 ^ 32 ∧ (∀ c, s.ctx? s.team.ctx = some c → c.window % 65536 = 0) ∧
    ∀ x, (s.copies.find? x).isSome = true →
      (isL1 x = true ∨ s.caches (copyCluster x) = true) ∧ copyLine x * 128 < regionSize * winRegion 0

/-- Every access of a list passed its checks (R157, R188), in memory this device reaches itself, in no FIFO bank. -/
def Here (ps : List Plan) : Prop :=
  ∀ p ∈ ps, (∃ qs, p.res = .ok qs) ∧ ∀ q ∈ p.parts, peerOf q.key = none ∧ q.fifo = none

/-- No line of a list of accesses fails its check or is poisoned (R275, R276). -/
def State.Sound (s : State) (ps : List Plan) : Prop :=
  ∀ p ∈ ps, ∀ k ∈ p.keys, s.checkBad (k / 128) = false ∧ s.poisoned (k / 128) = false

/-- No other agent holds a line that a list of accesses writes through a shared-coherent page (R222). -/
def State.Unshared (s : State) (ps : List Plan) : Prop :=
  ∀ p ∈ ps, ∀ q ∈ p.parts, q.coh = true → ∀ line ∈ linesOf q.key q.len, s.sharers.getD line [] = []

/-- Access `p` writes the byte at `k` as its byte `j`, and no access after it in the list writes there: the highest lane
wins (R428). -/
def LastAt (ps : List Plan) (k : Nat) (p : Plan) (j : Nat) : Prop :=
  ∃ pre post, ps = pre ++ p :: post ∧ p.keys[j]? = some k ∧ k ∉ p.keys.drop (j + 1) ∧ ∀ x ∈ post, k ∉ x.keys

/-- What the stores `ps` of the issuing core leave of memory. Every stored byte reads as stored, with the tag of the store; of
several at one byte the last wins. Every other byte, and every tag of another granule, stays, at its home, for every cluster and
for every core, but for bytes the core had written before and passes on with these; on a shared-coherent page, where the line had
no copies, for they go home. -/
def State.Stored (e t : State) (ps : List Plan) (val : Nat → Nat → Byte) (tag : Nat → Bool) : Prop :=
  (∀ k p j, LastAt ps k p j → k < 2 ^ 128 → t.seen e.who.core k = val p.lane j ∧ t.seenTag e.who.core k = tag p.lane) ∧
  ∀ k, k < 2 ^ 128 →
    ((∀ x, (e.copies.find? x).isSome = true → copyLine x ≠ k / 128) ∨
      ∀ p ∈ ps, ∀ q ∈ p.parts, q.coh = true → k / 128 ∉ linesOf q.key q.len) →
    (∀ p ∈ ps, k ∉ p.keys) →
      (e.unpassed e.who.core k = false → t.readByte k = e.readByte k ∧
        (∀ cl, cl < 80 → t.clusterByte cl k = e.clusterByte cl k) ∧ ∀ x, x < 320 → t.seen x k = e.seen x k) ∧
      (e.OwnWrites e.who.core k → t.seen e.who.core k = e.seen e.who.core k) ∧
      ((∀ p ∈ ps, ∀ x ∈ p.keys, x / 16 ≠ k / 16) →
        ((∀ j, j < 16 → e.unpassed e.who.core (k / 16 * 16 + j) = false) → t.tagAt k = e.tagAt k ∧
          (∀ cl, cl < 80 → t.clusterTag cl k = e.clusterTag cl k) ∧ ∀ x, x < 320 → t.seenTag x k = e.seenTag x k) ∧
        (e.OwnWrites e.who.core k → t.seenTag e.who.core k = e.seenTag e.who.core k))

/-- What a list of accesses passed on to memory this device reaches itself, in no FIFO bank; none waits. -/
def Local (ps : List Plan) : Prop :=
  ∀ p ∈ ps, p.waits = false ∧ ∀ q ∈ p.parts, peerOf q.key = none ∧ q.fifo = none

/-- The one trap for the lanes of a memory instruction that fail (R158, R159, R194): by the lowest lane, with a NOTICE of each
line the firewall refused (R300), and NOFRAME with OVERQUOTA where the unmapped pages outnumber QUOTA (R195). -/
def State.FailsTogether (e u : State) (c : Cause) (pages : List Nat) : State :=
  let beyond := e.overQuota e.team c.faults pages
  takeTrap { c with code := if beyond then 0x22 else c.code } (if beyond then 16 else 0) (u.refusals e.who c.faults)

/-- Memory is as it was: every byte and every tag at its home, as every cluster has it and as every core sees it. -/
def State.SameMemory (s t : State) : Prop :=
  (∀ k, t.readByte k = s.readByte k ∧ t.tagAt k = s.tagAt k) ∧
    (∀ cl k, cl < 80 → k < 2 ^ 128 → t.clusterByte cl k = s.clusterByte cl k ∧ t.clusterTag cl k = s.clusterTag cl k) ∧
    ∀ core k, core < 320 → k < 2 ^ 128 → t.seen core k = s.seen core k ∧ t.seenTag core k = s.seenTag core k

/-- A copy once its written bytes have been passed on (R28). -/
def Copy.passed (c : Copy) : Copy := if c.dirty = 0 then c else { c with dirty := 0, writers := [] }

/-- A byte that a copy has written and not passed on, else what `below` says. -/
def dirtyByte (c : Option Copy) (key : Nat) (below : Byte) : Byte :=
  match c with
  | some c => if c.dirty.getLsbD (key % 128) then (c.data >>> (8 * (key % 128))).setWidth 8 else below
  | none => below

/-- The byte the home holds once what core `core` and its cluster's cache have written of its line has gone home (R203, R212). -/
def State.homeAfter (s : State) (core key : Nat) : Byte :=
  dirtyByte (s.copies.find? (l1Key core (key / 128))) key (dirtyByte (s.copy? (clusterOf core) (key / 128)) key (s.readByte key))

/-- No cache but core `core`'s L1 and its cluster's holds written bytes of the lines a list of accesses touches. -/
def State.OnlyOwn (s : State) (core : Nat) (ps : List Plan) : Prop :=
  ∀ p ∈ ps, ∀ k ∈ p.keys, ∀ x c, s.copies.find? x = some c → copyLine x = k / 128 → c.dirty ≠ 0 →
    copyHolder x = 100 + core ∨ copyHolder x = clusterOf core

/-- Read-modify-writes of `n` bytes one after another (R213): lane `l` at `key l` writes what `f l` gives of the old
value, or nothing; the old value each lane found, and the bytes after. -/
def atomChain (n : Nat) (key : Nat → Nat) (f : Nat → Nat → Option Nat) :
    List Nat → (Nat → Byte) → List (Nat × Nat) × (Nat → Byte)
  | [], m => ([], m)
  | l :: ls, m =>
    let old := natOfBytes ((List.range n).map fun i => m (key l + i))
    let m' : Nat → Byte := match f l old with
      | some x => fun a => if key l ≤ a ∧ a < key l + n then BitVec.ofNat 8 (x / 2 ^ (8 * (a - key l))) else m a
      | none => m
    let r := atomChain n key f ls m'
    ((l, old) :: r.1, r.2)

/-! ## The mailbox -/

/-- The mailbox after it has answered command `seq` (R291): the response written, BUSY clear, the interrupt sent. -/
def State.mailAnswered (s : State) (seq : Word) (status : Nat) (q : List Nat) : State :=
  { s with response := ⟨status, seq, (List.range 7).map fun i => BitVec.ofNat 64 (q.getD i 0)⟩, mailBusy := none,
           out := .msix 0 0 :: s.out }

/-- A command area with zero reserved bytes and the given parameters. -/
def mailOf (seq : Word) (ps : List Nat) : Mail :=
  ⟨0, seq, BitVec.ofNat 64 (ps.getD 0 0), BitVec.ofNat 64 (ps.getD 1 0), BitVec.ofNat 64 (ps.getD 2 0),
    BitVec.ofNat 64 (ps.getD 3 0), BitVec.ofNat 64 (ps.getD 4 0), BitVec.ofNat 64 (ps.getD 5 0),
    BitVec.ofNat 64 (ps.getD 6 0)⟩

/-- The mailbox takes commands: none runs, no reset is due, and bring-up has ended in READY (R290, R309). -/
def State.listens (s : State) : Prop := s.mailBusy = none ∧ s.resetDue = false ∧ s.bringUp = 0

/-- A command ends with a status, having changed nothing else. -/
def State.Declines (s : State) (i : Mail → Instr) (seq : Word) (ps : List Nat) (status : Nat) : Prop :=
  exec (i (mailOf seq ps)) s = .next (s.mailAnswered seq status [])

/-- A command ends with OK and results, in a state with a property. -/
def State.Obeys (s : State) (i : Mail → Instr) (seq : Word) (ps q : List Nat) (post : State → Prop) : Prop :=
  ∃ t, exec (i (mailOf seq ps)) s = .next (t.mailAnswered seq 0 q) ∧ post t

/-! ## Event queues -/

/-- Context `n`'s event queue has taken record `r` (R270): its 64 bytes at the next slot, WRITTEN one more, the interrupt,
and no other byte of memory changed. -/
def State.Wrote (s : State) (n : Nat) (r : EventRec) (t : State) : Prop :=
  ∀ c, s.ctx? n = some c →
    let ring := hostKey (c.evtRing + 64 * (c.evtWritten % 2 ^ c.evtLog2))
    let ctl := hostKey c.evtCtl
    (ring + 64 ≤ ctl ∨ ctl + 8 ≤ ring) →
      (∀ j, j < 64 → t.readByte (ring + j) = (r.bytes (c.evtWritten / 2 ^ c.evtLog2 % 2 == 0)).getD j 0) ∧
      (∀ j, j < 8 → t.readByte (ctl + j) = BitVec.ofNat 8 ((c.evtWritten + 1) / 256 ^ j)) ∧
      (∀ a, ¬ (ring ≤ a ∧ a < ring + 64) → ¬ (ctl ≤ a ∧ a < ctl + 8) → t.readByte a = s.readByte a) ∧
      (∃ c', t.ctx? n = some c' ∧ c'.evtWritten = c.evtWritten + 1) ∧ ∃ v, t.out = .msix c.function v :: s.out

/-! ## Packets -/

/-- Packet `p` of queue `q` in a slot may start (R231), its header in order (R230), with no other packet of the queue begun,
nothing in a cluster cache and nothing running speculatively. -/
def State.Starts (s : State) (slot : Nat) (q : Queue) (p : Packet) : Prop :=
  s.queue? slot = some q ∧ s.startable slot = some p ∧ p.headerOk = true ∧ (∀ x ∈ q.packets, x.wait = .notStarted) ∧
    s.copies = [] ∧ s.specs = []

/-- The line at a key passes its check, is not poisoned and no cluster holds a copy of any line. -/
def State.Clean (s : State) (key : Nat) : Prop :=
  s.copies = [] ∧ s.checkBad (key / 128) = false ∧ s.poisoned (key / 128) = false

/-! ## Copy engines -/

/-- What an agent's translation caches hold is what the tables say (R190, R191): no entry was replaced without an invalidation. -/
def State.TlbsAgree (s : State) (w : Who) : Prop :=
  ∀ n ∈ w.tlbs, ∀ e ∈ s.tlbs.getD n [], ∀ page, e.covers w.ctx page = true → ∀ c, s.ctx? w.ctx = some c →
    ∃ x, c.walk (65536 * page) = .ok x ∧ pteMig x = false ∧ tlbAttrs x = e.attrs ∧ pteFrame x = (e.base + page % 16) % 2 ^ 48

/-- The head of engine `e`'s queue is job `j`, of kind `o`, and the engine may work on it (R36, R238, R269); no access of the
device stands before it. -/
def State.Works (s : State) (e : Nat) (o : Oper) (j : Job) : Prop :=
  s.headJob e = some j ∧ j.oper = o ∧ s.jobRuns j = true ∧ s.copies = [] ∧ s.specs = [] ∧ s.snoops = [] ∧
    injEn s.injCtl = false ∧ s.TlbsAgree j.who

/-- Through a capability, every stretch of `n` bytes from `lo` that a job touches lies in memory this device reaches itself,
byte `a` at key `K a`; none of it is shared-coherent. -/
def State.Reaches (s : State) (j : Job) (k : Cap) (foot : Nat × Nat) (lo n need : Nat) (a : Access) (K : Nat → Nat) : Prop :=
  ∀ x m, lo ≤ x → x + m ≤ lo + n → 0 < m → ∃ ps, s.engPlace j k foot x m need a = .ok ps ∧
    (ps.flatMap fun p => (List.range p.len).map fun i => p.key + i) = (List.range m).map (fun i => K (x + i)) ∧
    ∀ p ∈ ps, peerOf p.key = none ∧ p.coh = false

/-- The work of job `j` is done as `i` says: byte `g x` stands at key `f x` for every `x` below `n`, no other byte changed,
and it waits for its completion with status OK; `tags` says what became of the tags. -/
def State.JobWrites (s : State) (i : Instr) (e : Nat) (j : Job) (n : Nat) (f : Nat → Nat) (g : Nat → Byte)
    (tags : State → Prop) : Prop :=
  (∀ x y, x < n → y < n → f x = f y → x = y) →
    ∃ t, exec i s = .next t ∧ (∀ x, x < n → t.readByte (f x) = g x) ∧
      (∀ a, (∀ x, x < n → f x ≠ a) → t.readByte a = s.readByte a) ∧
      t.headJob e = some { j with started := true, ended := some 0, cause := 0 } ∧ t.team = s.team ∧ t.others = s.others ∧
      tags t

/-- The tags after bytes have been written at the keys `f x`, `x` below `n`, in rows of `w` bytes: a granule written whole by one row
has the tag that `keeps` gives its first byte, one written in part has none, and every other granule has the tag it had (R166). -/
def State.TagsWritten (s : State) (n w : Nat) (f : Nat → Nat) (keeps : Nat → Bool) (t : State) : Prop :=
  ∀ g, g % 16 = 0 →
    let whole (x : Nat) : Prop := x + 16 ≤ n ∧ x / w = (x + 15) / w ∧ ∀ i, i < 16 → f (x + i) = g + i
    (∀ x, whole x → t.tagAt g = keeps x) ∧
    ((∃ x, x < n ∧ f x / 16 = g / 16) → (∀ x, ¬ whole x) → t.tagAt g = false) ∧
    ((∀ x, x < n → f x / 16 ≠ g / 16) → t.tagAt g = s.tagAt g)

/-- Lines that hold the bytes at `f x`, `x` below `n`, pass their check and are not poisoned. -/
def State.AllClean (s : State) (n : Nat) (f : Nat → Nat) : Prop :=
  ∀ x, x < n → s.checkBad (f x / 128) = false ∧ s.poisoned (f x / 128) = false

/-- The shares of a collective's members, in rank order, as an engine reads them one after another (R299): its own from SRC,
the others at the addresses of the descriptor. -/
def SharesRead (e : Nat) (j : Job) (rank own n : Nat) : List (Nat × Nat) → State → List (List Byte) → State → Prop
  | [], s, bs, t => bs = [] ∧ t = s
  | x :: xs, s, bs, t => ∃ (tb : List TByte) (rest : List (List Byte)) (u : State),
      (if x.1 = rank then s.engFetch e j j.src j.srcFoot (j.src.cur + own) n else s.memberRead e j x.2 n) = (.ok tb, u) ∧
      bs = tb.map Prod.fst :: rest ∧ SharesRead e j rank own n xs u rest t

/-! ## The fabric -/

/-- The last thing sent answers the peer's request `h`: KIND 6 with data or KIND 7 without, and OP (R296). -/
def State.Answers (t : State) (h : FabHdr) (op : Nat) (data : List Byte) : Prop :=
  ∃ r, t.out.head? = some (.packet r data) ∧ r.kind = (if data = [] then 7 else 6) ∧ r.dst = h.src ∧ r.reqid = h.reqid ∧
    r.op = BitVec.ofNat 8 op

/-- The last thing sent answers the peer's read `h` with a line and its tags (R217, R296). -/
def State.AnswersLine (t : State) (h : FabHdr) (data : List Byte) (tag : Nat → Bool) : Prop :=
  ∃ r, t.out.head? = some (.packet r data) ∧ r.kind = 6 ∧ r.dst = h.src ∧ r.reqid = h.reqid ∧ r.op = 0 ∧ hdrTagged r = true ∧
    ∀ g, g < 8 → r.tags.getLsbD g = tag g

/-- No channel of a port is paused, neither by the other end nor by this one, and no request waits in a receive buffer (R295). -/
def State.Flows (s : State) : Prop := (∀ x ∈ s.ports, x.2.paused = [] ∧ x.2.halted = []) ∧ s.heldReqs = []

/-- A request has not been performed, and the window covers its sending time (R217). -/
def State.NewRequest (s : State) (h : FabHdr) : Prop :=
  (∀ d ∈ s.dedupe, ¬ (d.id = h.reqid.toNat ∧ d.src = h.src.toNat)) ∧
    ({ s with dedupe := s.window } : State).uncovered h.sent.toNat = false

/-- Request `h` of a peer is performed when it arrives (R217, R222, R297): it is in order, has not been performed, is not stale,
a grant covers it, its page does not migrate, and no snoop stands before it. -/
def State.Admits (s : State) (h : FabHdr) : Prop :=
  hdrBad h = false ∧ s.NewRequest h ∧ s.Flows ∧ s.grantsFor h ≠ [] ∧ s.movingFrame (h.address.toNat / 65536) = false ∧
    s.cohFrame (h.address.toNat / 65536) = false ∧ s.snoops = [] ∧ s.copies = [] ∧ s.specs = [] ∧
    s.checkBad (h.address.toNat / 128) = false ∧ s.poisoned (h.address.toNat / 128) = false

end Sys2Proof.Machine
end

