-- ==== Sys2Proof/Certificates/Slice0/Obligations.lean ====
section
/-!
DEFINITION. The statements about the model: what each family of instructions and events does, completes with and leaves
alone; that decoding and encoding agree; what a step runs and keeps. Every statement about an instruction is about all its
forms; its conclusion is the next state, under hypotheses on the state and the operands alone.
-/

open Sys2Proof Sys2Proof.Machine

/-! ## Encoding -/

/-- Words whose bits the spec writes out beside their instructions (R101, R110, R144, R163, R210, R217, R312, R363, R385 and
others): the decoder reads each as the instruction it stands for, and refuses those the spec refuses (R92, R101, R103). -/
def Obligations.DecodeSampleWords : Prop :=
  (∀ x ∈ ([(0x06000000, .nop), (0x0603F001, .ret 63), (0x02A00005, .brc true 2 5), (0x021FFFF7, .brc false 1 (-9)),
      (0x03100006, .brd false 1 6), (0x07000123, .trap 0x123), (0x10000181, .setfmt 6), (0x120C4142, .shflIdx 3 4 5),
      (0x20105180, .iadd false 4 5 6), (0x28105FFF, .iaddI 4 5 (-1)), (0x201C3253, .bfx false 7 3 9 true),
      (0x230C4189, .icmp true 3 4 6 .geu), (0x24188291, .sel 6 8 10 true false 1), (0x33105180, .sadd false 4 5 6),
      (0x370C0FFB, .smovi 3 (-5)), (0x400C1080, .fadd 3 1 2), (0x420C2001, .fcvt 3 2 .f32 .f16),
      (0x482061F4, .fdiv 8 6 7 4), (0x50103344, .kseal false 4 3 13), (0x53483FF0, .kincI true 18 3 (-16)),
      (0x64102062, .ld .b32 4 2 1 .scaled 2), (0x6C203000, .st .b128 8 3 0 .absent 0), (0x740CE0A1, .ldcu 3 14 2 .scaled 1),
      (0x7A143010, .inval .pool 3 .bounds 0), (0x7B0C0020, .fence .gang .acquire 0), (0x80102042, .atom false .add 4 2 1 2),
      (0x87211080, .cas true 8 17 2 0), (0x8A1830B0, .red false .fmax 6 3 2 0), (0x91204250, .cwait 8 4 9 true 0),
      (0x9900_7080, .task 7 2 0), (0xA0265002, .mma 1 3 2 true false false 2), (0xAB08A000, .mmap 2 10 0),
      (0xE0100000, .sysr 4 0), (0xE210_2000, .pgmap 4 2), (0xFE002000, .imm 0x2000), (0xFF180000, .uni 6)] :
      List (Nat × Instr)), decodeTableWord 32 x.1 = some x.2) ∧
  ∀ w ∈ [0x00000000, 0xFFFFFFFF, 0x20000018, 0x03800010], decodeTableWord 32 w = none

/-- Decode and encode agree (R68, R92 to R110): of every encoded instruction that is well formed, whatever its operands, the
word it encodes to, alone or before other bytes, decodes to it again.
The other direction: what a 32-bit word decodes to is encoded and well formed, and encodes to that word, so no word has
two meanings and no bit of one is dropped (R68, R92 to R110). -/
def Obligations.DecodeEncodeAgree : Prop :=
  (∀ i : Instr, i.encoded = true → i.wf = true →
     ∃ w : Word, encode i = [w] ∧ decodeWord w.toNat = .ok i ∧ decodeTableWord 32 w.toNat = some i ∧
       ∀ rest, decodeBytes (bytesOfNat 4 w.toNat ++ rest) = .ok (i, rest)) ∧
  ∀ (w : Word) (i : Instr), decodeWord w.toNat = .ok i → i.encoded = true ∧ i.wf = true ∧ encode i = [w]

/-! ## One step, and what every step keeps -/

/-- A cycle passes, and a step takes the first of these that is there: a step that is owed, or an input from outside; what
has run out of time, or a step of another agent that is ready; the turn of the issuing team, or another team's where this
one may not issue. A team whose active set is empty takes up its stack (R44); an injected detection ends the turn (R283).
What the manual leaves open here is the model's choice: log entries 2, 9, 11. -/
def Obligations.StepOrder : Prop :=
  ∀ s : State,
    (∀ i rest, s.cycle.agenda = i :: rest → i.encoded = false → step s = exec i { s.cycle with agenda := rest }) ∧
    (s.cycle.agenda = [] →
      (∀ (i : Instr) (t : State), s.cycle.nextEvent = (some i, t) → step s = exec i t) ∧
      ∀ t : State, s.cycle.nextEvent = (none, t) →
        (t.canIssue t.team = false → step s = .next t.rotate) ∧
        (t.canIssue t.team = true → t.ready.team.active = 0 → t.ready.team.saved = none →
          step s = popEmpty .exit t.ready) ∧
        (t.canIssue t.team = true → ¬ (t.ready.team.active = 0 ∧ t.ready.team.saved = none) →
          ∀ u : State, t.ready.injectTiming = (true, u) → step s = .next u.rotate)) ∧
    s.cycle.timebase = s.timebase + 1 ∧
    (s.closing = [] → s.cycle.team = s.team ∧ s.cycle.mem = s.mem ∧ s.cycle.agenda = s.agenda)

/-- R78, R98, R160: a step of the issuing team runs the instruction decoded from the word at its pc, with the prefixes before
it, and then another team has its turn. The words of the group are fetched and decoded first: a word that decodes to nothing
raises ILLEGAL and a fetch that fails its own cause, and a second prefix of a kind raises PREFIX, unless the instruction's own
registers are ILLEGAL.
What the manual leaves open here is the model's choice: log entries 2, 3, 92. -/
def Obligations.StepRunsDecoded : Prop :=
  ∀ s t u : State, s.cycle.agenda = [] → s.cycle.nextEvent = (none, t) → t.canIssue t.team = true →
    ¬ (t.ready.team.active = 0 ∧ t.ready.team.saved = none) → t.ready.injectTiming = (false, u) →
    let isPrefix (i : Instr) : Prop := (∃ p, i = .imm p) ∨ ∃ r, i = .uni r
    let alike (i j : Instr) : Prop := (∃ p q, i = .imm p ∧ j = .imm q) ∨ ∃ q r, i = .uni q ∧ j = .uni r
    ∀ (pre : List Instr) (ws : List Nat) (v : State),
      Fetches u u.team.pc 0 ws v → ws.map decodeWord = pre.map Except.ok → (∀ p ∈ pre, isPrefix p) → pre.length < 64 →
      let n := pre.length
      let pc := u.team.pc + BitVec.ofNat 64 (4 * n)
      (∀ (w : Nat) (x : State) (i : Instr), v.fetchWord pc n = (.ok w, x) → decodeWord w = .ok i → ¬ isPrefix i →
        (pre = [] → ∀ y, exec i x = .next y → step s = .next y.rotate) ∧
        (∀ p, pre = [p] → ∀ y z, exec p x = .next y → exec i y = .next z → step s = .next z.rotate) ∧
        (∀ p q, pre = [p, q] → ¬ alike p q → ∀ y z r, exec p x = .next y → exec q y = .next z → exec i z = .next r →
          step s = .next r.rotate) ∧
        (¬ pre.Pairwise (fun p q => ¬ alike p q) → ∃ c ∈ [0x01, 0x02], step s = .next (fetchTrap (.instr c (insnOf i)) n x).rotate ∧
          ∀ p q : Nat, pre = [.imm p, .imm q] → (c = 0x02 ↔
            let y : Team := { x.team with latch := { x.team.latch with imm := some p, uni := none } }
            ∀ d ∈ y.uses i, d.ok x.team = true))) ∧
      (∀ (w : Nat) (x : State) (e : DecodeError), v.fetchWord pc n = (.ok w, x) → decodeWord w = .error e →
        step s = .next (fetchTrap (.instr 0x01 w) n x).rotate) ∧
      (∀ (x : State) (c : Cause) (k : Nat), v.fetchWord pc n = (.error (.trap c k), x) →
        step s = .next (fetchTrap c k x).rotate) ∧
      ∀ x : State, v.fetchWord pc n = (.error .wait, x) → step s = .next x.rotate

/-- R160, R68, R11: the word that is fetched is that of the four bytes, low byte first, that the team's core sees where the
code capability and the page tables place the pc; and fetching it changes no byte of memory.
What the manual leaves open here is the model's choice: log entries 6, 14. -/
def Obligations.FetchReadsTheCode : Prop :=
  ∀ (s : State) (pc : Dword) (n : Nat) (ps : List Part),
    let p : Plan := ⟨0, pc.toNat, .ok ps, []⟩
    s.resolve s.who 0 s.team.codeCap pc.toNat 4 permExec 4 .fetch = .ok ps → s.Clear → Here [p] → s.Sound [p] → s.Fresh [p] →
      ∃ v : State, s.fetchWord pc n = (.ok (natOfBytes (p.keys.map (s.seen s.who.core))), v) ∧ s.SameMemory v ∧
        v = { s with ctxs := v.ctxs, tlbs := v.tlbs, copies := v.copies }

/-- After warm reset: bring-up is in progress and the power state reads running (R289), every bank is a cluster cache, no
context and no team exists, MODE, FMT and FLAGS are 0 (R86), NOC_WEIGHT, the injector, the sweep clock, the phase and
notify counts hold the values of their maps, and every function's stage-2 owner is 0.
The invariants of the next statements hold after reset.
What the manual leaves open here is the model's choice: log entries 7, 8. -/
def Obligations.ResetState : Prop :=
  (let s := State.reset
   s.bringUp = 1 ∧ s.pstate = 0 ∧ (∀ core b, b < 4 → ((s.core core).bank b).mode = .cache) ∧ s.ctxs = [] ∧ s.gangs = [] ∧
     s.others = [] ∧ s.queues = [] ∧ s.team.mode = 0 ∧ s.team.fmt = 0 ∧ s.team.flags = 0 ∧ s.nocWeight = 0x862 ∧
     s.injCtl = 0 ∧ s.injSeed = 1 ∧ s.injRate = 0 ∧ s.timebase = 0 ∧ s.sweepClock = 0 ∧ s.phaseDone = 0 ∧
     s.phaseResult = false ∧ s.notifyDrop = 0 ∧ (∀ f, SMap.getD s.fnOwner f 0 = 0) ∧
     s.deviceInfo.toNat / 2 ^ 24 = 0x4E ∧ s.deviceInfo.toNat / 2 ^ 16 % 256 = 0x01) ∧
 State.reset.Inv

/-- No machine step stops: every instruction and every event answers a next state, in every state; and so does every step
whose agenda holds only events, and leaves one that holds only events.
What the manual leaves open here is the model's choice: log entries 9, 10. -/
def Obligations.StepsGoOn : Prop :=
  (∀ (i : Instr) (s : State), ∃ t, exec i s = .next t) ∧
    ∀ s : State, (∀ i ∈ s.agenda, i.encoded = false) →
      ∃ t : State, step s = .next t ∧ ∀ i ∈ t.agenda, i.encoded = false

/-- Every step keeps memory in its canonical form: addresses strictly rising, and no entry equal to what an unlisted address
reads as.
What the manual leaves open here is the model's choice: log entries 5, 6. -/
def Obligations.StepKeepsMemoryForm : Prop :=
  ∀ s t : State, Memory.wf s.mem = true → step s = .next t → Memory.wf t.mem = true

/-- R165: host memory holds no tags, and no step gives it one. -/
def Obligations.StepKeepsHostUntagged : Prop :=
  ∀ s t : State, (∀ g, regionSize ≤ 16 * g → 16 * g < 2 * regionSize → SMap.getD s.tags g false = false) →
    step s = .next t → ∀ g, regionSize ≤ 16 * g → 16 * g < 2 * regionSize → SMap.getD t.tags g false = false

/-! ## Checks, traps and control flow -/

/-- R98, R96: the checks before an instruction takes effect, in order: registers allocated and aligned (ILLEGAL), prefixes
it can take (PREFIX), privilege (ILLEGAL), a lookahead hazard under LACHK (LOOKAHEAD), and convergence for the collective
kind (CONVERGE). The first that fails traps from the state as it stood. -/
def Obligations.ChecksStopInOrder : Prop :=
  ∀ (s : State) (i : Instr), i.encoded = true → (∀ p, i ≠ .imm p) → (∀ r, i ≠ .uni r) → s.team.blocked i = false →
    let t := s.team
    let operands : Prop := ∀ u ∈ t.uses i, u.ok t = true
    let fitting : Prop := (takes i).fits t.latch = true
    let rights : Prop := (s.entering i).team.privOk i = true
    let free : Prop := t.hazard i = false
    let whole : Prop := kindOf i = .collective → t.active = fullMask t.width
    (¬ operands → exec i s = .next (takeTrap (.instr 0x01 (insnOf i)) 0 s)) ∧
    (operands → ¬ fitting → exec i s = .next (takeTrap (.instr 0x02 (insnOf i)) 0 s)) ∧
    (operands → fitting → ¬ rights → exec i s = .next (takeTrap (.instr 0x01 (insnOf i)) 0 s)) ∧
    (operands → fitting → rights → ¬ free → exec i s = .next (takeTrap (.instr 0x04 (insnOf i)) 0 s)) ∧
    (operands → fitting → rights → free → ¬ whole → exec i s = .next (takeTrap (.instr 0x03 (insnOf i)) 0 s)) ∧
    (operands → fitting → rights → free → whole → s.issues i = true)

/-- R96: privilege alone. RTE, TLBINV and PGMAP need SUPER; SYSR and SYSW what the register their selector names needs,
and an unassigned one is refused at every privilege. What is refused raises ILLEGAL from the state as it stood. -/
def Obligations.PrivilegeIsChecked : Prop :=
  (∀ (s : State) (i : Instr), i = .rte ∨ i = .tlbinvAll ∨ (∃ a, i = .tlbinv a) ∨ (∃ d a, i = .pgmap d a) →
    s.team.blocked i = false → s.team.priv = .user → (∀ u ∈ s.team.uses i, u.ok s.team = true) → (takes i).fits s.team.latch = true →
    exec i s = .next (takeTrap (.instr 0x01 (insnOf i)) 0 s)) ∧
  ∀ (s : State) (d b : Nat),
    (let i := Instr.sysr d b
     let sel := (s.entering i).team.selector b
     s.team.blocked i = false → (sysRow sel = none ∨ ∃ r, sysRow sel = some r ∧ s.team.priv.rank < r.readAt.rank) →
      (∀ u ∈ s.team.uses i, u.ok s.team = true) → (takes i).fits s.team.latch = true →
      exec i s = .next (takeTrap (.instr 0x01 (insnOf i)) 0 s)) ∧
    (let i := Instr.sysw d b
     let sel := (s.entering i).team.selector b
     s.team.blocked i = false →
      (sysRow sel = none ∨ ∃ r, sysRow sel = some r ∧
        (r.writeAt = none ∨ ∃ p, r.writeAt = some p ∧ s.team.priv.rank < p.rank)) →
      (∀ u ∈ s.team.uses i, u.ok s.team = true) → (takes i).fits s.team.latch = true →
      exec i s = .next (takeTrap (.instr 0x01 (insnOf i)) 0 s))

/-- R75, R266, R268: taking a supervisor trap. Windows close and outstanding results land first; then TRAP_PC, TRAP_CAUSE,
REPLAY_MASK and the saved state are written, MODE and FMT become 0, c13 and the code capability are the supervisor's, the
privilege is SUPER and the pc the handler's address. FLAGS, the divergence stack and every other team stand. A team that
still waits for a remote result or a matrix operation holds the trap until it is done.
R266: which lanes replay: the faulting lanes of a lane cause, none for SWTRAP, BKPT and asynchronous causes, and the
active set for any other instruction cause.
R318, R437: BKPT and TRAP raise their causes, TRAP with its 12-bit code as DETAIL, and so complete: with nothing outstanding,
each enters the supervisor's handler.
What the manual leaves open here is the model's choice: log entries 34, 80. -/
def Obligations.TrapEntryAndReplay : Prop :=
  (∀ (s : State) (c : Cause) (k : Ctx),
     let t := s.team.closeWindows.finishAll
     s.ctx? s.team.ctx = some k → s.specOf s.team = none →
     (t.pending = [] → s.queueOf s.team = false → k.trapV = true → s.team.saved = none → containCause c.code = false →
       inCode k.supCode k.trapAddr 4 = true →
       let u := takeTrap c 0 s
       u.team.pc = k.trapAddr ∧ u.team.priv = .super ∧ u.team.mode = 0 ∧ u.team.fmt = 0 ∧ u.team.flags = t.flags ∧
       u.team.getC 13 = k.supCap ∧ (∀ r, r ≠ 13 → u.team.getC r = t.getC r) ∧ u.team.codeCap = k.supCode ∧
       u.team.saved = some ⟨t.active, t.mode, t.fmt, t.getC 13, t.codeCap, t.priv⟩ ∧
       u.team.trap.pc = t.pc ∧ u.team.trap.replay = c.replay t ∧
       u.team.trap.cause.toNat % 256 = c.code % 256 ∧
       u.team.active = (if c.replay t = 0 then t.active else c.replay t) ∧
       u.team.stack = t.stack ∧ u.team.v = t.v ∧ u.team.q = t.q ∧ u.team.s = t.s ∧ u.team.p = t.p ∧
       u.mem = s.mem ∧ u.tags = s.tags ∧ u.copies = s.copies ∧ u.ctxs = s.ctxs ∧ u.agenda = s.agenda ∧
       ∀ (n : Nat) (o : Team), s.others[n]? = some o → o.id ≠ s.team.id → u.others[n]? = some o) ∧
     (t.pending ≠ [] ∨ s.queueOf s.team = true →
       let u := takeTrap c 0 s
       u.team = { t with latch := Latch.empty, run := .trapping, trapNext := some { t.trapRec c with flags := 0 } } ∧
         u.mem = s.mem)) ∧
  (∀ (t : Team), t.replay = none →
     (∀ code detail insn, code ≠ 0x08 → code ≠ 0x09 → (Cause.detailed code detail insn).replay t = t.active) ∧
     (∀ detail insn, (Cause.detailed 0x08 detail insn).replay t = 0 ∧ (Cause.detailed 0x09 detail insn).replay t = 0) ∧
     (∀ f insn, f.cause ≠ 0x08 → f.cause ≠ 0x09 → (Cause.uniform f insn).replay t = t.active) ∧
     ∀ f fs insn, f.cause ≠ 0x08 → f.cause ≠ 0x09 →
       t.IsSet ((Cause.lanes (f :: fs) insn).replay t) (fun l => (f :: fs).any fun x => x.lane == l)) ∧
  ∀ (s : State) (code : Nat),
    s.TrapsWhen .bkpt (fun _ => True) (fun _ => .instr 0x09 (insnOf .bkpt)) ∧
    s.TrapsWhen (.trap code) (fun _ => True) (fun _ => .detailed 0x08 code (insnOf (.trap code))) ∧
    (∀ t : Team, (t.trapRec (.detailed 0x08 code (insnOf (.trap code)))).rec2.toNat / 2 ^ 32 = code % 4096) ∧
    ∀ (i : Instr) (cause detail : Nat) (k : Ctx), (i = .bkpt ∧ cause = 0x09 ∧ detail = 0 ∨ i = .trap code ∧ cause = 0x08 ∧ detail = code) →
      s.issues i = true → s.team.pending = [] → s.team.past = [] → s.queueOf s.team = false → s.ctx? s.team.ctx = some k →
      s.specOf s.team = none → k.trapV = true → s.team.saved = none → inCode k.supCode k.trapAddr 4 = true →
        ∃ t, exec i s = .next t ∧ t.team.pc = k.trapAddr ∧ t.team.priv = .super ∧ t.team.run = .ready ∧ t.team.trap.pc = s.team.pc ∧
          t.team.trap.cause.toNat % 256 = cause ∧ t.team.trap.rec2.toNat / 2 ^ 32 = detail % 4096 ∧ t.team.trap.replay = 0 ∧
          t.team.saved = some ⟨s.team.active, s.team.mode, s.team.fmt, s.team.getC 13, s.team.codeCap, s.team.priv⟩ ∧
          t = { s with team := t.team, others := t.others } ∧
          ∀ (n : Nat) (o : Team), s.others[n]? = some o → o.id ≠ s.team.id → t.others[n]? = some o

/-- R267, R196, R414: RTE gives back everything trap entry saved, and goes on at the trapped instruction for the lanes to
replay, or after it when none is. Outside a handler it is ILLEGAL; a return outside the restored code capability raises
CAP_BOUND.
R267: EXIT in a handler takes its lanes out of the team, of every entry, of the lanes to replay and of the saved active
set, and leaves the handler as RTE does when some saved lane is left. -/
def Obligations.ReturnFromHandlers : Prop :=
  (∀ (s : State) (sv : Saved),
     let back (t : Team) : Dword :=
       if t.trap.replay = 0 then t.trap.cont.getD (t.trap.pc + BitVec.ofNat 64 (4 * t.trap.words)) else t.trap.pc
     s.EndsWhen .rte (fun t => t.saved = some sv ∧ inCode sv.codeCap (back t) 4 = true) (fun t u =>
       u = { t with active := sv.active, mode := sv.mode, fmt := sv.fmt, codeCap := sv.codeCap, priv := sv.priv,
                    saved := none, pc := back t, c := u.c, latch := Latch.empty,
                    replay := if t.trap.replay = 0 then none else some t.trap.replay,
                    cont := if t.trap.replay = 0 then none else t.trap.cont,
                    replayPages := if t.trap.replay = 0 then [] else t.replayPages,
                    pending := t.pending.map Pending.dropC13 } ∧
       u.getC 13 = sv.c13 ∧ ∀ r, r ≠ 13 → u.getC r = t.getC r) ∧
     s.TrapsWhen .rte (fun t => t.saved = none) (fun _ => .instr 0x01 (insnOf .rte)) ∧
     s.TrapsWhen .rte (fun t => t.saved = some sv ∧ inCode sv.codeCap (back t) 4 = false)
       (fun _ => .instr 0x11 (insnOf .rte))) ∧
  ∀ (s : State) (sv : Saved),
    let left (t : Team) : Mask := t.trap.replay &&& ~~~t.active
    s.EndsWhen .exit (fun t => t.saved = some sv ∧ sv.active &&& ~~~t.active ≠ 0) (fun t u =>
      u = { t with active := sv.active &&& ~~~t.active, exited := t.exited ||| t.active, mode := sv.mode, fmt := sv.fmt,
                   stack := t.stack.map fun x => { x with mask := x.mask &&& ~~~t.active },
                   trap := { t.trap with replay := left t }, codeCap := sv.codeCap, priv := sv.priv, saved := none,
                   pc := if left t = 0 then t.trap.cont.getD (t.trap.pc + BitVec.ofNat 64 (4 * t.trap.words))
                     else t.trap.pc,
                   c := u.c, latch := Latch.empty, replay := if left t = 0 then none else some (left t),
                   cont := if left t = 0 then none else t.trap.cont,
                   replayPages := if left t = 0 then [] else t.replayPages, pending := t.pending.map Pending.dropC13 } ∧
      u.getC 13 = sv.c13 ∧ ∀ r, r ≠ 13 → u.getC r = t.getC r)

/-- R319, R320, R323, R412, R160: branches. The target is the branch's own address plus four times its offset; one outside
the code capability raises CAP_BOUND, taken or not. BRC votes over the selected lanes; CALL writes the return address to
s63; RET also refuses an address that no instruction can have. R405, R442: NOP and YIELD change no state but the team's place in
its code. -/
def Obligations.BranchesAndCalls : Prop :=
  ∀ (s : State) (off : Int) (p a : Nat),
    let target (t : Team) : Dword := t.pc + BitVec.ofInt 64 (4 * off)
    let inside (t : Team) : Prop := inCode t.codeCap (target t) 4 = true
    let any (t : Team) : Prop := ∃ l < t.width, t.selected l = true ∧ t.getP p l = true
    let all (t : Team) : Prop := ∀ l < t.width, t.selected l = true → t.getP p l = true
    let goesTo (x : Team → Dword) (t u : Team) : Prop := u = { t.advance with pc := x t }
    let good (x : Dword) (t : Team) : Prop :=
      x.toNat < 2 ^ 57 ∧ x.toNat % 4 = 0 ∧ inCode t.codeCap x 4 = true
    s.EndsWhen (.bra off) inside (goesTo target) ∧
    s.EndsWhen (.brc false p off) (fun t => inside t ∧ any t) (goesTo target) ∧
    s.EndsWhen (.brc false p off) (fun t => inside t ∧ ¬ any t) (fun t u => u = t.advance) ∧
    s.EndsWhen (.brc true p off) (fun t => inside t ∧ all t) (goesTo target) ∧
    s.EndsWhen (.brc true p off) (fun t => inside t ∧ ¬ all t) (fun t u => u = t.advance) ∧
    s.EndsWhen (.call off) inside (fun t u => u = { t.advance with pc := target t, s := u.s } ∧
      u.getS 63 = t.pc + 4 ∧ ∀ r, r ≠ 63 → u.getS r = t.getS r) ∧
    s.EndsWhen (.ret a) (fun t => good (t.getS a) t) (goesTo fun t => t.getS a) ∧
    (∀ i, i = .bra off ∨ (∃ v, i = .brc v p off) ∨ i = .call off ∨ i = .mark off ∨ (∃ n, i = .brd n p off) →
      s.TrapsWhen i (fun t => ¬ inside t) (fun _ => .instr 0x11 (insnOf i))) ∧
    s.TrapsWhen (.ret a) (fun t => ¬ good (t.getS a) t) (fun _ => .instr 0x11 (insnOf (.ret a))) ∧
    s.Ends .nop (fun t u => u = t.advance) ∧ s.Ends .yield (fun t u => u = t.advance)

/-- R59 to R61, R321, R394: MARK pushes a JOIN entry; BRD parts the active set by a predicate and the guard: nothing is
pushed when no active lane or every active lane branches, else a PATH entry keeps the lanes that do. A push on a full
stack raises STACK with WHY 1 and changes nothing else.
R60, R371, R328: JOIN takes up the first entry that holds a live lane, with its lanes less the exited ones, its MODE and
FMT and its address; without one, an empty team retires, and else STACK is raised, WHY 2 with spilled entries and 3
without. EXIT outside a handler takes its lanes out of the team and of every entry, and then does the same. -/
def Obligations.DivergenceStack : Prop :=
  (∀ (s : State) (neg : Bool) (p : Nat) (off : Int) (m : Mask),
     let target (t : Team) : Dword := t.pc + BitVec.ofInt 64 (4 * off)
     let inside (t : Team) : Prop := inCode t.codeCap (target t) 4 = true
     let takers (t : Team) : Prop := t.IsSet m fun l => t.selected l && (t.getP p l != neg)
     s.EndsWhen (.mark off) (fun t => inside t ∧ t.stack.length < 32) (fun t u =>
       u = { t.advance with stack := ⟨.join, target t, t.active, t.mode, t.fmt⟩ :: t.stack,
                            deep := max t.deep (t.stack.length + 1) }) ∧
     s.EndsWhen (.brd neg p off) (fun t => inside t ∧ takers t ∧ m = 0) (fun t u => u = t.advance) ∧
     s.EndsWhen (.brd neg p off) (fun t => inside t ∧ takers t ∧ m ≠ 0 ∧ t.active &&& ~~~m = 0) (fun t u =>
       u = { t.advance with pc := target t }) ∧
     s.EndsWhen (.brd neg p off)
       (fun t => inside t ∧ takers t ∧ m ≠ 0 ∧ t.active &&& ~~~m ≠ 0 ∧ t.stack.length < 32) (fun t u =>
       u = { t.advance with stack := ⟨.path, target t, m, t.mode, t.fmt⟩ :: t.stack, active := t.active &&& ~~~m,
                            deep := max t.deep (t.stack.length + 1) }) ∧
     (s.issues (.mark off) = true → inside (s.entering (.mark off)).team →
       32 ≤ (s.entering (.mark off)).team.stack.length →
       exec (.mark off) s = .next (takeTrap (.detailed 0x05 1 (insnOf (.mark off))) 0
         ((s.entering (.mark off)).setTeam fun t => { t with why := 1 }))) ∧
     (s.issues (.brd neg p off) = true → inside (s.entering (.brd neg p off)).team →
       takers (s.entering (.brd neg p off)).team → m ≠ 0 → (s.entering (.brd neg p off)).team.active &&& ~~~m ≠ 0 →
       32 ≤ (s.entering (.brd neg p off)).team.stack.length →
       exec (.brd neg p off) s = .next (takeTrap (.detailed 0x05 1 (insnOf (.brd neg p off))) 0
         ((s.entering (.brd neg p off)).setTeam fun t => { t with why := 1 })))) ∧
  ∀ (s : State) (e : StackEntry) (rest : List StackEntry),
    let stripped (t : Team) (es : List StackEntry) : List StackEntry :=
      es.map fun x => { x with mask := x.mask &&& ~~~t.active }
    let gone (t : Team) : Mask := t.exited ||| t.active
    let stackTrap (i : Instr) (pre : Team → Prop) (why : Nat) : Prop :=
      s.issues i = true → pre (s.entering i).team →
        exec i s = .next (takeTrap (.detailed 0x05 why (insnOf i)) 0
          ((s.entering i).setTeam fun t => { t with why := why }))
    s.EndsWhen .join (fun t => t.LiveAt t.exited e rest) (fun t u =>
      u = { t.advance with stack := rest, active := e.mask &&& ~~~t.exited, mode := e.mode, fmt := e.fmt,
                           pc := e.addr }) ∧
    stackTrap .join (fun t => t.NoneLive t.exited ∧ t.spilled ≠ 0) 2 ∧
    stackTrap .join (fun t => t.NoneLive t.exited ∧ t.spilled = 0 ∧ t.active ≠ 0) 3 ∧
    s.RetiresWhen .join (fun t => t.NoneLive t.exited ∧ t.spilled = 0 ∧ t.active = 0) id ∧
    s.EndsWhen .exit (fun t => t.saved = none ∧ t.LiveAt (gone t) e rest) (fun t u =>
      u = { t.advance with stack := stripped t rest, exited := gone t, active := e.mask &&& ~~~gone t, mode := e.mode,
                           fmt := e.fmt, pc := e.addr }) ∧
    stackTrap .exit (fun t => t.saved = none ∧ t.NoneLive (gone t) ∧ t.spilled ≠ 0) 2 ∧
    s.RetiresWhen .exit (fun t => t.saved = none ∧ t.NoneLive (gone t) ∧ t.spilled = 0) (fun t =>
      { t with exited := gone t, stack := stripped t t.stack, active := 0 })

/-! ## Uniform instructions, predicates, modes, prefixes -/

/-- R83: a write to p0 is discarded and it reads true; a 64-bit uniform register holds the sign-extended 32 bits that a
32-bit uniform operation writes. Here for every predicate write and for the 32-bit uniform sum.
R387, R415, R416, R424 to R426: the uniform integer instructions, 64 bits wide or on the low 32 bits with the result
sign-extended; only the destination changes.
R103, R387, R316, R417, R423: the uniform logical operations, shifts and field extraction. -/
def Obligations.UniformIntegers : Prop :=
  ((∀ (t : Team) (sel : Mask) (f : Nat → Bool) (l : Nat), t.getP 0 l = true ∧ t.setP 0 sel f = t) ∧
     ∀ (s : State) (d a b : Nat), s.WritesS (.sadd false d a b) d fun t =>
       (((t.getS a).setWidth 32 + (t.sB b).setWidth 32 : Word)).signExtend 64) ∧
  (∀ s : State,
     s.UBinary .sadd (fun n x y => BitVec.ofInt n (x.toInt + y.toInt)) ∧
     s.UBinary .ssub (fun n x y => BitVec.ofInt n (x.toInt - y.toInt)) ∧
     s.UBinary .smul (fun n x y => BitVec.ofInt n (x.toInt * y.toInt)) ∧
     s.UBinary .smulh (fun n x y => BitVec.ofInt n (x.toInt * y.toInt / 2 ^ n)) ∧
     s.UBinary .smulhUnsigned (fun n x y => BitVec.ofNat n (x.toNat * y.toNat / 2 ^ n)) ∧
     (∀ d a b, s.WritesS (.smad true d a b) d
         (fun t => BitVec.ofInt 64 ((t.getS a).toInt * (t.sB b).toInt + (t.getS d).toInt)) ∧
       s.WritesS (.smad false d a b) d
         (fun t => (BitVec.ofInt 32 ((t.getS a).toInt * (t.sB b).toInt + (t.getS d).toInt)).signExtend 64)) ∧
     s.UBinary (fun w d a b => .smin w d a b false) (fun n x y => BitVec.ofInt n (min x.toInt y.toInt)) ∧
     s.UBinary (fun w d a b => .smin w d a b true) (fun n x y => BitVec.ofNat n (min x.toNat y.toNat)) ∧
     s.UBinary (fun w d a b => .smax w d a b false) (fun n x y => BitVec.ofInt n (max x.toInt y.toInt)) ∧
     s.UBinary (fun w d a b => .smax w d a b true) (fun n x y => BitVec.ofNat n (max x.toNat y.toNat)) ∧
     (∀ d b, s.WritesS (.smov true d b) d (fun t => t.sB b) ∧
       s.WritesS (.smov false d b) d (fun t => ((t.sB b).setWidth 32).signExtend 64)) ∧
     (∀ d k, s.WritesS (.smovi d k) d (fun _ => BitVec.ofInt 64 k)) ∧
     s.UShort .saddI (fun x y => BitVec.ofInt 64 (x.toInt + y.toInt)) ∧
     s.UShort .smulI (fun x y => BitVec.ofInt 64 (x.toInt * y.toInt))) ∧
  ∀ s : State,
    s.UBinary .sand (fun _ x y => x &&& y) ∧ s.UBinary .sor (fun _ x y => x ||| y) ∧
    s.UBinary .sxor (fun _ x y => x ^^^ y) ∧
    s.UBinary .sshl (fun n x y => BitVec.ofNat n (x.toNat * 2 ^ (y.toNat % 256))) ∧
    s.UBinary .sshr (fun n x y => BitVec.ofNat n (x.toNat / 2 ^ (y.toNat % 256))) ∧
    s.UBinary .ssar (fun n x y => BitVec.ofInt n (x.toInt / 2 ^ (y.toNat % 256))) ∧
    s.UBinary (fun w d a b => .sbfx w d a b true)
      (fun n x y => BitVec.ofNat n (x.toNat / 2 ^ (y.toNat % 256) % 2 ^ min (y.toNat / 256 % 256) n)) ∧
    s.UBinary (fun w d a b => .sbfx w d a b false)
      (fun n x y =>
        let len := min (y.toNat / 256 % 256) n
        let field := x.toNat / 2 ^ (y.toNat % 256) % 2 ^ len
        BitVec.ofInt n (if 0 < len ∧ field.testBit (len - 1) then (field : Int) - 2 ^ len else field)) ∧
    s.UShort .sandI (fun x y => x &&& y) ∧ s.UShort .sorI (fun x y => x ||| y) ∧ s.UShort .sxorI (fun x y => x ^^^ y) ∧
    s.UShort .sshlI (fun x y => BitVec.ofNat 64 (x.toNat * 2 ^ (y.toNat % 256))) ∧
    s.UShort .sshrI (fun x y => BitVec.ofNat 64 (x.toNat / 2 ^ (y.toNat % 256))) ∧
    s.UShort .ssarI (fun x y => BitVec.ofInt 64 (x.toInt / 2 ^ (y.toNat % 256)))

/-- R407, R419, R426, R440, R413: the predicate operations and comparisons write the selected lanes alone; SSEL and the
votes reduce a predicate over the selected lanes; RFL takes the first selected lane's value, or leaves sD when no lane
is selected.
R422: SHFL moves a 32-bit value between lanes. A source lane is an exact integer, found by the index, the distance up or
down, or the exclusive or; it must be a lane of the team and active, guarded off or not, or the lane keeps its own A. -/
def Obligations.PredicatesVotesAndShuffles : Prop :=
  (∀ s : State,
     (∀ d a b, s.WritesP (.pand d a b) d (fun t l => t.getP a l && t.getP b l) ∧
       s.WritesP (.por d a b) d (fun t l => t.getP a l || t.getP b l) ∧
       s.WritesP (.pxor d a b) d (fun t l => t.getP a l ^^ t.getP b l)) ∧
     (∀ d a, s.WritesP (.pnot d a) d (fun t l => !t.getP a l)) ∧
     (∀ d a b c, s.WritesP (.scmp64 d a b c) d (fun t _ => condHolds (t.getS a) (t.sB b) c) ∧
       s.WritesP (.scmp32 d a b c) d
         (fun t _ => condHolds (n := 32) ((t.getS a).setWidth 32) ((t.sB b).setWidth 32) c)) ∧
     (∀ d a b p, s.WritesS (.ssel d a b true p) d (fun t =>
         if ∀ l < t.width, t.selected l = true → t.getP p l = true then t.getS a else t.sB b) ∧
       s.WritesS (.ssel d a b false p) d (fun t =>
         if ∃ l < t.width, t.selected l = true ∧ t.getP p l = true then t.getS a else t.sB b)) ∧
     (∀ d a, s.WritesS (.voteAny d a) d (fun t =>
         if ∃ l < t.width, t.selected l = true ∧ t.getP a l = true then 1 else 0) ∧
       s.WritesS (.voteAll d a) d (fun t =>
         if ∀ l < t.width, t.selected l = true → t.getP a l = true then 1 else 0) ∧
       s.WritesS (.voteCount d a) d (fun t =>
         BitVec.ofNat 64 ((List.range t.width).countP fun l => t.selected l && t.getP a l))) ∧
     ∀ d a w, s.Ends (.rflLane d a w) fun t u =>
       ((∀ l < t.width, t.selected l = false) → u = t.advance) ∧
       ∀ l < t.width, t.selected l = true → (∀ k < l, t.selected k = false) →
         t.OnlyS u d ∧ u.getS d = if w then t.getV64 a l else (t.getV a l).setWidth 64) ∧
  ∀ (s : State) (d a b : Nat),
    let from' (t : Team) (l : Nat) (x : Int) : Word :=
      if 0 ≤ x ∧ x < t.width ∧ t.active.getLsbD x.toNat = true then t.vA a x.toNat else t.vA a l
    s.WritesV (.shflIdx d a b) d (fun t l => from' t l (t.vB b l).toNat) ∧
    s.WritesV (.shflUp d a b) d (fun t l => from' t l ((l : Int) - (t.vB b l).toNat)) ∧
    s.WritesV (.shflDown d a b) d (fun t l => from' t l ((l : Int) + (t.vB b l).toNat)) ∧
    s.WritesV (.shflXor d a b) d (fun t l => from' t l ((l ^^^ (t.vB b l).toNat : Nat) : Int))

/-- R421, R86: SETMODE and SETFMT write all of their register, and nothing else, when every field holds a code its map
allows and no reserved bit is set; else they raise FORMAT and change nothing first.
R76 to R78, R99: the two prefixes leave their value with the team for the one instruction that follows; with them, B is
the sign-extended immediate or the uniform register, and A the uniform register when both stand; a second prefix of a
kind raises PREFIX. -/
def Obligations.ModesAndPrefixes : Prop :=
  (∀ (s : State) (b : Nat),
     let x (t : Team) : Word := (t.sBz b).setWidth 32
     let modeOk (m : Word) : Prop :=
       m.toNat / 2 ^ 13 = 0 ∧ m.toNat / 2 ^ 7 % 8 ≤ 4 ∧ m.toNat / 2 ^ 4 % 8 ≤ 3 ∧ ¬ (m.toNat % 16 = 8)
     let scaleOk (n : Nat) : Prop := n ≤ 40 ∨ (216 ≤ n ∧ n < 256)
     let fmtOk (m : Word) : Prop :=
       m.toNat % 8 ≤ 5 ∧ m.toNat / 8 % 8 ≤ 5 ∧ scaleOk (m.toNat / 2 ^ 6 % 256) ∧ scaleOk (m.toNat / 2 ^ 14 % 256) ∧
         scaleOk (m.toNat / 2 ^ 22 % 256) ∧ m.toNat / 2 ^ 30 ≤ 2
     s.EndsWhen (.setmode b) (fun t => modeOk (x t)) (fun t u => u = { t.advance with mode := x t }) ∧
     s.TrapsWhen (.setmode b) (fun t => ¬ modeOk (x t)) (fun _ => .instr cFormat (insnOf (.setmode b))) ∧
     s.EndsWhen (.setfmt b) (fun t => fmtOk (x t)) (fun t u => u = { t.advance with fmt := x t }) ∧
     s.TrapsWhen (.setfmt b) (fun t => ¬ fmtOk (x t)) (fun _ => .instr cFormat (insnOf (.setfmt b)))) ∧
  (∀ (s : State) (p : Nat), s.team.latch.imm = none →
      exec (.imm p) s = .next { s with team :=
        { s.team with latch := { s.team.latch with imm := some p, words := s.team.latch.words + 1 } } }) ∧
  (∀ (s : State) (r : Nat), s.team.latch.uni = none →
      exec (.uni r) s = .next { s with team :=
        { s.team with latch := { s.team.latch with uni := some r, words := s.team.latch.words + 1 } } }) ∧
  (∀ (s : State) (p q : Nat), s.team.latch.imm = some q →
      exec (.imm p) s = .next (takeTrap (.instr cPrefix (insnOf (.imm p))) 0 s)) ∧
  (∀ (s : State) (r q : Nat), s.team.latch.uni = some q →
      exec (.uni r) s = .next (takeTrap (.instr cPrefix (insnOf (.uni r))) 0 s)) ∧
  ∀ (t : Team) (a b l : Nat),
    (t.latch.imm = none → t.latch.uni = none →
      t.vB b l = t.getV b l ∧ t.vA a l = t.getV a l ∧ t.vB64 b l = t.getV64 b l ∧ t.vA64 a l = t.getV64 a l ∧
        t.sB b = t.getS b ∧ t.sBz b = t.getS b) ∧
    (∀ r, t.latch.imm = none → t.latch.uni = some r →
      t.vB b l = (t.getS r).setWidth 32 ∧ t.vB64 b l = t.getS r ∧ t.vA a l = t.getV a l) ∧
    ∀ p, p < 2 ^ 24 → t.latch.imm = some p →
      t.vB b l = ((BitVec.ofNat 24 p).signExtend 32) ∧ t.vB64 b l = ((BitVec.ofNat 24 p).signExtend 64) ∧
        t.sB b = ((BitVec.ofNat 24 p).signExtend 64) ∧ t.sBz b = ((BitVec.ofNat 24 p).setWidth 64) ∧
        ∀ r, t.latch.uni = some r → t.vA a l = (t.getS r).setWidth 32 ∧ t.vA64 a l = t.getS r

/-! ## Vector integer instructions -/

/-- R311, R363, R367, R358, R364: sums, differences, products, high halves of products and multiply-adds, as exact
integers narrowed once; and the long moves of a register, a prefix or an immediate (R401). Only the destination in the
selected lanes changes. -/
def Obligations.VectorSumsAndProducts : Prop :=
  ∀ s : State,
    s.Binary .iadd (fun n x y => BitVec.ofInt n (x.toInt + y.toInt)) ∧
    s.Binary .isub (fun n x y => BitVec.ofInt n (x.toInt - y.toInt)) ∧
    s.Binary .imul (fun n x y => BitVec.ofInt n (x.toInt * y.toInt)) ∧
    s.Binary .imulh (fun n x y => BitVec.ofInt n (x.toInt * y.toInt / 2 ^ n)) ∧
    s.Binary .imulhUnsigned (fun n x y => BitVec.ofNat n (x.toNat * y.toNat / 2 ^ n)) ∧
    s.Ternary .imad (fun n z x y => BitVec.ofInt n (x.toInt * y.toInt + z.toInt)) ∧
    (∀ d b, s.WritesV (.mov false d b) d (fun t l => t.vB b l) ∧
      s.WritesV64 (.mov true d b) d (fun t l => t.vB64 b l)) ∧
    (∀ d k, s.WritesV (.movi d k) d (fun _ _ => BitVec.ofInt 32 k)) ∧
    s.Short .iaddI (fun x y => BitVec.ofInt 32 (x.toInt + y.toInt)) ∧
    s.Short .imulI (fun x y => BitVec.ofInt 32 (x.toInt * y.toInt))

/-- R317, R316, R409, R325, R417, R423: shifts by B[7:0] as multiplication and division by a power of two, so that a count
of the width or more shifts every bit out; bit fields, bit counts and the logical operations. -/
def Obligations.VectorShiftsFieldsAndLogic : Prop :=
  ∀ s : State,
    s.Binary .shl (fun n x y => BitVec.ofNat n (x.toNat * 2 ^ (y.toNat % 256))) ∧
    s.Binary .shr (fun n x y => BitVec.ofNat n (x.toNat / 2 ^ (y.toNat % 256))) ∧
    s.Binary .sar (fun n x y => BitVec.ofInt n (x.toInt / 2 ^ (y.toNat % 256))) ∧
    s.Binary (fun w d a b => .bfx w d a b true)
      (fun n x y => BitVec.ofNat n (x.toNat / 2 ^ (y.toNat % 256) % 2 ^ min (y.toNat / 256 % 256) n)) ∧
    s.Binary (fun w d a b => .bfx w d a b false)
      (fun n x y =>
        let len := min (y.toNat / 256 % 256) n
        let field := x.toNat / 2 ^ (y.toNat % 256) % 2 ^ len
        BitVec.ofInt n (if 0 < len ∧ field.testBit (len - 1) then (field : Int) - 2 ^ len else field)) ∧
    s.Ternary .bfi (fun n z x y =>
      let mask : BitVec n := BitVec.ofNat n ((2 ^ min (y.toNat / 256 % 256) n - 1) * 2 ^ (y.toNat % 256))
      (z &&& ~~~mask) ||| (BitVec.ofNat n (x.toNat * 2 ^ (y.toNat % 256)) &&& mask)) ∧
    s.Unary .popc (fun n x => BitVec.ofNat n ((List.range n).countP fun i => x.getLsbD i)) ∧
    s.Unary .clz (fun n x => BitVec.ofNat n (if x = 0 then n else n - 1 - x.toNat.log2)) ∧
    s.Binary .and (fun _ x y => x &&& y) ∧ s.Binary .andn (fun _ x y => x &&& ~~~y) ∧
    s.Binary .or (fun _ x y => x ||| y) ∧ s.Binary .xor (fun _ x y => x ^^^ y) ∧
    s.Short .andI (fun x y => x &&& y) ∧ s.Short .orI (fun x y => x ||| y) ∧ s.Short .xorI (fun x y => x ^^^ y) ∧
    s.Short .shlI (fun x y => BitVec.ofNat 32 (x.toNat * 2 ^ (y.toNat % 256))) ∧
    s.Short .shrI (fun x y => BitVec.ofNat 32 (x.toNat / 2 ^ (y.toNat % 256))) ∧
    s.Short .sarI (fun x y => BitVec.ofInt 32 (x.toInt / 2 ^ (y.toNat % 256)))

/-- R359, R360, R355, R420, R357: the lesser and the greater, signed and unsigned; the magnitude, with the most negative
value unchanged; selection by a predicate; and comparison into a predicate, by the ten conditions of R104. -/
def Obligations.VectorComparesAndSelects : Prop :=
  ∀ s : State,
    s.Binary (fun w d a b => .imin w d a b false) (fun n x y => BitVec.ofInt n (min x.toInt y.toInt)) ∧
    s.Binary (fun w d a b => .imin w d a b true) (fun n x y => BitVec.ofNat n (min x.toNat y.toNat)) ∧
    s.Binary (fun w d a b => .imax w d a b false) (fun n x y => BitVec.ofInt n (max x.toInt y.toInt)) ∧
    s.Binary (fun w d a b => .imax w d a b true) (fun n x y => BitVec.ofNat n (max x.toNat y.toNat)) ∧
    s.Unary .iabs (fun n x => if x = BitVec.intMin n then x else BitVec.ofInt n |x.toInt|) ∧
    (∀ d a b neg p, s.WritesV (.sel d a b false neg p) d
      (fun t l => if t.getP p l = !neg then t.vA a l else t.vB b l) ∧
      s.WritesV64 (.sel d a b true neg p) d (fun t l => if t.getP p l = !neg then t.vA64 a l else t.vB64 b l)) ∧
    (∀ d a b c, s.WritesP (.icmp false d a b c) d (fun t l => condHolds (t.vA a l) (t.vB b l) c) ∧
      s.WritesP (.icmp true d a b c) d (fun t l => condHolds (t.vA64 a l) (t.vB64 b l) c))

/-! ## Floating instructions -/

/-- R115, R342, R345, R353: FADD, FSUB, FMUL and FMA work on the operands as MODE.FTZ reads them, round once to
MODE.ETYPE, and merge the flags of any selected lane and of a constant's conversion. -/
def Obligations.FloatArithmetic : Prop :=
  ∀ (s : State) (d a b : Nat),
    let withB (t : Team) (l : Nat) (r : Nat × Word) : Nat × Word := (r.1, r.2 ||| (t.fB b l).2)
    s.WritesF (.fadd d a b) d Team.ffmt (fun t l =>
      withB t l (t.ffmt.sum (ctlOf t.mode) [t.valA a l, t.valB b l])) ∧
    s.WritesF (.fsub d a b) d Team.ffmt (fun t l =>
      withB t l (t.ffmt.sum (ctlOf t.mode) [t.valA a l, (t.valB b l).neg])) ∧
    s.WritesF (.fmul d a b) d Team.ffmt (fun t l => withB t l (fltMul t.ffmt (ctlOf t.mode) (t.valA a l) (t.valB b l))) ∧
    s.WritesF (.fma d a b) d Team.ffmt (fun t l =>
      withB t l (fltFma t.ffmt (ctlOf t.mode) (t.valA a l) (t.valB b l) (t.val d l)))

/-- R113 to R116: what those operations compute. Finite operands give the exact sum or product, rounded once; an exact zero
sum of terms that cancel is +0, or −0 rounding down; a NaN gives the canonical NaN, with NV for a signalling one; ∞ − ∞
and 0 × ∞ are invalid, whatever FMA's addend.
R116, R118: the one rounding of an exact value that stays finite, MODE.FTZ clear. Toward zero, up and down give the
extreme representable value on the permitted side; the two nearest modes give one at least as near as any other, of two the even
one or the larger in magnitude; and NX is set exactly when the result differs from the exact value.
R116 to R118: the result keeps the exact value's sign; it overflows, by its own rounding, to an infinity or the largest finite value;
a tiny inexact one sets UF; and under FTZ subnormal operands are read, and subnormal results written, as zero.
What the manual leaves open here is the model's choice: log entry 77. -/
def Obligations.SumsProductsAndRounding : Prop :=
  (∀ (F : FFmt) (c : FCtl) (x y z : FVal),
     (x.isFin = true → y.isFin = true → x.rat + y.rat ≠ 0 → ∃ n m e, F.sum c [x, y] = F.round c n m e ∧
       (FVal.fin n m e).rat = x.rat + y.rat) ∧
     (x.isFin = true → y.isFin = true → x.rat + y.rat = 0 → x.rat ≠ 0 →
       F.sum c [x, y] = (F.zeroBits (c.rnd == 3), 0)) ∧
     (x.isFin = true → y.isFin = true → x.rat * y.rat ≠ 0 → ∃ n m e, fltMul F c x y = F.round c n m e ∧
       (FVal.fin n m e).rat = x.rat * y.rat) ∧
     (x.isFin = true → y.isFin = true → z.isFin = true → x.rat * y.rat + z.rat ≠ 0 →
       ∃ n m e, fltFma F c x y z = F.round c n m e ∧ (FVal.fin n m e).rat = x.rat * y.rat + z.rat) ∧
     ((x.isNan || y.isNan) = true → F.sum c [x, y] = (F.nanBits, if x.isSignalling || y.isSignalling then fNV else 0)) ∧
     (∀ n, F.sum c [.inf n, .inf (!n)] = (F.nanBits, fNV) ∧ F.sum c [.inf n, .inf n] = (F.infBits n, 0)) ∧
     ∀ n k e, fltMul F c (.inf n) (.fin k 0 e) = (F.nanBits, fNV) ∧ fltMul F c (.fin k 0 e) (.inf n) = (F.nanBits, fNV) ∧
       (fltFma F c (.inf n) (.fin k 0 e) z).1 = F.nanBits ∧ (fltFma F c (.inf n) (.fin k 0 e) z).2.getLsbD 0 = true) ∧
  (∀ (F : FFmt) (c : FCtl) (n : Bool) (m : Nat) (e : Int), F.standard → c.ftz = false → c.rnd ≤ 4 → m ≠ 0 →
    let x := F.unpack false (F.round c n m e).1
    let v := (FVal.fin n m e).rat
    (F.round c n m e).2.getLsbD 2 = false →
    x.isFin = true ∧ ((F.round c n m e).2.getLsbD 4 = true ↔ x.rat ≠ v) ∧
    ∀ w, w < 2 ^ (F.fb + F.eb + 1) → (F.unpack false w).isFin = true →
      let y := (F.unpack false w).rat
      (c.rnd = 0 ∨ c.rnd = 4 → |x.rat - v| ≤ |y - v|) ∧
      (c.rnd = 1 → |x.rat| ≤ |v| ∧ (|y| ≤ |v| → |y| ≤ |x.rat|)) ∧
      (c.rnd = 2 → v ≤ x.rat ∧ (v ≤ y → x.rat ≤ y)) ∧
      (c.rnd = 3 → x.rat ≤ v ∧ (y ≤ v → y ≤ x.rat)) ∧
      (y ≠ x.rat → |y - v| = |x.rat - v| → (c.rnd = 0 → (F.round c n m e).1 % 2 = 0) ∧ (c.rnd = 4 → |y| < |x.rat|))) ∧
  (∀ (F : FFmt) (c : FCtl) (n k : Bool) (e e' : Int),
    F.sum c [.fin n 0 e, .fin k 0 e'] = (F.zeroBits (if n = k then n else c.rnd == 3), 0)) ∧
  (∀ (F : FFmt) (w : Nat), F.isSubnormal w = true → F.standard → F.unpack true w = .fin (F.negOf w) 0 0) ∧
  ∀ (F : FFmt) (c : FCtl) (n : Bool) (m : Nat) (e : Int), F.standard → c.rnd ≤ 4 → m ≠ 0 →
    let r := F.round c n m e
    let a : ℚ := |(FVal.fin n m e).rat|
    let top : ℚ := (F.unpack false (F.maxBits false)).rat
    let edge : ℚ := 2 ^ (F.bias + 1)
    let small : ℚ := (2 : ℚ) ^ F.emin
    let nearest : Prop := c.rnd = 0 ∨ c.rnd = 4
    let outward : Prop := (c.rnd = 2 ∧ n = false) ∨ (c.rnd = 3 ∧ n = true)
    let large : Prop := (nearest ∧ (top + edge) / 2 ≤ a) ∨ (outward ∧ top < a) ∨ edge ≤ a
    let tiny : Prop := (nearest → a < small - (2 : ℚ) ^ (F.emin - F.fb - 2)) ∧
      (outward → a ≤ small - (2 : ℚ) ^ (F.emin - F.fb - 1)) ∧ a < small
    F.negOf r.1 = n ∧ (r.2.getLsbD 2 = true ↔ large) ∧
    (large → c.sat = true → r = (F.maxBits n, fOF ||| fNX ||| fSATD)) ∧
    (large → c.sat = false → r.2 = fOF ||| fNX ∧ (nearest ∨ outward → r.1 = F.infBits n) ∧
      (¬ nearest → ¬ outward → r.1 = F.maxBits n)) ∧
    (c.ftz = false → ¬ large → (r.2.getLsbD 3 = true ↔ r.2.getLsbD 4 = true ∧ tiny)) ∧
    (c.ftz = true →
      let q := F.round { c with ftz := false } n m e
      (F.isSubnormal q.1 = true → r = (F.zeroBits n, fUF ||| fNX)) ∧
      (F.isSubnormal q.1 = false → r.1 = q.1 ∧ r.2.getLsbD 4 = q.2.getLsbD 4))

/-- R343, R344, R330, R346, R349, R332, R333, R104: the lesser and the greater operand unrounded, the sign operations on
stored bits, rounding to an integral value, classification, and comparison into a predicate with its flags.
R343, R333, R332: the choices those instructions make: −0 stands below +0, one NaN gives the other operand and two the
canonical NaN; an unordered pair meets NE and UNO alone; and exactly one class bit is set. -/
def Obligations.FloatSelectsAndCompares : Prop :=
  (∀ (s : State) (d a b : Nat) (k : FCond),
     let withB (t : Team) (l : Nat) (r : Nat × Word) : Nat × Word := (r.1, r.2 ||| (t.fB b l).2)
     s.WritesF (.fmin d a b) d Team.ffmt (fun t l => withB t l (fltPick false t.ffmt (t.valA a l) (t.valB b l))) ∧
     s.WritesF (.fmax d a b) d Team.ffmt (fun t l => withB t l (fltPick true t.ffmt (t.valA a l) (t.valB b l))) ∧
     s.WritesF (.fabs d a) d Team.ffmt (fun t l => (t.elem t.ffmt a l % 2 ^ (t.ffmt.fb + t.ffmt.eb), 0)) ∧
     s.WritesF (.fneg d a) d Team.ffmt (fun t l =>
       (t.elem t.ffmt a l % 2 ^ (t.ffmt.fb + t.ffmt.eb) + t.ffmt.sign (!t.ffmt.negOf (t.elem t.ffmt a l)), 0)) ∧
     s.WritesF (.frint d a) d Team.ffmt (fun t l => fltRint t.ffmt (ctlOf t.mode) (t.val a l)) ∧
     s.WritesF (.fclass d a) d Team.ffmt (fun t l => fltClass t.ffmt (t.elem t.ffmt a l)) ∧
     s.Ends (.fcmp d a b k) (fun t u =>
       u = { t.advance with p := u.p, flags := u.flags } ∧ (∀ r, r ≠ d → ∀ l, u.getP r l = t.getP r l) ∧
       t.LanesP u d (fun l => fltCond (t.valA a l) (t.valB b l) k) ∧
       ∀ j, j < 32 → u.flags.getLsbD j = (t.flags.getLsbD j || (List.range t.width).any fun l => t.selected l &&
         ((nvOf [t.valA a l, t.valB b l]).getLsbD j || (t.fB b l).2.getLsbD j)))) ∧
  ∀ (F : FFmt) (g : Bool) (x y : FVal),
    (x.isNan = true → y.isNan = true → (fltPick g F x y).1 = F.nanBits) ∧
    (x.isNan = true → y.isNan = false → (fltPick g F x y).1 = (F.encode ⟨0, false, false⟩ y).1) ∧
    (x.isNan = false → y.isNan = true → (fltPick g F x y).1 = (F.encode ⟨0, false, false⟩ x).1) ∧
    (∀ e f, fltPick true F (.fin true 0 e) (.fin false 0 f) = (F.zeroBits false, 0) ∧
      fltPick false F (.fin false 0 e) (.fin true 0 f) = (F.zeroBits true, 0)) ∧
    (x.isFin = true → y.isFin = true → x.rat < y.rat →
      fltPick false F x y = ((F.encode ⟨0, false, false⟩ x).1, 0) ∧
        fltPick true F x y = ((F.encode ⟨0, false, false⟩ y).1, 0)) ∧
    ((x.isNan || y.isNan) = true → ∀ k, fltCond x y k = true ↔ k = .ne ∨ k = .uno) ∧
    (x.isFin = true → y.isFin = true →
      (fltCond x y .lt = true ↔ x.rat < y.rat) ∧ (fltCond x y .eq = true ↔ x.rat = y.rat) ∧
        (fltCond x y .ge = true ↔ y.rat ≤ x.rat) ∧ fltCond x y .ord = true) ∧
    ∀ w, ∃ j, j < 10 ∧ (fltClass F w).1 = 2 ^ j

/-- R123, R329, R336, R354: conversions: between floating types by FN, from MODE.ETYPE to an integer type, saturating with
NV, and from an integer type to MODE.ETYPE, the exact integer rounded once.
R119, R124: every DM8 code but NaR stands for a value that encodes back to that code, exactly and without a flag,
whatever MODE holds; NaR stands for no number. -/
def Obligations.FloatConversions : Prop :=
  (∀ (s : State) (d a : Nat) (x y : FTy) (k : ITy),
     s.WritesF (.fcvt d a x y) d (fun _ => ftyFmt y) (fun t l => fltConvert x y (ctlOf t.mode) 0
       (if x = .dm8 then (t.getV a l).toNat % 256 else t.elem (ftyFmt x) a l)) ∧
     s.WritesF (.f2i d a k) d (fun _ => if ityWide k then fmtF64 else fmtF32) (fun t l =>
       let r := fltToInt k (ctlOf t.mode) (t.val a l)
       (fieldOf (ityBits k) r.1, r.2)) ∧
     s.WritesF (.i2f d a k) d Team.ffmt (fun t l =>
       let n := intOf k (if ityWide k then (t.getV64 a l).toNat else (t.getV a l).toNat)
       t.ffmt.round (ctlOf t.mode) (n < 0) n.natAbs 0) ∧
     ∀ (c : FCtl) (v : FVal),
       (v.isNan = true → fltToInt k c v = (0, fNV)) ∧
       (∀ n, fltToInt k c (.inf n) = (if n then ityMin k else ityMax k, fNV)) ∧
       (v.isFin = true → ityMin k ≤ (fltToInt k c v).1 ∧ (fltToInt k c v).1 ≤ ityMax k) ∧
       ∀ j : Int, ityMin k ≤ j → j ≤ ityMax k → fltToInt k c (.fin (j < 0) j.natAbs 0) = (j, 0)) ∧
  ∀ c : FCtl, (∀ code, code < 256 → code ≠ 0x80 → encodeDm8 c (dm8Value code) 0 = (code, 0)) ∧
    (dm8Value 0x80).isNan = true ∧ encodeDm8 c (dm8Value 0x80) 0 = (0x80, 0)

/-- R72, R115, R334, R337, R347: the long-latency floating instructions read their operands and MODE at issue and leave one
result outstanding; the faithful functions' neighbour is the model's free choice of operation, type and operand (log
entry 4).
R348, R335, R114: the special values of the long-latency floating functions, and the exact cases of FEXP2 and FLOG2.
R72, R73, R75: when a long-latency instruction of the issuing team completes, each register it was to write takes its
values, in the lanes that have one and that no instruction of its window wrote for good, its flags are merged, and it is no
longer outstanding.
What the manual leaves open here is the model's choice: log entries 4, 33. -/
def Obligations.LongFloats : Prop :=
  (∀ (s : State) (d a b la : Nat),
     let up (op : Nat) (t : Team) (l : Nat) : Bool := Config.faithfulUp op (modeEtype t.mode) (t.elem t.ffmt a l)
     s.LaunchesF (.frcp d a la) d la (fun t l => fltRcp t.ffmt (ctlOf t.mode) (t.val a l)) ∧
     s.LaunchesF (.frsq d a la) d la (fun t l => fltRsq t.ffmt (ctlOf t.mode) (t.val a l)) ∧
     s.LaunchesF (.fsqrt d a la) d la (fun t l => fltSqrt t.ffmt (ctlOf t.mode) (t.val a l)) ∧
     s.LaunchesF (.fdiv d a b la) d la (fun t l =>
       let r := fltDiv t.ffmt (ctlOf t.mode) (t.valA a l) (t.valB b l)
       (r.1, r.2 ||| (t.fB b l).2)) ∧
     s.LaunchesF (.fexp2 d a la) d la (fun t l => fltExp2 t.ffmt (ctlOf t.mode) (up 0 t l) (t.val a l)) ∧
     s.LaunchesF (.flog2 d a la) d la (fun t l => fltLog2 t.ffmt (ctlOf t.mode) (up 1 t l) (t.val a l)) ∧
     s.LaunchesF (.fsin d a la) d la (fun t l => fltTrig false t.ffmt (ctlOf t.mode) (up 2 t l) (t.val a l)) ∧
     s.LaunchesF (.fcos d a la) d la (fun t l => fltTrig true t.ffmt (ctlOf t.mode) (up 3 t l) (t.val a l))) ∧
  (∀ (F : FFmt) (c : FCtl) (up : Bool), F.standard →
     (∀ sig, (let r : Nat × Word := (F.nanBits, if sig then fNV else 0)
       fltRcp F c (.nan sig) = r ∧ fltRsq F c (.nan sig) = r ∧ fltSqrt F c (.nan sig) = r ∧ fltExp2 F c up (.nan sig) = r ∧
         fltLog2 F c up (.nan sig) = r ∧ fltTrig false F c up (.nan sig) = r ∧ fltTrig true F c up (.nan sig) = r)) ∧
     (∀ n, fltRcp F c (.inf n) = (F.zeroBits n, 0) ∧ ∀ e, fltRcp F c (.fin n 0 e) = (F.infBits n, fDZ)) ∧
     fltRsq F c (.inf false) = (F.zeroBits false, 0) ∧ fltRsq F c (.inf true) = (F.nanBits, fNV) ∧
     fltSqrt F c (.inf false) = (F.infBits false, 0) ∧ fltSqrt F c (.inf true) = (F.nanBits, fNV) ∧
     fltExp2 F c up (.inf false) = (F.infBits false, 0) ∧ fltExp2 F c up (.inf true) = (F.zeroBits false, 0) ∧
     fltLog2 F c up (.inf false) = (F.infBits false, 0) ∧ fltLog2 F c up (.inf true) = (F.nanBits, fNV) ∧
     (∀ n e, fltRsq F c (.fin n 0 e) = (F.infBits n, 0) ∧ fltSqrt F c (.fin n 0 e) = (F.zeroBits n, 0) ∧
       fltLog2 F c up (.fin n 0 e) = (F.infBits true, fDZ) ∧ fltTrig false F c up (.fin n 0 e) = (F.zeroBits n, 0) ∧
       fltTrig false F c up (.inf n) = (F.nanBits, fNV) ∧ fltTrig true F c up (.inf n) = (F.nanBits, fNV)) ∧
     (∀ m e, m ≠ 0 → fltRsq F c (.fin true m e) = (F.nanBits, fNV) ∧ fltSqrt F c (.fin true m e) = (F.nanBits, fNV) ∧
       fltLog2 F c up (.fin true m e) = (F.nanBits, fNV)) ∧
     (fltRcp fmtF32 ⟨0, false, false⟩ (fmtF32.unpack false 0x40400000) = (0x3EAAAAAB, fNX)) ∧
     (fltRsq fmtF32 ⟨0, false, false⟩ (fmtF32.unpack false 0x40800000) = (0x3F000000, 0)) ∧
     (fltExp2 fmtF32 ⟨0, false, false⟩ up (fmtF32.unpack false 0x40400000) = (0x41000000, 0)) ∧
     fltLog2 fmtF32 ⟨0, false, false⟩ up (fmtF32.unpack false 0x3E000000) = (0xC0400000, 0)) ∧
  (∀ (s : State) (p : Pending),
    s.team.pending.find? (fun x => x.id == p.id) = some p → p.waits = [] → p.faults = [] →
    ∃ u, exec (.longLatencyComplete s.team.id p.id) s = .next u ∧
      u.team = { p.landing.foldl Team.writeDest s.team with
        flags := s.team.flags ||| p.flags, pending := s.team.pending.filter fun x => x.id != p.id,
        past := if p.window = 0 then s.team.past else s.team.past ++ [⟨p.window, p.dests.map Dest.bare⟩] } ∧
      (p.drops = [] → p.landing = p.dests) ∧
      u = { s with team := u.team, others := u.others } ∧
      ∀ n : Nat, ∀ o : Team, s.others[n]? = some o → o.id ≠ s.team.id → u.others[n]? = some o) ∧
  ∀ (t : Team) (d : Nat),
    (∀ vals l, l < t.width → (t.writeDest (.v d vals)).getV d l = (vals.getD l none).getD (t.getV d l)) ∧
    (∀ vals r l, r ≠ d → (t.writeDest (.v d vals)).getV r l = t.getV r l) ∧
    (∀ vals, t.writeDest (.v d vals) = { t with v := (t.writeDest (.v d vals)).v }) ∧
    (∀ vals l, l < t.width → (t.writeDest (.q d vals)).getQ d l = (vals.getD l none).getD (t.getQ d l)) ∧
    (∀ vals r l, r ≠ d → (t.writeDest (.q d vals)).getQ r l = t.getQ r l) ∧
    (∀ vals, t.writeDest (.q d vals) = { t with q := (t.writeDest (.q d vals)).q }) ∧
    (∀ x, (t.writeDest (.s d (some x))).getS d = x ∧ (∀ r, r ≠ d → (t.writeDest (.s d (some x))).getS r = t.getS r) ∧
      t.writeDest (.s d (some x)) = { t with s := (t.writeDest (.s d (some x))).s }) ∧
    (∀ x, (t.writeDest (.c d (some x))).getC d = x ∧ (∀ r, r ≠ d → (t.writeDest (.c d (some x))).getC r = t.getC r) ∧
      t.writeDest (.c d (some x)) = { t with c := (t.writeDest (.c d (some x))).c }) ∧
    t.writeDest (.s d none) = t ∧ t.writeDest (.c d none) = t

/-! ## Capabilities -/

/-- R162, R163, R372, R376, R379, R381, R373, R378, R380: the derivations in both classes: B is an s register or an IMM
prefix in the uniform class, an even pair or a prefix in the lane class.
R161, R163: who may derive: a tagged sealed source raises CAP_SEAL in KINC, KSET, KBND and KPRM; KSEAL and KOPEN check
their authority and then their source, in the order of R163. -/
def Obligations.CapabilityDerivations : Prop :=
  (∀ (s : State) (d a b : Nat) (n : Int),
     s.DerivesC (.kinc false d a b) d (fun t => capMove (t.getC a) ((t.getC a).cur + (t.sB b).toInt)) ∧
     s.DerivesQ (.kinc true d a b) (d - 16) (fun t l => capMove (t.getK a l) ((t.getK a l).cur + (t.vB64 b l).toInt)) ∧
     s.DerivesC (.kincI false d a n) d (fun t => capMove (t.getC a) ((t.getC a).cur + n)) ∧
     s.DerivesQ (.kincI true d a n) (d - 16) (fun t l => capMove (t.getK a l) ((t.getK a l).cur + n)) ∧
     s.DerivesC (.kset false d a b) d (fun t => capMove (t.getC a) (t.sB b).toNat) ∧
     s.DerivesQ (.kset true d a b) (d - 16) (fun t l => capMove (t.getK a l) (t.vB64 b l).toNat) ∧
     s.DerivesC (.kbnd false d a b) d (fun t => capBound (t.getC a) (t.sB b).toNat) ∧
     s.DerivesQ (.kbnd true d a b) (d - 16) (fun t l => capBound (t.getK a l) (t.vB64 b l).toNat) ∧
     s.DerivesC (.kprm false d a b) d (fun t => capPerms (t.getC a) (t.sB b).toNat) ∧
     s.DerivesQ (.kprm true d a b) (d - 16) (fun t l => capPerms (t.getK a l) (t.vB64 b l).toNat) ∧
     s.DerivesC (.kseal false d a b) d (fun t => capSeal (t.getC a) (t.getC b)) ∧
     s.DerivesQ (.kseal true d a b) (d - 16) (fun t l => capSeal (t.getK a l) (t.getK b l)) ∧
     s.DerivesC (.kopen false d a b) d (fun t => capOpen (t.getC a) (t.getC b)) ∧
     s.DerivesQ (.kopen true d a b) (d - 16) (fun t l => capOpen (t.getK a l) (t.getK b l))) ∧
  ∀ (a b : Cap) (x : Int) (n : Nat),
    (a.tag = true → a.isSealed = true → capMove a x = .error 0x13 ∧ capBound a n = .error 0x13 ∧
      capPerms a n = .error 0x13) ∧
    let inside : Prop := ∃ lo hi, capDecode b = some (lo, hi) ∧ lo ≤ b.cur ∧ b.cur < hi ∧ b.cur < 16
    let both (e : Nat) : Prop := capSeal a b = .error e ∧ capOpen a b = .error e
    (b.tag = false → both 0x10) ∧ (b.tag = true → b.isSealed = true → both 0x13) ∧
    (b.tag = true → b.isSealed = false → b.perm.testBit 9 = false → both 0x12) ∧
    (b.tag = true → b.isSealed = false → b.perm.testBit 9 = true → ¬ inside → both 0x11) ∧
    (b.tag = true → b.isSealed = false → b.perm.testBit 9 = true → inside →
      (a.tag = false → both 0x10) ∧
      (a.tag = true → a.isSealed = true → capSeal a b = .error 0x13) ∧
      (a.tag = true → a.isSealed = false → ∃ r, capSeal a b = .ok r) ∧
      (a.tag = true → (a.isSealed = false ∨ a.otype ≠ b.cur) → capOpen a b = .error 0x13) ∧
      (a.tag = true → a.isSealed = true → a.otype = b.cur → ∃ r, capOpen a b = .ok r))

/-- R374, R377, R375, R382: KCLR writes the null capability and KMOV copies one with its tag, sealed or not; KGET reads a
field and KSUB the exact difference of two cursors modulo 2^64. None of them traps.
R153, R155, R375: the fields of a capability word, its bounds, and what KGET reads of it; a malformed one reads 0 as
base, top and length. -/
def Obligations.CapabilityMovesReadsAndFields : Prop :=
  (∀ (s : State) (d a b : Nat) (f : KField),
     s.Ends (.kclr false d) (fun t u => t.OnlyC u d ⟨false, 0⟩) ∧
     s.Ends (.kclr true d) (fun t u => u = { t.advance with q := u.q } ∧
       t.LanesQ u (d - 16) fun l => if t.selected l then some ⟨false, 0⟩ else none) ∧
     s.Ends (.kmov false d a) (fun t u => t.OnlyC u d (t.getC a)) ∧
     s.Ends (.kmov true d a) (fun t u => u = { t.advance with q := u.q } ∧
       t.LanesQ u (d - 16) fun l => if t.selected l then some (t.getK a l) else none) ∧
     s.WritesS (.kget false d a f) d (fun t => BitVec.ofNat 64 (capGet (t.getC a) f)) ∧
     s.WritesV64 (.kget true d a f) d (fun t l => BitVec.ofNat 64 (capGet (t.getK a l) f)) ∧
     s.WritesS (.ksub false d a b) d (fun t => BitVec.ofInt 64 ((t.getC a).cur - (t.getC b).cur)) ∧
     s.WritesV64 (.ksub true d a b) d (fun t l => BitVec.ofInt 64 ((t.getK a l).cur - (t.getK b l).cur))) ∧
  ∀ k : Cap,
    k.cur = k.bits.toNat % 2 ^ 57 ∧ k.g = k.bits.toNat / 2 ^ 57 % 64 ∧ k.bm = k.bits.toNat / 2 ^ 64 % 2 ^ 24 ∧
    k.lm = k.bits.toNat / 2 ^ 88 % 2 ^ 22 ∧ k.perm = k.bits.toNat / 2 ^ 110 % 2 ^ 10 ∧
    k.gen = k.bits.toNat / 2 ^ 120 % 16 ∧ k.otype = k.bits.toNat / 2 ^ 124 ∧
    (35 < k.g → capDecode k = none) ∧ (∀ b t, capDecode k = some (b, t) → t = b + k.lm * 2 ^ k.g ∧ t ≤ 2 ^ 57 ∧
      b / 2 ^ k.g % 2 ^ 24 = k.bm ∧ b % 2 ^ k.g = 0 ∧ b ≤ k.cur ∧ k.cur < b + 2 ^ (k.g + 24)) ∧
    (capDecode k = none → capGet k .base = 0 ∧ capGet k .top = 0 ∧ capGet k .len = 0) ∧
    (∀ b t, capDecode k = some (b, t) → capGet k .base = b ∧ capGet k .top = t ∧ capGet k .len = t - b) ∧
    capGet k .state = (if k.tag then 1 else 0) + (if k.bits.getLsbD 63 then 2 else 0) ∧
    capGet k .cur = k.bits.toNat % 2 ^ 57 ∧ capGet k .perm = k.bits.toNat / 2 ^ 110 % 2 ^ 10 ∧
    capGet k .gen = k.bits.toNat / 2 ^ 120 % 16 ∧ capGet k .otype = k.bits.toNat / 2 ^ 124

/-- R155, R156: a cursor is representable exactly when replacing CUR by it leaves base and top as they are; so a move that
keeps the tag keeps the bounds.
R161, R162, R163: no derivation enlarges a capability. A tagged result has bounds inside its source's and no permission
the source lacks, the source's GEN, and OTYPE 0 or the sealing authority's cursor; and an untagged source of the
derivations that do not trap on it gives an untagged result. -/
def Obligations.DerivationNeverEnlarges : Prop :=
  (∀ (k : Cap) (b t : Nat), capDecode k = some (b, t) →
     (∀ x : Nat, x < 2 ^ 57 → (representable k x = true ↔ capDecode (k.setCur x) = some (b, t))) ∧
     ∀ (x : Int) (r : Cap), capMove k x = .ok r → r.tag = true →
       0 ≤ x ∧ (r.cur : Int) = x ∧ capDecode r = some (b, t) ∧ k.tag = true) ∧
  ∀ (a b r : Cap) (x : Int) (n lo hi : Nat), capDecode a = some (lo, hi) →
    let inside (r : Cap) : Prop :=
      a.tag = true ∧ (∃ lo' hi', capDecode r = some (lo', hi') ∧ lo ≤ lo' ∧ hi' ≤ hi) ∧ r.perm &&& a.perm = r.perm ∧
        r.gen = a.gen
    (capMove a x = .ok r → r.tag = true → inside r ∧ r.otype = a.otype) ∧
    (capBound a n = .ok r → r.tag = true → inside r ∧ r.otype = a.otype ∧ ∃ lo' hi', capDecode r = some (lo', hi') ∧
      lo' ≤ a.cur ∧ a.cur + n ≤ hi') ∧
    (capPerms a n = .ok r → r.tag = true → inside r ∧ r.otype = a.otype ∧ r.perm = a.perm &&& n % 1024) ∧
    (capSeal a b = .ok r → inside r ∧ r.isSealed = true ∧ r.otype = b.cur) ∧
    (capOpen a b = .ok r → inside r ∧ r.isSealed = false ∧ r.otype = 0)

/-! ## Memory -/

/-- R157, R188, R193, R50, R51, R300: the checks of one access, in order, and where its bytes stand, when no TLB of the agent answers:
in the gang window the ticket's check, and a footprint over several pages page by page, ascending. That a confidential context's access beyond local memory fails as the firewall does is the model's choice: log entry 91. -/
def Obligations.AccessChecksInOrder : Prop :=
  ∀ (s : State) (w : Who) (l : Nat) (k : Cap) (ea : Int) (n need align : Nat) (acc : Access),
    let fails (code : Nat) : Prop :=
      s.resolve w l k ea n need align acc = .error (.fault ⟨l, code, BitVec.ofInt 64 ea, acc.writes, false, 0⟩)
    let passes1 : Prop := k.tag = true ∧ k.isSealed = false ∧ k.has need = true
    (k.tag = false → fails 0x10) ∧
    (k.tag = true → k.isSealed = true → fails 0x13) ∧
    (k.tag = true → k.isSealed = false → k.has need = false → fails 0x12) ∧
    (passes1 → capDecode k = none → fails 0x11) ∧
    (∀ lo hi, passes1 → capDecode k = some (lo, hi) → (ea < lo ∨ (hi : Int) < ea + n) → fails 0x11) ∧
    (∀ lo hi, passes1 → capDecode k = some (lo, hi) → lo ≤ ea → ea + n ≤ hi → ea.toNat % align ≠ 0 → fails 0x21) ∧
    (∀ lo hi va : Nat, passes1 → capDecode k = some (lo, hi) → lo ≤ ea → ea + n ≤ hi → ea.toNat % align = 0 →
      ea = va → va / 65536 < (va + n - 1) / 65536 →
      let m := 65536 - va % 65536
      s.resolve w l k ea n need align acc =
        match s.resolve w l k va m need 1 acc with
        | .error e => .error e
        | .ok ps =>
          match s.resolve w l k (va + m : Nat) (n - m) need 1 acc with
          | .error e => .error e
          | .ok qs => .ok (ps ++ qs)) ∧
    (∀ (lo hi va : Nat) (c : Ctx), passes1 → capDecode k = some (lo, hi) → lo ≤ ea → ea + n ≤ hi → ea.toNat % align = 0 →
      ea = va → s.ctx? w.ctx = some c → 0 < n → va / 65536 = (va + n - 1) / 65536 →
      c.window ≤ va → va < c.window + 16777216 →
      let off := va - c.window
      let seg := off / 524288
      let slot := off % 524288 / 131072
      let stands (fifo : Option (Nat × Nat)) (g : Gang) : Prop := s.resolve w l k ea n need align acc =
        .ok [⟨regionSize * winRegion g.ticket + off, n, off / 65536, false, 0, fifo, 0, false⟩]
      (s.gang? w.ticket = none → fails 0x15) ∧
      ∀ g, s.gang? w.ticket = some g →
        let wg : WgId := ⟨g.ticket, seg % g.shape.w, seg / g.shape.w⟩
        let core := g.ox + wg.gx + 16 * (g.oy + wg.gy)
        let closed : Prop := ∃ b ∈ (s.core core).banks, b.owner = some wg ∧ b.slot = slot ∧ b.switching.isSome = true
        (g.ctx ≠ w.ctx → fails 0x15) ∧
        (g.ctx = w.ctx → g.shape.w * g.shape.h ≤ seg → fails 0x21) ∧
        (g.ctx = w.ctx → seg < g.shape.w * g.shape.h →
          (closed → s.resolve w l k ea n need align acc = .error .wait) ∧
          (¬ closed → g.phase ≠ .streamed →
            (s.bankAt core wg slot = none → fails 0x21) ∧
            ∀ i b, s.bankAt core wg slot = some (i, b) →
              b.owner = some wg ∧ b.slot = slot ∧ stands (if b.mode = .fifo then some (core, i) else none) g) ∧
          (¬ closed → g.phase = .streamed → slot < (g.shape.scratch + 131071) / 131072 → stands none g))) ∧
    ∀ (lo hi va : Nat) (c : Ctx), passes1 → capDecode k = some (lo, hi) → lo ≤ ea → ea + n ≤ hi → ea.toNat % align = 0 →
      ea = va → s.ctx? w.ctx = some c → 0 < n → va / 65536 = (va + n - 1) / 65536 →
      ¬ (c.window ≤ va ∧ va < c.window + 16777216) → (∀ m ∈ w.tlbs, s.tlbHit m w.ctx (va / 65536) = none) →
      (∀ level bad, c.walk va = .error (level, bad) → s.resolve w l k ea n need align acc =
        .error (.fault ⟨l, 0x20, BitVec.ofNat 64 va, acc.writes, bad, level⟩)) ∧
      ∀ e, c.walk va = .ok e →
        let right : Bool := match acc with
          | .read | .counter => pteR e
          | .write | .add | .counterAdd => pteW e
          | .update => pteR e && pteW e
          | .fetch => pteX e
        let counts : Prop := acc = .counter ∨ acc = .counterAdd
        let released : Bool := s.releasedFrame (pteLoc e) (ptePeer e) (pteFrame e)
        let shut : Prop := c.confidential = true ∧ w.cipher = false ∧ pteLoc e ≠ 0
        (pteMig e = true → s.resolve w l k ea n need align acc = .error .wait) ∧
        (pteMig e = false → pteGen e ≠ k.gen → fails 0x14) ∧
        (pteMig e = false → pteGen e = k.gen → right = false → fails 0x21) ∧
        (pteMig e = false → pteGen e = k.gen → right = true → pteSup e = true → w.super = false → fails 0x21) ∧
        (pteMig e = false → pteGen e = k.gen → right = true → (pteSup e = true → w.super = true) →
          (counts → pteLoc e = 1 → fails 0x21) ∧
          (¬ (counts ∧ pteLoc e = 1) → released = true → fails 0x21) ∧
          (¬ (counts ∧ pteLoc e = 1) → released = false →
            ((pteLoc e = 0 → s.owner.getD (pteFrame e) 0 ≠ w.ctx + 1 → fails 0x23) ∧
             (shut → fails 0x23) ∧
             (¬ shut → pteLoc e = 2 → s.expLost.contains (ptePeer e) = true → fails 0x33) ∧
             (¬ shut → acc.writes = true → c.viral = true → pteLoc e ≠ 0 →
                (pteLoc e = 2 → s.expLost.contains (ptePeer e) = false) → fails 0x32) ∧
             ((pteLoc e = 0 → s.owner.getD (pteFrame e) 0 = w.ctx + 1) → ¬ shut →
              (pteLoc e = 2 → s.expLost.contains (ptePeer e) = false) →
              (acc.writes = true → c.viral = true → pteLoc e = 0) →
                s.resolve w l k ea n need align acc =
                  .ok [⟨frameKey (pteLoc e) (ptePeer e) (pteFrame e) + va % 65536, n, va / 65536, pteCoh e, pteLoc e,
                    none, e, true⟩]))))

/-- R385, R389, R391 to R393, R72: what a load gives each selected lane, or the team: the bytes its core sees at its
footprint, extended by its form, as results outstanding; a capability load clears the tag without LOADCAP, outside tagged
memory, and by the revocation filter. No byte of memory changes.
It is stated where no cache of the core holds old bytes there.
What the manual leaves open here is the model's choice: log entries 6, 14, 84, 90. -/
def Obligations.LoadsReadMemory : Prop :=
  ∀ (s : State) (d a b la : Nat) (ix : Index),
    let Loads (i : Instr) (ps : State → List Plan) (uniform : Bool) (dests : State → List Dest) : Prop :=
      let e := s.entering i
      s.issues i = true → e.Clear → Here (ps e) → e.Sound (ps e) → e.Fresh (ps e) →
        ∃ t, exec i s = .next t ∧ s.SameMemory t ∧
          t = { e with team := e.team.launchPending la (dests e) 0 [] (insnOf i) uniform (farReads (ps e)), ctxs := t.ctxs,
                       tlbs := t.tlbs, copies := t.copies }
    let bytes (e : State) (p : Plan) : Nat := natOfBytes (p.keys.map (e.seen e.who.core))
    let words (e : State) (k : Nat) (val : Nat → Nat) : List (Option Word) :=
      (List.range e.team.width).map fun l => if e.team.selected l then some (BitVec.ofNat 32 (val l / 2 ^ (32 * k))) else none
    let plain (w : LdW) (n count : Nat) (value : Nat → Nat) : Prop :=
      Loads (.ld w d a b ix la) (fun e => e.lanePlans a b ix n 1 1 .read (w == .b128)) false fun e =>
        (List.range count).map fun k => .v (d + k)
          (words e k fun l => value (bytes e (e.lanePlan a b ix n 1 1 .read (w == .b128) l)))
    let cap (e : State) (k : Cap) (p : Plan) : Cap :=
      e.filterCap e.team.ctx
        ⟨e.seenTag e.who.core (p.keys.headD 0) && regionTagged (p.keys.headD 0) && k.has 4, BitVec.ofNat 128 (bytes e p)⟩
    plain .b8 1 1 id ∧ plain .b16 2 1 id ∧ plain .b32 4 1 id ∧ plain .b64 8 2 id ∧ plain .b128 16 4 id ∧
    plain .s8 1 1 (fun x => ((BitVec.ofNat 8 x).signExtend 32).toNat) ∧
    plain .s16 2 1 (fun x => ((BitVec.ofNat 16 x).signExtend 32).toNat) ∧
    Loads (.ldc d a b ix la) (fun e => e.lanePlans a b ix 16 1 16 .read false) false (fun e =>
      [.q (d - 16) ((List.range e.team.width).map fun l =>
        if e.team.selected l then some (cap e (e.team.getK a l) (e.lanePlan a b ix 16 1 16 .read false l)) else none)]) ∧
    Loads (.ldu false d a b ix la) (fun e => [e.uniPlan a b ix 4 1 1 .read false]) true
      (fun e => [.s d (some (BitVec.ofNat 64 (bytes e (e.uniPlan a b ix 4 1 1 .read false))))]) ∧
    Loads (.ldu true d a b ix la) (fun e => [e.uniPlan a b ix 8 1 1 .read false]) true
      (fun e => [.s d (some (BitVec.ofNat 64 (bytes e (e.uniPlan a b ix 8 1 1 .read false))))]) ∧
    Loads (.ldcu d a b ix la) (fun e => [e.uniPlan a b ix 16 1 16 .read false]) true
      (fun e => [.c d (some (cap e (e.team.getC a) (e.uniPlan a b ix 16 1 16 .read false)))]) ∧
    (∀ indexed, let i := Instr.pref a b indexed la
      let e := s.entering i
      s.issues i = true → e.Clear → e.Fresh (e.lanePlans a b (if indexed then .x1 else .absent) 1 1 1 .read true) →
        Local ((e.lanePlans a b (if indexed then .x1 else .absent) 1 1 1 .read true).filter fun p => p.fault?.isNone) →
        ∃ t, exec i s = .next t ∧ s.SameMemory t ∧
          t = { e with team := e.team.advance, ctxs := t.ctxs, tlbs := t.tlbs, copies := t.copies }) ∧
    (∀ (indexed : Bool) (l n : Nat) (q : Part), let i := Instr.pref a b indexed la
      let e := s.entering i
      let line := q.key / 128
      s.issues i = true → e.Clear → (List.range e.team.width).filter e.team.selected = [l] →
        (e.lanePlan a b (if indexed then .x1 else .absent) 1 1 1 .read true l).res = .ok [q] → peerOf q.key = some n →
        e.checkBad line = false → e.poisoned line = false → e.holds e.who.core e.who.cluster (128 * line) 128 = false →
          ∃ t r, exec i s = .next t ∧ t.team = e.team.advance ∧ t.mem = e.mem ∧ t.copies = e.copies ∧
            t.remotes = e.remotes ++ [r] ∧ r.hdr.kind = 0 ∧ r.hdr.dst = BitVec.ofNat 16 n ∧
            r.hdr.address = BitVec.ofNat 64 (128 * line % regionSize) ∧ r.hdr.mask = BitVec.allOnes 128 ∧ r.got = none)

/-- R385, R427, R428, R430 to R432, R165, R166: what a store leaves. Every stored byte reads as stored, by the issuing
core, with the tag of the store: clear, but for a tagged capability of STC and STCU that the revocation filter does not
match; of several lanes at one byte the highest wins. Every other byte, and every tag of another granule, stays, at its home,
for every cluster and for every core, but for bytes the core had written before and passes on with these; on a shared-coherent
page, where the line had no copies, for they go home.
What the manual leaves open here is the model's choice: log entries 6, 14, 84, 88, 90. -/
def Obligations.StoresWriteMemory : Prop :=
  ∀ (s : State) (d a b la : Nat) (ix : Index),
    let Stores (i : Instr) (ps : State → List Plan) (val : State → Nat → Nat → Byte) (tag : State → Nat → Bool) : Prop :=
      let e := s.entering i
      s.issues i = true → e.Clear → Here (ps e) → e.Unshared (ps e) →
        ∃ t, exec i s = .next t ∧
          t = { e with team := e.team.advance, ctxs := t.ctxs, tlbs := t.tlbs, copies := t.copies, mem := t.mem,
                       tags := t.tags, poison := t.poison, checkErr := t.checkErr, agenda := t.agenda } ∧
          e.Stored t (ps e) (val e) (tag e)
    let plain (w : StW) (n : Nat) : Prop :=
      Stores (.st w d a b ix la) (fun e => e.lanePlans a b ix n 2 1 .write (w == .b128))
        (fun e l j => ((e.team.getV (d + j / 4) l) >>> (8 * (j % 4))).setWidth 8) fun _ _ => false
    let byte (k : Cap) (j : Nat) : Byte := (k.bits >>> (8 * j)).setWidth 8
    plain .b8 1 ∧ plain .b16 2 ∧ plain .b32 4 ∧ plain .b64 8 ∧ plain .b128 16 ∧
    Stores (.stu false d a b ix la) (fun e => [e.uniPlan a b ix 4 2 1 .write false])
      (fun e _ j => ((e.team.getS d) >>> (8 * j)).setWidth 8) (fun _ _ => false) ∧
    Stores (.stu true d a b ix la) (fun e => [e.uniPlan a b ix 8 2 1 .write false])
      (fun e _ j => ((e.team.getS d) >>> (8 * j)).setWidth 8) (fun _ _ => false) ∧
    Stores (.stc d a b ix la)
      (fun e => ((List.range e.team.width).filter e.team.selected).map fun l =>
        storeCapCheck (e.team.getK a l) (e.team.getQ (d - 16) l) (e.lanePlan a b ix 16 2 16 .write true l))
      (fun e l j => byte (e.team.getQ (d - 16) l) j) (fun e l => (e.filterCap e.team.ctx (e.team.getQ (d - 16) l)).tag) ∧
    Stores (.stcu d a b ix la)
      (fun e => [storeCapCheck (e.team.getC a) (e.team.getC d) (e.uniPlan a b ix 16 2 16 .write true)])
      (fun e _ j => byte (e.team.getC d) j) (fun e _ => (e.filterCap e.team.ctx (e.team.getC d)).tag)

/-- R158, R159, R194, R195, R167, R184: where accesses fail. Of a lane-class load or store the lanes that pass complete, and the
others trap together, by the lowest lane, in one record; a uniform one traps for all its lanes; the firewall's refusals go with a
NOTICE to the frame's owner (R300), and unmapped pages beyond QUOTA raise NOFRAME. The four checks on a stored capability come
last, in their order. A page that migrates makes the team try again. LD.128 and ST.128 of FIFO banks take the oldest entries, or
add entries, in ascending lane order, and wait where a bank holds too few, or has too little room.
What the manual leaves open here is the model's choice: log entries 14, 82, 84. -/
def Obligations.MemoryFaultsAndFifos : Prop :=
  ∀ (s : State) (d a b la : Nat) (ix : Index),
    (∀ w n, (w, n) ∈ [(StW.b8, 1), (.b16, 2), (.b32, 4), (.b64, 8), (.b128, 16)] →
      let i := Instr.st w d a b ix la
      let e := s.entering i
      let ps := e.lanePlans a b ix n 2 1 .write (w == .b128)
      let faults := ps.filterMap Plan.fault?
      s.issues i = true → e.Clear →
        (ps.any Plan.waits = true → exec i s = .next { e with team := { e.team with latch := Latch.empty } }) ∧
        (Local ps → e.Unshared ps → faults ≠ [] →
          ∃ (t : State) (x : Pending), exec i s = .next (e.FailsTogether t (.lanes faults (insnOf i)) (ps.flatMap Plan.unmapped)) ∧
            x.dests = [] ∧ x.waits = [] ∧ x.faults = [] ∧
            t = { e with team := { e.team with pending := e.team.pending ++ [x] }, ctxs := t.ctxs, tlbs := t.tlbs,
                         copies := t.copies, mem := t.mem, tags := t.tags, poison := t.poison, checkErr := t.checkErr,
                         agenda := t.agenda } ∧
            e.Stored t ps (fun l j => ((e.team.getV (d + j / 4) l) >>> (8 * (j % 4))).setWidth 8) fun _ => false)) ∧
    (∀ w n, (w, n) ∈ [(LdW.b8, 1), (.b16, 2), (.b32, 4), (.b64, 8), (.b128, 16)] →
      let i := Instr.ld w d a b ix la
      let e := s.entering i
      let ps := e.lanePlans a b ix n 1 1 .read (w == .b128)
      let faults := ps.filterMap Plan.fault?
      s.issues i = true → e.Clear →
        (ps.any Plan.waits = true → exec i s = .next { e with team := { e.team with latch := Latch.empty } }) ∧
        (Local ps → e.Sound ps → e.Fresh ps → faults ≠ [] →
          ∃ (t : State) (x : Pending), exec i s = .next (e.FailsTogether t (.lanes faults (insnOf i)) (ps.flatMap Plan.unmapped)) ∧
            x.waits = [] ∧ x.faults = [] ∧
            x.dests = ((List.range ((n + 3) / 4)).map fun k => Dest.v (d + k) ((List.range e.team.width).map fun l =>
              let p := e.lanePlan a b ix n 1 1 .read (w == .b128) l
              if e.team.selected l && p.fault?.isNone then
                some (BitVec.ofNat 32 (natOfBytes (p.keys.map (e.seen e.who.core)) / 2 ^ (32 * k)))
              else none)) ∧
            s.SameMemory t ∧
            t = { e with team := { e.team with pending := e.team.pending ++ [x] }, ctxs := t.ctxs, tlbs := t.tlbs,
                         copies := t.copies })) ∧
    (∀ wide : Bool,
      let i := Instr.stu wide d a b ix la
      let e := s.entering i
      let p := e.uniPlan a b ix (if wide then 8 else 4) 2 1 .write false
      s.issues i = true → e.Clear →
        (p.res = .error .wait → exec i s = .next { e with team := { e.team with latch := Latch.empty } }) ∧
        ∀ f, p.res = .error (.fault f) → ∃ x : Pending, x.dests = [] ∧ x.waits = [] ∧ x.faults = [] ∧
          exec i s = .next (e.FailsTogether { e with team := { e.team with pending := e.team.pending ++ [x] } }
            (.uniform f (insnOf i)) p.unmapped)) ∧
    (let i := Instr.st .b128 d a b ix la
     let e := s.entering i
     let ps := e.lanePlans a b ix 16 2 1 .write true
     let at' (fb : Nat × Nat) : List Plan := ps.filter fun p => p.fifo? == some fb
     s.issues i = true → e.Clear → (∀ p ∈ ps, ∃ fb, p.fifo? = some fb ∧ fb.2 < (e.core fb.1).banks.length) →
       ((∃ fb, at' fb ≠ [] ∧ 8192 < (e.fifoOf fb).length + (at' fb).length) →
         exec i s = .next { e with team := { e.team with latch := Latch.empty } }) ∧
       ((∀ fb, at' fb ≠ [] → (e.fifoOf fb).length + (at' fb).length ≤ 8192) →
         ∃ t, exec i s = .next t ∧ t = { e with team := e.team.advance, cores := t.cores } ∧
           ∀ fb, t.fifoOf fb = e.fifoOf fb ++ (at' fb).map fun p =>
             e.team.getV (d + 3) p.lane ++ e.team.getV (d + 2) p.lane ++ e.team.getV (d + 1) p.lane ++ e.team.getV d p.lane)) ∧
    (let i := Instr.ld .b128 d a b ix la
     let e := s.entering i
     let plan := e.lanePlan a b ix 16 1 1 .read true
     let ps := e.lanePlans a b ix 16 1 1 .read true
     let at' (fb : Nat × Nat) : List Plan := ps.filter fun p => p.fifo? == some fb
     s.issues i = true → e.Clear → (∀ p ∈ ps, ∃ fb, p.fifo? = some fb ∧ fb.2 < (e.core fb.1).banks.length) →
       ((∃ fb, (e.fifoOf fb).length < (at' fb).length) →
         exec i s = .next { e with team := { e.team with latch := Latch.empty } }) ∧
       ((∀ fb, (at' fb).length ≤ (e.fifoOf fb).length) →
         ∃ t, exec i s = .next t ∧
           (let dests : List Dest := (List.range 4).map fun k => .v (d + k) ((List.range e.team.width).map fun l =>
              if e.team.selected l then
                ((plan l).fifo?).map fun fb =>
                  (((e.fifoOf fb).getD ((at' fb).filter fun p => Nat.blt p.lane l).length 0) >>> (32 * k)).setWidth 32
              else none)
            t = { e with cores := t.cores, team := e.team.launchPending la dests 0 [] (insnOf i) false (farReads ps) }) ∧
           ∀ fb, t.fifoOf fb = (e.fifoOf fb).drop (at' fb).length)) ∧
    ∀ (k v : Cap) (p : Plan) (q : Part) (qs : List Part), p.res = .ok (q :: qs) →
      let window : Prop := regionSize * winRegion 0 ≤ q.key
      let tagless : Prop := q.key / regionSize = 1 ∨ q.fifo ≠ none
      (v.tag = false → q.fifo = none → storeCapCheck k v p = p) ∧
      (v.tag = false → q.fifo ≠ none → storeCapCheck k v p = p.fail 0x21 true) ∧
      (v.tag = true → k.has 8 = false → storeCapCheck k v p = p.fail 0x12 true) ∧
      (v.tag = true → k.has 8 = true → v.has permGlobal = false → ¬ window → storeCapCheck k v p = p.fail 0x12 true) ∧
      (v.tag = true → k.has 8 = true → (v.has permGlobal = true ∨ window) → tagless → storeCapCheck k v p = p.fail 0x15 true) ∧
      (v.tag = true → k.has 8 = true → (v.has permGlobal = true ∨ window) → ¬ tagless → (peerOf q.key).isSome = true →
        v.has permShare = false → storeCapCheck k v p = p.fail 0x12 true) ∧
      (v.tag = true → k.has 8 = true → (v.has permGlobal = true ∨ window) → ¬ tagless →
        (peerOf q.key = none ∨ v.has permShare = true) → storeCapCheck k v p = p)

/-! ## Atomics, counters, ordering, submission -/

/-- R213, R214: the new value of every atomic operation on 4 or 8 bytes. Floating sums round to nearest even and keep
subnormals, and a NaN operand or result follows R113.
R212, R213, R215, R411: ATOM and CAS perform their lanes one after another in some order at the lines' homes, each
lane receiving the old value at its place in it; a CAS that does not compare equal writes nothing. RED returns nothing; a
router holds it where a line of local memory or a window is its target, and it is performed at once at a host port or an
expander. No other byte changes.
What the manual leaves open here is the model's choice: log entries 18, 20, 76. -/
def Obligations.AtomicsActInSomeOrder : Prop :=
  (∀ (n old v : Nat), (n = 4 ∨ n = 8) → old < 2 ^ (8 * n) → v < 2 ^ (8 * n) →
     let w := 8 * n
     let F := if n = 8 then fmtF64 else fmtF32
     let x := F.unpack false old
     let y := F.unpack false v
     atomNew .add n old v = (old + v) % 2 ^ w ∧
     atomNew .and n old v = (BitVec.ofNat w old &&& BitVec.ofNat w v).toNat ∧
     atomNew .or n old v = (BitVec.ofNat w old ||| BitVec.ofNat w v).toNat ∧
     atomNew .xor n old v = (BitVec.ofNat w old ^^^ BitVec.ofNat w v).toNat ∧
     atomNew .minS n old v = (if (BitVec.ofNat w v).slt (BitVec.ofNat w old) then v else old) ∧
     atomNew .maxS n old v = (if (BitVec.ofNat w old).slt (BitVec.ofNat w v) then v else old) ∧
     atomNew .minU n old v = (if v < old then v else old) ∧ atomNew .maxU n old v = (if old < v then v else old) ∧
     atomNew .xchg n old v = v ∧
     atomNew .fadd n old v = (F.sum ⟨0, false, false⟩ [x, y]).1 ∧
     (x.isNan = true → y.isNan = true → atomNew .fmin n old v = F.nanBits ∧ atomNew .fmax n old v = F.nanBits) ∧
     (x.isNan = true → y.isNan = false → atomNew .fmin n old v = v ∧ atomNew .fmax n old v = v) ∧
     (x.isNan = false → y.isNan = true → atomNew .fmin n old v = old ∧ atomNew .fmax n old v = old) ∧
     (x.isFin = true → y.isFin = true → x.rat < y.rat → atomNew .fmin n old v = old ∧ atomNew .fmax n old v = v) ∧
     (x.isFin = true → y.isFin = true → y.rat < x.rat → atomNew .fmin n old v = v ∧ atomNew .fmax n old v = old)) ∧
  ∀ (s : State) (wide : Bool) (op : AtomOp) (d a b la : Nat),
    let n := if wide then 8 else 4
    let plan (e : State) (need : Nat) (acc : Access) (l : Nat) : Plan :=
      e.atomPlan e.who l (e.team.getK a l) (e.team.laneEa a b .scaled n l) n need acc
    let lanes (e : State) : List Nat := (List.range e.team.width).filter e.team.selected
    let word (t : Team) (r l : Nat) : Nat := if wide then (t.getV64 r l).toNat else (t.getV r l).toNat
    let Ready (i : Instr) (need : Nat) (acc : Access) : Prop :=
      let e := s.entering i
      let ps := (lanes e).map (plan e need acc)
      s.issues i = true ∧ e.Clear ∧ Here ps ∧ e.Sound ps ∧ e.Unshared ps ∧ e.OnlyOwn e.who.core ps
    let Chain (e : State) (need : Nat) (acc : Access) (f : Nat → Nat → Option Nat) (go : List Nat) (t : State) :
        List (Nat × Nat) → Prop :=
      fun olds =>
        let m (k : Nat) : Byte := if (lanes e).any fun l => (plan e need acc l).key / 128 == k / 128
          then e.homeAfter e.who.core k else e.readByte k
        let r := atomChain n (fun l => (plan e need acc l).key) f go m
        olds = r.1 ∧ (∀ k, t.readByte k = r.2 k) ∧ t.others = e.others ∧
          ∀ l ∈ lanes e, t.copy? e.who.cluster ((plan e need acc l).key / 128) = none ∧
            t.copies.find? (l1Key e.who.core ((plan e need acc l).key / 128)) = none
    let old (olds : List (Nat × Nat)) (k l : Nat) : Option Word :=
      (olds.find? fun x => x.1 == l).map fun x => BitVec.ofNat 32 (x.2 / 2 ^ (32 * k))
    let Returns (i : Instr) (f : State → Nat → Nat → Option Nat) : Prop :=
      let e := s.entering i
      Ready i 35 .update → ∃ (t : State) (go : List Nat) (olds : List (Nat × Nat)), exec i s = .next t ∧
        go.Perm (lanes e) ∧ Chain e 35 .update (f e) go t olds ∧
        t.team = e.team.launchPending la ((List.range (n / 4)).map fun k =>
          .v (d + k) ((List.range e.team.width).map (old olds k))) 0 [] (insnOf i)
    Returns (.atom wide op d a b la) (fun e l x => some (atomNew op n x (word e.team d l))) ∧
    Returns (.cas wide d a b la) (fun e l x =>
      if x = word e.team d l then some (word e.team (d + if wide then 2 else 1) l) else none) ∧
    (let i := Instr.red wide op d a b la
     let e := s.entering i
     Ready i 34 .add →
       (∀ l ∈ lanes e, 1 ≤ (plan e 34 .add l).key / regionSize ∧ (plan e 34 .add l).key / regionSize < 10000) →
       ∃ (t : State) (go : List Nat) (olds : List (Nat × Nat)), exec i s = .next t ∧ go.Perm (lanes e) ∧
         Chain e 34 .add (fun l x => some (atomNew op n x (word e.team d l))) go t olds ∧ t.merges = [] ∧
         t.team = e.team.advance) ∧
    (let i := Instr.red wide op d a b la
     let e := s.entering i
     Ready i 34 .add → lanes e ≠ [] →
       (∀ l ∈ lanes e, (plan e 34 .add l).key / regionSize = 0 ∨ 10000 ≤ (plan e 34 .add l).key / regionSize) →
       ∃ (t : State) (go : List Nat), exec i s = .next t ∧ go.Perm (lanes e) ∧ s.SameMemory t ∧ t.others = e.others ∧
         t.merges = (List.range go.length).map (fun j =>
           let l := go.getD j 0
           ({ id := e.nextMerge + j, ctx := e.team.ctx, key := (plan e 34 .add l).key, n := n, op := op,
              operand := BitVec.ofNat 64 (word e.team d l), team := e.team.id, lane := l, pendingId := e.team.freshId,
              ea := BitVec.ofInt 64 (plan e 34 .add l).ea, coh := (plan e 34 .add l).coh,
              since := e.timebase } : Machine.Merge)) ∧
         t.team = e.team.launchPending la [] 0 ((List.range go.length).map fun j => mergeReq (e.nextMerge + j)) (insnOf i)) ∧
    ∀ (k : Nat) (m : Machine.Merge), s.merges = [m] → m.id = k → s.snoops = [] → s.specs = [] → s.copies = [] →
      injEn s.injCtl = false →
      s.checkBad (m.key / 128) = false → s.poisoned (m.key / 128) = false → (m.n = 4 ∨ m.n = 8) →
      m.key % 128 + m.n ≤ 128 → s.sharers.getD (m.key / 128) [] = [] →
      ∃ t, exec (.mergeBufferSend k) s = .next t ∧ t.merges = [] ∧
        (∀ x, t.readByte x = (atomChain m.n (fun _ => m.key) (fun _ v => some (atomNew m.op m.n v m.operand.toNat)) [0]
          s.readByte).2 x) ∧
        ∀ u, s.team? m.team = some u → (s.teams.map Team.id).Nodup →
          t.team? m.team = some { u with stalled := false, pending := u.pending.map fun p =>
            if p.id = m.pendingId then { p with waits := p.waits.filter fun w => w != mergeReq m.id } else p }

/-- R219, R220, R57, R58: CADD adds at the counter's home, saturating, returns the old value and wakes the line's
monitors; CWAIT goes on with its report once the counter has reached the target or the timeout has passed, and sleeps
before that; a team that sleeps re-reads when a monitor wakes it, when it polls and when its timeout passes.
What the manual leaves open here is the model's choice: log entry 21. -/
def Obligations.CountersAddAndWait : Prop :=
  ∀ (s : State) (d a b la : Nat),
    let Ready (i : Instr) (p : Plan) : Prop :=
      let e := s.entering i
      s.issues i = true ∧ e.Clear ∧ Here [p] ∧ e.Sound [p] ∧ e.Unshared [p] ∧ e.copies = []
    let value (e : State) (k : Nat) : Nat := natOfBytes (e.readBytes k 8)
    (∀ returns, let i := Instr.cadd d a b returns la
      let e := s.entering i
      let p := e.counterPlan (e.team.getC a) 34 .counterAdd
      Ready i p → e.releaseWaits (counterScope p.key) = false → ∃ t, exec i s = .next t ∧ t.others = e.others ∧
        t.team = (if returns then e.team.launchPending la [.s d (some (BitVec.ofNat 64 (value e p.key)))] 0 [] (insnOf i) true
          else e.team.advance) ∧
        value t p.key = min (value e p.key + (e.team.sBz b).toNat) (2 ^ 64 - 1) ∧
        (∀ k, ¬ (p.key ≤ k ∧ k < p.key + 8) → t.readByte k = s.readByte k) ∧ t.tagAt p.key = false ∧
        ∀ u ∈ e.others, ∀ z, u.run = .asleep → u.sleep = some z → z.monitor = true → z.key / 128 = p.key / 128 →
          Instr.monitorWake u.id ∈ t.agenda) ∧
    (∀ timed, let i := Instr.cwait d a b timed la
      let e := s.entering i
      let p := e.counterPlan (e.team.getC a) 1 .counter
      let v := value e p.key
      let met : Prop := (e.team.sBz b).toNat ≤ v
      let expired : Prop := timed = true ∧ e.team.getS d = 0
      Ready i p → e.acquireWaits = false → ∃ t, exec i s = .next t ∧ s.SameMemory t ∧ t.others = e.others ∧
        (met ∨ expired → t.team =
          if timed then e.team.launchPending la [.s d (some (BitVec.ofNat 64 v))] 0 [] (insnOf i) true else e.team.advance) ∧
        (¬ met → ¬ expired → ∃ z, t.team = { e.team with run := .asleep, sleep := some z, latch := Latch.empty } ∧
          z.ea = BitVec.ofInt 64 p.ea ∧ z.key = p.key ∧ z.gen = (e.team.getC a).gen ∧ z.target = e.team.sBz b ∧
          z.since = e.timebase ∧ z.polled = e.timebase ∧ z.words = 1 + e.team.latch.words ∧ z.window = la ∧
          z.limit = (if timed then some (e.team.getS d).toNat else none) ∧ z.dest = (if timed then some d else none) ∧
          (z.monitor = true ↔ (p.key / regionSize = 0 ∨ winRegion 0 ≤ p.key / regionSize) ∧
            e.monitors ((e.gang? e.team.id.ticket).elim 0 fun g => g.coreOf e.team.id.gx e.team.id.gy) < 64))) ∧
    ∀ (u : Team) (z : Sleep) (x : Ctx) (p : Part), s.team? u.id = some u → (s.teams.map Team.id).Nodup →
      u.run = .asleep → u.sleep = some z → s.resident u = true → s.merges = [] → s.snoops = [] → s.specs = [] →
      s.copies = [] → injEn s.injCtl = false → s.ctx? u.ctx = some x →
      (let e : State := { s with team := u }
       e.pagePart e.who x z.gen .counter z.ea.toNat 8 = .ok (some p)) → peerOf p.key = none →
      s.checkBad (p.key / 128) = false → s.poisoned (p.key / 128) = false →
      ∀ i ∈ [Instr.monitorWake u.id, Instr.cwaitPoll u.id, Instr.cwaitTimeout u.id], ∃ t, exec i s = .next t ∧
        s.SameMemory t ∧ ∃ u', t.team? u.id = some u' ∧
          (let v := value s p.key
           let late : Prop := ∃ l, z.limit = some l ∧ l ≤ s.timebase - z.since
           (z.target.toNat ≤ v ∨ late → u'.run = .ready ∧ u'.sleep = none ∧
             u'.pc = u.cont.getD (u.pc + BitVec.ofNat 64 (4 * (1 + (z.words - 1)))) ∧
             (∀ r, u'.getS r = if z.dest = some r then BitVec.ofNat 64 v else u.getS r) ∧
             ∀ r, z.dest = some r → z.window ≠ 0 → ⟨z.window, [.s r none]⟩ ∈ u'.past) ∧
           (z.target.toNat > v → ¬ late → u' = { u with sleep := some { z with
              key := p.key, polled := s.timebase, again := false, asked := false,
              monitor := z.monitor && monitored p.key } }))

/-- R206, R207, R209 to R211, R365, R366: FENCE and DRAIN pass on every byte that the issuing core's L1 has written and not passed
on: to its cluster, and at a scope beyond the cluster, with what the cluster's cache has written, to the homes; the cluster's
other L1s are snooped. An acquire then discards those copies, the L1's and at a scope beyond the cluster the cache's. At TEAM and
CORE scope there is nothing to move. FLUSH and INVAL do so for the lines they name, INVAL discarding them after every written
byte of the cluster has gone home.
What the manual leaves open here is the model's choice: log entries 14, 17, 88. -/
def Obligations.FencesMoveDirtyBytes : Prop :=
  ∀ (s : State) (c : Scope) (a la : Nat),
    let Ready (i : Instr) : Prop :=
      let e := s.entering i
      s.issues i = true ∧ e.Clear ∧ e.remotes = []
    let frame (e t : State) : Prop :=
      t = { e with team := e.team.advance, ctxs := t.ctxs, copies := t.copies, mem := t.mem, tags := t.tags,
                   poison := t.poison, checkErr := t.checkErr, agenda := t.agenda }
    let l1 (e : State) (line : Nat) : Option Copy := e.copies.find? (l1Key e.who.core line)
    let Moves (i : Instr) (c : Scope) (named : State → Nat → Bool) (keep : Bool) : Prop :=
      let e := s.entering i
      let cl := e.who.cluster
      let far : Bool := e.wideScope c || !e.caches cl
      ∃ t, exec i s = .next t ∧ frame e t ∧
        (c = .team ∨ c = .core → t = { e with team := e.team.advance }) ∧
        (c ≠ .team → c ≠ .core →
          (∀ k, k < 2 ^ 128 → t.readByte k = if named e (k / 128) && far then e.homeAfter e.who.core k else e.readByte k) ∧
          (∀ k, k < 2 ^ 128 → e.wideScope c = false → t.clusterByte cl k =
            if named e (k / 128) then dirtyByte (l1 e (k / 128)) k (e.clusterByte cl k) else e.clusterByte cl k) ∧
          (∀ line, line < 2 ^ 121 → l1 t line = if named e line then (if keep then (l1 e line).map Copy.passed else none)
            else l1 e line) ∧
          (∀ line, line < 2 ^ 121 → e.wideScope c = true → named e line = true →
            (keep = false → t.copy? cl line = none) ∧ ∀ x, t.copy? cl line = some x → x.dirty = 0) ∧
          (∀ line, line < 2 ^ 121 → named e line = false → t.copy? cl line = e.copy? cl line) ∧
          (∀ core line, line < 2 ^ 121 → core ≠ e.who.core → clusterOf core = cl →
            t.copies.find? (l1Key core line) = (e.copies.find? (l1Key core line)).map fun x =>
              x.snoop (if named e line then (l1 e line).elim 0 Copy.dirty else 0)) ∧
          ∀ x, copyCluster x ≠ cl → t.copies.find? x = e.copies.find? x)
    (∀ k, let i := Instr.fence c k la
      Ready i → Moves i c (fun _ _ => true) (k == .release)) ∧
    (let i := Instr.drain la
     Ready i → Moves i .fabric (fun _ _ => true) true) ∧
    (∀ sel, let i := Instr.flush c a sel la
      let e := s.entering i
      Ready i → (sel ≠ .held → e.lineCheck? (e.team.getC a) (if sel = .cursor then 1 else 0) = .ok ()) →
        (∀ x lo hi, sel = .bounds → e.ctx? e.team.ctx = some x → capDecode (e.team.getC a) = some (lo, hi) →
          e.migratesWithin x lo hi = false) →
        Moves i c (fun e => e.named (e.team.getC a) sel) true) ∧
    (∀ sel, let i := Instr.inval c a sel la
      let e := s.entering i
      let cl := e.who.cluster
      let named := e.named (e.team.getC a) sel
      let kept (line : Nat) : Prop := l1 e line = none ∧ (e.wideScope c = true → e.copy? cl line = none)
      Ready i → (sel ≠ .held → e.lineCheck? (e.team.getC a) (if sel = .cursor then 1 else 0) = .ok ()) →
        (∀ x lo hi, sel = .bounds → e.ctx? e.team.ctx = some x → capDecode (e.team.getC a) = some (lo, hi) →
          e.migratesWithin x lo hi = false) →
        ∃ t, exec i s = .next t ∧ frame e t ∧
          (c = .team ∨ c = .core → t = { e with team := e.team.advance }) ∧
          (c ≠ .team → c ≠ .core → ∀ line, line < 2 ^ 121 →
            (named line = true → l1 t line = none ∧ (e.wideScope c = true → t.copy? cl line = none)) ∧
            (named line = true → ¬ kept line →
              (∀ x y, e.copies.find? x = some y → copyLine x = line → copyCluster x = cl → y.dirty ≠ 0 →
                x = l1Key e.who.core line ∨ x = copyKey cl line) →
              ∀ k, k / 128 = line → t.readByte k = e.homeAfter e.who.core k) ∧
            (named line = false ∨ kept line → (∀ k, k / 128 = line → t.readByte k = e.readByte k) ∧
              ∀ x, copyLine x = line → t.copies.find? x = e.copies.find? x))) ∧
    (s.wideScope c = true ↔ c = .device ∨ c = .pool ∨ c = .fabric ∨
      (c = .gang ∧ ∃ g, s.gang? s.team.id.ticket = some g ∧ 1 < g.clusters.length)) ∧
    (∀ (k : Cap) (line : Nat), s.named k .held line = true)

/-- R176, R383, R384: KSWEEP completes wherever each capability it goes through is tagged, unsealed, in bounds and carries LOADCAP,
STORECAP and SYS, and its page passes, or is not mapped and is passed over. It clears the tag of every granule between the
cursor and the lesser of top and the next 64 KiB boundary that holds a capability of the context's revocation list, or lies in
a poisoned line, and no other, and gives back the capability at the end of the range; no byte changes.
What the manual leaves open here is the model's choice: log entry 40. -/
def Obligations.KsweepClearsStaleTags : Prop :=
  ∀ (s : State) (lane : Bool) (d a la : Nat) (c : Ctx) (part : Nat → Option Part),
    let i := Instr.ksweep lane d a la
    let e := s.entering i
    let lanes := if lane then (List.range e.team.width).filter e.team.selected else [0]
    let k (l : Nat) : Cap := e.team.getK a l
    let stop (l top : Nat) : Nat := min top (((k l).cur / 65536 + 1) * 65536)
    let Sweeps (l : Nat) : Prop := ∃ lo top, (k l).tag = true ∧ (k l).isSealed = false ∧ (k l).has 524 = true ∧
      capDecode (k l) = some (lo, top) ∧ lo ≤ (k l).cur ∧ (k l).cur ≤ top ∧
      (let share := e.pagePart e.who c (k l).gen .update (k l).cur (stop l top - (k l).cur)
       (stop l top ≤ (k l).cur ∧ part l = none) ∨ ((k l).cur < stop l top ∧ match part l with
        | none => ∃ level, share = .error (0x20, level, false)
        | some p => share = .ok (some p) ∧ p.fifo = none ∧ peerOf p.key = none ∧ ∀ line ∈ linesOf p.key p.len,
            e.checkBad line = false ∧ (p.coh = true → e.sharers.getD line [] = [])))
    let out (l : Nat) : Cap := match capDecode (k l) with
      | some (_, top) => if stop l top ≤ (k l).cur then k l else (okCap (capMove (k l) (stop l top))).getD (k l)
      | none => k l
    s.issues i = true → e.Clear → e.copies = [] → e.ctx? e.team.ctx = some c → (∀ l ∈ lanes, Sweeps l) →
      ∃ t, exec i s = .next t ∧ t.others = e.others ∧ (∀ x, t.readByte x = s.readByte x) ∧
        (let dest := if lane then Dest.q (d - 16) ((List.range e.team.width).map fun l =>
             if e.team.selected l then some (out l) else none) else Dest.c d (some (out 0))
         t.team = e.team.launchPending la [dest] 0 [] (insnOf i)) ∧
        ∀ g, t.tagAt (16 * g) = (s.tagAt (16 * g) && !(lanes.any fun l => (part l).any fun p =>
          p.key ≤ 16 * g && 16 * g + 16 ≤ p.key + p.len &&
            (c.stale? ⟨true, BitVec.ofNat 128 (natOfBytes (s.readBytes (16 * g) 16))⟩ ||
              (s.poisoned (g / 8) && (List.range 32).any fun n => (c.revCtl.getD n 0).getLsbD 63))))

/-- R221, R236, R368, R388, R435, R36, R35: JOB, TASK and LAUNCH complete. JOB puts its card into the engine's queue, TASK and
LAUNCH their image into the named queue's inlet, as read through the team's capability, each after a release; while the queue,
or the inlet, is full the team releases and tries again, and a selector that names nothing, or an image of another kind, ends in a record.
It is stated where no cache of the core holds old bytes of the image.
What the manual leaves open here is the model's choice: log entries 60, 62. -/
def Obligations.SubmissionsReachTheirQueues : Prop :=
  ∀ (s : State) (a b la : Nat),
    let plan (e : State) : Plan := e.plan e.who 0 (e.team.getC a) (e.team.getC a).cur 128 257 1 .read false
    let Ready (i : Instr) : Prop :=
      let e := s.entering i
      s.issues i = true ∧ e.Clear ∧ Here [plan e] ∧ e.Sound [plan e] ∧ e.Fresh [plan e] ∧ e.remotes = [] ∧
        (e.team.getC a).cur % 16 = 0
    let image (e : State) : List Byte := (plan e).keys.map (e.seen e.who.core)
    let at' (bs : List Byte) (o n : Nat) : Nat := natOfBytes ((bs.drop o).take n)
    let cap (e : State) (j : Nat) : Cap :=
      e.filterCap e.team.ctx ⟨e.seenTag e.who.core ((plan e).keys.getD (16 * j) 0) &&
        regionTagged ((plan e).keys.getD (16 * j) 0), BitVec.ofNat 128 (at' (image e) (16 * j) 16)⟩
    let After (e t : State) (u : Team) : Prop := t.team = u ∧ t.others = e.others ∧
      ∀ k, k < 2 ^ 128 → t.readByte k = e.homeAfter e.who.core k
    let Records (e t : State) (kind status : Nat) : Prop := ∀ c, e.ctx? e.team.ctx = some c → ∃ c' m r,
      t.ctx? e.team.ctx = some c' ∧ c'.evtDue = c.evtDue ++ m ++ [r] ∧ r.kind = kind ∧ r.status = status ∧
        r.tag = at' (image e) 4 4
    (let i := Instr.job a b la
     let e := s.entering i
     let sel := (e.team.sBz b).toNat
     Ready i →
       (∀ q, e.engineFor sel = some q → (e.engineQueue q).length < 64 → ∃ (t : State) (j : Job), exec i s = .next t ∧
         After e t e.team.advance ∧ t.engineQueue q = e.engineQueue q ++ [j] ∧ (∀ q', q' ≠ q → t.engineQueue q' = e.engineQueue q') ∧
         j.ctx = e.team.ctx ∧ j.ctr = cap e 1 ∧ j.src = cap e 2 ∧ j.dst = cap e 3 ∧ j.aux = cap e 4 ∧
         j.tag = at' (image e) 4 4 ∧ j.amount = BitVec.ofNat 64 (at' (image e) 8 8) ∧ j.len = at' (image e) 104 8 ∧
         j.p1 = at' (image e) 112 8 ∧ j.p2 = at' (image e) 120 8 ∧ j.snarrow = at' (image e) 88 8 ∧
         j.dnarrow = at' (image e) 96 8 ∧ (∀ o, operOf (at' (image e) 80 1) = some o → j.oper = o) ∧
         (operOf (at' (image e) 80 1) = none → j.ended = some 1)) ∧
       (e.engineFor sel = none → ∃ t, exec i s = .next t ∧ After e t e.team.advance ∧ t.engines = e.engines ∧ Records e t 3 2) ∧
       (∀ q, e.engineFor sel = some q → 64 ≤ (e.engineQueue q).length → ∃ t, exec i s = .next t ∧
         After e t { e.team with latch := Latch.empty } ∧ t.engines = e.engines)) ∧
    ∀ task : Bool,
     let i := if task then Instr.task a b la else Instr.launch a b la
     let kind := if task then 5 else 1
     let e := s.entering i
     let sel := (e.team.sBz b).toNat
     Ready i →
       (∀ slot q, e.slotOf e.team.ctx sel = some slot → e.queues.find? slot = some q → q.inlet.length < 16 →
         (at' (image e) 0 1 % 16 = kind → ∃ t, exec i s = .next t ∧ After e t e.team.advance ∧
           t.queues.find? slot = some { q with inlet := q.inlet ++ [(image e, none)] } ∧
           ∀ slot', slot' ≠ slot → t.queues.find? slot' = e.queues.find? slot') ∧
         (at' (image e) 0 1 % 16 ≠ kind → ∃ t, exec i s = .next t ∧ After e t e.team.advance ∧
           t.queues = e.queues ∧ Records e t 2 1)) ∧
       (e.slotOf e.team.ctx sel = none → ∃ t, exec i s = .next t ∧ After e t e.team.advance ∧
         t.queues = e.queues ∧ Records e t 2 2) ∧
       (∀ slot q, e.slotOf e.team.ctx sel = some slot → e.queues.find? slot = some q → 16 ≤ q.inlet.length →
         ∃ t, exec i s = .next t ∧ After e t { e.team with latch := Latch.empty } ∧ t.queues = e.queues)

/-! ## The matrix engine -/

/-- R132 to R134, R138 to R142, R147, R395 to R404: at issue a matrix instruction checks its formats, its map and its
footprint, and enters its workgroup's queue with MODE and FMT as they stand, while the team goes on; a full queue makes the
team try again. -/
def Obligations.MatrixInstructionsEnterTheQueue : Prop :=
  ∀ (s : State) (acc tile map d a b la : Nat) (reuse pair overwrite flag : Bool),
    let x (i : Instr) (e : State) (op : MOp) (ea : Int) (ps : List Part) (w : Nat) : MEntry :=
      { op := op, team := e.team.id, mode := e.team.mode, fmt := e.team.fmt, ea := BitVec.ofInt 64 ea,
        pieces := ps.map fun q => ⟨q.key, q.len, q.coh⟩, pc := e.team.pc, insn := BitVec.ofNat 32 (insnOf i), window := w }
    let pushed (e : State) (m : MEntry) : List Workgroup :=
      e.wgs.map fun w => if w.id = e.team.wg then { w with queue := w.queue ++ [m] } else w
    let Ready (i : Instr) : Prop := s.issues i = true ∧ (s.entering i).merges = [] ∧ (s.entering i).queueFull = false
    (∀ i ∈ [Instr.mza acc la, .mchk d la],
      s.issues i = true → (s.entering i).queueFull = true →
        exec i s = .next { s.entering i with team := { (s.entering i).team with latch := Latch.empty } }) ∧
    (let i := Instr.mza acc la
     let e := s.entering i
     Ready i → exec i s = .next { e with team := e.team.advance, wgs := pushed e (x i e (.mza acc) 0 [] 0) }) ∧
    (let i := Instr.mchk d la
     let e := s.entering i
     Ready i → exec i s = .next { e with
       team := e.team.launchPending la [.s d none] 0 [mchkReq] (insnOf i) true,
       wgs := pushed e (x i e (.mchk e.team.freshId) 0 [] la) }) ∧
    (let i := Instr.mma acc tile map reuse pair overwrite la
     let e := s.entering i
     let f := e.team.fmt
     let dsc := (e.wg? e.team.wg).elim 0 fun g => g.mapsIssued.getD map 0
     let alone : Prop := pair = true ∧ e.team.id.gx % 2 = 0 ∧
       ∀ g, e.gang? e.team.id.ticket = some g → g.shape.w ≤ e.team.id.gx + 1
     let format : Prop := fmtAtype f = fmtBtype f ∧ fmtAtype f ≤ 5 ∧
       fmtAcct f = (if fmtAtype f = 4 then 1 else if fmtAtype f = 5 then 2 else 0) ∧
       (fmtAtype f ≠ 0 → fmtAscale f = 0 ∧ fmtBscale f = 0) ∧
       ∀ sz, sz = (mshape (fmtAtype f)).size → mapBase dsc % sz = 0 ∧ mapRstride dsc % sz = 0 ∧ mapCstride dsc % sz = 0
     Ready i →
       (alone → exec i s = .next (takeTrap (.instr 3 (insnOf i)) 0 e)) ∧
       (¬ alone → ¬ format → exec i s = .next (takeTrap (.instr 6 (insnOf i)) 0 e)) ∧
       (¬ alone → format → e.mapPlace dsc (mshape (fmtAtype f)) false = .ok () →
         exec i s = .next { e with
           team := if pair then { e.team with run := .pairing } else e.team.advance,
           wgs := pushed e (x i e (.mma acc tile map reuse pair overwrite) 0 [] la) })) ∧
    (let i := Instr.mmap d a la
     let e := s.entering i
     let y : BitVec 128 := e.team.getS (a + 1) ++ e.team.getS a
     let legal : Prop := y.toNat / 2 ^ 81 = 0 ∧ y.toNat / 2 ^ 64 % 2 ^ 7 ≤ 64 ∧ y.toNat / 2 ^ 71 % 2 ^ 7 ≤ 32 ∧
       y.toNat / 2 ^ 78 % 2 ^ 3 ≤ 3
     Ready i → (¬ legal → exec i s = .next (takeTrap (.instr 6 (insnOf i)) 0 e)) ∧
       (legal → e.mapPlace y (mshape 0) true = .ok () → ∃ t, exec i s = .next t ∧
         t = { e with team := e.team.advance, wgs := t.wgs } ∧
         ∀ w, e.wg? e.team.wg = some w → t.wg? e.team.wg = some { w with
           mapsIssued := w.mapsIssued.put 0 d y, queue := w.queue ++ [x i e (.mmap d y) 0 [] 0] })) ∧
    (let Transfers (i : Instr) (op : MOp) (n : State → Nat) (need : Nat) (w : Access) : Prop :=
       let e := s.entering i
       let ea := e.team.uniEa a b .x1 1
       ∀ ps, Ready i → e.snoops = [] → e.speculative = false → (∀ r ∈ e.remotes, r.team ≠ e.team.id) →
         e.resolve e.who 0 (e.team.getC a) ea (n e) need 128 w true = .ok ps → (∀ p ∈ ps, p.fifo = none) →
         exec i s = .next { e with team := e.team.advance, ctxs := (e.touch e.who w ps).ctxs,
                                   tlbs := (e.touch e.who w ps).tlbs, wgs := pushed e (x i e op ea ps 0) }
     let side (f : Word) : Nat := if fmtAcct f = 1 then 16 else 32
     let size (f : Word) : Nat := if fmtAcct f = 1 then 2048 else 4096
     Transfers (.mldt d a b flag la) (.mldt d flag) (fun _ => 2048) 1 .read ∧
     Transfers (.mlda d a b la) (.mlda d) (fun e => size e.team.fmt) 1 .read ∧
     Transfers (.msta d a b false la) (.msta d false) (fun e => size e.team.fmt) 2 .write ∧
     (mstaFormat s.team.fmt = true →
       Transfers (.msta d a b true la) (.msta d true)
         (fun _ => side s.team.fmt * side s.team.fmt * (mshape (fmtAtype s.team.fmt)).size) 2 .write)) ∧
    (let i := Instr.msta d a b true la
     mstaFormat s.team.fmt = false → s.issues i = true →
       exec i s = .next (takeTrap (.instr 6 (insnOf i)) 0 (s.entering i)))

/-- R126 to R128, R133, R137, R138, R140, R141, R144, R145, R151: what the engine does with the head of a queue: MZA clears an
accumulator, MMAP installs a map, MCHK hands out its status and clears the count, MLDT and MLDA bring memory into a tile, as it
stands or transposed, or an accumulator, MSTA stores an accumulator, as it stands or scaled and rounded to the element type, and
MMA adds a tile times the mapped matrix to an accumulator: modulo 2^32 in int8, in floating types block by block of a balanced
tree, with C in the first root.
What the manual leaves open here is the model's choice: log entries 32, 78. -/
def Obligations.MatrixQueueExecutes : Prop :=
  ∀ (s : State) (g : WgId) (w : Workgroup) (e : MEntry) (q : List MEntry) (u : Team),
    s.wg? g = some w → w.queue = e :: q → s.engineRuns w = true → s.team? e.team = some u →
    (s.teams.map Team.id).Nodup → injEn s.injCtl = false → s.specs = [] → s.copies = [] → s.specOf u = none →
      let v : State := { s with team := u }
      let keys := e.pieces.flatMap fun p => (List.range p.len).map fun i => p.key + i
      (∀ p ∈ e.pieces, 0 < p.len) →
      let sound : Prop := ∀ k ∈ keys, s.checkBad (k / 128) = false ∧ s.poisoned (k / 128) = false
      let reached (write : Bool) : Prop := (∀ k ∈ keys, peerOf k = none) ∧ ∀ l ∈ transferLines e.pieces,
        s.refuses u.ctx write l.key = none ∧ peerOf l.key = none
      ∃ t, exec (.matrixQueueExecute g) s = .next t ∧
        (∀ acc, e.op = .mza acc → ∃ w', t.wg? g = some w' ∧ w'.queue = q ∧ (∀ k, t.readByte k = s.readByte k) ∧
          ∀ o, w'.accs.getD o 0 = if o / 4096 = acc then 0 else w.accs.getD o 0) ∧
        (∀ m d, e.op = .mmap m d → ∃ w', t.wg? g = some w' ∧ w'.queue = q ∧ (∀ k, t.readByte k = s.readByte k) ∧
          ∀ n, w'.maps.getD n 0 = if n = m then d else w.maps.getD n 0) ∧
        (∀ k, e.op = .mchk k → ∃ w', t.wg? g = some w' ∧ w'.queue = q ∧
          w'.mchk = w.mchk &&& 0x0000FFFFFFFFFFFF ∧ ∃ u', t.team? e.team = some u' ∧
            ∀ p ∈ u.pending, p.id = k → ∀ r x, p.dests = [.s r x] → ∃ p' ∈ u'.pending, p'.id = k ∧
              p'.dests = [.s r (some w.mchk)] ∧ p'.waits = p.waits.filter fun n => n != mchkReq) ∧
        (∀ tile, e.op = .mldt tile false → sound → reached false → ∃ w', t.wg? g = some w' ∧ w'.queue = q ∧
          (∀ k, t.readByte k = s.readByte k) ∧ w'.accs = w.accs ∧
          w'.reuse = (if w.reuse = some tile then none else w.reuse) ∧
          (∀ j k, keys[j]? = some k → w'.tiles.getD (2048 * tile + j) 0 = s.readByte k) ∧
          ∀ o, (o < 2048 * tile ∨ 2048 * tile + keys.length ≤ o) → w'.tiles.getD o 0 = w.tiles.getD o 0) ∧
        (∀ tile, e.op = .mldt tile true → sound → reached false → fmtAtype e.fmt ≤ 5 → keys.length = 2048 →
          let sh := mshape (fmtAtype e.fmt)
          ∃ w', t.wg? g = some w' ∧ w'.queue = q ∧ (∀ k, t.readByte k = s.readByte k) ∧ w'.accs = w.accs ∧
            (∀ i j b k, i < sh.m → j < sh.k → b < sh.size → keys[(j * sh.m + i) * sh.size + b]? = some k →
              w'.tiles.getD (2048 * tile + (i * sh.k + j) * sh.size + b) 0 = s.readByte k) ∧
            ∀ o, (o < 2048 * tile ∨ 2048 * tile + 2048 ≤ o) → w'.tiles.getD o 0 = w.tiles.getD o 0) ∧
        (∀ acc, e.op = .mlda acc → sound → reached false → ∃ w', t.wg? g = some w' ∧ w'.queue = q ∧
          (∀ k, t.readByte k = s.readByte k) ∧ w'.tiles = w.tiles ∧
          (∀ j k, keys[j]? = some k → w'.accs.getD (4096 * acc + j) 0 = s.readByte k) ∧
          ∀ o, (o < 4096 * acc ∨ 4096 * acc + keys.length ≤ o) → w'.accs.getD o 0 = w.accs.getD o 0) ∧
        (∀ acc, e.op = .msta acc false → sound → reached true → keys.Nodup → keys.length = acctSize (fmtAcct e.fmt) →
          (∀ p ∈ e.pieces, p.coh = false) → (∀ k ∈ keys, k < 2 ^ 128) → s.transferSent e = false →
          ∃ w', t.wg? g = some w' ∧ w'.queue = q ∧ w'.accs = w.accs ∧ w'.tiles = w.tiles ∧
            (∀ j k, keys[j]? = some k → t.seen v.who.core k = w.accs.getD (4096 * acc + j) 0) ∧
            ∀ k, k ∉ keys → k < 2 ^ 128 → t.readByte k = s.readByte k ∧ t.seen v.who.core k = s.readByte k) ∧
        (∀ acc, e.op = .msta acc true → sound → reached true → keys.Nodup → (∀ p ∈ e.pieces, p.coh = false) →
          (∀ k ∈ keys, k < 2 ^ 128) → s.transferSent e = false →
          let side := if fmtAcct e.fmt = 1 then 16 else 32
          let eb := if fmtAcct e.fmt = 1 then 8 else 4
          let sz := (mshape (fmtAtype e.fmt)).size
          keys.length = side * side * sz →
          let c := ctlOf e.mode
          let x (i : Nat) : Nat := natOfBytes ((List.range eb).map fun b => w.accs.getD (4096 * acc + eb * i + b) 0)
          let lands (i r : Nat) : Prop := ∀ b k, b < sz → keys[sz * i + b]? = some k →
            t.seen v.who.core k = BitVec.ofNat 8 (r / 256 ^ b)
          (∃ w', t.wg? g = some w' ∧ w'.queue = q ∧ w'.accs = w.accs) ∧
          ∀ i, i < side * side →
            (fmtAcct e.fmt ≠ 2 → fmtAtype e.fmt ≠ 0 → lands i
              ((elemFmt (fmtAtype e.fmt)).encode c (((acctFmt (fmtAcct e.fmt)).unpack c.ftz (x i)).scale (-(fmtOscale e.fmt)))).1) ∧
            (fmtAcct e.fmt ≠ 2 → fmtAtype e.fmt = 0 → lands i
              (encodeDm8 c ((acctFmt (fmtAcct e.fmt)).unpack c.ftz (x i)) (fmtOscale e.fmt)).1) ∧
            (fmtAcct e.fmt = 2 → modeRnd e.mode = 0 → 0 ≤ fmtOscale e.fmt → ∃ n : Int,
              let y : Int := (BitVec.ofNat 32 (x i)).toInt
              let u : Int := 2 ^ (fmtOscale e.fmt).toNat
              2 * |n * u - y| ≤ u ∧ (2 * |n * u - y| = u → n % 2 = 0) ∧
              lands i ((BitVec.ofInt 8 (max (-128) (min 127 n))).toNat))) ∧
        ∀ acc tile map reuse overwrite, e.op = .mma acc tile map reuse false overwrite →
          let f := e.fmt
          let d := w.maps.getD map 0
          let sh := mshape (fmtAtype f)
          s.badB g.ticket d sh = none →
          let bytes := (s.mmaCompute w e ((List.range 2048).map fun i => w.tiles.getD (2048 * tile + i) 0) acc map
            (!overwrite)).flatMap fun r => bytesOfNat (if fmtAcct f = 1 then 8 else 4) r.1
          (∃ w', t.wg? g = some w' ∧ w'.queue = q ∧ w'.tiles = w.tiles ∧
            w'.reuse = (if reuse then some tile else none) ∧ (∀ k, t.readByte k = s.readByte k) ∧
            (∀ j, j < bytes.length → w'.accs.getD (4096 * acc + j) 0 = bytes.getD j 0) ∧
            ∀ o, (o < 4096 * acc ∨ 4096 * acc + bytes.length ≤ o) → w'.accs.getD o 0 = w.accs.getD o 0) ∧
          (fmtAtype f < 5 → fmtAcct f = (if fmtAtype f = 4 then 1 else 0) → ∀ i n, i < sh.m → n < sh.n →
            let c := ctlOf e.mode
            let F := acctFmt (fmtAcct f)
            let eb := if fmtAcct f = 1 then 8 else 4
            let tileElem (j : Nat) : Nat := natOfBytes ((List.range sh.size).map fun b =>
              w.tiles.getD (2048 * tile + (i * sh.k + j) * sh.size + b) 0)
            let p (j : Nat) : Option FVal := if mapPadding d j n then none
              else some ((matOperand c (fmtAtype f) (fmtAscale f) (tileElem j)).mul (matOperand c (fmtBtype f) (fmtBscale f)
                (natOfBytes (s.readBytes (windowKey g.ticket (mapOffset d j n)) sh.size)))).1
            let old (m : SMap Byte) : Nat := natOfBytes ((List.range eb).map fun b => m.getD (4096 * acc + eb * (sh.n * i + n) + b) 0)
            let levels := if fmtAtype f = 3 ∨ fmtAtype f = 4 then 3 else 4
            let first := if overwrite then blockRoot F c p levels 0 else some (firstRoot F c p levels (old w.accs))
            let sum := if fmtAtype f = 0 then addRoot F c first (blockRoot F c p levels 1) else first
            ∃ w', t.wg? g = some w' ∧ old w'.accs = sum.getD 0 % 2 ^ (8 * eb)) ∧
          (fmtAtype f = 5 → fmtAcct f = 2 → ∀ i n, i < 32 → n < 32 →
            let A (j : Nat) : Int := ((w.tiles.getD (2048 * tile + 64 * i + j) 0 : BitVec 8)).toInt
            let B (j : Nat) : Int := if mapPadding d j n then 0
              else ((s.readByte (windowKey g.ticket (mapOffset d j n)) : BitVec 8)).toInt
            let at' (m : SMap Byte) : BitVec 32 := BitVec.ofNat 32 (natOfBytes ((List.range 4).map fun k =>
              m.getD (4096 * acc + 4 * (32 * i + n) + k) 0))
            ∃ w', t.wg? g = some w' ∧ at' w'.accs =
              (if overwrite then 0 else at' w.accs) + BitVec.ofInt 32 (((List.range 64).map fun j => A j * B j).sum))

/-- R147, R148: paired MMAs: a request completes: it finds the partner's paired MMA and, when their formats agree, both engines are
reserved; the reply completes: both run, each core's half on its own B and accumulator with the driver's tile, and both teams go
on; a request that finds none waits; after 4,096 issuing cycles the timeout completes, by raising CONVERGE at the MMA, and on
formats that differ the request does so in both teams.
What the manual leaves open here is the model's choice: log entry 79. -/
def Obligations.PairedEnginesMeet : Prop :=
  ∀ (s : State) (g : WgId) (w v : Workgroup) (e f : MEntry), s.wg? g = some w → w.pairHead = some e →
    let partner : WgId := if g.gx % 2 = 0 then { g with gx := g.gx + 1 } else { g with gx := g.gx - 1 }
    (∀ h, s.wg? partner = some h → h.pairHead = none → w.pair ≠ .waiting →
      exec (.pairingRequest g) s = .next { s with wgs := s.wgs.map fun x =>
        if x.id = g then (if x.pair = .waiting then x else { x with pair := .waiting, pairRun := 0, pairSince := s.timebase })
        else x }) ∧
    (s.wg? partner = some v → v.pairHead = some f → partner ≠ g → s.engineRuns w = true → s.engineRuns v = true →
      pairMatch e f = true →
      ∃ t, exec (.pairingRequest g) s = .next t ∧ t = { s with wgs := t.wgs, agenda := s.agenda ++ [.pairingReply g] } ∧
        t.wg? g = some { w with pair := .waiting } ∧ t.wg? partner = some { v with pair := .reserved }) ∧
    (s.wg? partner = some v → v.pairHead = some f → s.engineRuns w = true → s.engineRuns v = true → pairMatch e f = false →
      let drop (x : WgId) (s : State) : State := { s with
        wgs := (s.wgs.map fun y => if y.id = x then { y with pair := .quiet } else y).map fun y =>
          if y.id = x then { y with queue := y.queue.drop 1 } else y }
      let raise (m : MEntry) (s : State) : State := s.asTeam m.team fun s =>
        if s.team.run = .pairing then takeTrap (.instr 3 m.insn.toNat) 0 { s with team := { s.team with run := .ready } } else s
      exec (.pairingRequest g) s = .next (raise f (drop partner (raise e (drop g s))))) ∧
    (s.wg? partner = some v → v.pairHead = some f → partner ≠ g → s.engineRuns w = true → s.engineRuns v = true →
      v.pair = .reserved → injEn s.injCtl = false →
      ∀ acc tile map reuse ow acc2 tile2 map2 reuse2 ow2 p ue uf, e.op = .mma acc tile map reuse p ow →
        f.op = .mma acc2 tile2 map2 reuse2 true ow2 → g.gx % 2 = 0 → e.team ≠ f.team →
        s.badB g.ticket (w.maps.getD map 0) (mshape (fmtAtype e.fmt)) = none →
        s.badB g.ticket (v.maps.getD map2 0) (mshape (fmtAtype e.fmt)) = none →
        s.team? e.team = some ue → s.team? f.team = some uf → ue.run = .pairing → uf.run = .pairing →
        ue.asyncNext = [] → uf.asyncNext = [] →
        (s.teams.map Team.id).Nodup →
        let a := (List.range 2048).map fun i => w.tiles.getD (2048 * tile + i) 0
        let image (x : Workgroup) (y : MEntry) (ac mp : Nat) : List Byte :=
          (s.mmaCompute x y a ac mp (!ow)).flatMap fun r => bytesOfNat (acctBytes (fmtAcct y.fmt)) r.1
        ∃ t w' v' ue' uf', exec (.pairingReply g) s = .next t ∧ t.wg? g = some w' ∧ t.wg? partner = some v' ∧
          w'.queue = w.queue.drop 1 ∧ v'.queue = v.queue.drop 1 ∧ w'.pair = .quiet ∧ v'.pair = .quiet ∧
          (∀ j, j < (image w e acc map).length → w'.accs.getD (4096 * acc + j) 0 = (image w e acc map).getD j 0) ∧
          (∀ j, j < (image v f acc2 map2).length → v'.accs.getD (4096 * acc2 + j) 0 = (image v f acc2 map2).getD j 0) ∧
          t.team? e.team = some ue' ∧ t.team? f.team = some uf' ∧ ue'.run = .ready ∧ uf'.run = .ready ∧
          ue'.pc = ue.advance.pc ∧ uf'.pc = uf.advance.pc ∧ ∀ k, t.readByte k = s.readByte k) ∧
    (w.pair = .waiting → s.engineRuns w = true → 4096 ≤ w.pairRun + (s.timebase - w.pairSince) → s.team.id = e.team →
      s.team.run = .pairing →
      exec (.pairTimeout g) s = .next (takeTrap (.instr 3 e.insn.toNat) 0 { s with
        team := { s.team with run := .ready },
        wgs := (s.wgs.map fun x => if x.id = g then { x with pair := .quiet } else x).map fun x =>
          if x.id = g then { x with queue := x.queue.drop 1 } else x }))

/-! ## System registers and page tables -/

/-- R85, R433, R434: SYSR writes the value of the register its selector names, zero-extended; FLAGS with the flags of every
outstanding result. -/
def Obligations.SystemRegistersRead : Prop :=
  ∀ (s : State) (d b num j : Nat),
    let i := Instr.sysr d b
    let e := s.entering i
    s.issues i = true → e.speculative = false → e.team.selector b = num * 4096 + j → j < 4096 →
      let reads (x : Nat) : Prop :=
        exec i s = .next { e with team := { e.team.advance with s := SMap.put 0 e.team.s d (BitVec.ofNat 64 x) } }
      let ofCtx (f : Ctx → Nat) : Prop := ∀ c, e.ctx? e.team.ctx = some c → reads (f c)
      let entry (f : StackEntry → Nat) (n : Nat) : Prop := reads ((e.team.stack.reverse[n]?).elim 0 f)
      (num = 0x000 → reads e.team.mode.toNat) ∧ (num = 0x001 → reads e.team.fmt.toNat) ∧
      (num = 0x002 → e.queueOf e.team = false → (∀ p ∈ e.team.pending, p.waits = []) → ∃ u,
        exec i s = .next { e with team := u } ∧ u.pending = [] ∧ u.pc = e.team.advance.pc ∧
        u.getS d = BitVec.ofNat 64 u.flags.toNat ∧
        ∀ k, k < 32 → u.flags.getLsbD k = (e.team.flags.getLsbD k || e.team.pending.any fun p => p.flags.getLsbD k)) ∧
      (num = 0x010 → reads e.deviceInfo.toNat) ∧ (num = 0x011 → reads (e.clusterMap.getD j 0).toNat) ∧
      (num = 0x012 → reads e.nocWeight.toNat) ∧ (num = 0x020 → reads e.team.id.ticket) ∧
      (num = 0x030 → reads (e.team.stack.length + 256 * e.team.spilled + 65536 * e.team.why)) ∧
      (num = 0x031 → entry (fun x => x.addr.toNat + if x.kind = .path then 2 ^ 63 else 0) j) ∧
      (num = 0x032 → entry (fun x => x.mode.toNat) j) ∧ (num = 0x033 → entry (fun x => x.fmt.toNat) j) ∧
      (num = 0x034 → entry (fun x => x.mask.toNat / 2 ^ (32 * (j % 32)) % 2 ^ 32) (j / 32)) ∧
      (num = 0x040 → ofCtx fun c => (c.revBase.getD j 0).toNat) ∧
      (num = 0x041 → ofCtx fun c => (c.revCtl.getD j 0).toNat) ∧
      (num = 0x042 → reads e.sweepClock.toNat) ∧ (num = 0x043 → reads e.sweepDone.toNat) ∧
      (num = 0x044 → reads (if e.sweepActive then 2 else 0)) ∧ (num = 0x045 → ofCtx fun c => c.capLog2) ∧
      (let n := (e.gang? e.team.id.ticket).elim 0 fun g => g.ox + e.team.id.gx + 16 * (g.oy + e.team.id.gy)
       let x := (e.core n).banks.getD j Bank.reset
       (num = 0x050 → reads ((match x.mode with | .cache => 0 | .scratch => 1 | .fifo => 2 | .shadow => 3) +
         (if x.owner = some e.team.wg then 4 + 8 * (x.slot % 4) else 0) + 2 ^ 29 * (x.result % 4) +
         if x.switching.isSome then 2 ^ 31 else 0)) ∧
       (num = 0x051 → reads (if x.mode = .fifo then x.fifo.length else 0))) ∧
      (num = 0x060 → reads ((if e.phaseAck then 1 else 0) + (if e.phaseBusy then 2 else 0) + if e.phaseResult then 8 else 0)) ∧
      (num = 0x052 → reads e.team.trap.faultCtl.toNat) ∧ (num = 0x053 → reads (e.team.trap.faultRec.getD j 0).toNat) ∧
      (num = 0x054 → reads (e.team.trap.faultLane.getD j 0).toNat) ∧
      (num = 0x055 → reads (e.team.trap.replay.toNat / 2 ^ (32 * j) % 2 ^ 32)) ∧
      (num = 0x056 → ofCtx fun c => c.quota % 2 ^ 32 * 2 ^ 32 + c.pool.length) ∧
      (num = 0x061 → reads e.phaseDone.toNat) ∧ (num = 0x070 → reads e.notifyDrop.toNat) ∧
      (num = 0x080 → reads (e.orreryCtl.getD j 4).toNat) ∧ (num = 0x081 → reads (e.orreryStat.getD j 0).toNat) ∧
      (num = 0x090 → reads e.team.trap.cause.toNat) ∧ (num = 0x091 → reads e.team.trap.pc.toNat) ∧
      (num = 0x092 → j = 0 → reads e.team.trap.rec0.toNat) ∧ (num = 0x092 → j = 1 → reads e.team.trap.rec1.toNat) ∧
      (num = 0x092 → j = 2 → reads e.team.trap.rec2.toNat) ∧ (num = 0x092 → j = 3 → reads e.team.trap.rec3.toNat) ∧
      (num = 0x093 → ofCtx fun c => c.trapVec.toNat) ∧ (num = 0x094 ∨ num = 0x095 → reads 0) ∧
      (num = 0x0A0 → reads (e.timingStat.getD j 0).toNat) ∧ (num = 0x0A1 → reads e.injCtl.toNat) ∧
      (num = 0x0A2 → reads e.injSeed.toNat) ∧ (num = 0x0A3 → reads e.injRate.toNat) ∧
      (num = 0x0A4 → reads (e.stestPass.getD j 0).toNat)

/-- R62, R171, R177, R183, R196, R263, R265, R268, R283, R433: what a write of a system register leaves, as SYSW makes it
and as a step of its own: writable fields take the value, what the register refuses leaves it, and nothing else changes.
What the manual leaves open here is the model's choice: log entries 28, 38. -/
def Obligations.SystemRegisterWrites : Prop :=
  ∀ (s : State) (a b j : Nat) (v : Dword),
    let Writes (num j : Nat) (ev : Instr) (post : State → State → Prop) : Prop :=
      (∃ t, exec ev s = .next t ∧ post s t) ∧
      (let i := Instr.sysw a b
       let e := s.entering i
       s.issues i = true → e.speculative = false → e.team.selector b = num * 4096 + j → j < 4096 → e.team.getS a = v →
         ∃ t, exec i s = .next { t with team := t.team.advance } ∧ post e t)
    let w : Word := v.setWidth 32
    let Sys (num j : Nat) : (State → State → Prop) → Prop := Writes num j (.systemRegisterWrite num j v)
    let Entry (f : StackEntry → StackEntry) (n : Nat) (s t : State) : Prop :=
      ∃ st, t = { s with team := { s.team with stack := st } } ∧
        ∀ m, st.reverse[m]? = if m = n then (s.team.stack.reverse[m]?).map f else s.team.stack.reverse[m]?
    let OfCtx (f : Ctx → Ctx → Prop) (s t : State) : Prop :=
      t = { s with ctxs := t.ctxs } ∧ (∀ n, n ≠ s.team.ctx → t.ctx? n = s.ctx? n) ∧
        ∀ c, s.ctx? s.team.ctx = some c → ∃ c', t.ctx? s.team.ctx = some c' ∧ f c c'
    Sys 0x002 0 (fun s t => t = { s with team := { s.team with flags := w &&& 0x3F } }) ∧
    Sys 0x012 0 (fun s t => t = { s with nocWeight := w &&& 0xFFF }) ∧
    Sys 0x030 0 (fun s t => let d := v.toNat % 64
      ∃ st, t = { s with team := { s.team with spilled := v.toNat / 256 % 256, stack := st, deep := t.team.deep },
                         oracle := t.oracle } ∧
        (32 < d → st = s.team.stack) ∧ (d ≤ 32 → st.length = d) ∧
        (t.team.deep = if d ≤ 32 ∧ s.team.stack.length < d then max s.team.deep d else s.team.deep) ∧
        (d ≤ 32 → ∀ n, n < d → s.team.stack.length ≤ n → s.team.deep ≤ n → st.reverse[n]? = some ⟨.join, 0, 0, 0, 0⟩) ∧
        (d ≤ 32 → ∀ n, n < d → n < s.team.stack.length → st.reverse[n]? = s.team.stack.reverse[n]?)) ∧
    Sys 0x031 j (Entry (fun x =>
      { x with kind := if v.getLsbD 63 then .path else .join, addr := v &&& 0x01FFFFFFFFFFFFFC }) j) ∧
    (modeLegal w = true → Sys 0x032 j (Entry (fun x => { x with mode := w }) j)) ∧
    (fmtLegal w = true → Sys 0x033 j (Entry (fun x => { x with fmt := w }) j)) ∧
    Sys 0x034 j (fun s t =>
      (s.team.width / 32 ≤ j % 32 → t = s) ∧
      (j % 32 < s.team.width / 32 → s.team.width ≤ 1024 → ∃ st, t = { s with team := { s.team with stack := st } } ∧
        ∀ m, (m ≠ j / 32 → st.reverse[m]? = s.team.stack.reverse[m]?) ∧
          (m = j / 32 → ∀ x, s.team.stack.reverse[m]? = some x → ∃ k, st.reverse[m]? = some { x with mask := k } ∧
            ∀ l, l < 1024 → k.getLsbD l = if l / 32 = j % 32 then v.getLsbD (l % 32) else x.mask.getLsbD l))) ∧
    Sys 0x040 j (OfCtx fun c c' => c' = { c with revBase := c'.revBase } ∧ ∀ n, c'.revBase.getD n 0 =
      if n = j ∧ (c.revCtl.getD j 0).getLsbD 63 = false then v &&& 0x01FFFFFFFFFF0000 else c.revBase.getD n 0) ∧
    Writes 0x041 j (.revCtl j v) (fun s t => t = { s with ctxs := t.ctxs, sweepEntries := t.sweepEntries } ∧
      (∀ n, n ≠ s.team.ctx → t.ctx? n = s.ctx? n) ∧
      ∀ c, s.ctx? s.team.ctx = some c → ∃ c', t.ctx? s.team.ctx = some c' ∧ c' = { c with revCtl := c'.revCtl } ∧
        let old := c.revCtl.getD j 0
        (t.sweepEntries = if old.getLsbD 63 = false ∧ v.getLsbD 63 = true
          then s.sweepEntries.filter fun e => e != 32 * s.team.ctx + j else s.sweepEntries) ∧
        (old.getLsbD 63 = false → v.getLsbD 63 = false →
          c'.revCtl.getD j 0 = (v &&& 0x0F000000FFFFFFFF) ||| (old &&& 0x4000000000000000)) ∧
        (old.getLsbD 63 = true → c'.revCtl.getD j 0 = (old &&& 0x7FFFFFFFFFFFFFFF) ||| (v &&& 0x8000000000000000)) ∧
        (old.getLsbD 63 = false → v.getLsbD 63 = true → c'.revCtl.getD j 0 = v &&& 0x8F000000FFFFFFFF) ∧
        ∀ n, n ≠ j → c'.revCtl.getD n 0 = c.revCtl.getD n 0) ∧
    Writes 0x044 0 (.sweepCtl v) (fun s t =>
      (v.getLsbD 0 = false → t = s) ∧
      (v.getLsbD 0 = true → s.sweepActive = true → t = { s with sweepAgain := true }) ∧
      (v.getLsbD 0 = true → s.sweepActive = false → t = { s with agenda := s.agenda ++ [.sweepPassStart s.team.ctx] })) ∧
    (j < 4 → Writes 0x050 j (.bankMode j v) (fun s t =>
      let n := (s.gang? s.team.id.ticket).elim 0 fun g => g.coreOf s.team.id.gx s.team.id.gy
      let x := (s.core n).banks.getD j Bank.reset
      let y := (t.core n).banks.getD j Bank.reset
      let mine := s.team.wg
      let takes' : Prop := v.toNat % 4 = 2 ∧ x.mode = .cache ∧ x.owner = none ∧ x.firm = false
      let gives : Prop := v.toNat % 4 = 0 ∧ x.mode = .fifo ∧ x.owner = some mine
      t = { s with cores := t.cores } ∧ (x.switching.isSome = true → y = x) ∧
      (x.switching = none → takes' → y.switching = some .fifo ∧ y.owner = some mine ∧ y.result = 0 ∧ y.mode = x.mode ∧
        (∀ k, k < y.slot → ∃ z ∈ (s.core n).banks, z.owner = some mine ∧ z.slot = k) ∧
        (∀ z ∈ (s.core n).banks, z.owner = some mine → z.slot ≠ y.slot ∨ ∀ k, k < 4 → ∃ z ∈ (s.core n).banks,
          z.owner = some mine ∧ z.slot = k)) ∧
      (x.switching = none → gives → y = { x with switching := some .cache, result := 0 }) ∧
      (x.switching = none → ¬ takes' → ¬ gives → y = { x with result :=
        if x.firm = true ∨ (x.owner ≠ none ∧ x.owner ≠ some mine) then 1 else 2 }))) ∧
    (j < 32 → Sys 0x055 j (fun s t => ∃ r, t = { s with team := { s.team with trap := { s.team.trap with replay := r } } } ∧
      ∀ l, l < 1024 → r.getLsbD l = if l / 32 = j then s.team.trap.faulted.getLsbD l && v.getLsbD (l % 32)
        else s.team.trap.replay.getLsbD l)) ∧
    Sys 0x080 j (fun s t => t = { s with orreryCtl := t.orreryCtl } ∧ (∀ n, n ≠ j → t.orreryCtl.getD n 4 = s.orreryCtl.getD n 4) ∧
      t.orreryCtl.getD j 4 = (w &&& 0x80000000) ||| (if 1 ≤ v.toNat % 32 ∧ v.toNat % 32 ≤ 16 then w &&& 0x1F
        else s.orreryCtl.getD j 4 &&& 0x1F)) ∧
    Sys 0x093 0 (OfCtx fun c c' => c' = { c with trapVec := v &&& 0x81FFFFFFFFFFFFFC }) ∧
    Writes 0x0A1 0 (.injCtl v) (fun s t =>
      let kind := v.toNat / 2 % 8
      let tests : Prop := ∃ c p, s.ctx? (v.toNat / 256 % 256) = some c ∧ s.partitions.find? c.partition = some p ∧ p.test = true
      (6 ≤ kind ∨ (v.getLsbD 0 = true ∧ ¬ tests) → t = s) ∧
      (kind < 6 → (v.getLsbD 0 = true → tests) → t = { s with injCtl := w &&& 0xFFFFFF0F })) ∧
    Sys 0x0A2 0 (fun s t => t = if v = 0 then s else { s with injSeed := v }) ∧
    Sys 0x0A3 0 (fun s t => t = { s with injRate := w }) ∧
    (let i := Instr.sysw a b
     let e := s.entering i
     s.issues i = true → e.speculative = false → e.team.getS a = v →
       (∀ n, e.team.selector b = 0x32 * 4096 + n → n < e.team.stack.length → n < 4096 → modeLegal w = false →
         exec i s = .next (takeTrap (.instr 6 (insnOf i)) 0 e)) ∧
       (∀ n, e.team.selector b = 0x33 * 4096 + n → n < e.team.stack.length → n < 4096 → fmtLegal w = false →
         exec i s = .next (takeTrap (.instr 6 (insnOf i)) 0 e)) ∧
       (e.team.selector b = 0x94 * 4096 → containCause (v.toNat % 256) = false →
         exec i s = .next (takeTrap (.instr 1 (insnOf i)) 0 e)) ∧
       (e.team.selector b = 0x95 * 4096 → ∀ c, e.ctx? (v.toNat % 256) = some c →
         (c.delegates.contains e.team.ctx = false ∨ c.frozen = false ∨ (e.deviceFault = true ∧ v.toNat / 256 % 4 ≠ 3) →
           exec i s = .next (takeTrap (.instr 1 (insnOf i)) 0 e)) ∧
         (c.delegates.contains e.team.ctx = true → c.frozen = true → (e.deviceFault = true → v.toNat / 256 % 4 = 3) →
           exec i s = .next ((e.choose (v.toNat % 256) (choiceOf (v.toNat / 256 % 4))).setTeam Team.advance)))) ∧
    ∀ i ∈ [Instr.trapEsc v, Instr.sysw a b],
      let e := if i = Instr.trapEsc v then s else s.entering i
      (i = Instr.sysw a b → s.issues i = true ∧ e.team.getS a = v ∧ e.team.selector b = 0x94 * 4096) →
      e.speculative = false → containCause (v.toNat % 256) = true → e.team.pending = [] → e.queueOf e.team = false →
      e.team.saved = none →
      e.team.inner = none → e.team.run = .ready →
        ∃ t, exec i s = .next t ∧ t.team.run = .contained ∧ t.team.trap.replay = 0 ∧ t.team.trap.pc = e.team.pc ∧
          t.team.trap.cause.toNat % 256 = v.toNat % 256 ∧ t.team.pc = e.team.pc ∧
          t.agenda = e.agenda ++ [.containmentFreeze e.team.ctx] ∧ t.mem = s.mem ∧ t.others.map Team.id = e.others.map Team.id

/-- R191, R192, R408, R436: TLBINV takes a page, or every page, of the context out of every TLB, so that its agents use the table's
entry alone, and no other translation, and the bytes that stores left in caches over the frames it translated to are passed on; PGMAP
writes one leaf: a frame of the context's pool, zeroed, where the entry names none, and no frame the context was not
granted. -/
def Obligations.PageTablesChange : Prop :=
  ∀ (s : State) (a d : Nat),
    let Ready (i : Instr) : Prop := s.issues i = true ∧ (s.entering i).speculative = false ∧ (s.entering i).specs = []
    let PassedOn (e t : State) (p : Nat → Bool) : Prop := t.team = e.team.advance ∧ t.others = e.others ∧
      (e.copies = [] → t = { e with team := e.team.advance, tlbs := t.tlbs }) ∧
      (e.copies.Pairwise (fun x y => x.1 < y.1) → ∀ k x, t.copies.find? k = some x →
        (e.framesUnder e.team.ctx p).contains (copyLine k / 512) = true → x.dirty = 0)
    (let i := Instr.tlbinv a
     let e := s.entering i
     let page := (e.team.getS a).toNat / 65536
     Ready i → e.transferHolds e.team.ctx (fun p => p == page) = false → ∃ t, exec i s = .next t ∧
       PassedOn e t (fun p => p == page) ∧ (∀ n, t.tlbHit n e.team.ctx page = none) ∧
       ((e.tlbs.map Prod.fst).Nodup → ∀ n x p, x ≠ e.team.ctx ∨ p ≠ page → t.tlbHit n x p = e.tlbHit n x p) ∧
       ∀ (w : Who) (c : Ctx) (va : Nat), w.ctx = e.team.ctx → va / 65536 = page →
         t.lookup w c va = (c.walk va).map fun x => (x, true)) ∧
    (let i := Instr.tlbinvAll
     let e := s.entering i
     Ready i → e.transferHolds e.team.ctx (fun _ => true) = false → ∃ t, exec i s = .next t ∧
       PassedOn e t (fun _ => true) ∧ (∀ n p, t.tlbHit n e.team.ctx p = none) ∧
       ((e.tlbs.map Prod.fst).Nodup → ∀ n x p, x ≠ e.team.ctx → t.tlbHit n x p = e.tlbHit n x p) ∧
       ∀ (w : Who) (c : Ctx) (va : Nat), w.ctx = e.team.ctx → t.lookup w c va = (c.walk va).map fun x => (x, true)) ∧
    (let i := Instr.pgmap d a
     let e := s.entering i
     let va := e.team.getS a
     let page := va.toNat / 65536
     let y : BitVec 128 := e.team.getS (d + 1) ++ e.team.getS d
     let ty := y.toNat % 4
     let fails (code : Nat) : Prop :=
       exec i s = .next (takeTrap (.uniform ⟨0, code, va, true, false, 0⟩ (insnOf i)) 0 e)
     let fresh : Prop := pteLoc y = 0 ∧ pteFrame y = 0
     ∀ c, Ready i → e.ctx? e.team.ctx = some c → e.team.saved = none →
       (2 ^ 57 ≤ va.toNat ∨ ty = 1 ∨ ty = 3 ∨ (ty = 2 ∧ pteReserved y = true) → fails 0x21) ∧
       (va.toNat < 2 ^ 57 → c.missing va.toNat = [] →
         (pteType (c.pte page) = 2 → pteMig (c.pte page) = true → (ty = 0 ∨ ty = 2 ∧ pteReserved y = false) →
           exec i s = .next { e with team := { e.team with latch := Latch.empty } }) ∧
         (¬ (pteType (c.pte page) = 2 ∧ pteMig (c.pte page) = true) →
           (ty = 0 → ∃ t c', exec i s = .next t ∧ t.team = { e.team.advance with replayPages := e.team.replayPages } ∧
             t.ctx? e.team.ctx = some c' ∧ (∀ p, c'.pte p = if p = page then y else c.pte p) ∧
             (c'.pool = c.pool ∨ (y.getLsbD 2 = true ∧ c'.pool = c.pool ++ [pteFrame (c.pte page)])) ∧ t.mem = s.mem) ∧
           (ty = 2 → pteReserved y = false → ¬ fresh →
             e.granted e.team.ctx (pteLoc y) (ptePeer y) (pteFrame y) = false → fails 0x21) ∧
           (ty = 2 → pteReserved y = false → ¬ fresh →
             e.granted e.team.ctx (pteLoc y) (ptePeer y) (pteFrame y) = true → ∃ t c', exec i s = .next t ∧
               t.team = { e.team.advance with replayPages := e.team.replayPages } ∧ t.ctx? e.team.ctx = some c' ∧
               (∀ p, c'.pte p = if p = page then y &&& ~~~0x1000 else c.pte p) ∧ c'.pool = c.pool ∧ t.mem = s.mem) ∧
           (ty = 2 → pteReserved y = false → fresh → c.pool = [] → fails 0x22) ∧
           (ty = 2 → pteReserved y = false → fresh → c.pool ≠ [] → ∃ t c' f, exec i s = .next t ∧ f ∈ c.pool ∧
             t.ctx? e.team.ctx = some c' ∧ (pteFrame (c'.pte page) = f ∨ 2 ^ 48 ≤ f) ∧
             c'.pool = c.pool.filter (fun x => x != f) ∧ ∀ k, k / 65536 = f → t.readByte k = 0))))

/-! ## Management, containment, sweeps -/

/-- R227, R240, R241, R248, R272, R290 to R292: the commands about contexts, queues, notify tables and containment: what
each leaves; reserved bits are MALFORMED, an existing context is needed, and a command that is refused changes nothing.
What the manual leaves open here is the model's choice: log entries 26, 43, 58, 59. -/
def Obligations.MailboxCommandsOfContexts : Prop :=
  ∀ (s : State) (seq : Word) (n : Nat), s.listens → n < 256 →
    let Ctx' (i : Mail → Instr) (ps : List Nat) (f : Ctx → Ctx) : Prop := s.Obeys i seq ps [] fun t => t = s.modCtx n f
    (∀ (op : BitVec 16) (m : Mail), exec (.mailboxMalformed op m) s = .next (s.mailAnswered m.seq 1 [])) ∧
    (∀ m : Mail, m.reserved ≠ 0 → exec (.ctxDestroy m) s = .next (s.mailAnswered m.seq 1 [])) ∧
    (∀ m : Mail, ∀ t : State, t.mailBusy ≠ none → exec (.ctxDestroy m) t = .next t) ∧
    (s.ctx? n = none → ∀ i ∈ [Instr.ctxDestroy, .ctxSave, .ctxRestore, .freeze, .resume, .delegate, .viralEnter],
      s.Declines i seq [n] 10) ∧
    (∀ a c, a < 2 ^ 64 → creation (s.readBytes (2 ^ 64 + a) 128) = some c → s.deviceFault = false →
      (c.function ≠ 0 → ∀ x ∈ s.ctxs, x.2.function ≠ c.function) →
      (c.confidential = true → s.debugOf c.partition = .locked) → s.ctx? n = none →
      let paired : Prop := ∃ p ∈ s.tableFree, p % 2 = 0 ∧ p + 1 ∈ s.tableFree
      (paired ∨ s.tick.freshFrames 1 ≠ [] → ∃ k r, k < 256 ∧ r % 2 = 0 ∧ s.ctx? k = none ∧
        s.Obeys .ctxCreate seq [a] [k] fun t => t.ctx? k = some { c with root := r } ∧
          r ∉ t.tableFree ∧ r + 1 ∉ t.tableFree ∧ (paired → r ∈ s.tableFree ∧ t.owner = s.owner) ∧
          (∀ j, j ≠ k → t.ctx? j = s.ctx? j) ∧ (∀ j, j < 16 → t.orreryStat.getD (16 * k + j) 0 = 0) ∧ t.mem = s.mem) ∧
      (¬ paired → s.tick.freshFrames 1 = [] → s.Declines .ctxCreate seq [a] 10)) ∧
    (∀ c, s.ctx? n = some c →
      (c.frozen = true ∨ c.killed = true ∨ s.ctxIdle n = true → s.Obeys .ctxDestroy seq [n] [] fun t =>
        t.ctx? n = none ∧ (∀ f, t.owner.getD f 0 ≠ n + 1) ∧ (∀ g ∈ t.gangs, g.ctx ≠ n) ∧ (∀ l ∈ t.launches, l.ctx ≠ n) ∧
        ∀ x ∈ t.queues, x.2.ctx ≠ n) ∧
      (c.frozen = false → c.killed = false → s.ctxIdle n = false → s.Declines .ctxDestroy seq [n] 10) ∧
      (c.frozen = false → c.killed = false → c.saving = false → c.saved = false → ∃ t,
        exec (.ctxSave (mailOf seq [n])) s = .next t ∧ t.mailBusy = some seq ∧ (∀ p ∈ t.specs, p.ctx ≠ n) ∧
        ((∀ p ∈ s.specs, p.ctx ≠ n) → t.ctx? n = some { c with saving := true }) ∧
        (∃ c', t.ctx? n = some c' ∧ c'.saving = true ∧ c'.frozen = false) ∧
        (s.transitStopped = true → (∀ p ∈ s.specs, p.ctx ≠ n) → t.gangs = s.gangs) ∧
        (s.transitStopped = false →
          ∀ g ∈ t.gangs, g.ctx = n → g.saved = true ∧ (g.phase = .leaving ∨ g.phase = .streamed))) ∧
      (c.saved = true → s.Obeys .ctxRestore seq [n] [] fun t =>
        t = { s.modCtx n (fun c => { c with saved := false }) with
          gangs := s.gangs.map fun g => if g.ctx = n then { g with saved := false } else g }) ∧
      (∀ q ring rep prio lg, q < 64 → ring < 2 ^ 57 → ring % 128 = 0 → rep < 2 ^ 57 → rep % 64 = 0 → prio < 24 → 6 ≤ lg →
        lg ≤ 16 → c.killed = false → s.slotOf n q = none → (∃ k, k < 4096 ∧ s.queue? k = none) →
        ∃ slot, s.queue? slot = none ∧ slot < 4096 ∧
          s.Obeys .queueCreate seq [n + 256 * q + 65536 * prio + 16777216 * lg, ring, rep] [slot] fun t =>
            (∀ j, j ≠ slot → t.queue? j = s.queue? j) ∧ ∃ x, t.queue? slot = some x ∧ x.ctx = n ∧ x.number = q ∧
              x.ring = ring ∧ x.report = rep ∧ x.priority = prio ∧ x.log2n = lg ∧ x.idx = 0 ∧ x.phase = true ∧
              x.packets = [] ∧ x.fetched = 0 ∧ x.retired = 0 ∧ x.stopped = false) ∧
      (∀ d, d < 256 →
        Ctx' .delegate [n + 256 * d + 65536] (fun c' => { c' with delegates := (c.delegates.filter fun x => x != d) ++ [d] }) ∧
        Ctx' .delegate [n + 256 * d] (fun c' => { c' with delegates := c.delegates.filter fun x => x != d })) ∧
      Ctx' .viralClear [n] (fun c => { c with viral := false }) ∧
      (c.viral = false → s.Obeys .viralEnter seq [n + 256] [] fun t => ∃ c', t.ctx? n = some c' ∧ c'.viral = true ∧
        (∀ p ∈ t.specs, p.ctx ≠ n) ∧ ∀ slot q, t.queue? slot = some q → q.ctx = n → q.stopped = true) ∧
      (c.frozen = false → c.killed = false → s.Obeys .freeze seq [n] [] fun t => (∀ p ∈ t.specs, p.ctx ≠ n) ∧
        ∃ c', t.ctx? n = some c' ∧ c'.frozen = true) ∧
      (∀ a, (a = 0 ∨ a = 1 ∨ a = 2 ∨ a = 3) →
        let i : Mail → Instr := if a = 0 then .resume else if a = 1 then .skip else if a = 2 then .restart else .kill
        let x : Choice := if a = 0 then .resume else if a = 1 then .skip else if a = 2 then .restart else .kill
        (c.frozen = true → (s.deviceFault = true → a = 3) → s.Obeys i seq [n + 256 * a] [] fun t => t = s.choose n x) ∧
        (c.frozen = false ∨ (s.deviceFault = true ∧ a ≠ 3) → s.Declines i seq [n + 256 * a] 10))) ∧
    (∀ q slot x, q < 64 → s.slotOf n q = some slot → s.queue? slot = some x → x.ctx = n → x.number = q →
      (s.Obeys .queueReset seq [n + 256 * q] [] fun t => ∃ y, t.queue? slot = some y ∧ y.ctx = n ∧ y.number = q ∧
        y.ring = x.ring ∧ y.report = x.report ∧ y.idx = 0 ∧ y.phase = true ∧ y.stopped = false ∧ y.packets = [] ∧
        y.inlet = [] ∧ y.history = [] ∧ ∀ j, j ≠ slot → t.queue? j = s.queue? j) ∧
      (s.Obeys .queueDestroy seq [n + 256 * q] [] fun t => t.queue? slot = none ∧ ∀ j, j ≠ slot → t.queue? j = s.queue? j)) ∧
    (∀ vq v, v < 2 ^ 32 →
      (vq < 512 → s.Obeys .notifyStage1 seq [n + 256 * vq, v] [] fun t => t = { s with stage1 := t.stage1 } ∧
        ∀ k, t.stage1.getD k 0 = if k = 512 * n + vq then BitVec.ofNat 32 v &&& 0x80000FFF else s.stage1.getD k 0) ∧
      (vq < 4096 → s.Obeys .notifyStage2 seq [n + 256 * vq, v] [] fun t => t = { s with stage2 := t.stage2 } ∧
        ∀ k, t.stage2.getD k 0 = if k = 4096 * n + vq then BitVec.ofNat 32 v &&& 0x80000FFF else s.stage2.getD k 0)) ∧
    (∀ o, o < 256 → s.Obeys .funcOwner seq [n + 256 * o] [] fun t => t = { s with fnOwner := t.fnOwner } ∧
      ∀ k, t.fnOwner.getD k 0 = if k = n then o else s.fnOwner.getD k 0) ∧
    ∀ c, (let t : State := { s with mailBusy := some seq }
      t.ctx? n = some c → c.saving = true → c.frozen = false → c.killed = false → t.saveDue n = true →
        ∃ u : State, exec (.ctxSaveComplete n) t = .next (u.mailAnswered seq 0 []) ∧ ∃ c' : Ctx, u.ctx? n = some c' ∧ c'.saving = false ∧
          c'.saved = true)

/-- R32, R168, R189, R192, R197 to R199, R263, R283, R297, R301, R305, R307, R459: the commands about frames, pages, grants, extents,
migration, capabilities, partitions, debug, the injector, the network and reset, with what they refuse; those about the whole
device need no context.
What the manual leaves open here is the model's choice: log entries 43, 57, 58, 59. -/
def Obligations.MailboxCommandsOfMemory : Prop :=
  ∀ (s : State) (seq : Word) (n : Nat), s.listens → n < 256 →
    (∀ h base len perm gen, h < 65536 → base < 2 ^ 64 → len < 2 ^ 64 → perm < 1024 → gen < 16 →
      capExact base len perm gen = none → s.Declines .capMint seq [n + 65536 * h, base, len, perm, gen] 1) ∧
    (s.ctx? n = none → ∀ k, k < 2 ^ 64 →
      s.Declines .frameGrant seq [n, k] 10 ∧ s.Declines .frameReclaim seq [n, k] 10 ∧ s.Declines .quotaSet seq [n, k] 10) ∧
    (∀ v k, v < 2 ^ 32 → k < 16 →
      (s.Obeys .orrery seq [n + 256, v, k] [(orreryAfter (s.orreryCtl.getD n 4) (BitVec.ofNat 32 v)).toNat,
        (s.orreryStat.getD (16 * n + k) 0).toNat] fun t => t = s.writeOrreryCtl n (BitVec.ofNat 32 v)) ∧
      (s.Obeys .orrery seq [n, v, k] [(s.orreryCtl.getD n 4).toNat, (s.orreryStat.getD (16 * n + k) 0).toNat] fun t => t = s) ∧
      (v < 4096 → s.Obeys .nocWeight seq [v] [] fun t => t = { s with nocWeight := BitVec.ofNat 32 v })) ∧
    (∀ v seed rate, v < 2 ^ 32 → seed < 2 ^ 64 → rate < 2 ^ 32 →
      (6 ≤ v / 2 % 8 → s.Declines .inject seq [v, seed, rate] 1) ∧
      (v / 2 % 8 < 6 → v % 2 = 1 → s.testCtx (v / 256 % 256) = false → s.Declines .inject seq [v, seed, rate] 10) ∧
      (v / 2 % 8 < 6 → (v % 2 = 1 → s.testCtx (v / 256 % 256) = true) → s.Obeys .inject seq [v, seed, rate] [] fun t =>
        t = { s with injCtl := BitVec.ofNat 32 v &&& 0xFFFFFF0F, injRate := BitVec.ofNat 32 rate,
                     injSeed := if seed = 0 then s.injSeed else BitVec.ofNat 64 seed })) ∧
    (∀ lo hi test, lo < 2 ^ 64 → hi < 65536 → test < 2 →
      (s.Obeys .partition seq [n + 256 * test, lo, hi] [] fun t => t = { s with partitions := t.partitions } ∧
        (∀ k, k ≠ n → t.partitions.find? k = s.partitions.find? k) ∧ ∃ p, t.partitions.find? n = some p ∧
          p.test = decide (test = 1) ∧ (∀ k, k ∈ p.clusters ↔ k < 80 ∧ (lo + hi * 2 ^ 64) / 2 ^ k % 2 = 1) ∧
          p.debug = s.debugOf n)) ∧
    (∀ p, s.partitions.find? n = some p →
      let secret := s.ctxs.any fun x => x.2.partition == n && x.2.confidential
      (s.Obeys .debugState seq [n] [] fun t => t.partitions.find? n = some { p with debug := .locked }) ∧
      (secret = false → s.Obeys .debugState seq [n + 256] [] fun t => t.partitions.find? n = some { p with debug := .tenant }) ∧
      (secret = true → s.Declines .debugState seq [n + 256] 10) ∧
      (secret = false → p.test = true → s.Obeys .debugState seq [n + 512] [] fun t =>
        t.partitions.find? n = some { p with debug := .vendor }) ∧
      (secret = true ∨ p.test = false → s.Declines .debugState seq [n + 512] 10)) ∧
    (s.Obeys .reset seq [0] [] fun t => t = s) ∧
    (s.specs = [] → s.Obeys .reset seq [1] [] fun t => t.resetDue = true ∧ t.copies = [] ∧ t.pstate = 2 ∧
      (s.copies = [] → t = { s with resetDue := true, pstate := 2 })) ∧
    ∀ (c : Ctx), s.ctx? n = some c →
    let Ctx' (i : Mail → Instr) (ps : List Nat) (f : Ctx → Ctx) : Prop := s.Obeys i seq ps [] fun t => t = s.modCtx n f
    (∀ h base len perm gen k, h < 65536 → base < 2 ^ 64 → len < 2 ^ 64 → perm < 1024 → gen < 16 →
      capExact base len perm gen = some k → s.specs = [] →
      let ps := [n + 65536 * h, base, len, perm, gen]
      (c.genIs base len gen = false → s.Declines .capMint seq ps 10) ∧
      (c.genIs base len gen = true → 2 ^ c.capLog2 ≤ h → s.Declines .capMint seq ps 2) ∧
      ∀ p, h < 2 ^ c.capLog2 → s.cpPlace n (c.supBase + 16 * h) 16 .write = .ok p → p.coh = false → p.key % 16 = 0 →
        let Writes (i : Mail → Instr) (ps q : List Nat) (v : Cap) : Prop := s.Obeys i seq ps q fun t =>
          (∀ j, j < 16 → t.readByte (p.key + j) = (v.bits >>> (8 * j)).setWidth 8) ∧
          t.tagAt p.key = (v.tag && regionTagged p.key) ∧
          ∀ a, (a < p.key ∨ p.key + 16 ≤ a) → t.readByte a = s.readByte a
        (c.genIs base len gen = true →
          Writes .capMint ps [k.bits.toNat % 2 ^ 64, k.bits.toNat / 2 ^ 64] k) ∧
        Writes .capClear [n + 65536 * h] [] ⟨false, 0⟩) ∧
    (∀ k, k < 2 ^ 64 →
      (c.quota < s.heldFrames n c + k → s.Declines .frameGrant seq [n, k] 10) ∧
      (s.heldFrames n c + k ≤ c.quota → s.isL = false →
        ((s.freshFrames k).length < k → s.Declines .frameGrant seq [n, k] 10) ∧
        ((s.freshFrames k).length = k →
          s.Obeys .frameGrant seq [n, k] [c.pool.length + k] fun t => ∃ c' fs, t.ctx? n = some c' ∧ c'.pool = c.pool ++ fs ∧
            fs.length = k ∧ ∀ f ∈ fs, f < hFrames ∧ s.owner.getD f 0 = 0 ∧ t.owner.getD f 0 = n + 1)) ∧
      (s.heldFrames n c + k ≤ c.quota → s.isL = true →
        (c.reserve.length < k → s.Declines .frameGrant seq [n, k] 10) ∧
        (k ≤ c.reserve.length → s.Obeys .frameGrant seq [n, k] [c.pool.length + k] fun t => t = s.modCtx n fun c =>
          { c with pool := c.pool ++ c.reserve.take k, reserve := c.reserve.drop k })) ∧
      (s.specs = [] → s.Obeys .frameReclaim seq [n, k] [min k c.pool.length] fun t => ∃ c',
        t.ctx? n = some c' ∧ c'.pool = c.pool.drop k ∧
        (s.isL = false → ∀ f ∈ c.pool.take k, t.owner.getD f 0 = 0) ∧
        (s.isL = true → t.owner = s.owner ∧ c'.reserve = c.reserve ++ c.pool.take k)) ∧
      Ctx' .quotaSet [n, k] (fun c => { c with quota := k })) ∧
    (∀ va lo hi, va < 2 ^ 64 → lo < 2 ^ 64 → hi < 2 ^ 64 →
      let e : BitVec 128 := BitVec.ofNat 64 hi ++ BitVec.ofNat 64 lo
      let bad : Prop := 2 ^ 57 ≤ va ∨ pteType e = 1 ∨ pteType e = 3 ∨ (pteType e = 2 ∧ pteReserved e = true)
      (bad → s.Declines .pageMap seq [n, va, lo, hi] 1) ∧
      (¬ bad → ∀ t, s.pgmap n (BitVec.ofNat 64 va) e = (.done, t) → s.Obeys .pageMap seq [n, va, lo, hi] [] fun u => u = t) ∧
      (¬ bad → ∀ x t, s.pgmap n (BitVec.ofNat 64 va) e = (x, t) → x ≠ .done → s.Declines .pageMap seq [n, va, lo, hi] 10) ∧
      (2 ^ 57 ≤ va → s.Declines .pageState seq [n, va] 1) ∧
      (va < 2 ^ 57 → s.Obeys .pageState seq [n, va] [(c.pte (va / 65536)).toNat / 1024 % 4 * 1024] fun t => t = s) ∧
      (va < 2 ^ 57 → s.specs = [] → s.Obeys .pageState seq [n, va, 1] [(c.pte (va / 65536)).toNat / 1024 % 4 * 1024] fun t =>
        ∃ c', t.ctx? n = some c' ∧ c'.pte (va / 65536) = c.pte (va / 65536) &&& ~~~0xC00)) ∧
    (∀ loc peer first count, loc < 4 → peer < 8192 → first < 2 ^ 64 → count < 2 ^ 64 →
      let ps := [n + 256 * loc + 65536 * peer, first, count]
      let bad : Prop := loc = 0 ∨ (loc = 1 ∧ peer ≠ 0) ∨ (loc = 2 ∧ 255 < peer)
      (bad → s.Declines .remoteGrant seq ps 1) ∧
      (¬ bad → s.secretRange n loc peer first count = true → s.Declines .remoteGrant seq ps 10) ∧
      (¬ bad → s.secretRange n loc peer first count = false → Ctx' .remoteGrant ps (fun c =>
        { c with remote := c.remote ++ [⟨loc, peer, first, count⟩] })) ∧
      ∀ sctx ticket, sctx < 256 → ticket < 2 ^ 32 →
        let ps := [n + 65536 * peer + 2 ^ 32 * sctx, first, count, ticket]
        (c.confidential = true ∨ s.secretFrames first count = true → s.Declines .peerGrant seq ps 10) ∧
        (c.confidential = false → s.secretFrames first count = false → Ctx' .peerGrant ps (fun c =>
          { c with peers := c.peers ++ [⟨peer, sctx, first, count, ticket⟩] })) ∧
        Ctx' .peerRevoke [n + 65536 * peer + 2 ^ 32 * sctx, first, count] (fun c => { c with peers := c.peers.filter fun x =>
          !(x.src == peer && x.sctx == sctx && x.first == first && x.count == count) })) ∧
    (∀ k x va, k < 65536 → va < 2 ^ 64 → s.extents.find? k = some x → x.ctx = n → x.bound = false → x.released = false →
      let ps := [n + 256 * k, va]
      let bad : Prop := va % 65536 ≠ 0 ∨ 2 ^ 57 < va + 2 ^ 28
      (bad → s.Declines .extentBind seq ps 1) ∧
      (¬ bad → s.isL = false → s.Declines .extentBind seq ps 10) ∧
      (¬ bad → s.isL = true → va ≠ 0 → c.quota < s.heldFrames n c + 4096 → s.Declines .extentBind seq ps 10) ∧
      (s.isL = true → va = 0 → s.Obeys .extentBind seq ps [] fun t => ∃ c', t.ctx? n = some c' ∧
        c'.reserve = c.reserve ++ (List.range 4096).map (fun i => x.first + i) ∧
        t.extents.find? k = some { x with bound := true }) ∧
      (¬ bad → s.isL = true → va ≠ 0 → s.heldFrames n c + 4096 ≤ c.quota → s.specs = [] → 0 < x.first →
        x.first + 4096 ≤ lFrames →
        (∀ y ∈ s.extents, y.1 = k ∨ y.2.first + 4096 ≤ x.first ∨ x.first + 4096 ≤ y.2.first) →
        (∀ i, i < 4096 → s.firewall n (x.first + i) = true ∧ x.first + i ∉ c.reserve ∧ c.missing (va + 65536 * i) = [] ∧
          pteMig (c.pte (va / 65536 + i)) = false) →
        s.Obeys .extentBind seq ps [] fun t => t.extents.find? k = some { x with bound := true } ∧ ∃ c', t.ctx? n = some c' ∧
          c'.pool = c.pool ∧ c'.reserve = c.reserve ∧
          (∀ i, i < 4096 → c'.pte (va / 65536 + i) = BitVec.ofNat 128 ((x.first + i) * 65536 + 14)) ∧
          ∀ p, (p < va / 65536 ∨ va / 65536 + 4096 ≤ p) → c'.pte p = c.pte p)) ∧
    (∀ va loc peer f, va < 2 ^ 57 → loc < 4 → peer < 8192 → f < 2 ^ 48 →
      let ps := [n, va, 64 * loc + 65536 * peer, f]
      let e := c.pte (va / 65536)
      let old := frameKey (pteLoc e) (ptePeer e) (pteFrame e)
      let bad : Prop := (loc ≤ 1 ∧ peer ≠ 0) ∨ (loc = 2 ∧ 255 < peer)
      let pooled : Prop := loc = 0 ∧ f = 0
      let refused : Prop := pteType e ≠ 2 ∨ pteMig e = true ∨ e.getLsbD 9 = true ∨ s.heldForReplay n (va / 65536) = true ∨
        (loc = 1 ∧ s.pageTagged old = true) ∨ (loc ≠ 0 ∧ (c.confidential = true ∨ c.viral = true)) ∨
        (loc = 2 ∧ s.expLost.contains peer = true) ∨ (pteLoc e = 2 ∧ s.expLost.contains (ptePeer e) = true) ∨
        (pooled ∧ c.pool = []) ∨ (¬ pooled ∧ s.granted n loc peer f = false)
      let Marks (g : Nat) : Prop := ∃ t, exec (.migrate (mailOf seq ps)) s = .next t ∧ t.mailBusy = some seq ∧
        t.migration = some ⟨n, va / 65536, loc, peer, g, none⟩ ∧ ∃ c', t.ctx? n = some c' ∧
          (∀ p, c'.pte p = if p = va / 65536 then e ||| 0x1000 else c.pte p) ∧
          c'.pool = if pooled then c.pool.filter (fun x => x != g) else c.pool
      (bad → s.Declines .migrate seq ps 1) ∧
      (¬ bad → refused → s.Declines .migrate seq ps 10) ∧
      (¬ bad → ¬ refused → ¬ pooled → Marks f) ∧
      (¬ bad → ¬ refused → pooled → s.specs = [] → ∃ g ∈ c.pool, Marks g)) ∧
    (∀ g page, s.migration = some g → g.ctx = n → g.page = page → page < 2 ^ 41 →
      let e := c.pte page
      let old := frameKey (pteLoc e) (ptePeer e) (pteFrame e)
      let new := frameKey g.loc g.peer g.frame
      let t : State := { s with mailBusy := some seq }
      pteType e = 2 → pteMig e = true → s.transferHolds n (fun p => p == page) = false → s.merges = [] → s.snoops = [] → s.specs = [] →
      s.heldReqs = [] → s.heldHost = [] →
      s.copies = [] → s.remotes = [] → peerOf old = none → peerOf new = none → old ≠ new → g.frame < 2 ^ 48 → g.loc < 3 → g.peer < 256 →
      Memory.wf s.mem = true → (g.loc = 1 → s.pageTagged old = false) →
      ∃ u : State, exec (.migrationMove n page) t = .next (u.mailAnswered seq 0 []) ∧ u.migration = none ∧
        (∀ i, i < 65536 → u.readByte (new + i) = s.readByte (old + i)) ∧
        ∃ c' : Ctx, u.ctx? n = some c' ∧ pteFrame (c'.pte page) = g.frame ∧ pteLoc (c'.pte page) = g.loc ∧
          pteMig (c'.pte page) = false) ∧
    ∀ k g o x, 0 < k → k < 2 ^ 32 → s.gang? k = some g → g.ctx = n → c.confidential = false →
      (g.phase = .streamed ∨ g.phase = .shadow ∨ c.frozen = true) → o < areaSize g.shape →
      o % 8 = 0 → o < 2 ^ 64 → x < 2 ^ 64 →
      (s.debugOf c.partition = .locked → s.Declines .debugAccess seq [n, k, o] 10) ∧
      (s.debugOf c.partition ≠ .locked → s.Obeys .debugAccess seq [n, k, o] [s.areaRead g o] fun t =>
        t = (s.debugWake c.partition g).tick) ∧
      (s.debugOf c.partition ≠ .locked → s.Obeys .debugAccess seq [n + 256, k, o, x] [] fun t =>
        t = (s.debugWake c.partition g).areaWrite g o x)

/-- R75, R266, R269, R270, R272: a trap that waits for outstanding results enters its handler once they have landed; a
containment trap freezes its context, drops its speculations and has its record written; records without room are counted,
and reported as LOST once there is room; and the four choices leave the teams as their words say, all but KILL once the
Transit pair runs.
What the manual leaves open here is the model's choice: log entries 35, 36, 80, 102. -/
def Obligations.ContainmentFreezesAndChoices : Prop :=
  ∀ (s : State) (n : Nat) (c : Ctx), s.ctx? n = some c →
    (∀ i t, s.team? i = some t → t.ctx = n → (s.teams.map Team.id).Nodup → t.run = .trapping → t.pending = [] →
      s.queueOf t = false →
      (t.trapNext = none → exec (.trapEntry i) s = .next (s.modTeam i fun u => { u with run := .ready })) ∧
      ∀ r, t.trapNext = some r → containCause r.code = false → c.trapV = true → t.saved = none →
        inCode c.supCode c.trapAddr 4 = true →
        exec (.trapEntry i) s = .next (s.modTeam i fun u => { u with
          run := .ready, trapNext := none, trap := r, saved := some ⟨u.active, u.mode, u.fmt, u.getC 13, u.codeCap, u.priv⟩,
          mode := 0, fmt := 0, active := if r.replay = 0 then u.active else r.replay, c := u.c.put Cap.null 13 c.supCap,
          codeCap := c.supCode, priv := .super, pc := c.trapAddr, latch := Latch.empty, replay := none, cont := none,
          sleep := none, past := [] })) ∧
    (∃ t c', exec (.containmentFreeze n) s = .next t ∧ t.ctx? n = some c' ∧ c'.frozen = true ∧ (∀ p ∈ t.specs, p.ctx ≠ n) ∧
      (c.viral = true → ∀ slot q, t.queue? slot = some q → q.ctx = n → q.stopped = true)) ∧
    ((∀ p ∈ s.specs, p.ctx ≠ n) → c.viral = false → c.evtLost = 0 →
      (c.evtDue = [] → ∃ t, exec (.containmentFreeze n) s = .next t ∧ t = { s with ctxs := t.ctxs } ∧
        t.ctx? n = some { c with frozen := true } ∧ ∀ m, m ≠ n → t.ctx? m = s.ctx? m) ∧
      ∀ r, c.evtDue = [r] →
        (s.eventRoom c = true → ∃ t, exec (.containmentFreeze n) s = .next t ∧ s.Wrote n r t ∧ t.team = s.team ∧
          t.others = s.others) ∧
        (s.eventRoom c = false → ∃ t, exec (.eventLost n) s = .next t ∧ t = { s with ctxs := t.ctxs } ∧
          t.ctx? n = some { c with evtDue := [], evtLost := 1 } ∧ ∀ m, m ≠ n → t.ctx? m = s.ctx? m)) ∧
    (c.evtLost ≠ 0 → c.evtDue = [] → s.eventRoom c = true → ∃ t, exec (.eventLost n) s = .next t ∧
      s.Wrote n { EventRec.plain 6 n s.domainClock with number := c.evtLost, flags := if c.viral then 8 else 0 } t ∧
      ∃ c', t.ctx? n = some c' ∧ c'.evtLost = 0) ∧
    (s.others = [] → s.team.ctx = n → s.team.run = .contained → s.team.inner = none → s.team.trap.words ≠ 0 →
      let go (r : TrapRec) : Team := { s.team with
        trap := r, run := .ready, pc := if r.replay = 0 then r.cont.getD (r.pc + BitVec.ofNat 64 (4 * r.words)) else r.pc,
        replay := if r.replay = 0 then none else some r.replay, cont := if r.replay = 0 then none else r.cont,
        replayPages := if r.replay = 0 then [] else s.team.replayPages }
      s.transitStopped = false →
      s.choose n .resume = { s.modCtx n (fun c => { c with frozen := false }) with team := go s.team.trap } ∧
      s.choose n .skip =
        { s.modCtx n (fun c => { c with frozen := false }) with team := go { s.team.trap with replay := 0 } } ∧
      ∀ g, s.gang? s.team.id.ticket = some g →
        ∀ u, u = s.choose n .restart → (∀ x ∈ u.gangs, x.ticket ≠ s.team.id.ticket) ∧ (∀ l ∈ u.launches, l.id = g.launch → g.index ∈ l.again) ∧
        ∃ c', u.ctx? n = some c' ∧ c'.frozen = false) ∧
    (s.transitStopped = true → ∀ a, a ≠ Choice.kill → s.choose n a = { s with chosen := s.chosen ++ [(n, a)] }) ∧
    ∀ u, u = s.choose n .kill →
      (∃ c', u.ctx? n = some c' ∧ c'.killed = true ∧ c'.frozen = false ∧ c'.viral = false) ∧ (∀ g ∈ u.gangs, g.ctx ≠ n) ∧
      (∀ l ∈ u.launches, l.ctx ≠ n) ∧ (∀ x ∈ u.engines, ∀ j ∈ x.2, j.ctx = n → j.started = true ∨ j.ended.isSome = true) ∧
      ∀ slot q, u.queue? slot = some q → q.ctx = n → q.stopped = true ∧ q.packets = []

/-- R173 to R178, R182, R399: the phases of a sweep pass: it starts with the clock, the entries and the marks; the registers of a
workgroup's teams, their outstanding results and its banks lose the tags of stale capabilities and keep every other bit, and so do its
context's engine queues and fetched packets; the scan does the same to memory and to every context's queues; the end retires the
entries. A bank's switch ends with the bank cleared, and waits while a queued matrix instruction names the bank.
What the manual leaves open here is the model's choice: log entries 39, 103. -/
def Obligations.SweepPassesClearStaleTags : Prop :=
  ∀ (s : State) (n : Nat),
    (s.sweepActive = true → exec (.sweepPassStart n) s = .next { s with sweepAgain := true }) ∧
    (s.sweepActive = false → s.specs = [] → ∃ t, exec (.sweepPassStart n) s = .next t ∧
      t = { s with sweepClock := s.sweepClock + 1, sweepActive := true, sweepAgain := false, sweepScanned := false,
                   sweepEntries := t.sweepEntries, wgs := t.wgs } ∧
      (∀ e, e ∈ t.sweepEntries ↔ ∃ x ∈ s.ctxs, ∃ y ∈ x.2.revCtl, y.2.getLsbD 63 = true ∧ e = 32 * x.1 + y.1) ∧
      t.wgs = s.wgs.map fun w => if (s.gang? w.id.ticket).any (fun g => g.phase != .streamed) then
        { w with sweepPending := true, banksSwept := false } else w) ∧
    (∀ w g c, s.wg? w = some g → s.ctx? g.ctx = some c →
      let clean (k : Cap) : Cap := if c.stale? k then k.untag else k
      let Clean (u v : Team) : Prop := (∀ r, v.getC r = clean (u.getC r)) ∧ (∀ r l, v.getQ r l = clean (u.getQ r l)) ∧
        v.saved = u.saved.map (fun x => { x with c13 := clean x.c13 }) ∧
        v.pending = u.pending.map (fun p => { p with dests := p.dests.map fun d => match d with
          | .q r xs => .q r (xs.map fun x => x.map clean)
          | .c r x => .c r (x.map clean)
          | d => d }) ∧
        v = { u with c := v.c, q := v.q, saved := v.saved, pending := v.pending }
      (g.sweepPending = false → exec (.sweepRegisterSweep w) s = .next s) ∧
      (g.sweepPending = true → s.specs = [] → ∃ t, exec (.sweepRegisterSweep w) s = .next t ∧
        (∀ a, t.readByte a = s.readByte a) ∧
        (∃ g', t.wg? w = some g' ∧ g'.sweepPending = false ∧ g'.stamp = s.sweepClock.toNat) ∧
        (s.team.wg = w → Clean s.team t.team) ∧ (s.team.wg ≠ w → t.team = s.team) ∧
        t.others.length = s.others.length ∧
        (∀ (i : Nat) (u v : Team), s.others[i]? = some u → t.others[i]? = some v → (u.wg = w → Clean u v) ∧ (u.wg ≠ w → v = u)) ∧
        t.engines = s.engines.map (fun x => (x.1, x.2.map fun j => if j.ctx = g.ctx then
          { j with ctr := clean j.ctr, src := clean j.src, dst := clean j.dst, aux := clean j.aux } else j)) ∧
        t.queues = s.queues.map (fun x => if x.2.ctx = g.ctx then
          (x.1, { x.2 with packets := x.2.packets.map fun p => { p with ctr := p.ctr.map clean } }) else x) ∧
        ∀ x, s.gang? w.ticket = some x → ∀ k, k % 16 = 0 →
          let lo := regionSize * winRegion w.ticket + (w.gx + x.shape.w * w.gy) * 524288
          t.tagAt k = (s.tagAt k && !(decide (lo ≤ k ∧ k < lo + 524288) &&
            c.stale? ⟨true, BitVec.ofNat 128 (natOfBytes (s.readBytes k 16))⟩)))) ∧
    (s.sweepActive = false → exec (.sweepMemoryScan n) s = .next s) ∧
    (s.sweepActive = true → s.specs = [] → s.unswept = [] → ∃ t, exec (.sweepMemoryScan n) s = .next t ∧
      t.sweepScanned = true ∧ (∀ a, t.readByte a = s.readByte a) ∧ t.team = s.team ∧ t.others = s.others ∧
      (∀ k, k % 16 = 0 → t.tagAt k = (s.tagAt k && !(s.listFor k).any fun c =>
        c.stale? ⟨true, BitVec.ofNat 128 (natOfBytes (s.readBytes k 16))⟩)) ∧
      let clean (m : Nat) (k : Cap) : Cap := if (s.ctx? m).any (fun c => c.stale? k) then k.untag else k
      ((s.ctxs.map Prod.fst).Nodup →
        t.queues = s.queues.map (fun x => (x.1, { x.2 with packets := x.2.packets.map fun p =>
          { p with ctr := p.ctr.map (clean x.2.ctx) } })) ∧
        t.engines = s.engines.map (fun x => (x.1, x.2.map fun j => { j with
          ctr := clean j.ctx j.ctr, src := clean j.ctx j.src, dst := clean j.ctx j.dst, aux := clean j.ctx j.aux })))) ∧
    (s.sweepDue = false → exec (.sweepPassEnd n) s = .next s) ∧
    (s.sweepDue = true → ∃ t, exec (.sweepPassEnd n) s = .next t ∧
      t = { s with ctxs := t.ctxs, sweepActive := false, sweepAgain := false, sweepEntries := [], sweepScanned := false,
                   sweepDone := s.sweepClock, agenda := s.agenda ++ if s.sweepAgain then [Instr.sweepPassStart n] else [] } ∧
      ∀ e ∈ s.sweepEntries, ∀ c, s.ctx? (e / 32) = some c → ∃ c', t.ctx? (e / 32) = some c' ∧
        c'.revCtl.getD (e % 32) 0 = c.revCtl.getD (e % 32) 0 ||| 0x4000000000000000) ∧
    ∀ core b, b < 4 → s.specs = [] →
      let x := (s.core core).bank b
      (s.bankNamed core b = true → exec (.bankSwitchComplete core b) s = .next s) ∧
      (s.bankNamed core b = false → ∃ t, exec (.bankSwitchComplete core b) s = .next t ∧
        (x.switching = none → (t.core core).bank b = x) ∧
        (x.switching = some .cache → (t.core core).bank b = { Bank.reset with firm := x.firm, result := x.result }) ∧
        (∀ m, x.switching = some m → m ≠ .cache → (t.core core).bank b = { x with mode := m, switching := none, fifo := [] }) ∧
        (x.mode ≠ .cache ∨ x.switching = none → t = { s with cores := t.cores }) ∧
        (x.mode = .cache → x.switching.isSome = true →
          (s.copies = [] → t = { s with cores := t.cores, oracle := t.oracle }) ∧
          (t.caches (clusterOf core) = false → ∀ y ∈ t.copies, copyCluster y.1 ≠ clusterOf core))) ∧
      (x.owner = none → s.bankNamed core b = false) ∧
      ∀ w g y, x.owner = some w → s.wg? w = some g → g.queue = [] → s.gang? w.ticket = some y → s.bankNamed core b = false

/-! ## Gangs, packets, engines -/

/-- R53 to R55, R63 to R67, R242 to R247: dispatch gives the next gang of a launch a ticket, its rectangle and teams at
their start; pre-emption suspends the holders of the rectangle it picks; slots change places; a gang leaves for its save
area and comes back; a gang whose teams are done retires, and with the last one its launch.
What the manual leaves open here is the model's choice: log entries 25, 26, 27, 36. -/
def Obligations.GangsMoveThroughTheirPhases : Prop :=
  ∀ s : State,
    (s.decide = none → s.specPlacement = none → exec .dispatch s = .next { s with
      launches := s.launches.map fun l => if l.spec.isNone && l.offer.isSome && l.waiting.isNone then
        { l with waiting := some s.timebase } else l }) ∧
    (∀ l o c, s.decide = some (.place (.launch l) o) → s.ctx? l.ctx = some c → s.specs = [] → s.gangs.length < 2 ^ 32 - 1 →
      let i := l.offer.getD 0
      ∃ t g, exec .dispatch s = .next t ∧ t.gangs = s.gangs ++ [g] ∧ 0 < g.ticket ∧ g.ticket < 2 ^ 32 ∧
        (∀ x ∈ s.gangs, x.ticket ≠ g.ticket) ∧ g.ctx = l.ctx ∧ g.launch = l.id ∧ g.index = i ∧ g.x = i % l.gx ∧
        g.y = i / l.gx % l.gy ∧ g.z = i / (l.gx * l.gy) ∧ (g.ox, g.oy) = o ∧ g.priority = l.priority ∧ g.shape = l.shape ∧
        g.phase = .running ∧ t.team = s.team ∧
        (∀ x y, x < l.shape.w → y < l.shape.h →
          (t.core (o.1 + x + 16 * (o.2 + y))).issuing = some ⟨g.ticket, x, y⟩ ∧
          ∀ k, k < l.shape.nteam → Team.start g c l.code l.args x y k ∈ t.others) ∧
        (∀ m ∈ s.launches, m.id = l.id → ∃ m' ∈ t.launches, m'.id = m.id ∧
          m'.next = (if m.again.isEmpty then m.next + 1 else m.next) ∧ m'.again = m.again.drop 1) ∧
        (s.copies = [] → ∀ a, t.readByte a = s.readByte a)) ∧
    (∀ g o, s.decide = some (.place (.gang g) o) → s.specs = [] → ∃ t, exec .dispatch s = .next t ∧ t.team = s.team ∧
      t.others = s.others ∧ ∀ h ∈ t.gangs, h.ticket = g.ticket → h.phase = if g.phase = .shadow then .running else .entering) ∧
    ((∀ c o, s.decide ≠ some (.preempt c o)) → exec .preempt s = .next s) ∧
    (∀ c o, s.decide = some (.preempt c o) → s.specs = [] →
      let vs := s.withoutSpecs.victims c o
      let pool (v : Gang) : List Nat := (s.ctx? v.ctx).elim [] Ctx.pool
      (∀ v ∈ vs, ((vs.filter fun u => u.ctx = v.ctx).map Gang.areaFrames).sum ≤ (pool v).length) →
      ∃ t, exec .preempt s = .next t ∧ t.team = s.team ∧ t.others = s.others ∧
        (∀ a, (∀ v ∈ vs, a / 65536 ∉ pool v) → t.readByte a = s.readByte a) ∧
        (∃ p, t.promised = some p ∧ p.of c = true ∧ p.cores = rectCores o.1 o.2 c.shape.w c.shape.h) ∧
        (∀ v ∈ vs, v.priority < c.priority ∧ ∃ g ∈ t.gangs, g.ticket = v.ticket ∧ (g.phase = .shadow ∨ g.phase = .leaving)) ∧
        ∀ g ∈ s.gangs, (∀ v ∈ vs, v.ticket ≠ g.ticket) → g ∈ t.gangs) ∧
    (∀ k, let hold (l : Launch) : Bool := l.id == k && l.offer.isSome && l.waiting.any fun w => 2100000 ≤ s.timebase - w
      exec (.dispatchHold k) s =
        .next { s with launches := s.launches.map fun l => if hold l then { l with holds := true } else l }) ∧
    (∀ k,
      let c := s.core k
      let out := ∃ w g, c.issuing = some w ∧ s.gang? w.ticket = some g ∧ g.phase = .shadow
      let back := c.issuing = none ∧ ∃ w g, c.shadow = some w ∧ s.gang? w.ticket = some g ∧ g.phase = .running
      (out ∨ back → ∃ t, exec (.slotSwitch k) s = .next t ∧ t = { s with cores := t.cores, wgs := t.wgs } ∧
        (t.core k).issuing = c.shadow ∧ (t.core k).shadow = c.issuing ∧ (t.core k).banks = c.banks ∧
        (∀ w ∈ t.wgs, c.issuing = some w.id ∨ c.shadow = some w.id → w.reuse = none) ∧
        ∀ j, j ≠ k → t.core j = s.core j) ∧
      (¬ out → ¬ back → exec (.slotSwitch k) s = .next s)) ∧
    (∀ k g c, s.gang? k = some g → s.ctx? g.ctx = some c →
      let n := 16 * (g.shape.w * g.shape.h)
      (g.phase ≠ .leaving ∨ s.settled k = false → exec (.streamOut k) s = .next s) ∧
      (g.phase = .leaving → s.settled k = true → s.specs = [] → g.area = [] → c.pool.length < n → ∃ t,
        exec (.streamOut k) s = .next t ∧ t = { s with
          gangs := t.gangs, ctxs := t.ctxs, agenda := s.agenda ++ [.containmentFreeze g.ctx],
          closing := s.closing.filter fun cl => cl != 80 && !g.clusters.contains cl } ∧
        (∃ g', t.gang? k = some g' ∧ g'.phase = .running) ∧
        ∃ c' r, t.ctx? g.ctx = some c' ∧ c'.frozen = true ∧ c'.evtDue = c.evtDue ++ [r] ∧ r.kind = 1 ∧
          r.cause = cNoframe ∧ r.ticket = k ∧ (r.queue, r.tag, r.number) = s.packetOf k) ∧
      (g.phase = .leaving → s.settled k = true → s.specs = [] → g.area ≠ [] ∨ n ≤ c.pool.length → ∃ t,
        exec (.streamOut k) s = .next t ∧
        (∃ g', t.gang? k = some g' ∧ g'.phase = .streamed ∧ g'.outAt = s.timebase ∧
          g'.area = if g.area = [] then c.pool.take n else g.area) ∧
        (∃ c', t.ctx? g.ctx = some c' ∧ c'.pool = if g.area = [] then c.pool.drop n else c.pool) ∧
        (g.area = [] → ∀ f ∈ c.pool.take n, t.owner.getD f 0 = 257 ∧ ∀ i, i < 65536 → t.readByte (65536 * f + i) = 0) ∧
        (∀ key x, t.copies.find? key = some x → copyCluster key ∈ g.clusters → x.dirty = 0) ∧
        (∀ x ∈ g.wgIds.zip g.cores, (t.core x.2).issuing ≠ some x.1 ∧ (t.core x.2).shadow ≠ some x.1 ∧
          ∀ b ∈ (t.core x.2).banks, b.owner ≠ some x.1) ∧
        ∀ z, s.team.id.ticket = k → s.team.sleep = some z → t.team.sleep = some
          { z with limit := z.limit.map fun l => l - (s.timebase - z.since), since := s.timebase, monitor := false,
                   again := false, asked := false }) ∧
      (g.phase ≠ .entering ∨ s.transitStopped = true → exec (.streamIn k) s = .next s) ∧
      (g.phase = .entering → s.transitStopped = false → g.area = [] → exec (.streamIn k) s = .next (
        if s.rereading k then s else s.modGang k fun g => { g with phase := .running })) ∧
      (g.phase = .entering → s.transitStopped = false → g.area ≠ [] → s.specs = [] → ∃ t, exec (.streamIn k) s = .next t ∧
        (∃ g', t.gang? k = some g' ∧ g'.phase = .entering ∧ g'.area = []) ∧
        (∀ y ∈ t.copies, copyCluster y.1 ∉ g.clusters) ∧
        (∃ c', t.ctx? g.ctx = some c' ∧ c'.pool = c.pool ++ g.area) ∧
        (∀ w ∈ t.wgs, w.id.ticket = k → w.reuse = none) ∧
        (∀ w ∈ g.wgIds, ∀ x, s.wg? w = some x → (s.ctx? x.ctx).isSome → ∃ y, t.wg? w = some y ∧
          y.stamp = s.sweepClock.toNat) ∧
        ∀ x ∈ s.teams, x.id.ticket = k → x.run = .asleep → Instr.monitorWake x.id ∈ t.agenda) ∧
      ((∀ t ∈ s.teams, t.id.ticket = k → t.run = .retired ∧ t.pending = []) → s.merges = [] → s.remotes = [] →
        s.snoops = [] → (∀ w ∈ s.wgs, w.id.ticket = k → w.queue = []) → k ≠ 0 → ∃ t, exec (.gangRetire k) s = .next t ∧
          t.gang? k = none ∧ (∀ x ∈ t.teams, x.id.ticket ≠ k) ∧ (∀ w ∈ t.wgs, w.id.ticket ≠ k) ∧
          (∀ a, t.readByte a = if a / regionSize = winRegion k then 0 else s.readByte a) ∧
          (∃ c', t.ctx? g.ctx = some c' ∧ (c'.pool = c.pool ++ g.area ∨ ∃ l ∈ s.launches, l.id = g.launch ∧ l.argFrom = 1 ∧
            c'.pool = c.pool ++ g.area ++ [pteFrame (c.pte (l.args.cur / 65536))])) ∧
          ∀ l, (s.launches.find? fun l => l.id == g.launch) = some l → l.offer = none → l.spec = none →
            (∀ x ∈ s.gangs, x.launch = g.launch → x.ticket = k) → (∀ m ∈ t.launches, m.id ≠ g.launch) ∧
            ∀ slot q, s.queue? slot = some q → ∃ q', t.queue? slot = some q' ∧ q'.packets = q.packets.map fun p =>
              if p.wait = .launch g.launch then { p with wait := .done stOk 0 } else p))

/-- R226, R228 to R233, R236, R239 to R241, R271, R294, R306: a notify starts the fetcher of the queue it reaches; the
fetcher takes the inlet's oldest image, else a ring slot whose PHASE is the expected one; a packet that starts does what
its KIND says, and a bad header or body ends it as MALFORMED; a waiting packet goes on at its count or ends at its
deadline; and a packet that completes is counted, or stops its queue with a record.
What the manual leaves open here is the model's choice: log entries 37, 68, 69, 70, 85, 86. -/
def Obligations.PacketsRunByKind : Prop :=
  ∀ (s : State) (slot : Nat),
    (∀ fn vq port, s.notifySlot fn vq = none → exec (.notify fn vq port) s = .next { s with notifyDrop := s.notifyDrop + 1 }) ∧
    (∀ fn vq port q c, s.notifySlot fn vq = some slot → s.queue? slot = some q → s.ctx? q.ctx = some c →
      let tee : Bool := (s.hostPorts.find? port).any HostPort.ide
      (c.confidential = true → tee = false → exec (.notify fn vq port) s = .next { s with notifyDrop := s.notifyDrop + 1 }) ∧
      (c.confidential = false ∨ tee = true → ∃ t, exec (.notify fn vq port) s = .next t ∧
        t = { s with queues := t.queues, partitions := t.partitions } ∧ (∀ j, j ≠ slot → t.queue? j = s.queue? j) ∧
        t.queue? slot = some (if q.stopped then q else if q.scanning then { q with latched := true }
          else { q with scanning := true }) ∧
        (∀ j, j ≠ c.partition → t.partitions.find? j = s.partitions.find? j) ∧
        ∀ p, s.partitions.find? c.partition = some p → t.partitions.find? c.partition =
          some (if p.power = .gated then { p with power := .running } else p))) ∧
    (∀ q, s.queue? slot = some q →
      (s.mayFetch q = false → q.owed = none → exec (.packetFetch slot) s = .next s) ∧
      (q.owed.isSome = true → q.inlet = [] → (∃ u, s.report slot = (.error .wait, u)) → ∃ t,
        exec (.packetFetch slot) s = .next t ∧ t.queue? slot = some q ∧ t.mem = s.mem) ∧
      (s.mayFetch q = true → q.owed = none →
        (∀ img task rest, q.inlet = (img, task) :: rest → ∃ t, exec (.packetFetch slot) s = .next t ∧
          t = { s with queues := t.queues } ∧ (∀ j, j ≠ slot → t.queue? j = s.queue? j) ∧
          t.queue? slot = some { q with
            inlet := rest, inletTaken := q.inletTaken + 1, lastTaken := some (2 ^ 63 + q.inletTaken),
            packets := q.packets ++ [⟨2 ^ 63 + q.inletTaken, true, img, .notStarted, none, task, q.lastTaken⟩] }) ∧
        (q.inlet = [] → q.scanning = false → exec (.packetFetch slot) s = .next s) ∧
        (q.inlet = [] → q.scanning = true → ∀ head ts s1, s.cpRead q.ctx (q.ring + 128 * q.idx) 8 = (.ok (head, ts), s1) →
          (decide (128 ≤ fieldAt head 0 1) ≠ q.phase → exec (.packetFetch slot) s = .next (s1.modQueue slot fun q =>
            if q.latched then { q with latched := false } else { q with scanning := false })) ∧
          (decide (128 ≤ fieldAt head 0 1) = q.phase → ∀ body us s2,
            s1.cpRead q.ctx (q.ring + 128 * q.idx + 8) 120 = (.ok (body, us), s2) → s2.queue? slot = some q →
            ∃ t q', exec (.packetFetch slot) s = .next t ∧ t.queue? slot = some q' ∧ q'.fetched = q.fetched + 1 ∧
              q'.idx = (if q.idx + 1 = 2 ^ q.log2n then 0 else q.idx + 1) ∧
              q'.phase = (if q.idx + 1 = 2 ^ q.log2n then !q.phase else q.phase) ∧
              (q'.stopped = false → q'.packets = q.packets ++
                [⟨q.fetched, false, head ++ body, .notStarted, none, none, q.lastTaken⟩]))))) ∧
    (∀ q p, s.queue? slot = some q → s.startable slot = some p → p.headerOk = false → s.copies = [] → s.specs = [] →
      (∀ x ∈ q.packets, x.wait = .notStarted) →
      ∀ x ∈ [(0, Instr.nopPacket slot), (1, .launchPacket slot), (2, .jobPacket slot), (3, .waitctr slot), (4, .addctr slot),
          (5, .taskPacket slot), (6, .marker slot)],
        p.kind = x.1 → exec x.2 s = .next (s.setWait slot p.num (.done 1 0))) ∧
    (∀ q p, s.Starts slot q p →
      let img := p.image
      let ctr := fieldAt img 2 2
      (p.kind = 0 → exec (.nopPacket slot) s = .next (s.setWait slot p.num (.done (if zeroAt img 2 126 then 0 else 1) 0))) ∧
      (p.kind = 4 → (ctr = 0 ∨ zeroAt img 16 112 = false →
          exec (.addctr slot) s = .next (s.setWait slot p.num (.done 1 0))) ∧
        (ctr ≠ 0 → zeroAt img 16 112 = true → ∀ k s1, s.handleCap q.ctx ctr = (.ok k, s1) →
          let good := k.usable (permAtomic + permStore) && k.cur % 8 == 0 && k.coversCur 8
          s1.specs = [] → exec (.addctr slot) s = .next (if good then
            (s1.modPacket slot p.num fun x => { x with ctr := some k }).setWait slot p.num (.done 0 0)
            else s1.setWait slot p.num (.done 2 0)))) ∧
      (p.kind = 3 → zeroAt img 48 80 = true → zeroAt img 18 14 = true → ctr = 0 → ∀ k s1 x,
        s.handleCap q.ctx (fieldAt img 16 2) = (.ok k, s1) → s1.queue? slot = some q → s1.specs = [] →
        s1.timebase = s.timebase → s1.remotes = [] → injEn s1.injCtl = false → (q.packets.map Packet.num).Nodup →
        k.usable permLoad = true → k.cur % 8 = 0 → k.coversCur 8 = true →
        s1.resolve (counterWho q.ctx) 0 k k.cur 8 permLoad 8 .counter = .ok [x] → peerOf x.key = none → s1.Clean x.key →
        let target := BitVec.ofNat 64 (fieldAt img 32 8)
        let us := fieldAt img 40 8
        let met : Prop := target.toNat ≤ natOfBytes (s1.readBytes x.key 8)
        ∃ t q', exec (.waitctr slot) s = .next t ∧ t.mem = s1.mem ∧ t.queue? slot = some q' ∧
          ∃ p' ∈ q'.packets, p'.num = p.num ∧ (met → p'.wait = .done 0 0) ∧
            (¬ met → p'.wait = .counter k x.key target (if us = 0 then none else some (s.timebase + us * 2100)) s.timebase)) ∧
      (p.kind = 6 → zeroAt img 16 112 = true → ctr = 0 →
        let drain : Bool := fieldAt img 1 1 / 4 % 2 == 1
        (q.first p.num = false → exec (.marker slot) s = .next (s.setWait slot p.num .marker)) ∧
        (q.first p.num = true → ∃ t q', exec (.marker slot) s = .next t ∧ t.queue? slot = some q' ∧ t.mem = s.mem ∧
          t.phaseBusy = (s.phaseBusy || (drain && !s.phaseAck)) ∧
          t.phaseResult = (if drain then s.phaseAck else s.phaseResult) ∧
          ∃ p' ∈ q'.packets, p'.num = p.num ∧ p'.wait = if drain && !s.phaseAck then .drain else .done 0 0)) ∧
      (p.kind = 5 → bodyArgg img ≤ 3 → bodyHmask img < 2 ^ bodyArgg img → zeroAt img 47 1 = true → ctr = 0 →
        (∀ k, (s.taskKeys.find? fun k => k.ctx == q.ctx && k.expander == fieldAt img 46 1) = some k →
          (s.expAttached.contains k.expander = false → exec (.taskPacket slot) s = .next (s.setWait slot p.num (.done 2 0))) ∧
          (s.expAttached.contains k.expander = true → s.expLost.contains k.expander = true → exec (.taskPacket slot) s = .next (s.setWait slot p.num (.done 7 0))) ∧
          (s.expAttached.contains k.expander = true → s.expLost.contains k.expander = false → ∃ t, exec (.taskPacket slot) s = .next t ∧ t.mem = s.mem ∧
            t.out = .task k.expander (taskImage k.key k.salt.toNat (k.sent + 1) img) :: s.out ∧
            t.queues = (s.setWait slot p.num .task).queues ∧ ∀ y ∈ t.taskKeys, y.ctx = k.ctx → y.expander = k.expander →
              y.sent = k.sent + 1)) ∧
        ((s.taskKeys.find? fun k => k.ctx == q.ctx && k.expander == fieldAt img 46 1) = none →
          exec (.taskPacket slot) s = .next (s.setWait slot p.num (.done 2 0))))) ∧
    (∀ q p k key target dl at' x, s.queue? slot = some q → (q.packets.find? fun x => x.num == p.num) = some p →
      p.wait = .counter k key target (some dl) at' → dl ≤ s.timebase → s.remotes = [] → injEn s.injCtl = false →
      s.resolve (counterWho q.ctx) 0 k k.cur 8 permLoad 8 .counter = .ok [x] → peerOf x.key = none → s.Clean x.key →
      ∃ t q', exec (.waitctrTimeout slot p.num) s = .next t ∧ t.mem = s.mem ∧ t.queue? slot = some q' ∧
        q'.packets.map Packet.num = q.packets.map Packet.num ∧ ∀ y ∈ q'.packets, y.num = p.num →
          y.wait = .done (if target.toNat ≤ natOfBytes (s.readBytes x.key 8) then 0 else 5) 0) ∧
    (∀ n,
      (s.drained = false → exec (.phaseDrainComplete n) s = .next s) ∧
      (s.drained = true → (∃ x ∈ s.queues, x.2.ctx = n ∧ x.2.drains = true) → ∃ t, exec (.phaseDrainComplete n) s = .next t ∧
        t = { s with phaseDone := t.phaseDone, queues := t.queues, phaseBusy := t.queues.any fun x => x.2.drains } ∧
        t.phaseDone = s.phaseDone + BitVec.ofNat 64 ((s.queues.filter fun x => x.2.ctx == n).map fun x =>
          (x.2.packets.filter fun p => p.wait == .drain).length).sum ∧
        (∀ j q, s.queue? j = some q → q.ctx ≠ n → t.queue? j = some q) ∧
        ∀ j q, s.queue? j = some q → q.ctx = n → t.queue? j = some { q with
          packets := q.packets.map fun p => if p.wait = .drain then { p with wait := .done 0 0 } else p })) ∧
    (∀ q p st cause, s.queue? slot = some q → (q.packets.find? fun x => x.num == p.num) = some p → p.wait = .done st cause → p.kind ≠ 1 →
      (st ≠ 0 ∨ p.ctr = none → ∃ t q', exec (.packetComplete slot p.num) s = .next t ∧ t.queue? slot = some q' ∧
        (∀ x ∈ q'.packets, x.num ≠ p.num) ∧ (st = 0 → q.owed = none → q'.retired = q.retired + 1 ∧ q'.stopped = q.stopped) ∧
        (st ≠ 0 → q.stopped = false → q'.stopped = true ∧ q'.stopStatus = st ∧ q'.stopTag = p.tag ∧ q'.stopNumber = p.num ∧
          (∀ x ∈ q'.packets, x.wait ≠ .notStarted) ∧
          ∀ c, s.ctx? q.ctx = some c → ∃ c' r, t.ctx? q.ctx = some c' ∧ r ∈ c'.evtDue ∧ r.kind = 2 ∧ r.status = st ∧ r.cause = cause ∧
            r.queue = q.number ∧ r.tag = p.tag ∧ r.number = p.num)) ∧
      ∀ k r s1, st = 0 → p.ctr = some k →
        s.ctrAdd (slotUnit slot) none p.num q.ctx 0 true k (BitVec.ofNat 64 (fieldAt p.image 8 8)) = (some r, s1) →
        exec (.packetComplete slot p.num) s = .next (s1.retirePacket slot p r.1))

/-- R249 to R263, R456: the Orrery. A value is predicted as repeat, stride or period-2; a speculation starts only where each condition
of R252 holds, and puts no gang, packet or queue forward; a speculative team parks at the instructions of R257, with no effect, and at
a trap; a write at the home of a line it has read, a sweep pass or a real packet that does not fit discards it, with its launch and
its gangs, and leaves memory as it was but for their windows; and a claim makes its launch and gangs the packet's, and its stores
land. Each outcome is counted once.
What the manual leaves open here is the model's choice: log entries 22, 23, 99, 106. -/
def Obligations.SpeculationsStartParkAndEnd : Prop :=
  (∀ (u1 u2 u3 u4 : Dword) (rest : List (Option Dword)),
     classify scalarStride (some u1 :: some u1 :: rest) = some u1 ∧
     (u1 ≠ u2 → classify scalarStride [some u1, some u2] = none ∧
       (u1 - u2 = u2 - u3 → classify scalarStride (some u1 :: some u2 :: some u3 :: rest) = some (u1 + (u1 - u2))) ∧
       (u1 - u2 ≠ u2 - u3 → classify scalarStride (some u1 :: some u2 :: some u3 :: some u4 :: rest) =
         if u1 = u3 ∧ u2 = u4 then some u2 else none))) ∧
  ∀ s : State,
    let sat (x : Dword) : Dword := if x = BitVec.allOnes 64 then x else x + 1
    let Counts (t : State) (ctx k : Nat) : Prop := ∀ j, t.orreryStat.getD j 0 =
      if j = 16 * ctx + k then sat (s.orreryStat.getD j 0) else s.orreryStat.getD j 0
    (∀ slot q, s.queue? slot = some q →
      let ctl := s.orreryCtl.getD q.ctx 4
      let t := s.speculate slot
      (ctl.getLsbD 31 = false ∨ 4 ≤ s.specs.length ∨ (∃ x ∈ s.specs, x.queue = slot) ∨ s.sweepActive = true ∨
        s.transitStopped = true ∨ s.held q.ctx = true → t = s) ∧
      (t = s ∨ ∃ old p l, t.specs = old ++ [p] ∧ (∀ x ∈ old, x ∈ s.specs) ∧ l ∈ t.launches ∧
        (∀ m ∈ t.launches, m = l ∨ m ∈ s.launches) ∧ (∀ g ∈ t.gangs, g ∈ s.gangs) ∧ t.queues = s.queues ∧
        p.id = s.nextSpec ∧ t.nextSpec = s.nextSpec + 1 ∧ p.queue = slot ∧ p.ctx = q.ctx ∧ p.launch = l.id ∧
        l.id = s.nextLaunch ∧ l.spec = some p.id ∧ l.priority = q.priority ∧ l.code = p.kernel ∧ p.kernel.isKernel = true ∧
        classify noStride (q.history.map fun e => some e.kernel) = some p.kernel ∧
        predict q.history p.kernel p.dontCare = some (p.shape, p.granules) ∧ p.shadow = [] ∧ p.signature = [] ∧
        p.quota = ctl.toNat % 32 ∧ (s.specs = [] → p.quota ≤ t.shadowUnits ∧ Counts t q.ctx 0))) ∧
    (∀ (a b d n la : Nat) (wide lane : Bool) (op : AtomOp) (sel : LineSel) (c : Scope) (k : FenceKind),
      (c = .pool ∨ c = .fabric →
        ∀ i ∈ [Instr.atom wide op d a b la, .cas wide d a b la, .red wide op d a b la, .job a b la, .task a b la, .launch a b la,
          .fence c k la, .flush c a sel la, .inval c a sel la, .drain la, .ksweep lane d a la, .sysr d b, .sysw a b, .tlbinv a,
          .tlbinvAll, .pgmap d a],
          s.issues i = true → (s.entering i).speculative = true → exec i s = .next { s.entering i with
            team := { (s.entering i).team with run := .parked, latch := Latch.empty } }) ∧
      ∀ i ∈ [Instr.trap n, .bkpt], s.issues i = true → (s.entering i).speculative = true →
        ∃ u : Team, exec i s = .next { s.entering i with team := u } ∧ u.run = .parked ∧ u.trapNext.isSome = true ∧
          u.pc = (s.entering i).team.pc) ∧
    (∀ id code p, (s.specs.find? fun x => x.id == id) = some p → code < 15 →
      let t := s.discardSpec id code
      t.specs = s.specs.filter (fun x => x.id != id) ∧ t.launches = s.launches.filter (fun l => l.id != p.launch) ∧
        t.queues = s.queues ∧ (∀ g ∈ t.gangs, g ∈ s.gangs ∧ g.spec ≠ some id) ∧
        (∀ g ∈ s.gangs, (∀ h ∈ s.gangs, h.spec = some id → h.ticket ≠ g.ticket) → g ∈ t.gangs) ∧
        (∀ a, (∀ g ∈ s.gangs, g.spec = some id → a / regionSize ≠ winRegion g.ticket) → t.readByte a = s.readByte a) ∧
        Counts t p.ctx (code + 1)) ∧
    (∀ p line c, s.specs = [p] → injEn s.injCtl = false →
      let t := s.homeMerge line c
      let seen : Prop := p.reads.contains line = true
      let hashed : Prop := ∃ x ∈ p.signature, Config.lineHash x % 8192 = Config.lineHash line % 8192
      (line * 128 < 2 ^ 64 → seen → t.specs = [] ∧ Counts t p.ctx 3) ∧
      (line * 128 < 2 ^ 64 → ¬ seen → hashed → t.specs = [] ∧ Counts t p.ctx 4) ∧
      (2 ^ 64 ≤ line * 128 ∨ (¬ seen ∧ ¬ hashed) → t.specs = [p] ∧ t.orreryStat = s.orreryStat)) ∧
    (∀ n p, s.specs = [p] → s.sweepActive = false →
      ∃ t, exec (.sweepPassStart n) s = .next t ∧ t.specs = [] ∧ Counts t p.ctx 9 ∧ ∀ g ∈ t.gangs, g.spec ≠ some p.id) ∧
    (∀ slot q p k ks s1 s2 x, s.queue? slot = some q → s.startable slot = some p → p.headerOk = true → p.kind = 1 →
      s.copies = [] → bodyWellFormed p.image = true → fieldAt p.image 2 2 = 0 →
      s.handleCap q.ctx (fieldAt p.image 16 2) = (.ok k, s1) → s1.bodyGranules q.ctx p.image = (.ok ks, s2) →
      k.isKernel = true → s2.specs = [x] → x.queue = slot →
      (x.fits k (bodyShape p.image) ks = false →
        exec (.launchPacket slot) s = .next ((s2.discardSpec x.id 1).startLaunch slot q p k ks)) ∧
      ∀ ok s3, x.fits k (bodyShape p.image) ks = true → s2.stillValid x = (some ok, s3) →
        (ok = false → s3.specs = [x] →
          exec (.launchPacket slot) s = .next ((s3.discardSpec x.id 1).startLaunch slot q p k ks)) ∧
        (ok = true → (∀ y ∈ x.shadow, s3.cohFrame (y.1 / 512) = false) → exec (.launchPacket slot) s = .next
          (((State.dispatchAll 640 (((s3.claim x q p.num p.tag ks).setWait slot p.num (.launch x.launch)).modQueue slot
            fun q => q.note k (bodyShape p.image) ks)).noteWaits.speculate slot).endLaunch x.launch))) ∧
    ∀ p q number tag ks, s.specs = [p] → injEn s.injCtl = false →
      let t := s.claim p q number tag ks
      let args : Cap := ((s.launches.find? fun l => l.id == p.launch).map Launch.args).getD Cap.null
      let inArgs (a : Nat) : Prop := ∃ c e, s.ctx? p.ctx = some c ∧ c.walk args.cur = .ok e ∧
        let key := frameKey (pteLoc e) (ptePeer e) (pteFrame e) + args.cur % 65536
        key ≤ a ∧ a < key + 16 * ks.length
      ((s.teams.map Team.id).Nodup → (∀ w ∈ s.wgs, w.queue = []) → (∀ u ∈ s.teams, u.asyncNext = [] ∧ u.owedNotes = []) →
        ∀ u ∈ s.teams, u.run = .parked → u.trapNext = none → u.pending = [] → u.sleep = none → u.active ≠ 0 →
        (∃ g, s.gang? u.id.ticket = some g ∧ g.launch = p.launch) → ∃ v ∈ t.teams, v.id = u.id ∧ v.run = .ready) ∧
      ((∀ u ∈ s.teams, u.run ≠ .parked) → t.specs = [] ∧ Counts t p.ctx 1 ∧
        t.gangs = s.gangs.map (fun g => if g.spec = some p.id then { g with spec := none, priority := q.priority } else g) ∧
        t.launches = (s.launches.filter fun l => l.id != p.launch) ++ (s.launches.filter fun l => l.id == p.launch).map (fun l =>
          { l with spec := none, number := number, tag := tag, priority := q.priority, started := s.timebase }) ∧
        ((p.shadow.map Prod.fst).Nodup → ∀ line c, p.shadow.find? line = some c → ∀ i, i < 128 → c.dirty.getLsbD i = true →
          t.readByte (128 * line + i) = (c.data >>> (8 * i)).setWidth 8 ∧
          t.tagAt (128 * line + i) = (c.tags.getLsbD (i / 16) && regionTagged (128 * line))) ∧
        ∀ a, ¬ inArgs a → (∀ y ∈ p.shadow, y.1 = a / 128 → y.2.dirty.getLsbD (a % 128) = false) → t.readByte a = s.readByte a)

/-- R166, R237, R238: COPY, COPY2D, FILL and GATHER leave at their destination the bytes their words say, wherever source and
destination do not meet and no line on the way is bad, and change no other byte. A copy takes a granule's tag along where the two
capabilities, the addresses and the value allow it; every other granule written is untagged.
What the manual leaves open here is the model's choice: log entries 60, 61. -/
def Obligations.EnginesMoveBytes : Prop :=
  ∀ (s : State) (e : Nat) (j : Job) (K : Nat → Nat),
    let aligned : Prop := ∀ a, K a % 16 = a % 16
    let kept (x y : Nat) : Bool :=
      let v := s.filterCap j.ctx ⟨true, BitVec.ofNat 128 (natOfBytes ((List.range 16).map fun i => s.readByte (K (x + i))))⟩
      j.src.has permLoadCap && j.dst.has permStoreCap && x % 16 == y % 16 && s.tagAt (K x) && regionTagged (K x) &&
        v.tag && (v.has permGlobal || winRegion 0 ≤ K y / regionSize) && regionTagged (K y)
    let at' (n w : Nat) (dst : Nat → Nat) (i : Instr) (src : Nat → Nat) (keeps : Nat → Bool) : Prop :=
      s.AllClean n (fun x => K (src x)) → (∀ x y, x < n → y < n → K (src x) ≠ K (dst y)) →
        s.JobWrites i e j n (fun x => K (dst x)) (fun x => s.readByte (K (src x)))
          fun t => aligned → s.TagsWritten n w (fun x => K (dst x)) keeps t
    (s.Works e .copy j → s.Reaches j j.src j.srcFoot j.src.cur j.len permLoad .read K →
      s.Reaches j j.dst j.dstFoot j.dst.cur j.len permStore .write K →
      at' j.len j.len (fun x => j.dst.cur + x) (.copy e) (fun x => j.src.cur + x)
        fun x => kept (j.src.cur + x) (j.dst.cur + x)) ∧
    (s.Works e .fill j → s.Reaches j j.dst j.dstFoot j.dst.cur j.len permStore .write K →
      s.JobWrites (.fill e) e j j.len (fun x => K (j.dst.cur + x)) (fun x => BitVec.ofNat 8 (j.p1 / 256 ^ (x % 8)))
        (s.TagsWritten j.len j.len (fun x => K (j.dst.cur + x)) fun _ => false)) ∧
    (s.Works e .copy2d j →
      let rows := j.len % 2 ^ 32
      let w := j.len / 2 ^ 32
      (∀ r, r < rows → s.Reaches j j.src j.srcFoot (j.src.cur + r * j.p1) w permLoad .read K ∧
        s.Reaches j j.dst j.dstFoot (j.dst.cur + r * j.p2) w permStore .write K) →
      at' (rows * w) w (fun x => j.dst.cur + x / w * j.p2 + x % w) (.copy2d e) (fun x => j.src.cur + x / w * j.p1 + x % w)
        fun x => kept (j.src.cur + x / w * j.p1 + x % w) (j.dst.cur + x / w * j.p2 + x % w)) ∧
    (s.Works e .gather j → s.Reaches j j.aux j.aux.range j.aux.cur (4 * j.len) permLoad .read K →
      s.AllClean (4 * j.len) (fun x => K (j.aux.cur + x)) →
      let ix (r : Nat) : Nat := natOfBytes ((List.range 4).map fun i => s.readByte (K (j.aux.cur + 4 * r + i)))
      (∀ r, r < j.len → s.Reaches j j.src j.srcFoot (j.src.cur + ix r * j.p1) j.p1 permLoad .read K ∧
        s.Reaches j j.dst j.dstFoot (j.dst.cur + r * j.p1) j.p1 permStore .write K) →
      at' (j.len * j.p1) j.p1 (fun x => j.dst.cur + x / j.p1 * j.p1 + x % j.p1) (.gather e)
        (fun x => j.src.cur + ix (x / j.p1) * j.p1 + x % j.p1) fun _ => false)

/-- R224, R299, R302, R460: REDSCAT and ALLGATH write their chunk of the rank-order sum and the concatenation of all shares;
PUBLISH writes the payload at every subscriber of this device and then adds 1 to its version; CIN and COUT take AES-GCM
under the context's key slot, refuse a CTR that does not rise, and CIN writes nothing where the tag does not verify; one that
had to wait goes on with the key and the descriptor its CTR was compared for.
What the manual leaves open here is the model's choice: log entries 63, 64, 65. -/
def Obligations.CollectivesPublishAndCiphers : Prop :=
  ∀ (s : State) (e : Nat) (j : Job),
    let go : State := s.modJob e fun x => { x with started := true }
    let fetch (u : State) (a n : Nat) := u.engFetch e j j.aux j.aux.range a n
    let bytes (bs : List TByte) : List Byte := bs.map Prod.fst
    (∀ hd s1 ms s2, fetch go j.aux.cur 16 = (.ok hd, s1) →
      let n := fieldAt (bytes hd) 0 2
      let rank := fieldAt (bytes hd) 2 2
      let inp := fieldAt (bytes hd) 4 1
      let g : Group := ⟨rank, inp, fieldAt (bytes hd) 5 1, (List.range n).map fun i => fieldAt (bytes ms) (8 * i) 8⟩
      let z := if inp = 2 then 4 else 2
      let k := j.len / n
      2 ≤ n → n ≤ 256 → rank < n → inp ≤ 2 → g.output ≤ 1 → zeroAt (bytes hd) 6 10 = true → j.len % n = 0 →
      fetch s1 (j.aux.cur + 16) (8 * n) = (.ok ms, s2) → ∀ shares s3,
      (s.Works e .redscat j → (∀ va ∈ g.members, s2.onPeer j.ctx va (j.len * z) = true) →
        SharesRead e j rank (rank * k * z) (k * z) ((List.range n).zip (g.members.map fun va => va + rank * k * z)) s2 shares s3 →
        exec (.redscat e) s = .next (s3.runWrite e j ((List.range k).flatMap fun i =>
          (g.out (rankSum (shares.map fun b => g.widen (fieldAt b (i * z) z)))).map fun b => (b, false)))) ∧
      (s.Works e .allgath j → (∀ va ∈ g.members, s2.onPeer j.ctx va (k * z) = true) →
        SharesRead e j rank 0 (k * z) ((List.range n).zip g.members) s2 shares s3 →
        exec (.allgath e) s = .next (s3.runWrite e j (shares.flatMap fun b => (List.range k).flatMap fun i =>
          (if g.output = 1 then g.out (g.widen (fieldAt b (i * z) z)) else bytesOfNat z (fieldAt b (i * z) z)).map
            fun b => (b, false))))) ∧
    (∀ (hd : List TByte) (s1 : State) (es : List TByte) (s2 : State) (bs : List TByte) (s3 : State) (P : Nat → Nat),
      s.Works e .publish j → j.paid = false → s.remotes = [] → fetch go j.aux.cur 16 = (.ok hd, s1) →
      let n := fieldAt (bytes hd) 0 2
      let subs := (List.range n).map fun i => (fieldAt (bytes es) (16 * i) 8, fieldAt (bytes es) (16 * i + 8) 8)
      let here (va m : Nat) (a : Access) : Prop := ∃ ps, s3.subscriber j va m a = .ok ps ∧
        (ps.flatMap fun p => (List.range p.len).map fun i => p.key + i) = (List.range m).map (fun i => P (va + i)) ∧
        ∀ p ∈ ps, peerOf p.key = none ∧ p.coh = false ∧ p.loc ≠ 1 ∧ s3.checkBad (p.key / 128) = false ∧
          s3.poisoned (p.key / 128) = false
      0 < n → n ≤ 64 → zeroAt (bytes hd) 2 14 = true → fetch s1 (j.aux.cur + 16) (16 * n) = (.ok es, s2) →
      s2.engFetch e j j.src j.srcFoot j.src.cur j.len = (.ok bs, s3) →
      (∀ x ∈ subs, x.2 % 8 = 0 ∧ here x.1 j.len .write ∧ here x.2 8 .counterAdd ∧
        (∃ p, s2.subscriber j x.2 8 .counterAdd = .ok [p]) ∧ ∃ p, s3.subscriber j x.2 8 .counterAdd = .ok [p]) →
      s3.remotes = [] → s3.copies = [] → s3.specs = [] → s3.snoops = [] → 0 < j.len →
      (subs.flatMap fun x => ((List.range j.len).map fun i => P (x.1 + i)) ++ (List.range 8).map fun i => P (x.2 + i)).Nodup →
      ∃ t, exec (.publish e) s = .next t ∧ (∀ x ∈ subs,
        (∀ i, i < j.len → t.readByte (P (x.1 + i)) = (bytes bs).getD i 0) ∧
        natOfBytes ((List.range 8).map fun i => t.readByte (P (x.2 + i))) =
          min (natOfBytes ((List.range 8).map fun i => s3.readByte (P (x.2 + i))) + 1) (2 ^ 64 - 1)) ∧
        ∃ j', t.headJob e = some j' ∧ j'.ended = some 0) ∧
    (∀ inward : Bool, let i : Instr := if inward then .cin e else .cout e
      s.Works e (if inward then .cin else .cout) j →
      (j.len < 16 ∨ 67108864 < j.len ∨ j.len % 16 ≠ 0 → exec i s = .next (go.endJob e 1 0)) ∧
      let runs (u : State) (key : GcmKey) : Prop :=
        ∀ bs s3, u.engFetch e j j.src j.srcFoot j.src.cur (if inward then j.len + 16 else j.len) = (.ok bs, s3) →
          let x := (bytes bs).map BitVec.toNat
          let ct := if inward then x.take j.len else gcmCrypt key x
          (inward = true → gcmTag key [] ct ≠ x.drop j.len → exec i s = .next (s3.endJob e 8 0)) ∧
          (inward = true → gcmTag key [] ct = x.drop j.len → exec i s =
            .next (s3.runWrite e j ((gcmCrypt key ct).map fun y => (BitVec.ofNat 8 y, false)))) ∧
          (inward = false → exec i s =
            .next (s3.runWrite e j ((ct ++ gcmTag key [] ct).map fun y => (BitVec.ofNat 8 y, false))))
      let keyOf (k : BitVec 256) (d : List Byte) : GcmKey := ⟨keyBytes k, ivBytes (fieldAt d 4 4) (fieldAt d 8 8)⟩
      (16 ≤ j.len → j.len ≤ 67108864 → j.len % 16 = 0 → ∀ k d, j.keyed = some (k, d) → runs go (keyOf k d)) ∧
      ∀ d s1, 16 ≤ j.len → j.len ≤ 67108864 → j.len % 16 = 0 → j.keyed = none → fetch go j.aux.cur 16 = (.ok d, s1) →
        let id := fieldAt (bytes d) 0 4
        let ctr := fieldAt (bytes d) 8 8
        (s1.slotFor j id = none → exec i s = .next (s1.endJob e 8 0)) ∧
        ∀ k, s1.slotFor j id = some k →
          let last := ((if inward then k.lastCin else k.lastCout).getD 0)
          let s2 : State := ({ s1 with keySlots := s1.keySlots.modify id fun k => if inward then { k with lastCin := some ctr } else { k with lastCout := some ctr } } : State).modJob
            e fun x => { x with keyed := some (k.key, bytes d) }
          (ctr ≤ last → exec i s = .next (s1.endJob e 8 0)) ∧
          (last < ctr → runs s2 (keyOf k.key (bytes d)))) ∧
    ∀ bs K, s.Works e j.oper j → s.Reaches j j.dst j.dstFoot j.dst.cur bs.length permStore .write K →
      (∀ x y, x < bs.length → y < bs.length → K (j.dst.cur + x) = K (j.dst.cur + y) → x = y) →
      let t := s.runWrite e j bs
      (∀ x, x < bs.length → t.readByte (K (j.dst.cur + x)) = (bs.getD x (0, false)).1) ∧
      ((∀ b ∈ bs, b.2 = false) → ∀ x, x < bs.length → t.tagAt (K (j.dst.cur + x) / 16 * 16) = false) ∧
      ∀ a, (∀ x, x < bs.length → K (j.dst.cur + x) ≠ a) → t.readByte a = s.readByte a

/-- R35, R221, R231, R233 to R238, R249, R271, R369: a JOB packet's card goes into the queue of its engine; a job that has
ended adds to its counter, leaves its queue and completes its packet, or leaves a JOB record where it fails; a LAUNCH packet
becomes a launch with the shape its kernel's descriptor gives, or ends with DESCRIPTOR, and waits while no frame is left for its
argument block.
What the manual leaves open here is the model's choice: log entries 62, 68, 81. -/
def Obligations.JobAndLaunchPackets : Prop :=
  ∀ (s : State),
    (∀ slot q p, s.Starts slot q p → p.kind = 2 → operOf (fieldAt p.image 80 1) = none →
      exec (.jobPacket slot) s = .next (s.setWait slot p.num (.done 1 0))) ∧
    (∀ slot q p o ctr src dst aux s1 s2 s3 s4, s.Starts slot q p → p.kind = 2 → operOf (fieldAt p.image 80 1) = some o →
      let img := p.image
      let g (used : Bool) (a : Nat) (u : State) (k : Cap) (v : State) : Prop :=
        if used = true then u.handleField q.ctx ((img.drop a).take 16) = (.ok k, v) else k = Cap.null ∧ v = u
      g true 16 s ctr s1 → g o.usesSrc 32 s1 src s2 → g o.usesDst 48 s2 dst s3 → g o.usesAux 64 s3 aux s4 →
      (s4.cardStatus q.ctx false img ctr src dst aux ≠ 0 → exec (.jobPacket slot) s =
        .next (s4.setWait slot p.num (.done (s4.cardStatus q.ctx false img ctr src dst aux) 0))) ∧
      (s4.cardStatus q.ctx false img ctr src dst aux = 0 →
        (s4.engineFor (fieldAt img 2 2) = none → exec (.jobPacket slot) s = .next (s4.setWait slot p.num (.done 2 0))) ∧
        ∀ e, s4.engineFor (fieldAt img 2 2) = some e → ∃ t x, exec (.jobPacket slot) s = .next t ∧
          t.queues = (s4.setWait slot p.num .job).queues ∧ t.engineQueue e = s4.engineQueue e ++ [x] ∧
          (∀ k, k ≠ e → t.engineQueue k = s4.engineQueue k) ∧ t.mem = s4.mem ∧ t.team = s4.team ∧
          x.ctx = q.ctx ∧ x.oper = o ∧ x.ctr = ctr ∧ x.src = src ∧ x.dst = dst ∧ x.aux = aux ∧
          x.snarrow = fieldAt img 88 8 ∧ x.dnarrow = fieldAt img 96 8 ∧ x.len = fieldAt img 104 8 ∧ x.p1 = fieldAt img 112 8 ∧
          x.p2 = fieldAt img 120 8 ∧ x.amount = BitVec.ofNat 64 (fieldAt img 8 8) ∧ x.tag = fieldAt img 4 4 ∧
          x.packet = some (slot, p.num) ∧ x.started = false ∧ x.ended = none)) ∧
    (∀ e j, s.headJob e = some j → s.remotes = [] → s.snoops = [] →
      (j.ended = none → exec (.jobComplete e) s = .next s) ∧
      ∀ st, j.ended = some st →
        let popped (u : State) : State := { u with engines := SMap.put [] u.engines e ((u.engineQueue e).drop 1) }
        (∀ slot num, j.packet = some (slot, num) →
          (st ≠ 0 ∨ j.ctr = Cap.null → exec (.jobComplete e) s = .next ((popped s).setWait slot num (.done st j.cause))) ∧
          ∀ r s1, st = 0 → j.ctr ≠ Cap.null →
            s.ctrAdd ⟨0, 0, 0, 0⟩ (some e) 0 j.ctx j.ticket j.super j.ctr j.amount = (some r, s1) →
            exec (.jobComplete e) s = .next ((popped s1).setWait slot num (.done r.1 r.2))) ∧
        (j.packet = none →
          (st = 0 → j.ctr = Cap.null → exec (.jobComplete e) s = .next (popped s)) ∧
          ∀ c, st ≠ 0 → s.ctx? j.ctx = some c → ∃ t c' r, exec (.jobComplete e) s = .next t ∧
            t = { popped s with ctxs := t.ctxs } ∧ t.ctx? j.ctx = some c' ∧ c'.evtDue = c.evtDue ++ [r] ∧ r.kind = 3 ∧
            r.status = st ∧ r.cause = j.cause ∧ r.tag = j.tag ∧ r.ticket = j.ticket ∧
            r.number = e % 256 * 256 + j.index % 64)) ∧
    ∀ slot q p k ks s1 s2 d s3, s.Starts slot q p → p.kind = 1 → bodyWellFormed p.image = true → fieldAt p.image 2 2 = 0 →
      s.handleCap q.ctx (fieldAt p.image 16 2) = (.ok k, s1) → s1.bodyGranules q.ctx p.image = (.ok ks, s2) → s2.specs = [] →
      k.isKernel = true → s2.descriptor q.ctx k = (.ok (some d), s3) → s3.nextLaunch = s.nextLaunch → s3.specs = [] →
      s3.queue? slot = some q → (∀ l ∈ s3.launches, l.id < s.nextLaunch) →
      (validate k d = none → ∃ t q', exec (.launchPacket slot) s = .next t ∧ t.mem = s3.mem ∧ t.launches = s3.launches ∧
        t.queue? slot = some q' ∧ ∃ p' ∈ q'.packets, p'.num = p.num ∧ p'.wait = .done 3 0) ∧
      ∀ kn, validate k d = some kn →
        (s3.argBlock q.ctx ks = none → exec (.launchPacket slot) s = .next s3) ∧
        ∀ args src u, s3.argBlock q.ctx ks = some (args, src, u) →
        ∃ t q' l, exec (.launchPacket slot) s = .next t ∧ l ∈ t.launches ∧ l.args = args ∧
        l.id = s.nextLaunch ∧ l.ctx = q.ctx ∧ l.number = p.num ∧ l.tag = p.tag ∧ l.priority = q.priority ∧
        l.gx = fieldAt p.image 32 4 + 1 ∧ l.gy = fieldAt p.image 36 4 + 1 ∧ l.gz = fieldAt p.image 40 4 + 1 ∧
        l.shape = kn.shape ∧ l.code = k ∧ l.spec = none ∧ t.queue? slot = some q' ∧
        (∃ p' ∈ q'.packets, p'.num = p.num ∧ p'.wait = .launch s.nextLaunch) ∧
        q'.history.head? = some ⟨k, bodyShape p.image, ks⟩

/-! ## Fabric, host, trust, errors, power -/

/-- R167, R217, R224, R274, R296, R297: what a request of a peer does: a bad header is dropped and counted; a request that
has been performed is answered again from the window and not performed twice; one without a grant is refused, with a NOTICE; and one
that is performed reads a line with its tags, writes the bytes of its mask, updates at its home, or adds to a counter,
changes no other byte, and is answered.
What the manual leaves open here is the model's choice: log entries 53, 54, 55, 56. -/
def Obligations.FabricRequestsOfPeers : Prop :=
  ∀ (s : State) (h : FabHdr) (data : List Byte),
    let es : List (Nat × Instr) := [(0, .fabricRead h), (1, .fabricWrite h data), (2, .fabricAtomic h data),
      (3, .fabricCounterAdd h data), (4, .publishPayload h data), (5, .publishVersionAdd h data)]
    let line := h.address.toNat / 128
    (hdrBad h = true → ∀ i ∈ es.map Prod.snd ++ [.fabricResponse h data, .fabricAcknowledgement h, .fabricHeaderDrop h],
      exec i s = .next { s with hdrDropped := s.hdrDropped + 1 }) ∧
    (hdrBad h = false → ∀ e ∈ es, h.kind.toNat = e.1 → s.Flows →
      (∀ d, (s.window.find? fun d => d.id == h.reqid.toNat && d.src == h.src.toNat) = some d →
        ∃ t, exec e.2 s = .next t ∧ t = { s with dedupe := s.window, out := t.out } ∧
          ∃ op, t.Answers h op (if d.result.length = 1 then [] else d.result.take 128)) ∧
      ((∀ d ∈ s.dedupe, ¬ (d.id = h.reqid.toNat ∧ d.src = h.src.toNat)) →
        s.grantsFor h ≠ [] → ({ s with dedupe := s.window } : State).uncovered h.sent.toNat = true → ∃ t, exec e.2 s = .next t ∧
          t = { s with dedupe := s.window, out := t.out } ∧ t.Answers h 0x34 []) ∧
      ((∀ d ∈ s.dedupe, ¬ (d.id = h.reqid.toNat ∧ d.src = h.src.toNat)) → s.grantsFor h = [] →
        ∃ t, exec e.2 s = .next t ∧ t.mem = s.mem ∧ t.tags = s.tags ∧ t.Answers h 0x23 [] ∧
          ∀ o c, s.owner.find? (h.address.toNat / 65536) = some (o + 1) → s.ctx? o = some c →
            ∃ c' r, t.ctx? o = some c' ∧ r ∈ c'.evtDue ∧ r.kind = 4 ∧ r.cause = 0x23 ∧ r.address = BitVec.ofNat 64 (128 * line))) ∧
    (s.Admits h →
      let post (e : Nat × Instr) (p : State → Prop) : Prop := h.kind.toNat = e.1 →
        ∃ t, exec e.2 s = .next t ∧ t.team = s.team ∧ t.others = s.others ∧
          (∃ d, t.dedupe.getLast? = some d ∧ d.id = h.reqid.toNat ∧ d.src = h.src.toNat ∧ d.sent = h.sent.toNat) ∧ p t
      let value (u : State) (n : Nat) : Nat := natOfBytes (u.readBytes h.address.toNat n)
      let only (t : State) (n : Nat) : Prop :=
        ∀ a, ¬ (h.address.toNat ≤ a ∧ a < h.address.toNat + n) → t.readByte a = s.readByte a
      let wrote (t : State) : Prop := t.Answers h 0 [] ∧
        (∀ i, i < 128 → t.readByte (128 * line + i) = if h.mask.getLsbD i then data.getD i 0 else s.readByte (128 * line + i)) ∧
        (∀ a, a / 128 ≠ line → t.readByte a = s.readByte a) ∧
        (s.sweepActive = false → ∀ g, g < 8 → t.tagAt (128 * line + 16 * g) = if (List.range 16).any fun i => h.mask.getLsbD (16 * g + i) then
          hdrTagged h && (s.grantsFor h).any (fun x => x.ticket == 0 || x.ticket == h.ticket.toNat) && h.tags.getLsbD g
          else s.tagAt (128 * line + 16 * g))
      post (0, .fabricRead h) (fun t => t.mem = s.mem ∧
        t.AnswersLine h (s.readBytes (128 * line) 128) fun g => s.tagAt (128 * line + 16 * g)) ∧
      (data.length = 128 → post (1, .fabricWrite h data) wrote ∧ post (4, .publishPayload h data) wrote) ∧
      (∀ o, fabOp h.op.toNat = some o → h.address.toNat % o.width = 0 → post (2, .fabricAtomic h data) fun t =>
        only t o.width ∧ value t o.width = (o.write data (value s o.width)).getD (value s o.width) % 2 ^ (8 * o.width) ∧
        t.Answers h 0 (if o.answers then s.readBytes h.address.toNat o.width else [])) ∧
      (h.address.toNat % 8 = 0 →
        let sum := min (value s 8 + fieldAt data 0 8) (2 ^ 64 - 1)
        post (3, .fabricCounterAdd h data) (fun t => only t 8 ∧ value t 8 = sum ∧
          t.Answers h 0 (if h.op = 1 then s.readBytes h.address.toNat 8 else [])) ∧
        post (5, .publishVersionAdd h data) fun t => only t 8 ∧ value t 8 = sum ∧ t.Answers h 0 []))

/-- R75, R199, R217, R295, R296, R298: an answer gives its lane its value or its fault, and a refusal with MOVED sends the
requester to the page's new home; a request without an answer is sent again once and fails with ATOM_INDET, in the lane that
waits for it; links come up,
pause and resume; and the domain clock follows its root.
What the manual leaves open here is the model's choice: log entries 12, 53, 54, 57. -/
def Obligations.FabricAnswersLinksAndClock : Prop :=
  ∀ s : State, (∀ x ∈ s.ports, x.2.paused = []) →
    (∀ (h : FabHdr) (data : List Byte), hdrBad h = false →
      let found := s.remotes.find? fun r => r.id == h.reqid.toNat && r.hdr.dst == h.src
      (h.kind = 6 → found = none → exec (.fabricResponse h data) s = .next s) ∧
      ∀ r, found = some r → (h.kind = 6 → h.op = 0x80 →
          exec (.fabricResponse h data) s = .next { s with agenda := s.agenda ++ [.movedRefusal r.id] }) ∧
        (h.kind = 7 → h.op = 0x80 →
          exec (.fabricAcknowledgement h) s = .next { s with agenda := s.agenda ++ [.movedRefusal r.id] }) ∧
        ∀ u p d vals x, s.siblings r = [r] → r.parts = [x] → r.got = none → r.form ≠ .pref → r.collected = false → s.team? r.team = some u → u.ctx = r.ctx →
          (s.teams.map Team.id).Nodup → u.run = .ready → u.pending = [p] → p.id = r.pendingId → p.waits = [r.id] →
          p.faults = [] → p.dests = [.v d vals] → x.lane < vals.length → (s.remotes.map Remote.id).Nodup →
          h.reqid.toNat = r.id →
          let post (i : Instr) (q : Pending → Prop) : Prop := ∃ t u' p', exec i s = .next t ∧ t.mem = s.mem ∧
            t.remotes.map (fun x => { x with stale := [] }) =
              (s.remotes.filter fun x => x.id != r.id).map (fun x => { x with stale := [] }) ∧ t.team? r.team = some u' ∧ u' = { u with pending := [p'], stalled := false } ∧
            p'.waits = [] ∧ q p'
          (∀ n signed, x.form = .lane n signed → r.shares ≠ [] → h.kind = 6 → h.op = 0 → hdrPoison h = false → r.hdr.kind = 0 →
            data.length = 128 → x.off + x.len ≤ 128 → post (.fabricResponse h data) fun p' => p'.faults = [] ∧ p'.dests =
              [.v d ((List.range vals.length).map fun i => if i = x.lane then
                some (BitVec.ofNat 32 (extendBytes n signed ((data.drop x.off).take x.len))) else vals.getD i none)]) ∧
          (r.form = .nothing → x.form = .nothing → h.kind = 7 → h.op = 0 → hdrPoison h = false → r.hdr.kind ≠ 0 →
            post (.fabricAcknowledgement h) fun p' => p'.faults = [] ∧ p'.dests = p.dests) ∧
          (r.polls = false → h.op ≠ 0 → h.op ≠ 0x80 → hdrPoison h = false →
            (h.kind = 6 → post (.fabricResponse h data) fun p' =>
              p'.faults = [⟨x.lane, h.op.toNat, x.ea, !r.isRead, false, 0⟩]) ∧
            (h.kind = 7 → post (.fabricAcknowledgement h) fun p' =>
              p'.faults = [⟨x.lane, h.op.toNat, x.ea, !r.isRead, false, 0⟩])) ∧
          (r.polls = false → r.sent + 2000000 ≤ s.domainClock → post (.atomIndet r.id) fun p' =>
            p'.faults = [⟨x.lane, 0x34, x.ea, !r.isRead, false, 0⟩])) ∧
    (∀ k r, (s.remotes.find? fun r => r.id == k) = some r →
      (r.got = none → r.again = false → r.held = false → r.sent + 500000 ≤ s.domainClock →
        ∃ t, exec (.remoteRetransmit k) s = .next t ∧ t = { s with remotes := t.remotes, out := .packet r.hdr r.data :: s.out } ∧
          t.remotes = s.remotes.map fun x => if x.id = k then { x with again := true } else x) ∧
      (r.got ≠ none ∨ r.again = true ∨ r.held = true ∨ s.domainClock < r.sent + 500000 →
        exec (.remoteRetransmit k) s = .next s) ∧
      (r.got ≠ none ∨ s.domainClock < r.sent + 2000000 → exec (.atomIndet k) s = .next s) ∧
      (r.got = none → r.form = .pref →
        exec (.movedRefusal k) s = .next { s with remotes := s.remotes.filter fun x => x.id != k } ∧
        (r.sent + 2000000 ≤ s.domainClock →
          exec (.atomIndet k) s = .next { s with remotes := s.remotes.filter fun x => x.id != k })) ∧
      (r.got = none → r.form ≠ .pref → r.sent + 2000000 ≤ s.domainClock → r.collected = true → exec (.atomIndet k) s = .next { s with
        remotes := s.remotes.map fun x => if x.id = k then { r with got := some [0x34] } else x }) ∧
      ∀ c e, r.got = none → r.form ≠ .gather → r.form ≠ .pref → s.ctx? r.ctx = some c → c.walk r.ea.toNat = .ok e →
        let key := frameKey (pteLoc e) (ptePeer e) (pteFrame e) + r.ea.toNat % 65536 / 128 * 128 + r.hdr.address.toNat % 128
        (pteMig e = true → exec (.movedRefusal k) s = .next { s with
          remotes := s.remotes.map fun x => if x.id = k then { x with moved := true } else x }) ∧
        ∀ d, pteMig e = false → peerOf key = some d → ∃ t hd, exec (.movedRefusal k) s = .next t ∧
          t = { s with remotes := t.remotes, out := .packet hd r.data :: s.out } ∧ hd.dst = BitVec.ofNat 16 d ∧
          hd.address = BitVec.ofNat 64 (key % regionSize) ∧ hd.kind = r.hdr.kind ∧ hd.reqid = r.hdr.reqid) ∧
    (∀ port peer rt,
      (128 ≤ port ∨ 8192 ≤ peer → exec (.fabricLinkBringup port peer rt) s = .next s) ∧
      (port < 128 → peer < 8192 → (∀ p, s.ports.find? port = some p → p.waiting = []) →
        ∃ t, exec (.fabricLinkBringup port peer rt) s = .next t ∧
          t = { s with ports := t.ports, domain := max s.domain 2, domainRoot := min s.domainRoot peer } ∧
          (∀ k, k ≠ port → t.ports.find? k = s.ports.find? k) ∧ ∃ p, t.ports.find? port = some p ∧ p.up = true ∧
          p.peer = peer ∧ p.roundTrip = rt ∧ (p.reducedRate = true ↔ 300 < rt) ∧ p.keyed = true ∧ p.paused = [] ∧ p.halted = [])) ∧
    (∀ (t : State) port p vc, vc < 4 → t.ports.find? port = some p → (t.ports.map Prod.fst).Nodup →
      (∃ u, exec (.fabricPause port vc) t = .next u ∧ u = { t with ports := u.ports } ∧
        (∀ k, k ≠ port → u.ports.find? k = t.ports.find? k) ∧ u.ports.find? port =
          some { p with paused := if p.paused.contains vc then p.paused else p.paused ++ [vc] }) ∧
      (∃ u, exec (.fabricResume port vc) t = .next u ∧ u = { t with ports := u.ports, out := u.out } ∧
        (∀ k, k ≠ port → u.ports.find? k = t.ports.find? k) ∧
        u.ports.find? port = some { p with
          paused := p.paused.filter fun v => v != vc, waiting := p.waiting.filter fun x => x.1.flags.toNat % 4 != vc } ∧
        u.out = ((p.waiting.filter fun x => x.1.flags.toNat % 4 == vc).map fun x => Output.packet x.1 x.2).reverse ++ t.out) ∧
      ∃ u, exec (.linkLevelRetry port) t = .next u ∧ u = { t with ports := u.ports, out := .linkRetry port :: t.out } ∧
        (∀ k, k ≠ port → u.ports.find? k = t.ports.find? k) ∧ u.ports.find? port = some { p with retries := p.retries + 1 }) ∧
    (∀ ns, let follows : Bool := s.fabricUp && !s.timeRoot
      (follows = false → exec (.clockSync ns) s = .next s ∧ exec .syncLost s = .next s) ∧
      (follows = true → (∀ r ∈ s.remotes, r.held = false) → exec (.clockSync ns) s =
        .next { s with lastSync := s.domainClock, syncLost := false, clockBehind := (ns : Int) - s.domainClock }) ∧
      (follows = true → exec .syncLost s =
        .next (if s.lastSync + 100000000 ≤ s.domainClock then { s with syncLost := true } else s)))

/-- R223, R240, R277, R288 to R291, R300, R307, R308: reads and writes of the host reach the device memory of ordinary
contexts alone, the mailbox, the notify windows and the host's own memory, and wait while a write to a line waits for a snoop;
back-invalidation sends dirty bytes home and
performs the writes that waited; links train at the rates and widths the manual lists.
What the manual leaves open here is the model's choice: log entries 42, 45, 46. -/
def Obligations.HostAccessesAndSnoops : Prop :=
  ∀ (s : State) (port fn addr : Nat),
    (∀ rate width,
      let new : HostPort := { (s.hostPorts.find? port).getD HostPort.fresh with up := true, rate := rate, width := width }
      (port ≤ 1 → rate ∈ [25, 50, 80, 160, 320, 640] → width ∈ [4, 8, 16] → exec (.hostLinkTraining port rate width) s =
        .next { s with hostPorts := s.hostPorts.insert port new }) ∧
      (1 < port ∨ rate ∉ [25, 50, 80, 160, 320, 640] ∨ width ∉ [4, 8, 16] →
        exec (.hostLinkTraining port rate width) s = .next s)) ∧
    ((s.hostPorts.find? port).any HostPort.up = true → s.bringUp = 0 → s.resetDue = false →
      let owned (n : Nat) (b : Bool) : Prop := ∀ l ∈ hostLines addr n, s.hostMay (l / 512) = b
      let still (n : Nat) : Prop := ∀ l ∈ hostLines addr n, s.movingFrame (l / 512) = false
      let clean (n : Nat) : Prop := ∀ l ∈ hostLines addr n, s.checkBad l = false ∧ s.cohFrame (l / 512) = false
      let free (n : Nat) : Prop := ∀ l ∈ hostLines addr n, s.snooped l = false
      (∀ n tagged, addr < 2 ^ 64 → n ≤ 4096 →
        let reads (o : Output) : Prop := exec (.hostRead port fn addr n tagged) s = .next { s with out := o :: s.out }
        ((s.port port).cxl = false → reads (.hostAbort fn addr)) ∧
        ((s.port port).cxl = true →
          (owned n true → still n → (∃ l ∈ hostLines addr n, s.snooped l = true) → exec (.hostRead port fn addr n tagged) s =
            .next { s with heldHost := s.heldHost ++ [⟨fn, addr, n, tagged⟩] }) ∧
          (owned n true → still n → clean n → free n → (∀ l ∈ hostLines addr n, s.poisoned l = false) →
            reads (if tagged && s.isL then .memData fn addr (s.readBytes addr n) ((hostLines addr n).map s.lineTags)
              else .hostData fn addr (s.readBytes addr n))) ∧
          (owned n true → still n → clean n → free n → (∃ l ∈ hostLines addr n, s.poisoned l = true) → reads (.hostPoison fn addr)) ∧
          (owned n true → (∃ l ∈ hostLines addr n, s.movingFrame (l / 512) = true) → reads (.hostMoved fn addr)) ∧
          ((∃ l ∈ hostLines addr n, s.hostMay (l / 512) = false) → ∃ t, exec (.hostRead port fn addr n tagged) s = .next t ∧
            t = { s with ctxs := t.ctxs, out := t.out } ∧ t.out = .hostAbort fn addr :: s.out))) ∧
      (∀ data poison tags, addr < 2 ^ 64 → data ≠ [] → data.length ≤ 512 → s.copies = [] → s.specs = [] →
        let n := data.length
        let i : Instr := .hostWrite port fn addr data poison tags
        ((s.port port).cxl = false → exec i s = .next s) ∧
        ((s.port port).cxl = true →
          (owned n true → still n → clean n → ∃ t, exec i s = .next t ∧ t.team = s.team ∧ t.others = s.others ∧
            (∀ a, t.readByte a = if addr ≤ a ∧ a < addr + n then data.getD (a - addr) 0 else s.readByte a) ∧
            (poison = true → ∀ l ∈ hostLines addr n, t.poisoned l = true) ∧
            (s.sweepActive = false → ∀ l ∈ hostLines addr n, ∀ g, g < 8 →
              (∃ k, k < 16 ∧ addr ≤ 128 * l + 16 * g + k ∧ 128 * l + 16 * g + k < addr + n) →
              t.tagAt (128 * l + 16 * g) = ((if s.isL then tags.getD 0 else 0) : BitVec 8).getLsbD g)) ∧
          (owned n false → ∃ t, exec i s = .next t ∧ t = { s with ctxs := t.ctxs }))) ∧
      (∀ poison tags,
        (∀ vq, vq < 512 → ∀ data, data.length = 8 →
          exec (.hostWrite port fn (3 * 2 ^ 64 + 8 * vq) data poison tags) s = .next (s.notify fn vq port)) ∧
        (∀ o data, o + data.length ≤ 64 → ∃ t, exec (.hostWrite port 0 (2 * 2 ^ 64 + o) data poison tags) s = .next t ∧
          t = { s with mailArea := t.mailArea } ∧
          ∀ i, t.mailArea.getD i 0 = if o ≤ i ∧ i < o + data.length then data.getD (i - o) 0 else s.mailArea.getD i 0) ∧
        (∀ data, data.length = 4 →
          exec (.hostWrite port 0 (2 * 2 ^ 64 + 0x80) data poison tags) s = mailRun s.mailNow.1 s.mailNow.2 s) ∧
        ∀ key data, s.copies = [] → s.specs = [] → 2 ^ 64 ≤ key → key < 300 * 2 ^ 64 → data ≠ [] → data.length ≤ 512 →
          ∃ t, exec (.hostWrite port fn (2 ^ 70 + key) data poison tags) s = .next t ∧ t.team = s.team ∧ t.others = s.others ∧
            (∀ a, t.readByte a = if key ≤ a ∧ a < key + data.length then data.getD (a - key) 0 else s.readByte a) ∧
            (poison = true → ∀ l ∈ hostLines key data.length, t.poisoned l = true)) ∧
      ∀ key n tagged, s.copies = [] → (∀ l ∈ hostLines key n, s.poisoned l = false) → key < 2 ^ 69 → n ≤ 4096 →
        exec (.hostRead port fn (2 ^ 70 + key) n tagged) s =
          .next { s with out := .hostData fn (2 ^ 70 + key) (s.readBytes key n) :: s.out }) ∧
    (∀ o n tagged, (s.hostPorts.find? port).any HostPort.up = true ∨ s.bringUp ≠ 0 → o < 2 ^ 64 → n ≤ 4096 →
      exec (.hostRead port fn (5 * 2 ^ 64 + o) n tagged) s = .next { s with
        out := .hostData fn (5 * 2 ^ 64 + o) ((List.range n).map fun i => s.configByte fn (o + i)) :: s.out }) ∧
    (∀ n tagged data poison tags, 4096 < n → 512 < data.length →
      exec (.hostRead port fn addr n tagged) s = .next s ∧ exec (.hostWrite port fn addr data poison tags) s = .next s) ∧
    (s.bringUp = 1 → ∀ n tagged data poison tags, addr < 2 ^ 64 → n ≤ 4096 → data.length ≤ 512 →
      let retry : Out := .next { s with out := .hostRetry fn addr :: s.out }
      exec (.hostRead port fn addr n tagged) s = retry ∧ exec (.hostWrite port fn addr data poison tags) s = retry) ∧
    (∀ line, (∃ t, exec (.backInvalidationSnoop line) s = .next t ∧ t.out.head? = some (.snoopDone line) ∧
        ∀ y ∈ t.copies, copyLine y.1 ≠ line) ∧
      (∀ k c, s.copies = [(k, c)] → copyLine k = line → s.specs = [] → ∃ t, exec (.backInvalidationSnoop line) s = .next t ∧
        (∀ i, i < 128 → t.readByte (128 * line + i) = if c.dirty.getLsbD i then (c.data >>> (8 * i)).setWidth 8
          else s.readByte (128 * line + i)) ∧ ∀ a, a / 128 ≠ line → t.readByte a = s.readByte a)) ∧
    ∀ holder line,
      (s.snoops.any (fun x => x.line == line && x.holders.contains holder) = false →
        exec (.backInvalidationResponse holder line) s = .next s) ∧
      ∀ c made bad, s.snoops = [⟨line, [holder], c, made, bad⟩] → s.heldReqs = [] → s.heldHost = [] → s.specs = [] →
        s.copies = [] → ∃ t,
        exec (.backInvalidationResponse holder line) s = .next t ∧ t.snoops = [] ∧ holder ∉ t.sharers.getD line [] ∧
        (c.dirty ≠ 0 → bad = true → t.poisoned line = true) ∧
        (∀ i, i < 128 → t.readByte (128 * line + i) = if c.dirty.getLsbD i then (c.data >>> (8 * i)).setWidth 8
          else s.readByte (128 * line + i)) ∧ ∀ a, a / 128 ≠ line → t.readByte a = s.readByte a

/-- R198, R293, R294, R301 to R304, R307, R453, R460: a TDI runs, fails with its stream and stops; a function's reset and
the loss of its stream kill its contexts and scrub their frames; keys are bound with their counters; extents come and go
with their frames; a task image is accepted by its tag and SEQ; and evidence is reported.
What the manual leaves open here is the model's choice: log entries 44, 47, 48, 66, 67. -/
def Obligations.TrustKeysAndExtents : Prop :=
  ∀ (s : State) (port fn : Nat),
    let tdi := s.tdisp.getD fn .unlocked
    let setTdi (t : State) (x : Tdisp) : Prop := t = { s with tdisp := t.tdisp } ∧
      ∀ f, t.tdisp.getD f .unlocked = if f = fn then x else s.tdisp.getD f .unlocked
    (∀ h, s.hostPorts.find? port = some h → ∃ t, exec (.ideKeyManagement port) s = .next t ∧ t = { s with hostPorts := t.hostPorts } ∧
      t.hostPorts.find? port = some (if h.up then { h with ide := true, ideKeys := true } else h)) ∧
    (0 < fn → fn < 256 → tdi = .unlocked → ∃ t, exec (.tdispRun fn) s = .next t ∧ setTdi t .run) ∧
    (tdi ≠ .unlocked → exec (.tdispRun fn) s = .next s) ∧
    (tdi = .error → ∃ t, exec (.tdispStop fn) s = .next t ∧ setTdi t .unlocked) ∧
    (tdi ≠ .error → exec (.tdispStop fn) s = .next s) ∧
    (∀ n c, (s.ctxs.filter fun x => x.2.function == fn) = [(n, c)] → (s.ctxs.map Prod.fst).Nodup → s.specs = [] →
      s.copies = [] →
      let ended (t : State) : Prop := (∃ c', t.ctx? n = some c' ∧ c'.killed = true) ∧ (∀ g ∈ t.gangs, g.ctx ≠ n) ∧
        ∀ f, t.owner.getD f 0 = n + 1 → ∀ i, i < 65536 → t.readByte (65536 * f + i) = 0
      (∃ t, exec (.functionLevelReset fn) s = .next t ∧ ended t ∧ t.tdisp.getD fn .unlocked = .unlocked) ∧
      ((s.hostPorts.find? port).any HostPort.ide = true → s.tdisp = [(fn, .run)] → c.confidential = true → c.killed = false →
        ∃ t, exec (.ideStreamLoss port) s = .next t ∧ ended t ∧ t.tdisp.getD fn .unlocked = .error ∧
          (t.hostPorts.find? port).any HostPort.ide = false)) ∧
    ((s.hostPorts.find? port).any HostPort.ide = false → exec (.ideStreamLoss port) s = .next s) ∧
    (∀ id key, fn < 256 → id < 2 ^ 32 → exec (.keySlotBind fn id key) s =
      .next { s with keySlots := s.keySlots.insert id ⟨fn, key, some 0, some 0⟩ }) ∧
    (∀ n x key salt, n < 256 → x < 256 → fn < 256 → ∃ t, exec (.taskKeyInstall n x fn key salt) s = .next t ∧
      t = { s with taskKeys := t.taskKeys } ∧ (∃ k, t.taskKeys.getLast? = some k ∧ k.ctx = n ∧ k.expander = x ∧ k.fn = fn ∧
        k.key = key ∧ k.salt = salt ∧
        ((∀ y ∈ s.taskKeys, y.key ≠ key) → k.sent = 0 ∧ k.accepted = none) ∧
        ∀ y, (s.taskKeys.find? fun y => y.key == key) = some y → k.sent = y.sent ∧ k.accepted = y.accepted) ∧
      ∀ y ∈ t.taskKeys, y.key ≠ key → if s.isL then y.fn = fn → y.ctx = 256 else y.ctx = n → y.expander ≠ x) ∧
    (∀ num first n m, ∃ t, exec (.extentAdd num first n (some m)) s = .next t ∧ t = { s with expReleased := t.expReleased } ∧
      ∀ x, x ∈ t.expReleased ↔ x ∈ s.expReleased ∧ ¬ (x.1 = m ∧ x.2 < first + 4096 ∧ first < x.2 + 4096)) ∧
    (∀ num m first, s.merges = [] → s.snoops = [] → s.copies = [] → (∀ w ∈ s.wgs, w.queue = []) →
      (m, first) ∉ s.expReleased → ∃ t, exec (.extentRelease num (some (m, first))) s = .next t ∧
        t = { s with mem := t.mem, tags := t.tags, poison := t.poison, checkErr := t.checkErr,
                     expReleased := s.expReleased ++ [(m, first)] } ∧
        let base := frameKey 2 m first
        ∀ a, t.readByte a = if base ≤ a ∧ a < base + 268435456 then 0 else s.readByte a) ∧
    (∀ num first n, (s.isL = false → exec (.extentAdd num first n) s = .next s) ∧
      (s.isL = true → num < 65536 → first + 4096 ≤ 24182784 → (s.ctx? n).isSome = true →
        (∀ i, i < 4096 → s.owner.getD (first + i) 0 = 0) → s.extents = [] → ∃ t, exec (.extentAdd num first n) s = .next t ∧
        t = { s with extents := [(num, ⟨n, first, false, false⟩)], owner := t.owner } ∧
        ∀ f, t.owner.getD f 0 = if first ≤ f ∧ f < first + 4096 then n + 1 else s.owner.getD f 0)) ∧
    (∀ num x c, s.extents.find? num = some x → s.ctx? x.ctx = some c →
      let mine (f : Nat) : Prop := x.first ≤ f ∧ f < x.first + 4096
      (x.released = true → exec (.extentRelease num) s = .next s) ∧
      (x.released = false → s.merges = [] → s.snoops = [] → s.specs = [] → (∀ w ∈ s.wgs, w.queue = []) →
        ∃ t, exec (.extentRelease num) s = .next t ∧ t.extents.find? num = some { x with released := true } ∧
          (∀ a, t.readByte a = if mine (a / 65536) then 0 else s.readByte a) ∧
          (∀ f, t.owner.getD f 0 = if x.first ≤ f ∧ f < x.first + 4096 then 0 else s.owner.getD f 0) ∧
          ∃ c', t.ctx? x.ctx = some c' ∧ (∀ f, f ∈ c'.pool ↔ f ∈ c.pool ∧ ¬ mine f) ∧
            ∀ f, f ∈ c'.reserve ↔ f ∈ c.reserve ∧ ¬ mine f)) ∧
    (∀ img, img.length = 128 → s.isL = true →
      let seq := fieldAt img 96 8
      let answer (st : Nat) : Prop :=
        exec (.taskImageArrival fn img) s = .next { s with out := .taskStatus fn seq st :: s.out }
      (s.taskKeyOf fn = none → answer 8) ∧
      ∀ k, s.taskKeyOf fn = some k →
        (taskTag k.key k.salt.toNat seq img ≠ img.drop 112 → answer 8) ∧ (∀ n, k.accepted = some n → seq ≤ n → answer 8) ∧
        ∀ slot q c, taskTag k.key k.salt.toNat seq img = img.drop 112 → (∀ n, k.accepted = some n → n < seq) →
          s.slotOf k.ctx 0 = some slot → s.queue? slot = some q → s.ctx? k.ctx = some c → c.killed = false →
          ∃ t, exec (.taskImageArrival fn img) s = .next t ∧ t = { s with taskKeys := t.taskKeys, queues := t.queues, partitions := t.partitions } ∧
            (∀ y ∈ t.taskKeys, y.key = k.key → y.accepted = some seq) ∧
            t.queue? slot = some { q with inlet := q.inlet ++ [(launchImage img, some seq)] }) ∧
    (∀ slot num st q p, s.queue? slot = some q → p ∈ q.packets → p.num = num → p.wait = .task →
      exec (.taskStatusReturn slot num st) s = .next (s.setWait slot num (.done st 0))) ∧
    ∀ nonce, exec (.spdmRequest fn nonce) s =
      .next { s with out := .report (s.evidence fn nonce) (Config.signature (s.evidence fn nonce)) :: s.out }

/-- R25, R34, R270, R278, R280 to R282, R285, R286, R307: an uncorrectable error poisons, clears or traps as its structure's row
says and changes no byte at any home; timing detections are counted, and a second one on the replay contains the team; the
Transit pair stops and restarts, and its second mismatch freezes every context; a watchdog, a lost expander, a viral
indication and a lost host link reach the contexts they concern.
What the manual leaves open here is the model's choice: log entries 29, 30, 31, 52, 71, 102. -/
def Obligations.ErrorsAreContained : Prop :=
  ∀ s : State,
    (∀ l, exec (.uncorrectableError (.line l)) s = .next (s.setPoison l true)) ∧
    (∀ cl l, exec (.uncorrectableError (.clusterLine cl l)) s = .next (if (s.copy? cl l).isSome then
      { s with copies := s.copies.erase (copyKey cl l), poison := s.poison.put false l true } else s)) ∧
    (∀ b, ∃ t, exec (.uncorrectableError (.checkRegion b)) s = .next t ∧ t = { s with poison := t.poison } ∧
      ∀ l, t.poisoned l = (s.poisoned l || decide (32 * b ≤ l ∧ l < 32 * b + 32))) ∧
    (∀ n level va, exec (.uncorrectableError (.pageTable n level va)) s = .next s) ∧
    (∀ b, s.specs = [] → ∃ t, exec (.uncorrectableError (.tagRegion b)) s = .next t ∧ t.mem = s.mem ∧
      (∀ k, t.tagAt k = if k / 16384 = b then false else s.tagAt k) ∧ t.team = s.team ∧ t.others = s.others ∧
      ∀ n c, s.owner.find? (b / 4) = some (n + 1) → n < 256 → s.ctx? n = some c → Instr.containmentFreeze n ∈ t.agenda ∧
        ∃ c' r, t.ctx? n = some c' ∧ c'.evtDue = c.evtDue ++ [r] ∧ r.kind = 1 ∧ r.cause = 0x30 ∧
          r.address = BitVec.ofNat 64 (16384 * b)) ∧
    (∀ n c page, s.ctx? n = some c → ∃ t, exec (.uncorrectableError (.leaf n page)) s = .next t ∧
      t = { s with ctxs := t.ctxs, agenda := s.agenda ++ [.containmentFreeze n] } ∧
      ∃ c' r, t.ctx? n = some c' ∧ c'.evtDue = c.evtDue ++ [r] ∧ r.kind = 1 ∧ r.cause = 0x30 ∧
        r.address = BitVec.ofNat 64 (65536 * page)) ∧
    (∀ l, s.copies = [] → ∃ t, exec (.uncorrectableError (.sharers l)) s = .next t ∧
      ((s.sharers.map Prod.fst).Nodup → t = { s with oracle := t.oracle, snoops := t.snoops, out := t.out } ∧
        (s.cohFrame (l / 512) = true → l * 128 < regionSize → s.sharers.getD l [] ≠ [] → s.snooped l = false →
          (∃ x ∈ t.snoops, x.line = l ∧ x.holders = s.sharers.getD l [] ∧ x.held.dirty = 0) ∧
          ∀ h ∈ s.sharers.getD l [], Output.snoop h l ∈ t.out))) ∧
    (∀ l, s.cohFrame (l / 512) = true → l * 128 < regionSize → ∃ t, exec (.uncorrectableError (.sharers l)) s = .next t ∧
      ∀ x ∈ t.copies, copyLine x.1 ≠ l) ∧
    (∀ k m u, s.merges = [m] → m.id = k → s.team? m.team = some u → (s.teams.map Team.id).Nodup → ∃ t u',
      exec (.uncorrectableError (.mergeBuffer k)) s = .next t ∧ t.merges = [] ∧ t.mem = s.mem ∧ t.team? m.team = some u' ∧
      u' = { u with stalled := false, pending := u.pending.map fun p => if p.id = m.pendingId then
        { p with waits := p.waits.filter fun w => w != mergeReq k,
                 faults := p.faults ++ [⟨m.lane, 0x30, BitVec.ofNat 64 (m.ea.toNat / 128 * 128), true, false, 0⟩] } else p }) ∧
    (∀ i u c, s.team? i = some u → (s.teams.map Team.id).Nodup → i.ticket ≠ 0 → s.specOf u = none → s.ctx? u.ctx = some c →
      ∃ t u', exec (.uncorrectableError (.coreState i)) s = .next t ∧ t.team? i = some u' ∧ u'.run = .contained ∧
        Instr.containmentFreeze u.ctx ∈ t.agenda ∧ ∃ c' r, t.ctx? u.ctx = some c' ∧ c'.evtDue = c.evtDue ++ [r] ∧
          r.cause = 0x30 ∧ r.address = 0 ∧ r.pc = u.pc) ∧
    (∀ core l, ∃ t, exec (.l1ParityError core l) s = .next t ∧
      (∀ k, t.parityCount.getD k 0 = if k = core then s.parityCount.getD k 0 + 1 else s.parityCount.getD k 0) ∧
      (s.copies.find? (l1Key core l) = none → t = { s with parityCount := t.parityCount }) ∧
      ∀ c, s.copies = [(l1Key core l, c)] → c.dirty = 0 → t.mem = s.mem ∧ t.team = s.team ∧ t.others = s.others ∧
        (core < 400 → l * 128 / regionSize < 300 → s.checkBad l = false → s.poisoned l = false → ∃ c',
          t.copies.find? (l1Key core l) = some c' ∧ c'.dirty = 0 ∧
          ∀ i, i < 128 → (c'.data >>> (8 * i)).setWidth 8 = s.readByte (128 * l + i))) ∧
    (∀ i u stage, s.team? i = some u → u.run = .ready → i.ticket ≠ 0 → stage ≤ 6 →
      let cl := s.clusterOfTeam u
      let old := (s.timingStat.getD cl 0).toNat
      (i ∉ s.timingArmed → ∃ t, exec (.timingDetection i stage) s = .next t ∧
        t = { s with timingArmed := s.timingArmed ++ [i], timingStat := t.timingStat } ∧
        (t.timingStat.getD cl 0).toNat = old / 2 ^ 32 * 2 ^ 32 + min (old % 2 ^ 32 + 1) (2 ^ 32 - 1)) ∧
      ∀ c, i ∈ s.timingArmed → s.team = u → u.pending = [] → u.saved = none → s.specOf u = none → s.ctx? u.ctx = some c →
        s.queueOf u = false → ∃ t, exec (.timingDetection i stage) s = .next t ∧ t.timingArmed = s.timingArmed.filter (fun x => x != i) ∧
          (t.timingStat.getD cl 0).toNat = min (old / 2 ^ 32 + 1) (2 ^ 32 - 1) * 2 ^ 32 + old % 2 ^ 32 ∧
          t.team.run = .contained ∧ t.team.trap.rec2.toNat / 2 ^ 32 % 4096 = stage ∧ t.team.v = u.v ∧ t.team.s = u.s ∧
          t.team.pc = u.pc) ∧
    (s.transitStopped = true → exec .transitMismatch s = .next s) ∧
    (s.transitStopped = false → (∀ x, s.lastMismatch = some x → 2100000000 < s.timebase - x) → exec .transitMismatch s =
      .next { s with transitStopped := true, lastMismatch := some s.timebase }) ∧
    (∀ x, s.transitStopped = false → s.lastMismatch = some x → s.timebase - x ≤ 2100000000 → s.deviceFault = false →
      ∃ t, exec .transitMismatch s = .next t ∧ t.transitStopped = true ∧ t.deviceFault = true ∧
        ∀ n c, s.ctx? n = some c → ∃ c', t.ctx? n = some c' ∧ c'.frozen = true) ∧
    (s.chosen = [] → (∀ x ∈ s.ctxs, x.2.saving = false) → s.closing = [] →
      exec .transitRestart s = .next { s with transitStopped := false }) ∧
    (∀ n a, s.chosen = [(n, a)] →
      let u : State := { s with transitStopped := false, chosen := [] }
      u.choiceRefused n a = false → (∀ x ∈ (u.choose n a).ctxs, x.2.saving = false) → (u.choose n a).closing = [] →
        exec .transitRestart s = .next (u.choose n a)) ∧
    (∀ k l c, (s.launches.find? fun l => l.id == k) = some l → s.ctx? l.ctx = some c →
      (s.overdue l = false → exec (.watchdog k) s = .next s) ∧
      (l.overran = false → l.spec = none → c.watchdog ≠ 0 → c.watchdog * 2100000 < s.timebase - l.started →
        ∃ t, exec (.watchdog k) s = .next t ∧
          t = { s with launches := t.launches, ctxs := t.ctxs, agenda := s.agenda ++ [.containmentFreeze l.ctx] } ∧
          (∀ m ∈ t.launches, m.id = k → m.overran = true) ∧
          ∃ c' r, t.ctx? l.ctx = some c' ∧ c'.evtDue = c.evtDue ++ [r] ∧ r.kind = 1 ∧ r.cause = 0x37 ∧ r.tag = l.tag ∧
            r.number = l.number)) ∧
    (∀ n, ∀ i ∈ [Instr.expLinkDown n, .expanderTimeout n],
      (s.expAttached.contains n = false ∨ s.expLost.contains n = true → exec i s = .next s) ∧
      (s.expAttached.contains n = true → s.expLost.contains n = false → ∃ t, exec i s = .next t ∧
        t.expLost = s.expLost ++ [n] ∧ (∀ x ∈ t.copies, copyLine x.1 * 128 / regionSize ≠ 2 + n) ∧
        (∀ slot q, s.queue? slot = some q → ∃ q', t.queue? slot = some q' ∧ q'.packets = q.packets.map fun p =>
          if p.wait == .task && fieldAt p.image 46 1 == n then { p with wait := .done 7 0 } else p) ∧
        (∀ i u p f, s.team? i = some u → (s.teams.map Team.id).Nodup → u.pending = [p] → p.far = [(n, f)] →
          (∀ g ∈ p.faults, g.lane ≠ f.lane) → s.merges = [] →
          ∃ u' p', t.team? i = some u' ∧ u'.pending = [p'] ∧ p'.far = [] ∧ p'.faults = p.faults ++ [f]) ∧
        ∀ m ∈ t.merges, m.key / regionSize ≠ 2 + n)) ∧
    (∀ n, (255 < n → exec (.expanderAdd n) s = .next s) ∧
      (n ≤ 255 → ∃ t, exec (.expanderAdd n) s = .next t ∧ t = { s with expAttached := t.expAttached, expLost := t.expLost } ∧
        n ∈ t.expAttached ∧ n ∉ t.expLost ∧ ∀ k, k ≠ n → (k ∈ t.expAttached ↔ k ∈ s.expAttached) ∧
          (k ∈ t.expLost ↔ k ∈ s.expLost))) ∧
    (∀ fn, ∃ t, exec (.cxlViralIndication fn) s = .next t ∧ ∀ n c, s.ctx? n = some c → c.function = fn → c.killed = false →
      ∃ c', t.ctx? n = some c' ∧ c'.viral = true) ∧
    ∀ port h, s.hostPorts.find? port = some h → h.ide = false →
      (h.up = false → exec (.linkSurpriseLoss port) s = .next s) ∧
      (h.up = true → (∀ x ∈ s.hostPorts, x.1 ≠ port → x.2.up = false) → ∃ t, exec (.linkSurpriseLoss port) s = .next t ∧
        t = { s with hostPorts := t.hostPorts, copies := t.copies, poison := t.poison, oracle := t.oracle } ∧
        t.hostPorts.find? port = some { h with up := false } ∧
        (∀ x ∈ s.copies, x.2.dirty ≠ 0 → 1 ≤ copyLine x.1 * 128 / regionSize → copyLine x.1 * 128 / regionSize < 300 →
          t.copies.find? x.1 = none ∧ t.poisoned (copyLine x.1) = true) ∧
        ∀ x ∈ s.copies, x.2.dirty = 0 → (s.copies.map Prod.fst).Nodup → x ∈ t.copies)

/-- R18 to R20, R284, R306 to R309: bring-up tests, repairs and trains, and stops at its first failure; a warm reset keeps the
memory of the host and of expanders alone; and the power states follow their events: retention writes modified shared-coherent
lines back, and a cluster goes off once its gangs have streamed out.
What the manual leaves open here is the model's choice: log entries 49, 50, 51, 104. -/
def Obligations.PowerAndBringUp : Prop :=
  ∀ s : State,
    (∀ ok failed homes mem, s.bringUp ≠ 1 → s.resetDue = false → exec (.bringUp ok failed homes mem) s = .next s) ∧
    (s.bringUp = 1 ∨ s.resetDue = true → ∀ failed homes mem,
      exec (.bringUp false failed homes mem) s = .next { s.warmReset with bringUp := 2 } ∧
      (repairFor failed = none → ∃ t, exec (.bringUp true failed homes mem) s = .next t ∧ t.bringUp = 3) ∧
      ∀ fix, repairFor failed = some fix → ∃ t, exec (.bringUp true failed homes mem) s = .next t ∧
        t.bringUp = (if homes then (if mem then 0 else 5) else 4) ∧ t.mem = s.warmReset.mem ∧ t.ctxs = [] ∧ t.gangs = [] ∧
        (∀ i, i < 80 → t.clusterMap.getD i 0 = match fix.find? fun x => x.1 == i with
          | some x => BitVec.ofNat 32 (2 ^ 31 + 80 + x.2)
          | none => BitVec.ofNat 32 i) ∧
        (∀ i, i < 84 → (t.stestPass.getD (i / 64) 0).getLsbD (i % 64) = !failed.contains i) ∧
        (homes = true → t.stestPass.getD 2 0 = BitVec.allOnes 64) ∧
        (homes = true → mem = true → t.deviceNumber < 8192 ∧ ∀ k, k < 2 → ∃ h, t.hostPorts.find? k = some h ∧ h.up = true ∧
          h.rate ∈ [25, 50, 80, 160, 320, 640] ∧ h.width ∈ [4, 8, 16] ∧ h.ide = false) ∧
        (homes = true → mem = true → (∀ x ∈ t.ports, x.2.up = true ∧ x.2.keyed = true) ∧
          ∀ p ∈ t.tableFree, t.owner.getD (p / 4) 0 = 257)) ∧
    (∀ a, s.warmReset.readByte a = if 1 ≤ a / regionSize ∧ a / regionSize < 300 then s.readByte a else 0) ∧
    (s.warmReset.ctxs = [] ∧ s.warmReset.keySlots = [] ∧ s.warmReset.taskKeys = [] ∧ s.warmReset.copies = [] ∧
      s.warmReset.bringUp = 1 ∧ s.warmReset.expLost = s.expLost) ∧
    (∀ cl,
      (79 < cl ∨ s.clusterPower.getD cl .running ≠ .running ∨ s.slotted cl true = true →
        exec (.clusterRetention cl) s = .next s) ∧
      (cl ≤ 79 → s.clusterPower.getD cl .running = .running → s.slotted cl true = false → s.copies = [] →
        ∃ t, exec (.clusterRetention cl) s = .next t ∧ t = { s with clusterPower := t.clusterPower } ∧
          ∀ k, t.clusterPower.getD k .running = if k = cl then .retention else s.clusterPower.getD k .running) ∧
      (cl ≤ 79 → s.clusterPower.getD cl .running = .running → s.slotted cl true = false → s.specs = [] →
        ∃ t, exec (.clusterRetention cl) s = .next t ∧ t.clusterPower.getD cl .running = .retention ∧ t.cores = s.cores ∧
          (∀ x c, t.copies.find? x = some c → copyCluster x = cl → s.cohAny (copyLine x) = true → c.dirty = 0) ∧
          ∀ l c, l < 2 ^ 128 → s.copies = [(copyKey cl l, c)] → s.cohAny l = true → injEn s.injCtl = false →
            (∀ i, i < 128 → t.readByte (128 * l + i) = if c.dirty.getLsbD i then (c.data >>> (8 * i)).setWidth 8
              else s.readByte (128 * l + i)) ∧ ∀ a, a / 128 ≠ l → t.readByte a = s.readByte a) ∧
      (79 < cl → exec (.clusterOff cl) s = .next s) ∧
      (cl ≤ 79 → s.gangsIn cl = [] → s.specs = [] → ∃ t, exec (.clusterOff cl) s = .next t ∧
        (∀ k, t.clusterPower.getD k .running = if k = cl then .off else s.clusterPower.getD k .running) ∧
        (∀ x ∈ t.copies, copyCluster x.1 ≠ cl) ∧ t.gangs = s.gangs ∧ t.team = s.team ∧ t.others = s.others) ∧
      (let rest := s.closing.filter fun c => c != cl
       let stays (g : Gang) : Prop := g.phase = .entering ∨ g.spec ≠ none ∨ ∃ c, s.ctx? g.ctx = some c ∧ c.frozen = true
       cl ≤ 79 → s.gangsIn cl ≠ [] →
        (s.transitStopped = true → exec (.clusterOff cl) s = .next { s with closing := rest ++ [cl] }) ∧
        (s.transitStopped = false → (∃ g ∈ s.gangsIn cl, stays g) → exec (.clusterOff cl) s = .next { s with closing := rest }) ∧
        (s.transitStopped = false → (∀ g ∈ s.gangsIn cl, ¬ stays g) → ∃ t, exec (.clusterOff cl) s = .next t ∧
          t = { s with gangs := t.gangs, nextOrder := s.nextOrder + 1, closing := rest ++ [cl] } ∧
          (∀ g ∈ s.gangsIn cl, ∀ g' ∈ t.gangs, g'.ticket = g.ticket → g'.phase = .leaving) ∧
          ∀ g ∈ s.gangs, (∀ x ∈ s.gangsIn cl, x.ticket ≠ g.ticket) → g ∈ t.gangs)) ∧
      (cl ≤ 79 → s.closing = [cl] → s.gangsIn cl = [] →
        s.cycle.clusterPower.getD cl .running = .off ∧ s.cycle.closing = [])) ∧
    (s.gangs = [] → s.specs = [] → ∃ t, exec .deviceIdle s = .next t ∧
      (∀ k, k < 80 → t.clusterPower.getD k .running = .off) ∧ t.pstate = (if s.pstate = 2 then 2 else 1) ∧
      ∀ x ∈ t.copies, 80 ≤ copyCluster x.1) ∧
    (∀ n p, s.partitions.find? n = some p →
      (∃ t, exec (.wake n) s = .next t ∧
        t = { s with partitions := t.partitions, clusterPower := t.clusterPower, closing := t.closing,
                     pstate := if s.pstate = 1 then 0 else s.pstate } ∧
        (∀ k, k ∈ t.closing ↔ k ∈ s.closing ∧ k ≠ 80 ∧ k ∉ p.clusters) ∧
        t.partitions.find? n = some { p with power := .running } ∧
        ∀ k, t.clusterPower.getD k .running = if k ∈ p.clusters then .running else s.clusterPower.getD k .running) ∧
      ∃ t, exec (.clockGating n) s = .next t ∧ t = { s with partitions := t.partitions } ∧
        (∀ k, k ≠ n → t.partitions.find? k = s.partitions.find? k) ∧
        t.partitions.find? n = some (if p.power = .running then { p with power := .gated } else p))
end

