-- ==== Sys2Proof/Laws/Store.lean ====
section
/-!
SUPPORT. Laws/Store.lean: what a read of a finite map gives after each operation on it, and that each operation keeps the
canonical form.
-/

namespace Sys2Proof.Machine.SMap

variable {α : Type}

@[simp] theorem find_nil (n : Nat) : find? ([] : SMap α) n = none := rfl

theorem find_cons (k : Nat) (x : α) (m : SMap α) (n : Nat) :
    find? ((k, x) :: m) n = if n = k then some x else find? m n := rfl

@[simp] theorem find_insert_self (m : SMap α) (n : Nat) (x : α) : (m.insert n x).find? n = some x := by
  induction m with
  | nil => simp [insert, find_cons]
  | cons h t ih =>
    obtain ⟨k, y⟩ := h
    simp only [insert]
    split
    · simp [find_cons]
    · split
      · simp [find_cons]
      · simp_all [find_cons]

theorem find_insert_of_ne (m : SMap α) {n k : Nat} (x : α) (h : k ≠ n) : (m.insert n x).find? k = m.find? k := by
  induction m with
  | nil => simp [insert, find_cons, h]
  | cons hd t ih =>
    obtain ⟨j, y⟩ := hd
    simp only [insert]
    split
    · simp [find_cons, h]
    · split
      · subst_vars; simp [find_cons, h]
      · simp [find_cons, ih]

@[simp] theorem find_erase_self (m : SMap α) (n : Nat) : (m.erase n).find? n = none := by
  induction m with
  | nil => rfl
  | cons hd t ih =>
    obtain ⟨j, y⟩ := hd
    simp only [erase, List.filter_cons] at *
    split
    · rename_i h
      have : n ≠ j := fun e => by simp [e] at h
      simp [find_cons, this, ih]
    · exact ih

theorem find_erase_of_ne (m : SMap α) {n k : Nat} (h : k ≠ n) : (m.erase n).find? k = m.find? k := by
  induction m with
  | nil => rfl
  | cons hd t ih =>
    obtain ⟨j, y⟩ := hd
    simp only [erase, List.filter_cons] at *
    split
    · simp [find_cons, ih]
    · simp_all [find_cons]

@[simp] theorem getD_put_self [DecidableEq α] (d : α) (m : SMap α) (n : Nat) (x : α) :
    (m.put d n x).getD n d = x := by
  unfold put getD
  split <;> simp_all

theorem getD_put_of_ne [DecidableEq α] (d e : α) (m : SMap α) {n k : Nat} (x : α) (h : k ≠ n) :
    (m.put d n x).getD k e = m.getD k e := by
  unfold put getD
  split <;> simp [find_erase_of_ne, find_insert_of_ne, h]

theorem getD_put [DecidableEq α] (d : α) (m : SMap α) (n k : Nat) (x : α) :
    (m.put d n x).getD k d = if k = n then x else m.getD k d := by
  split
  · subst_vars; simp
  · exact getD_put_of_ne d d m x ‹_›

theorem find_modify (m : SMap α) (n k : Nat) (f : α → α) :
    (m.modify n f).find? k = if k = n then (m.find? k).map f else m.find? k := by
  induction m with
  | nil => simp [modify]
  | cons hd t ih =>
    obtain ⟨j, y⟩ := hd
    simp only [modify, List.map_cons] at *
    by_cases hj : j = n <;> by_cases hk : k = j <;> simp_all [find_cons]

@[simp] theorem find_modify_self (m : SMap α) (n : Nat) (f : α → α) : (m.modify n f).find? n = (m.find? n).map f := by
  simp [find_modify]

theorem find_modify_of_ne (m : SMap α) {n k : Nat} (f : α → α) (h : k ≠ n) : (m.modify n f).find? k = m.find? k := by
  simp [find_modify, h]

/-! ## The canonical form -/

variable [DecidableEq α] {d : α}

/-- The canonical form as a property of pairs: keys strictly rise and no value is the default. -/
theorem wf_iff (m : SMap α) :
    m.wf d = true ↔ m.Pairwise (fun x y => x.1 < y.1) ∧ ∀ x ∈ m, x.2 ≠ d := by
  induction m with
  | nil => simp [wf]
  | cons h t ih =>
    obtain ⟨k, x⟩ := h
    cases t with
    | nil => simp [wf]
    | cons h' t' =>
      obtain ⟨k', x'⟩ := h'
      simp only [wf, Bool.and_eq_true, decide_eq_true_eq, bne_iff_ne, ih]
      constructor
      · rintro ⟨⟨hk, hx⟩, hp, hd⟩
        refine ⟨List.pairwise_cons.2 ⟨?_, hp⟩, ?_⟩
        · intro y hy
          rcases List.mem_cons.1 hy with rfl | hy
          · exact hk
          · exact lt_trans hk ((List.pairwise_cons.1 hp).1 y hy)
        · intro y hy
          rcases List.mem_cons.1 hy with rfl | hy
          · exact hx
          · exact hd y hy
      · rintro ⟨hp, hd⟩
        have h1 := List.pairwise_cons.1 hp
        exact ⟨⟨h1.1 (k', x') (by simp), hd (k, x) (by simp)⟩, h1.2, fun y hy => hd y (by simp [hy])⟩

theorem wf_filter {m : SMap α} (p : Nat × α → Bool) (h : m.wf d = true) : wf d (m.filter p) = true := by
  rw [wf_iff] at *
  exact ⟨h.1.filter p, fun x hx => h.2 x (List.mem_of_mem_filter hx)⟩

theorem wf_erase {m : SMap α} (n : Nat) (h : m.wf d = true) : (m.erase n).wf d = true := wf_filter _ h

omit [DecidableEq α] in
theorem mem_insert {m : SMap α} {n : Nat} {x : α} {y : Nat × α} (h : y ∈ m.insert n x) : y = (n, x) ∨ y ∈ m := by
  induction m with
  | nil => simpa [insert] using h
  | cons hd t ih =>
    obtain ⟨j, z⟩ := hd
    simp only [insert] at h
    split at h
    · simpa using h
    · split at h
      · rcases List.mem_cons.1 h with h | h
        · exact .inl h
        · exact .inr (by simp [h])
      · rcases List.mem_cons.1 h with h | h
        · exact .inr (by simp [h])
        · rcases ih h with h | h
          · exact .inl h
          · exact .inr (by simp [h])

theorem wf_insert {m : SMap α} (n : Nat) {x : α} (hx : x ≠ d) (h : m.wf d = true) : (m.insert n x).wf d = true := by
  induction m with
  | nil => simp [insert, wf, hx]
  | cons hd t ih =>
    obtain ⟨j, z⟩ := hd
    have h0 := (wf_iff _).1 h
    have ht : wf d t = true := (wf_iff t).2 ⟨(List.pairwise_cons.1 h0.1).2, fun y hy => h0.2 y (by simp [hy])⟩
    have hlt := (List.pairwise_cons.1 h0.1).1
    simp only [insert]
    split
    · rw [wf_iff]
      refine ⟨List.pairwise_cons.2 ⟨?_, h0.1⟩, ?_⟩
      · intro y hy
        rcases List.mem_cons.1 hy with rfl | hy
        · assumption
        · exact lt_trans ‹_› (hlt y hy)
      · intro y hy
        rcases List.mem_cons.1 hy with rfl | hy
        · exact hx
        · exact h0.2 y hy
    · split
      · subst_vars
        rw [wf_iff]
        refine ⟨List.pairwise_cons.2 ⟨hlt, (List.pairwise_cons.1 h0.1).2⟩, ?_⟩
        intro y hy
        rcases List.mem_cons.1 hy with rfl | hy
        · exact hx
        · exact h0.2 y (by simp [hy])
      · have hi := (wf_iff _).1 (ih ht)
        rw [wf_iff]
        refine ⟨List.pairwise_cons.2 ⟨?_, hi.1⟩, ?_⟩
        · intro y hy
          rcases mem_insert hy with rfl | hy
          · simp only; omega
          · exact hlt y hy
        · intro y hy
          rcases List.mem_cons.1 hy with rfl | hy
          · exact h0.2 _ (by simp)
          · exact hi.2 y hy

theorem wf_put {m : SMap α} (n : Nat) (x : α) (h : m.wf d = true) : (m.put d n x).wf d = true := by
  unfold put
  split
  · exact wf_erase n h
  · exact wf_insert n ‹_› h

end Sys2Proof.Machine.SMap
end

