-- ==== Sys2Proof/Laws/Team.lean ====
section
/-!
SUPPORT. Laws/Team.lean: what a read of a team's registers gives after each write of them, and the lanes of a mask.
-/

namespace Sys2Proof.Machine

/-! ## Masks -/

theorem foldl_mask (f : Nat → Bool) (w : Nat) :
    (List.range w).foldl (fun acc l => if f l then acc + 2 ^ l else acc) 0 < 2 ^ w ∧
      ∀ l, ((List.range w).foldl (fun acc l => if f l then acc + 2 ^ l else acc) 0).testBit l = (decide (l < w) && f l) := by
  induction w with
  | zero => simp
  | succ w ih =>
    obtain ⟨hlt, hbit⟩ := ih
    rw [List.range_succ, List.foldl_append]
    simp only [List.foldl_cons, List.foldl_nil]
    generalize (List.range w).foldl (fun acc l => if f l then acc + 2 ^ l else acc) 0 = a at hlt hbit
    by_cases hf : f w
    · simp only [hf, if_true]
      refine ⟨by rw [pow_succ]; omega, fun l => ?_⟩
      rw [Nat.add_comm]
      by_cases hl : l = w
      · subst hl; simp [Nat.testBit_two_pow_add_eq, hbit, hf]
      · rcases Nat.lt_or_gt_of_ne hl with h | h
        · rw [Nat.testBit_two_pow_add_gt h, hbit]
          simp [h, show l < w + 1 by omega]
        · have hb : 2 ^ w + a < 2 ^ l := lt_of_lt_of_le (by rw [pow_succ]; omega : 2 ^ w + a < 2 ^ (w + 1))
            (Nat.pow_le_pow_right (by omega) h)
          rw [Nat.testBit_lt_two_pow hb]
          simp [show ¬ l < w + 1 by omega]
    · simp only [hf]
      refine ⟨by rw [pow_succ]; simp; omega, fun l => ?_⟩
      simp only [Bool.false_eq_true, if_false, hbit]
      by_cases hl : l = w
      · subst hl; simp [hf]
      · by_cases h : l < w
        · simp [h, show l < w + 1 by omega]
        · simp [h, show ¬ l < w + 1 by omega]

theorem maskOf_getLsbD (w : Nat) (f : Nat → Bool) {l : Nat} (h : l < 1024) :
    (maskOf w f).getLsbD l = (decide (l < w) && f l) := by
  unfold maskOf
  rw [BitVec.getLsbD_ofNat, (foldl_mask f w).2 l]
  simp [h]

/-! ## Lane lists -/

theorem getD_mergeLanes {α : Type} {w l : Nat} (h : l < w) (old : Nat → α) (f : Nat → Option α) (d : α) :
    (mergeLanes w old f).getD l d = (f l).getD (old l) := by
  simp [mergeLanes, List.getD_eq_getElem?_getD, h]

/-- The two halves of a double word, put together again. -/
theorem halves_append (x : Dword) : ((x >>> 32).setWidth 32 : Word) ++ (x.setWidth 32 : Word) = x := by
  apply BitVec.eq_of_getLsbD_eq
  intro i hi
  simp only [BitVec.getLsbD_append, BitVec.getLsbD_setWidth, BitVec.getLsbD_ushiftRight]
  by_cases h : i < 32
  · simp [h]
  · have : i - 32 < 32 := by omega
    have e : 32 + (i - 32) = i := by omega
    simp [h, this, e]

/-! ## Vector registers -/

theorem getV_setV_self (t : Team) (r : Nat) (f : Nat → Option Word) {l : Nat} (h : l < t.width) :
    (t.setV r f).getV r l = (f l).getD (t.getV r l) := by
  simp only [Team.getV, Team.setV, SMap.getD_put_self]
  rw [getD_mergeLanes h]; rfl

theorem getV_setV_ne (t : Team) {r q : Nat} (f : Nat → Option Word) (h : q ≠ r) (l : Nat) :
    (t.setV r f).getV q l = t.getV q l := by
  simp only [Team.getV, Team.setV, SMap.getD_put_of_ne _ _ _ _ h]

@[simp] theorem setV_width (t : Team) (r : Nat) (f : Nat → Option Word) : (t.setV r f).width = t.width := rfl
@[simp] theorem setV64_width (t : Team) (r : Nat) (f : Nat → Option Dword) : (t.setV64 r f).width = t.width := rfl

theorem getV64_setV64_self (t : Team) (r : Nat) (f : Nat → Option Dword) {l : Nat} (h : l < t.width) :
    (t.setV64 r f).getV64 r l = (f l).getD (t.getV64 r l) := by
  unfold Team.getV64
  have h1 : (t.setV64 r f).getV (r + 1) l = ((f l).map fun (x : Dword) => (x >>> 32).setWidth 32).getD (t.getV (r + 1) l) := by
    unfold Team.setV64
    rw [getV_setV_self _ _ _ (by simpa using h), getV_setV_ne _ _ (by omega)]
  have h2 : (t.setV64 r f).getV r l = ((f l).map fun (x : Dword) => x.setWidth 32).getD (t.getV r l) := by
    unfold Team.setV64
    rw [getV_setV_ne _ _ (by omega), getV_setV_self _ _ _ h]
  rw [h1, h2]
  cases f l with
  | none => rfl
  | some x => exact halves_append x

theorem getV_setV64_ne (t : Team) {r q : Nat} (f : Nat → Option Dword) (h : q ≠ r) (h' : q ≠ r + 1) (l : Nat) :
    (t.setV64 r f).getV q l = t.getV q l := by
  unfold Team.setV64
  rw [getV_setV_ne _ _ h', getV_setV_ne _ _ h]

/-! ## The other classes -/

theorem getQ_setQ_self (t : Team) (r : Nat) (f : Nat → Option Cap) {l : Nat} (h : l < t.width) :
    (t.setQ r f).getQ r l = (f l).getD (t.getQ r l) := by
  simp only [Team.getQ, Team.setQ, SMap.getD_put_self]
  rw [getD_mergeLanes h]; rfl

theorem getQ_setQ_ne (t : Team) {r q : Nat} (f : Nat → Option Cap) (h : q ≠ r) (l : Nat) :
    (t.setQ r f).getQ q l = t.getQ q l := by
  simp only [Team.getQ, Team.setQ, SMap.getD_put_of_ne _ _ _ _ h]

@[simp] theorem getS_setS_self (t : Team) (r : Nat) (x : Dword) : (t.setS r x).getS r = x := by
  simp [Team.getS, Team.setS]
theorem getS_setS_ne (t : Team) {r q : Nat} (x : Dword) (h : q ≠ r) : (t.setS r x).getS q = t.getS q := by
  simp only [Team.getS, Team.setS, SMap.getD_put_of_ne _ _ _ _ h]
@[simp] theorem getC_setC_self (t : Team) (r : Nat) (x : Cap) : (t.setC r x).getC r = x := by
  simp [Team.getC, Team.setC]
theorem getC_setC_ne (t : Team) {r q : Nat} (x : Cap) (h : q ≠ r) : (t.setC r x).getC q = t.getC q := by
  simp only [Team.getC, Team.setC, SMap.getD_put_of_ne _ _ _ _ h]

/-- p0 is true in every lane whatever has been written (R83). -/
@[simp] theorem getP_zero (t : Team) (l : Nat) : t.getP 0 l = true := rfl

theorem getP_setP_self (t : Team) (r : Nat) (sel : Mask) (f : Nat → Bool) {l : Nat} (h : l < t.width) (h' : l < 1024) :
    (t.setP r sel f).getP r l = if r ≠ 0 ∧ sel.getLsbD l = true then f l else t.getP r l := by
  by_cases hr : r = 0
  · subst hr; simp
  · simp only [Team.setP, hr, if_false, Team.getP, SMap.getD_put_self]
    rw [maskOf_getLsbD _ _ h']
    simp [h, hr]

theorem getP_setP_ne (t : Team) {r q : Nat} (sel : Mask) (f : Nat → Bool) (h : q ≠ r) (l : Nat) :
    (t.setP r sel f).getP q l = t.getP q l := by
  by_cases hr : r = 0
  · simp [Team.setP, hr]
  · simp only [Team.setP, hr, if_false, Team.getP, SMap.getD_put_of_ne _ _ _ _ h]

/-- A lane is of the selected mask exactly when it is selected (R42). -/
theorem selMask_getLsbD (t : Team) {l : Nat} (h : l < t.width) (h' : l < 1024) : t.selMask.getLsbD l = t.selected l := by
  simp [Team.selMask, maskOf_getLsbD _ _ h', h]

/-! ## Going on past an instruction leaves every register -/

@[simp] theorem advance_getV (t : Team) : t.advance.getV = t.getV := rfl
@[simp] theorem advance_getV64 (t : Team) : t.advance.getV64 = t.getV64 := rfl
@[simp] theorem advance_getQ (t : Team) : t.advance.getQ = t.getQ := rfl
@[simp] theorem advance_getP (t : Team) : t.advance.getP = t.getP := rfl
@[simp] theorem advance_getS (t : Team) : t.advance.getS = t.getS := rfl
@[simp] theorem advance_getC (t : Team) : t.advance.getC = t.getC := rfl
@[simp] theorem raise_getV (t : Team) (f : Word) : (t.raise f).getV = t.getV := rfl
@[simp] theorem raise_getV64 (t : Team) (f : Word) : (t.raise f).getV64 = t.getV64 := rfl

end Sys2Proof.Machine
end

