-- ==== Sys2Proof/Laws/Issue.lean ====
section
/-!
SUPPORT. Laws/Issue.lean: once for every encoded instruction, what issuing does when the checks of R98 pass, and how an
instruction that changes the issuing team alone ends.
-/

namespace Sys2Proof.Machine

/-- An instruction that passes the checks has its own effect, on the state it reads. -/
theorem issue_of_issues {s : State} {i : Instr} (h : s.issues i = true) (body : State → Out) :
    issue i s body = body (s.entering i) := by
  simp only [State.issues, Bool.and_eq_true, Bool.not_eq_true', Option.isNone_iff_eq_none] at h
  simp [issue, h.1, h.2]

/-- One that fails a check takes a trap (R98). -/
theorem issue_of_refuses {s : State} {i : Instr} {c : Nat} (hb : s.team.blocked i = false)
    (h : s.team.refuses i (s.entering i).team = some c) (body : State → Out) : issue i s body = trapWith c i s := by
  simp [issue, h, hb]

/-- With nothing outstanding, an instruction reads the state as it stands. -/
@[simp] theorem entering_of_nil {s : State} (i : Instr) (h : s.team.pending = []) (hp : s.team.past = []) : s.entering i = s := by
  simp [State.entering, h, hp]

@[simp] theorem entering_mem (s : State) (i : Instr) : (s.entering i).mem = s.mem := by
  unfold State.entering; split <;> rfl
@[simp] theorem entering_ctxs (s : State) (i : Instr) : (s.entering i).ctxs = s.ctxs := by
  unfold State.entering; split <;> rfl
@[simp] theorem entering_agenda (s : State) (i : Instr) : (s.entering i).agenda = s.agenda := by
  unfold State.entering; split <;> rfl
@[simp] theorem entering_tags (s : State) (i : Instr) : (s.entering i).tags = s.tags := by
  unfold State.entering; split <;> rfl

@[simp] theorem readByte_entering (s : State) (i : Instr) (u : Team) (a : Nat) :
    State.readByte { s.entering i with team := u } a = s.readByte a := by
  simp [State.readByte]

/-- An instruction that finishes with a change of the issuing team alone. -/
theorem ends_done {s : State} {i : Instr} {f : Team → Team} {post : Team → Team → Prop}
    (hx : exec i s = issue i s (done f)) (hp : ∀ t, post t (f t).advance) : s.Ends i post := by
  intro h
  refine ⟨(f (s.entering i).team).advance, ?_, hp _, readByte_entering s i _⟩
  rw [hx, issue_of_issues h]; rfl

theorem writesV_of {s : State} {i : Instr} {d : Nat} {f : Team → Nat → Word}
    (hx : exec i s = issue i s (done fun t => t.laneOp d (f t))) : s.WritesV i d f := by
  refine ends_done hx fun t => ⟨⟨rfl, ?_⟩, ?_⟩
  · intro r hr l; simpa [Team.laneOp] using getV_setV_ne t _ (by simpa using hr) l
  · intro l hl; simp only [Team.laneOp, advance_getV]; rw [getV_setV_self _ _ _ hl]; split <;> rfl

theorem writesV64_of {s : State} {i : Instr} {d : Nat} {f : Team → Nat → Dword}
    (hx : exec i s = issue i s (done fun t => t.laneOp64 d (f t))) : s.WritesV64 i d f := by
  refine ends_done hx fun t => ⟨⟨rfl, ?_⟩, ?_⟩
  · intro r hr l
    have : r ≠ d ∧ r ≠ d + 1 := by simpa using hr
    simpa [Team.laneOp64] using getV_setV64_ne t _ this.1 this.2 l
  · intro l hl; simp only [Team.laneOp64, advance_getV64]; rw [getV64_setV64_self _ _ _ hl]; split <;> rfl

theorem writesS_of {s : State} {i : Instr} {d : Nat} {f : Team → Dword}
    (hx : exec i s = issue i s (done fun t => t.setS d (f t))) : s.WritesS i d f := by
  refine ends_done hx fun t => ⟨⟨rfl, ?_⟩, ?_⟩
  · intro r hr; exact getS_setS_ne t _ hr
  · exact getS_setS_self t d _

theorem writesP_of {s : State} {i : Instr} {d : Nat} {f : Team → Nat → Bool}
    (hx : exec i s = issue i s (done fun t => t.setP d t.selMask (f t))) : s.WritesP i d f := by
  refine ends_done hx fun t => ⟨⟨?_, ?_⟩, ?_⟩
  · unfold Team.setP; split <;> rfl
  · intro r hr l; exact getP_setP_ne t _ _ hr l
  · intro l hl hl'
    rw [advance_getP, getP_setP_self _ _ _ _ hl hl', selMask_getLsbD _ hl hl']

/-! ## The operand forms of Machine/VecInt.lean and Machine/UniInt.lean -/

theorem binary_ok {s : State} {i : Bool → Nat → Nat → Nat → Instr} {g : {n : Nat} → BitVec n → BitVec n → BitVec n}
    {f : (n : Nat) → BitVec n → BitVec n → BitVec n}
    (hx : ∀ w d a b, exec (i w d a b) s = binary (i w d a b) w d a b g s)
    (hf : ∀ n, n = 32 ∨ n = 64 → ∀ x y : BitVec n, g x y = f n x y) : s.Binary i f := by
  intro d a b
  constructor
  · apply writesV_of; rw [hx]; simp only [binary, hf 32 (.inl rfl)]; simp
  · apply writesV64_of; rw [hx]; simp only [binary, hf 64 (.inr rfl)]; simp

theorem ternary_ok {s : State} {i : Bool → Nat → Nat → Nat → Instr}
    {g : {n : Nat} → BitVec n → BitVec n → BitVec n → BitVec n} {f : (n : Nat) → BitVec n → BitVec n → BitVec n → BitVec n}
    (hx : ∀ w d a b, exec (i w d a b) s = ternary (i w d a b) w d a b g s)
    (hf : ∀ n, n = 32 ∨ n = 64 → ∀ z x y : BitVec n, g z x y = f n z x y) : s.Ternary i f := by
  intro d a b
  constructor
  · apply writesV_of; rw [hx]; simp only [ternary, hf 32 (.inl rfl)]; simp
  · apply writesV64_of; rw [hx]; simp only [ternary, hf 64 (.inr rfl)]; simp

theorem unary_ok {s : State} {i : Bool → Nat → Nat → Instr} {g : {n : Nat} → BitVec n → BitVec n}
    {f : (n : Nat) → BitVec n → BitVec n}
    (hx : ∀ w d a, exec (i w d a) s = unary (i w d a) w d a g s)
    (hf : ∀ n, n = 32 ∨ n = 64 → ∀ x : BitVec n, g x = f n x) : s.Unary i f := by
  intro d a
  constructor
  · apply writesV_of; rw [hx]; simp only [unary, hf 32 (.inl rfl)]; simp
  · apply writesV64_of; rw [hx]; simp only [unary, hf 64 (.inr rfl)]; simp

theorem short_ok {s : State} {i : Nat → Nat → Int → Instr} {g : {n : Nat} → BitVec n → BitVec n → BitVec n}
    {f : BitVec 32 → BitVec 32 → BitVec 32}
    (hx : ∀ d a k, exec (i d a k) s = shortImm (i d a k) d a k g s)
    (hf : ∀ x y : BitVec 32, g x y = f x y) : s.Short i f := by
  intro d a k
  apply writesV_of; rw [hx]; simp only [shortImm, hf]

theorem uBinary_ok {s : State} {i : Bool → Nat → Nat → Nat → Instr} {g : {n : Nat} → BitVec n → BitVec n → BitVec n}
    {f : (n : Nat) → BitVec n → BitVec n → BitVec n}
    (hx : ∀ w d a b, exec (i w d a b) s = uBinary (i w d a b) w d a b g s)
    (hf : ∀ n, n = 32 ∨ n = 64 → ∀ x y : BitVec n, g x y = f n x y) : s.UBinary i f := by
  intro d a b
  constructor
  · apply writesS_of; rw [hx]; simp only [uBinary, hf 64 (.inr rfl)]; simp
  · apply writesS_of; rw [hx]; simp only [uBinary, hf 32 (.inl rfl)]; simp

theorem uShort_ok {s : State} {i : Nat → Nat → Int → Instr} {g : {n : Nat} → BitVec n → BitVec n → BitVec n}
    {f : BitVec 64 → BitVec 64 → BitVec 64}
    (hx : ∀ d a k, exec (i d a k) s = uShort (i d a k) d a k g s)
    (hf : ∀ x y : BitVec 64, g x y = f x y) : s.UShort i f := by
  intro d a k
  apply writesS_of; rw [hx]; simp only [uShort, hf]

/-! ## Floating results -/

/-- A bit of the union of flags is set exactly where some member sets it. -/
theorem foldl_or_getLsbD {α : Type} (f : α → Word) (xs : List α) (w : Word) (k : Nat) :
    (xs.foldl (fun (a : Word) x => a ||| f x) w).getLsbD k = (w.getLsbD k || xs.any fun x => (f x).getLsbD k) := by
  induction xs generalizing w with
  | nil => simp
  | cons x xs ih => simp [ih, Bool.or_assoc]

theorem writesF_of {s : State} {i : Instr} {d : Nat} {F : Team → FFmt} {f : Team → Nat → Nat × Word}
    (hx : exec i s = issue i s (done fun t => t.floatLanes (F t) d (f t))) : s.WritesF i d F f := by
  refine ends_done hx fun t => ⟨?_, ?_, ?_, ?_, ?_⟩
  · unfold Team.floatLanes; split <;> rfl
  · intro r hr hr' l
    unfold Team.floatLanes
    split
    · exact getV_setV64_ne t _ hr (hr' ‹_›) l
    · exact getV_setV_ne t _ hr l
  · intro hF l hl
    simp only [Team.floatLanes, hF, if_true, advance_getV64, raise_getV64]
    rw [getV64_setV64_self _ _ _ hl]; split <;> rfl
  · intro hF l hl
    simp only [Team.floatLanes, hF, if_false, advance_getV, raise_getV]
    rw [getV_setV_self _ _ _ hl]; split <;> rfl
  · intro k hk
    have e : (t.floatLanes (F t) d (f t)).advance.flags
        = t.flags ||| t.lanes.foldl (fun (a : Word) l => a ||| (f t l).2) 0 := by
      unfold Team.floatLanes; split <;> rfl
    rw [e, BitVec.getLsbD_or, foldl_or_getLsbD]
    simp [Team.lanes, List.any_filter]

end Sys2Proof.Machine
end

