-- ==== Sys2Proof/Laws/State.lean ====
section
/-!
SUPPORT. Laws/State.lean: one lemma per field for each named update of the state and of a team, true by unfolding, so that
no proof about a step unfolds a record update.
-/

namespace Sys2Proof.Machine

/-! ## State.setTeam -/

section
variable (s : State) (f : Team → Team)
@[simp] theorem State.setTeam_agenda : (s.setTeam f).agenda = s.agenda := rfl
@[simp] theorem State.setTeam_team : (s.setTeam f).team = f s.team := rfl
@[simp] theorem State.setTeam_others : (s.setTeam f).others = s.others := rfl
@[simp] theorem State.setTeam_oracle : (s.setTeam f).oracle = s.oracle := rfl
@[simp] theorem State.setTeam_timebase : (s.setTeam f).timebase = s.timebase := rfl
@[simp] theorem State.setTeam_mem : (s.setTeam f).mem = s.mem := rfl
@[simp] theorem State.setTeam_tags : (s.setTeam f).tags = s.tags := rfl
@[simp] theorem State.setTeam_poison : (s.setTeam f).poison = s.poison := rfl
@[simp] theorem State.setTeam_checkErr : (s.setTeam f).checkErr = s.checkErr := rfl
@[simp] theorem State.setTeam_copies : (s.setTeam f).copies = s.copies := rfl
@[simp] theorem State.setTeam_tlbs : (s.setTeam f).tlbs = s.tlbs := rfl
@[simp] theorem State.setTeam_ctxs : (s.setTeam f).ctxs = s.ctxs := rfl
@[simp] theorem State.setTeam_owner : (s.setTeam f).owner = s.owner := rfl
@[simp] theorem State.setTeam_tableFree : (s.setTeam f).tableFree = s.tableFree := rfl
@[simp] theorem State.setTeam_cores : (s.setTeam f).cores = s.cores := rfl
@[simp] theorem State.setTeam_promised : (s.setTeam f).promised = s.promised := rfl
@[simp] theorem State.setTeam_wgs : (s.setTeam f).wgs = s.wgs := rfl
@[simp] theorem State.setTeam_gangs : (s.setTeam f).gangs = s.gangs := rfl
@[simp] theorem State.setTeam_launches : (s.setTeam f).launches = s.launches := rfl
@[simp] theorem State.setTeam_nextLaunch : (s.setTeam f).nextLaunch = s.nextLaunch := rfl
@[simp] theorem State.setTeam_nextOrder : (s.setTeam f).nextOrder = s.nextOrder := rfl
@[simp] theorem State.setTeam_queues : (s.setTeam f).queues = s.queues := rfl
@[simp] theorem State.setTeam_engines : (s.setTeam f).engines = s.engines := rfl
@[simp] theorem State.setTeam_nextJob : (s.setTeam f).nextJob = s.nextJob := rfl
@[simp] theorem State.setTeam_stage1 : (s.setTeam f).stage1 = s.stage1 := rfl
@[simp] theorem State.setTeam_stage2 : (s.setTeam f).stage2 = s.stage2 := rfl
@[simp] theorem State.setTeam_fnOwner : (s.setTeam f).fnOwner = s.fnOwner := rfl
@[simp] theorem State.setTeam_notifyDrop : (s.setTeam f).notifyDrop = s.notifyDrop := rfl
@[simp] theorem State.setTeam_sweepClock : (s.setTeam f).sweepClock = s.sweepClock := rfl
@[simp] theorem State.setTeam_sweepDone : (s.setTeam f).sweepDone = s.sweepDone := rfl
@[simp] theorem State.setTeam_sweepActive : (s.setTeam f).sweepActive = s.sweepActive := rfl
@[simp] theorem State.setTeam_sweepAgain : (s.setTeam f).sweepAgain = s.sweepAgain := rfl
@[simp] theorem State.setTeam_sweepEntries : (s.setTeam f).sweepEntries = s.sweepEntries := rfl
@[simp] theorem State.setTeam_sweepScanned : (s.setTeam f).sweepScanned = s.sweepScanned := rfl
@[simp] theorem State.setTeam_phaseAck : (s.setTeam f).phaseAck = s.phaseAck := rfl
@[simp] theorem State.setTeam_phaseBusy : (s.setTeam f).phaseBusy = s.phaseBusy := rfl
@[simp] theorem State.setTeam_phaseResult : (s.setTeam f).phaseResult = s.phaseResult := rfl
@[simp] theorem State.setTeam_phaseDone : (s.setTeam f).phaseDone = s.phaseDone := rfl
@[simp] theorem State.setTeam_domain : (s.setTeam f).domain = s.domain := rfl
@[simp] theorem State.setTeam_domainRoot : (s.setTeam f).domainRoot = s.domainRoot := rfl
@[simp] theorem State.setTeam_busyAt : (s.setTeam f).busyAt = s.busyAt := rfl
@[simp] theorem State.setTeam_specs : (s.setTeam f).specs = s.specs := rfl
@[simp] theorem State.setTeam_nextSpec : (s.setTeam f).nextSpec = s.nextSpec := rfl
@[simp] theorem State.setTeam_merges : (s.setTeam f).merges = s.merges := rfl
@[simp] theorem State.setTeam_nextMerge : (s.setTeam f).nextMerge = s.nextMerge := rfl
@[simp] theorem State.setTeam_remotes : (s.setTeam f).remotes = s.remotes := rfl
@[simp] theorem State.setTeam_nextReq : (s.setTeam f).nextReq = s.nextReq := rfl
@[simp] theorem State.setTeam_dedupe : (s.setTeam f).dedupe = s.dedupe := rfl
@[simp] theorem State.setTeam_domainClock : (s.setTeam f).domainClock = s.domainClock := rfl
@[simp] theorem State.setTeam_clockBehind : (s.setTeam f).clockBehind = s.clockBehind := rfl
@[simp] theorem State.setTeam_lastSync : (s.setTeam f).lastSync = s.lastSync := rfl
@[simp] theorem State.setTeam_syncLost : (s.setTeam f).syncLost = s.syncLost := rfl
@[simp] theorem State.setTeam_snoops : (s.setTeam f).snoops = s.snoops := rfl
@[simp] theorem State.setTeam_heldReqs : (s.setTeam f).heldReqs = s.heldReqs := rfl
@[simp] theorem State.setTeam_heldHost : (s.setTeam f).heldHost = s.heldHost := rfl
@[simp] theorem State.setTeam_sharers : (s.setTeam f).sharers = s.sharers := rfl
@[simp] theorem State.setTeam_expAttached : (s.setTeam f).expAttached = s.expAttached := rfl
@[simp] theorem State.setTeam_expLost : (s.setTeam f).expLost = s.expLost := rfl
@[simp] theorem State.setTeam_expReleased : (s.setTeam f).expReleased = s.expReleased := rfl
@[simp] theorem State.setTeam_ports : (s.setTeam f).ports = s.ports := rfl
@[simp] theorem State.setTeam_deviceNumber : (s.setTeam f).deviceNumber = s.deviceNumber := rfl
@[simp] theorem State.setTeam_hdrDropped : (s.setTeam f).hdrDropped = s.hdrDropped := rfl
@[simp] theorem State.setTeam_hostPorts : (s.setTeam f).hostPorts = s.hostPorts := rfl
@[simp] theorem State.setTeam_tdisp : (s.setTeam f).tdisp = s.tdisp := rfl
@[simp] theorem State.setTeam_keySlots : (s.setTeam f).keySlots = s.keySlots := rfl
@[simp] theorem State.setTeam_taskKeys : (s.setTeam f).taskKeys = s.taskKeys := rfl
@[simp] theorem State.setTeam_partitions : (s.setTeam f).partitions = s.partitions := rfl
@[simp] theorem State.setTeam_clusterPower : (s.setTeam f).clusterPower = s.clusterPower := rfl
@[simp] theorem State.setTeam_closing : (s.setTeam f).closing = s.closing := rfl
@[simp] theorem State.setTeam_extents : (s.setTeam f).extents = s.extents := rfl
@[simp] theorem State.setTeam_deviceInfo : (s.setTeam f).deviceInfo = s.deviceInfo := rfl
@[simp] theorem State.setTeam_clusterMap : (s.setTeam f).clusterMap = s.clusterMap := rfl
@[simp] theorem State.setTeam_nocWeight : (s.setTeam f).nocWeight = s.nocWeight := rfl
@[simp] theorem State.setTeam_timingStat : (s.setTeam f).timingStat = s.timingStat := rfl
@[simp] theorem State.setTeam_injCtl : (s.setTeam f).injCtl = s.injCtl := rfl
@[simp] theorem State.setTeam_injSeed : (s.setTeam f).injSeed = s.injSeed := rfl
@[simp] theorem State.setTeam_injRate : (s.setTeam f).injRate = s.injRate := rfl
@[simp] theorem State.setTeam_stestPass : (s.setTeam f).stestPass = s.stestPass := rfl
@[simp] theorem State.setTeam_orreryCtl : (s.setTeam f).orreryCtl = s.orreryCtl := rfl
@[simp] theorem State.setTeam_orreryStat : (s.setTeam f).orreryStat = s.orreryStat := rfl
@[simp] theorem State.setTeam_timingArmed : (s.setTeam f).timingArmed = s.timingArmed := rfl
@[simp] theorem State.setTeam_parityCount : (s.setTeam f).parityCount = s.parityCount := rfl
@[simp] theorem State.setTeam_transitStopped : (s.setTeam f).transitStopped = s.transitStopped := rfl
@[simp] theorem State.setTeam_chosen : (s.setTeam f).chosen = s.chosen := rfl
@[simp] theorem State.setTeam_lastMismatch : (s.setTeam f).lastMismatch = s.lastMismatch := rfl
@[simp] theorem State.setTeam_deviceFault : (s.setTeam f).deviceFault = s.deviceFault := rfl
@[simp] theorem State.setTeam_bringUp : (s.setTeam f).bringUp = s.bringUp := rfl
@[simp] theorem State.setTeam_pstate : (s.setTeam f).pstate = s.pstate := rfl
@[simp] theorem State.setTeam_resetDue : (s.setTeam f).resetDue = s.resetDue := rfl
@[simp] theorem State.setTeam_mailArea : (s.setTeam f).mailArea = s.mailArea := rfl
@[simp] theorem State.setTeam_response : (s.setTeam f).response = s.response := rfl
@[simp] theorem State.setTeam_mailBusy : (s.setTeam f).mailBusy = s.mailBusy := rfl
@[simp] theorem State.setTeam_migration : (s.setTeam f).migration = s.migration := rfl
@[simp] theorem State.setTeam_movedAway : (s.setTeam f).movedAway = s.movedAway := rfl
@[simp] theorem State.setTeam_out : (s.setTeam f).out = s.out := rfl
end

/-! ## State.modCtx -/

section
variable (s : State) (n : Nat) (f : Ctx → Ctx)
@[simp] theorem State.modCtx_agenda : (s.modCtx n f).agenda = s.agenda := rfl
@[simp] theorem State.modCtx_team : (s.modCtx n f).team = s.team := rfl
@[simp] theorem State.modCtx_others : (s.modCtx n f).others = s.others := rfl
@[simp] theorem State.modCtx_oracle : (s.modCtx n f).oracle = s.oracle := rfl
@[simp] theorem State.modCtx_timebase : (s.modCtx n f).timebase = s.timebase := rfl
@[simp] theorem State.modCtx_mem : (s.modCtx n f).mem = s.mem := rfl
@[simp] theorem State.modCtx_tags : (s.modCtx n f).tags = s.tags := rfl
@[simp] theorem State.modCtx_poison : (s.modCtx n f).poison = s.poison := rfl
@[simp] theorem State.modCtx_checkErr : (s.modCtx n f).checkErr = s.checkErr := rfl
@[simp] theorem State.modCtx_copies : (s.modCtx n f).copies = s.copies := rfl
@[simp] theorem State.modCtx_tlbs : (s.modCtx n f).tlbs = s.tlbs := rfl
@[simp] theorem State.modCtx_ctxs : (s.modCtx n f).ctxs = s.ctxs.modify n f := rfl
@[simp] theorem State.modCtx_owner : (s.modCtx n f).owner = s.owner := rfl
@[simp] theorem State.modCtx_tableFree : (s.modCtx n f).tableFree = s.tableFree := rfl
@[simp] theorem State.modCtx_cores : (s.modCtx n f).cores = s.cores := rfl
@[simp] theorem State.modCtx_promised : (s.modCtx n f).promised = s.promised := rfl
@[simp] theorem State.modCtx_wgs : (s.modCtx n f).wgs = s.wgs := rfl
@[simp] theorem State.modCtx_gangs : (s.modCtx n f).gangs = s.gangs := rfl
@[simp] theorem State.modCtx_launches : (s.modCtx n f).launches = s.launches := rfl
@[simp] theorem State.modCtx_nextLaunch : (s.modCtx n f).nextLaunch = s.nextLaunch := rfl
@[simp] theorem State.modCtx_nextOrder : (s.modCtx n f).nextOrder = s.nextOrder := rfl
@[simp] theorem State.modCtx_queues : (s.modCtx n f).queues = s.queues := rfl
@[simp] theorem State.modCtx_engines : (s.modCtx n f).engines = s.engines := rfl
@[simp] theorem State.modCtx_nextJob : (s.modCtx n f).nextJob = s.nextJob := rfl
@[simp] theorem State.modCtx_stage1 : (s.modCtx n f).stage1 = s.stage1 := rfl
@[simp] theorem State.modCtx_stage2 : (s.modCtx n f).stage2 = s.stage2 := rfl
@[simp] theorem State.modCtx_fnOwner : (s.modCtx n f).fnOwner = s.fnOwner := rfl
@[simp] theorem State.modCtx_notifyDrop : (s.modCtx n f).notifyDrop = s.notifyDrop := rfl
@[simp] theorem State.modCtx_sweepClock : (s.modCtx n f).sweepClock = s.sweepClock := rfl
@[simp] theorem State.modCtx_sweepDone : (s.modCtx n f).sweepDone = s.sweepDone := rfl
@[simp] theorem State.modCtx_sweepActive : (s.modCtx n f).sweepActive = s.sweepActive := rfl
@[simp] theorem State.modCtx_sweepAgain : (s.modCtx n f).sweepAgain = s.sweepAgain := rfl
@[simp] theorem State.modCtx_sweepEntries : (s.modCtx n f).sweepEntries = s.sweepEntries := rfl
@[simp] theorem State.modCtx_sweepScanned : (s.modCtx n f).sweepScanned = s.sweepScanned := rfl
@[simp] theorem State.modCtx_phaseAck : (s.modCtx n f).phaseAck = s.phaseAck := rfl
@[simp] theorem State.modCtx_phaseBusy : (s.modCtx n f).phaseBusy = s.phaseBusy := rfl
@[simp] theorem State.modCtx_phaseResult : (s.modCtx n f).phaseResult = s.phaseResult := rfl
@[simp] theorem State.modCtx_phaseDone : (s.modCtx n f).phaseDone = s.phaseDone := rfl
@[simp] theorem State.modCtx_domain : (s.modCtx n f).domain = s.domain := rfl
@[simp] theorem State.modCtx_domainRoot : (s.modCtx n f).domainRoot = s.domainRoot := rfl
@[simp] theorem State.modCtx_busyAt : (s.modCtx n f).busyAt = s.busyAt := rfl
@[simp] theorem State.modCtx_specs : (s.modCtx n f).specs = s.specs := rfl
@[simp] theorem State.modCtx_nextSpec : (s.modCtx n f).nextSpec = s.nextSpec := rfl
@[simp] theorem State.modCtx_merges : (s.modCtx n f).merges = s.merges := rfl
@[simp] theorem State.modCtx_nextMerge : (s.modCtx n f).nextMerge = s.nextMerge := rfl
@[simp] theorem State.modCtx_remotes : (s.modCtx n f).remotes = s.remotes := rfl
@[simp] theorem State.modCtx_nextReq : (s.modCtx n f).nextReq = s.nextReq := rfl
@[simp] theorem State.modCtx_dedupe : (s.modCtx n f).dedupe = s.dedupe := rfl
@[simp] theorem State.modCtx_domainClock : (s.modCtx n f).domainClock = s.domainClock := rfl
@[simp] theorem State.modCtx_clockBehind : (s.modCtx n f).clockBehind = s.clockBehind := rfl
@[simp] theorem State.modCtx_lastSync : (s.modCtx n f).lastSync = s.lastSync := rfl
@[simp] theorem State.modCtx_syncLost : (s.modCtx n f).syncLost = s.syncLost := rfl
@[simp] theorem State.modCtx_snoops : (s.modCtx n f).snoops = s.snoops := rfl
@[simp] theorem State.modCtx_heldReqs : (s.modCtx n f).heldReqs = s.heldReqs := rfl
@[simp] theorem State.modCtx_heldHost : (s.modCtx n f).heldHost = s.heldHost := rfl
@[simp] theorem State.modCtx_sharers : (s.modCtx n f).sharers = s.sharers := rfl
@[simp] theorem State.modCtx_expAttached : (s.modCtx n f).expAttached = s.expAttached := rfl
@[simp] theorem State.modCtx_expLost : (s.modCtx n f).expLost = s.expLost := rfl
@[simp] theorem State.modCtx_expReleased : (s.modCtx n f).expReleased = s.expReleased := rfl
@[simp] theorem State.modCtx_ports : (s.modCtx n f).ports = s.ports := rfl
@[simp] theorem State.modCtx_deviceNumber : (s.modCtx n f).deviceNumber = s.deviceNumber := rfl
@[simp] theorem State.modCtx_hdrDropped : (s.modCtx n f).hdrDropped = s.hdrDropped := rfl
@[simp] theorem State.modCtx_hostPorts : (s.modCtx n f).hostPorts = s.hostPorts := rfl
@[simp] theorem State.modCtx_tdisp : (s.modCtx n f).tdisp = s.tdisp := rfl
@[simp] theorem State.modCtx_keySlots : (s.modCtx n f).keySlots = s.keySlots := rfl
@[simp] theorem State.modCtx_taskKeys : (s.modCtx n f).taskKeys = s.taskKeys := rfl
@[simp] theorem State.modCtx_partitions : (s.modCtx n f).partitions = s.partitions := rfl
@[simp] theorem State.modCtx_clusterPower : (s.modCtx n f).clusterPower = s.clusterPower := rfl
@[simp] theorem State.modCtx_closing : (s.modCtx n f).closing = s.closing := rfl
@[simp] theorem State.modCtx_extents : (s.modCtx n f).extents = s.extents := rfl
@[simp] theorem State.modCtx_deviceInfo : (s.modCtx n f).deviceInfo = s.deviceInfo := rfl
@[simp] theorem State.modCtx_clusterMap : (s.modCtx n f).clusterMap = s.clusterMap := rfl
@[simp] theorem State.modCtx_nocWeight : (s.modCtx n f).nocWeight = s.nocWeight := rfl
@[simp] theorem State.modCtx_timingStat : (s.modCtx n f).timingStat = s.timingStat := rfl
@[simp] theorem State.modCtx_injCtl : (s.modCtx n f).injCtl = s.injCtl := rfl
@[simp] theorem State.modCtx_injSeed : (s.modCtx n f).injSeed = s.injSeed := rfl
@[simp] theorem State.modCtx_injRate : (s.modCtx n f).injRate = s.injRate := rfl
@[simp] theorem State.modCtx_stestPass : (s.modCtx n f).stestPass = s.stestPass := rfl
@[simp] theorem State.modCtx_orreryCtl : (s.modCtx n f).orreryCtl = s.orreryCtl := rfl
@[simp] theorem State.modCtx_orreryStat : (s.modCtx n f).orreryStat = s.orreryStat := rfl
@[simp] theorem State.modCtx_timingArmed : (s.modCtx n f).timingArmed = s.timingArmed := rfl
@[simp] theorem State.modCtx_parityCount : (s.modCtx n f).parityCount = s.parityCount := rfl
@[simp] theorem State.modCtx_transitStopped : (s.modCtx n f).transitStopped = s.transitStopped := rfl
@[simp] theorem State.modCtx_chosen : (s.modCtx n f).chosen = s.chosen := rfl
@[simp] theorem State.modCtx_lastMismatch : (s.modCtx n f).lastMismatch = s.lastMismatch := rfl
@[simp] theorem State.modCtx_deviceFault : (s.modCtx n f).deviceFault = s.deviceFault := rfl
@[simp] theorem State.modCtx_bringUp : (s.modCtx n f).bringUp = s.bringUp := rfl
@[simp] theorem State.modCtx_pstate : (s.modCtx n f).pstate = s.pstate := rfl
@[simp] theorem State.modCtx_resetDue : (s.modCtx n f).resetDue = s.resetDue := rfl
@[simp] theorem State.modCtx_mailArea : (s.modCtx n f).mailArea = s.mailArea := rfl
@[simp] theorem State.modCtx_response : (s.modCtx n f).response = s.response := rfl
@[simp] theorem State.modCtx_mailBusy : (s.modCtx n f).mailBusy = s.mailBusy := rfl
@[simp] theorem State.modCtx_migration : (s.modCtx n f).migration = s.migration := rfl
@[simp] theorem State.modCtx_movedAway : (s.modCtx n f).movedAway = s.movedAway := rfl
@[simp] theorem State.modCtx_out : (s.modCtx n f).out = s.out := rfl
end

/-! ## State.modGang -/

section
variable (s : State) (n : Nat) (f : Gang → Gang)
@[simp] theorem State.modGang_agenda : (s.modGang n f).agenda = s.agenda := rfl
@[simp] theorem State.modGang_team : (s.modGang n f).team = s.team := rfl
@[simp] theorem State.modGang_others : (s.modGang n f).others = s.others := rfl
@[simp] theorem State.modGang_oracle : (s.modGang n f).oracle = s.oracle := rfl
@[simp] theorem State.modGang_timebase : (s.modGang n f).timebase = s.timebase := rfl
@[simp] theorem State.modGang_mem : (s.modGang n f).mem = s.mem := rfl
@[simp] theorem State.modGang_tags : (s.modGang n f).tags = s.tags := rfl
@[simp] theorem State.modGang_poison : (s.modGang n f).poison = s.poison := rfl
@[simp] theorem State.modGang_checkErr : (s.modGang n f).checkErr = s.checkErr := rfl
@[simp] theorem State.modGang_copies : (s.modGang n f).copies = s.copies := rfl
@[simp] theorem State.modGang_tlbs : (s.modGang n f).tlbs = s.tlbs := rfl
@[simp] theorem State.modGang_ctxs : (s.modGang n f).ctxs = s.ctxs := rfl
@[simp] theorem State.modGang_owner : (s.modGang n f).owner = s.owner := rfl
@[simp] theorem State.modGang_tableFree : (s.modGang n f).tableFree = s.tableFree := rfl
@[simp] theorem State.modGang_cores : (s.modGang n f).cores = s.cores := rfl
@[simp] theorem State.modGang_promised : (s.modGang n f).promised = s.promised := rfl
@[simp] theorem State.modGang_wgs : (s.modGang n f).wgs = s.wgs := rfl
@[simp] theorem State.modGang_gangs : (s.modGang n f).gangs = s.gangs.map fun g => if g.ticket = n then f g else g := rfl
@[simp] theorem State.modGang_launches : (s.modGang n f).launches = s.launches := rfl
@[simp] theorem State.modGang_nextLaunch : (s.modGang n f).nextLaunch = s.nextLaunch := rfl
@[simp] theorem State.modGang_nextOrder : (s.modGang n f).nextOrder = s.nextOrder := rfl
@[simp] theorem State.modGang_queues : (s.modGang n f).queues = s.queues := rfl
@[simp] theorem State.modGang_engines : (s.modGang n f).engines = s.engines := rfl
@[simp] theorem State.modGang_nextJob : (s.modGang n f).nextJob = s.nextJob := rfl
@[simp] theorem State.modGang_stage1 : (s.modGang n f).stage1 = s.stage1 := rfl
@[simp] theorem State.modGang_stage2 : (s.modGang n f).stage2 = s.stage2 := rfl
@[simp] theorem State.modGang_fnOwner : (s.modGang n f).fnOwner = s.fnOwner := rfl
@[simp] theorem State.modGang_notifyDrop : (s.modGang n f).notifyDrop = s.notifyDrop := rfl
@[simp] theorem State.modGang_sweepClock : (s.modGang n f).sweepClock = s.sweepClock := rfl
@[simp] theorem State.modGang_sweepDone : (s.modGang n f).sweepDone = s.sweepDone := rfl
@[simp] theorem State.modGang_sweepActive : (s.modGang n f).sweepActive = s.sweepActive := rfl
@[simp] theorem State.modGang_sweepAgain : (s.modGang n f).sweepAgain = s.sweepAgain := rfl
@[simp] theorem State.modGang_sweepEntries : (s.modGang n f).sweepEntries = s.sweepEntries := rfl
@[simp] theorem State.modGang_sweepScanned : (s.modGang n f).sweepScanned = s.sweepScanned := rfl
@[simp] theorem State.modGang_phaseAck : (s.modGang n f).phaseAck = s.phaseAck := rfl
@[simp] theorem State.modGang_phaseBusy : (s.modGang n f).phaseBusy = s.phaseBusy := rfl
@[simp] theorem State.modGang_phaseResult : (s.modGang n f).phaseResult = s.phaseResult := rfl
@[simp] theorem State.modGang_phaseDone : (s.modGang n f).phaseDone = s.phaseDone := rfl
@[simp] theorem State.modGang_domain : (s.modGang n f).domain = s.domain := rfl
@[simp] theorem State.modGang_domainRoot : (s.modGang n f).domainRoot = s.domainRoot := rfl
@[simp] theorem State.modGang_busyAt : (s.modGang n f).busyAt = s.busyAt := rfl
@[simp] theorem State.modGang_specs : (s.modGang n f).specs = s.specs := rfl
@[simp] theorem State.modGang_nextSpec : (s.modGang n f).nextSpec = s.nextSpec := rfl
@[simp] theorem State.modGang_merges : (s.modGang n f).merges = s.merges := rfl
@[simp] theorem State.modGang_nextMerge : (s.modGang n f).nextMerge = s.nextMerge := rfl
@[simp] theorem State.modGang_remotes : (s.modGang n f).remotes = s.remotes := rfl
@[simp] theorem State.modGang_nextReq : (s.modGang n f).nextReq = s.nextReq := rfl
@[simp] theorem State.modGang_dedupe : (s.modGang n f).dedupe = s.dedupe := rfl
@[simp] theorem State.modGang_domainClock : (s.modGang n f).domainClock = s.domainClock := rfl
@[simp] theorem State.modGang_clockBehind : (s.modGang n f).clockBehind = s.clockBehind := rfl
@[simp] theorem State.modGang_lastSync : (s.modGang n f).lastSync = s.lastSync := rfl
@[simp] theorem State.modGang_syncLost : (s.modGang n f).syncLost = s.syncLost := rfl
@[simp] theorem State.modGang_snoops : (s.modGang n f).snoops = s.snoops := rfl
@[simp] theorem State.modGang_heldReqs : (s.modGang n f).heldReqs = s.heldReqs := rfl
@[simp] theorem State.modGang_heldHost : (s.modGang n f).heldHost = s.heldHost := rfl
@[simp] theorem State.modGang_sharers : (s.modGang n f).sharers = s.sharers := rfl
@[simp] theorem State.modGang_expAttached : (s.modGang n f).expAttached = s.expAttached := rfl
@[simp] theorem State.modGang_expLost : (s.modGang n f).expLost = s.expLost := rfl
@[simp] theorem State.modGang_expReleased : (s.modGang n f).expReleased = s.expReleased := rfl
@[simp] theorem State.modGang_ports : (s.modGang n f).ports = s.ports := rfl
@[simp] theorem State.modGang_deviceNumber : (s.modGang n f).deviceNumber = s.deviceNumber := rfl
@[simp] theorem State.modGang_hdrDropped : (s.modGang n f).hdrDropped = s.hdrDropped := rfl
@[simp] theorem State.modGang_hostPorts : (s.modGang n f).hostPorts = s.hostPorts := rfl
@[simp] theorem State.modGang_tdisp : (s.modGang n f).tdisp = s.tdisp := rfl
@[simp] theorem State.modGang_keySlots : (s.modGang n f).keySlots = s.keySlots := rfl
@[simp] theorem State.modGang_taskKeys : (s.modGang n f).taskKeys = s.taskKeys := rfl
@[simp] theorem State.modGang_partitions : (s.modGang n f).partitions = s.partitions := rfl
@[simp] theorem State.modGang_clusterPower : (s.modGang n f).clusterPower = s.clusterPower := rfl
@[simp] theorem State.modGang_closing : (s.modGang n f).closing = s.closing := rfl
@[simp] theorem State.modGang_extents : (s.modGang n f).extents = s.extents := rfl
@[simp] theorem State.modGang_deviceInfo : (s.modGang n f).deviceInfo = s.deviceInfo := rfl
@[simp] theorem State.modGang_clusterMap : (s.modGang n f).clusterMap = s.clusterMap := rfl
@[simp] theorem State.modGang_nocWeight : (s.modGang n f).nocWeight = s.nocWeight := rfl
@[simp] theorem State.modGang_timingStat : (s.modGang n f).timingStat = s.timingStat := rfl
@[simp] theorem State.modGang_injCtl : (s.modGang n f).injCtl = s.injCtl := rfl
@[simp] theorem State.modGang_injSeed : (s.modGang n f).injSeed = s.injSeed := rfl
@[simp] theorem State.modGang_injRate : (s.modGang n f).injRate = s.injRate := rfl
@[simp] theorem State.modGang_stestPass : (s.modGang n f).stestPass = s.stestPass := rfl
@[simp] theorem State.modGang_orreryCtl : (s.modGang n f).orreryCtl = s.orreryCtl := rfl
@[simp] theorem State.modGang_orreryStat : (s.modGang n f).orreryStat = s.orreryStat := rfl
@[simp] theorem State.modGang_timingArmed : (s.modGang n f).timingArmed = s.timingArmed := rfl
@[simp] theorem State.modGang_parityCount : (s.modGang n f).parityCount = s.parityCount := rfl
@[simp] theorem State.modGang_transitStopped : (s.modGang n f).transitStopped = s.transitStopped := rfl
@[simp] theorem State.modGang_chosen : (s.modGang n f).chosen = s.chosen := rfl
@[simp] theorem State.modGang_lastMismatch : (s.modGang n f).lastMismatch = s.lastMismatch := rfl
@[simp] theorem State.modGang_deviceFault : (s.modGang n f).deviceFault = s.deviceFault := rfl
@[simp] theorem State.modGang_bringUp : (s.modGang n f).bringUp = s.bringUp := rfl
@[simp] theorem State.modGang_pstate : (s.modGang n f).pstate = s.pstate := rfl
@[simp] theorem State.modGang_resetDue : (s.modGang n f).resetDue = s.resetDue := rfl
@[simp] theorem State.modGang_mailArea : (s.modGang n f).mailArea = s.mailArea := rfl
@[simp] theorem State.modGang_response : (s.modGang n f).response = s.response := rfl
@[simp] theorem State.modGang_mailBusy : (s.modGang n f).mailBusy = s.mailBusy := rfl
@[simp] theorem State.modGang_migration : (s.modGang n f).migration = s.migration := rfl
@[simp] theorem State.modGang_movedAway : (s.modGang n f).movedAway = s.movedAway := rfl
@[simp] theorem State.modGang_out : (s.modGang n f).out = s.out := rfl
end

/-! ## State.modWg -/

section
variable (s : State) (w : WgId) (f : Workgroup → Workgroup)
@[simp] theorem State.modWg_agenda : (s.modWg w f).agenda = s.agenda := rfl
@[simp] theorem State.modWg_team : (s.modWg w f).team = s.team := rfl
@[simp] theorem State.modWg_others : (s.modWg w f).others = s.others := rfl
@[simp] theorem State.modWg_oracle : (s.modWg w f).oracle = s.oracle := rfl
@[simp] theorem State.modWg_timebase : (s.modWg w f).timebase = s.timebase := rfl
@[simp] theorem State.modWg_mem : (s.modWg w f).mem = s.mem := rfl
@[simp] theorem State.modWg_tags : (s.modWg w f).tags = s.tags := rfl
@[simp] theorem State.modWg_poison : (s.modWg w f).poison = s.poison := rfl
@[simp] theorem State.modWg_checkErr : (s.modWg w f).checkErr = s.checkErr := rfl
@[simp] theorem State.modWg_copies : (s.modWg w f).copies = s.copies := rfl
@[simp] theorem State.modWg_tlbs : (s.modWg w f).tlbs = s.tlbs := rfl
@[simp] theorem State.modWg_ctxs : (s.modWg w f).ctxs = s.ctxs := rfl
@[simp] theorem State.modWg_owner : (s.modWg w f).owner = s.owner := rfl
@[simp] theorem State.modWg_tableFree : (s.modWg w f).tableFree = s.tableFree := rfl
@[simp] theorem State.modWg_cores : (s.modWg w f).cores = s.cores := rfl
@[simp] theorem State.modWg_promised : (s.modWg w f).promised = s.promised := rfl
@[simp] theorem State.modWg_wgs : (s.modWg w f).wgs = s.wgs.map fun g => if g.id = w then f g else g := rfl
@[simp] theorem State.modWg_gangs : (s.modWg w f).gangs = s.gangs := rfl
@[simp] theorem State.modWg_launches : (s.modWg w f).launches = s.launches := rfl
@[simp] theorem State.modWg_nextLaunch : (s.modWg w f).nextLaunch = s.nextLaunch := rfl
@[simp] theorem State.modWg_nextOrder : (s.modWg w f).nextOrder = s.nextOrder := rfl
@[simp] theorem State.modWg_queues : (s.modWg w f).queues = s.queues := rfl
@[simp] theorem State.modWg_engines : (s.modWg w f).engines = s.engines := rfl
@[simp] theorem State.modWg_nextJob : (s.modWg w f).nextJob = s.nextJob := rfl
@[simp] theorem State.modWg_stage1 : (s.modWg w f).stage1 = s.stage1 := rfl
@[simp] theorem State.modWg_stage2 : (s.modWg w f).stage2 = s.stage2 := rfl
@[simp] theorem State.modWg_fnOwner : (s.modWg w f).fnOwner = s.fnOwner := rfl
@[simp] theorem State.modWg_notifyDrop : (s.modWg w f).notifyDrop = s.notifyDrop := rfl
@[simp] theorem State.modWg_sweepClock : (s.modWg w f).sweepClock = s.sweepClock := rfl
@[simp] theorem State.modWg_sweepDone : (s.modWg w f).sweepDone = s.sweepDone := rfl
@[simp] theorem State.modWg_sweepActive : (s.modWg w f).sweepActive = s.sweepActive := rfl
@[simp] theorem State.modWg_sweepAgain : (s.modWg w f).sweepAgain = s.sweepAgain := rfl
@[simp] theorem State.modWg_sweepEntries : (s.modWg w f).sweepEntries = s.sweepEntries := rfl
@[simp] theorem State.modWg_sweepScanned : (s.modWg w f).sweepScanned = s.sweepScanned := rfl
@[simp] theorem State.modWg_phaseAck : (s.modWg w f).phaseAck = s.phaseAck := rfl
@[simp] theorem State.modWg_phaseBusy : (s.modWg w f).phaseBusy = s.phaseBusy := rfl
@[simp] theorem State.modWg_phaseResult : (s.modWg w f).phaseResult = s.phaseResult := rfl
@[simp] theorem State.modWg_phaseDone : (s.modWg w f).phaseDone = s.phaseDone := rfl
@[simp] theorem State.modWg_domain : (s.modWg w f).domain = s.domain := rfl
@[simp] theorem State.modWg_domainRoot : (s.modWg w f).domainRoot = s.domainRoot := rfl
@[simp] theorem State.modWg_busyAt : (s.modWg w f).busyAt = s.busyAt := rfl
@[simp] theorem State.modWg_specs : (s.modWg w f).specs = s.specs := rfl
@[simp] theorem State.modWg_nextSpec : (s.modWg w f).nextSpec = s.nextSpec := rfl
@[simp] theorem State.modWg_merges : (s.modWg w f).merges = s.merges := rfl
@[simp] theorem State.modWg_nextMerge : (s.modWg w f).nextMerge = s.nextMerge := rfl
@[simp] theorem State.modWg_remotes : (s.modWg w f).remotes = s.remotes := rfl
@[simp] theorem State.modWg_nextReq : (s.modWg w f).nextReq = s.nextReq := rfl
@[simp] theorem State.modWg_dedupe : (s.modWg w f).dedupe = s.dedupe := rfl
@[simp] theorem State.modWg_domainClock : (s.modWg w f).domainClock = s.domainClock := rfl
@[simp] theorem State.modWg_clockBehind : (s.modWg w f).clockBehind = s.clockBehind := rfl
@[simp] theorem State.modWg_lastSync : (s.modWg w f).lastSync = s.lastSync := rfl
@[simp] theorem State.modWg_syncLost : (s.modWg w f).syncLost = s.syncLost := rfl
@[simp] theorem State.modWg_snoops : (s.modWg w f).snoops = s.snoops := rfl
@[simp] theorem State.modWg_heldReqs : (s.modWg w f).heldReqs = s.heldReqs := rfl
@[simp] theorem State.modWg_heldHost : (s.modWg w f).heldHost = s.heldHost := rfl
@[simp] theorem State.modWg_sharers : (s.modWg w f).sharers = s.sharers := rfl
@[simp] theorem State.modWg_expAttached : (s.modWg w f).expAttached = s.expAttached := rfl
@[simp] theorem State.modWg_expLost : (s.modWg w f).expLost = s.expLost := rfl
@[simp] theorem State.modWg_expReleased : (s.modWg w f).expReleased = s.expReleased := rfl
@[simp] theorem State.modWg_ports : (s.modWg w f).ports = s.ports := rfl
@[simp] theorem State.modWg_deviceNumber : (s.modWg w f).deviceNumber = s.deviceNumber := rfl
@[simp] theorem State.modWg_hdrDropped : (s.modWg w f).hdrDropped = s.hdrDropped := rfl
@[simp] theorem State.modWg_hostPorts : (s.modWg w f).hostPorts = s.hostPorts := rfl
@[simp] theorem State.modWg_tdisp : (s.modWg w f).tdisp = s.tdisp := rfl
@[simp] theorem State.modWg_keySlots : (s.modWg w f).keySlots = s.keySlots := rfl
@[simp] theorem State.modWg_taskKeys : (s.modWg w f).taskKeys = s.taskKeys := rfl
@[simp] theorem State.modWg_partitions : (s.modWg w f).partitions = s.partitions := rfl
@[simp] theorem State.modWg_clusterPower : (s.modWg w f).clusterPower = s.clusterPower := rfl
@[simp] theorem State.modWg_closing : (s.modWg w f).closing = s.closing := rfl
@[simp] theorem State.modWg_extents : (s.modWg w f).extents = s.extents := rfl
@[simp] theorem State.modWg_deviceInfo : (s.modWg w f).deviceInfo = s.deviceInfo := rfl
@[simp] theorem State.modWg_clusterMap : (s.modWg w f).clusterMap = s.clusterMap := rfl
@[simp] theorem State.modWg_nocWeight : (s.modWg w f).nocWeight = s.nocWeight := rfl
@[simp] theorem State.modWg_timingStat : (s.modWg w f).timingStat = s.timingStat := rfl
@[simp] theorem State.modWg_injCtl : (s.modWg w f).injCtl = s.injCtl := rfl
@[simp] theorem State.modWg_injSeed : (s.modWg w f).injSeed = s.injSeed := rfl
@[simp] theorem State.modWg_injRate : (s.modWg w f).injRate = s.injRate := rfl
@[simp] theorem State.modWg_stestPass : (s.modWg w f).stestPass = s.stestPass := rfl
@[simp] theorem State.modWg_orreryCtl : (s.modWg w f).orreryCtl = s.orreryCtl := rfl
@[simp] theorem State.modWg_orreryStat : (s.modWg w f).orreryStat = s.orreryStat := rfl
@[simp] theorem State.modWg_timingArmed : (s.modWg w f).timingArmed = s.timingArmed := rfl
@[simp] theorem State.modWg_parityCount : (s.modWg w f).parityCount = s.parityCount := rfl
@[simp] theorem State.modWg_transitStopped : (s.modWg w f).transitStopped = s.transitStopped := rfl
@[simp] theorem State.modWg_chosen : (s.modWg w f).chosen = s.chosen := rfl
@[simp] theorem State.modWg_lastMismatch : (s.modWg w f).lastMismatch = s.lastMismatch := rfl
@[simp] theorem State.modWg_deviceFault : (s.modWg w f).deviceFault = s.deviceFault := rfl
@[simp] theorem State.modWg_bringUp : (s.modWg w f).bringUp = s.bringUp := rfl
@[simp] theorem State.modWg_pstate : (s.modWg w f).pstate = s.pstate := rfl
@[simp] theorem State.modWg_resetDue : (s.modWg w f).resetDue = s.resetDue := rfl
@[simp] theorem State.modWg_mailArea : (s.modWg w f).mailArea = s.mailArea := rfl
@[simp] theorem State.modWg_response : (s.modWg w f).response = s.response := rfl
@[simp] theorem State.modWg_mailBusy : (s.modWg w f).mailBusy = s.mailBusy := rfl
@[simp] theorem State.modWg_migration : (s.modWg w f).migration = s.migration := rfl
@[simp] theorem State.modWg_movedAway : (s.modWg w f).movedAway = s.movedAway := rfl
@[simp] theorem State.modWg_out : (s.modWg w f).out = s.out := rfl
end

/-! ## State.modTeam -/

section
variable (s : State) (i : TeamId) (f : Team → Team)
@[simp] theorem State.modTeam_agenda : (s.modTeam i f).agenda = s.agenda := rfl
@[simp] theorem State.modTeam_team : (s.modTeam i f).team = if s.team.id = i then f s.team else s.team := rfl
@[simp] theorem State.modTeam_others : (s.modTeam i f).others = s.others.map fun t => if t.id = i then f t else t := rfl
@[simp] theorem State.modTeam_oracle : (s.modTeam i f).oracle = s.oracle := rfl
@[simp] theorem State.modTeam_timebase : (s.modTeam i f).timebase = s.timebase := rfl
@[simp] theorem State.modTeam_mem : (s.modTeam i f).mem = s.mem := rfl
@[simp] theorem State.modTeam_tags : (s.modTeam i f).tags = s.tags := rfl
@[simp] theorem State.modTeam_poison : (s.modTeam i f).poison = s.poison := rfl
@[simp] theorem State.modTeam_checkErr : (s.modTeam i f).checkErr = s.checkErr := rfl
@[simp] theorem State.modTeam_copies : (s.modTeam i f).copies = s.copies := rfl
@[simp] theorem State.modTeam_tlbs : (s.modTeam i f).tlbs = s.tlbs := rfl
@[simp] theorem State.modTeam_ctxs : (s.modTeam i f).ctxs = s.ctxs := rfl
@[simp] theorem State.modTeam_owner : (s.modTeam i f).owner = s.owner := rfl
@[simp] theorem State.modTeam_tableFree : (s.modTeam i f).tableFree = s.tableFree := rfl
@[simp] theorem State.modTeam_cores : (s.modTeam i f).cores = s.cores := rfl
@[simp] theorem State.modTeam_promised : (s.modTeam i f).promised = s.promised := rfl
@[simp] theorem State.modTeam_wgs : (s.modTeam i f).wgs = s.wgs := rfl
@[simp] theorem State.modTeam_gangs : (s.modTeam i f).gangs = s.gangs := rfl
@[simp] theorem State.modTeam_launches : (s.modTeam i f).launches = s.launches := rfl
@[simp] theorem State.modTeam_nextLaunch : (s.modTeam i f).nextLaunch = s.nextLaunch := rfl
@[simp] theorem State.modTeam_nextOrder : (s.modTeam i f).nextOrder = s.nextOrder := rfl
@[simp] theorem State.modTeam_queues : (s.modTeam i f).queues = s.queues := rfl
@[simp] theorem State.modTeam_engines : (s.modTeam i f).engines = s.engines := rfl
@[simp] theorem State.modTeam_nextJob : (s.modTeam i f).nextJob = s.nextJob := rfl
@[simp] theorem State.modTeam_stage1 : (s.modTeam i f).stage1 = s.stage1 := rfl
@[simp] theorem State.modTeam_stage2 : (s.modTeam i f).stage2 = s.stage2 := rfl
@[simp] theorem State.modTeam_fnOwner : (s.modTeam i f).fnOwner = s.fnOwner := rfl
@[simp] theorem State.modTeam_notifyDrop : (s.modTeam i f).notifyDrop = s.notifyDrop := rfl
@[simp] theorem State.modTeam_sweepClock : (s.modTeam i f).sweepClock = s.sweepClock := rfl
@[simp] theorem State.modTeam_sweepDone : (s.modTeam i f).sweepDone = s.sweepDone := rfl
@[simp] theorem State.modTeam_sweepActive : (s.modTeam i f).sweepActive = s.sweepActive := rfl
@[simp] theorem State.modTeam_sweepAgain : (s.modTeam i f).sweepAgain = s.sweepAgain := rfl
@[simp] theorem State.modTeam_sweepEntries : (s.modTeam i f).sweepEntries = s.sweepEntries := rfl
@[simp] theorem State.modTeam_sweepScanned : (s.modTeam i f).sweepScanned = s.sweepScanned := rfl
@[simp] theorem State.modTeam_phaseAck : (s.modTeam i f).phaseAck = s.phaseAck := rfl
@[simp] theorem State.modTeam_phaseBusy : (s.modTeam i f).phaseBusy = s.phaseBusy := rfl
@[simp] theorem State.modTeam_phaseResult : (s.modTeam i f).phaseResult = s.phaseResult := rfl
@[simp] theorem State.modTeam_phaseDone : (s.modTeam i f).phaseDone = s.phaseDone := rfl
@[simp] theorem State.modTeam_domain : (s.modTeam i f).domain = s.domain := rfl
@[simp] theorem State.modTeam_domainRoot : (s.modTeam i f).domainRoot = s.domainRoot := rfl
@[simp] theorem State.modTeam_busyAt : (s.modTeam i f).busyAt = s.busyAt := rfl
@[simp] theorem State.modTeam_specs : (s.modTeam i f).specs = s.specs := rfl
@[simp] theorem State.modTeam_nextSpec : (s.modTeam i f).nextSpec = s.nextSpec := rfl
@[simp] theorem State.modTeam_merges : (s.modTeam i f).merges = s.merges := rfl
@[simp] theorem State.modTeam_nextMerge : (s.modTeam i f).nextMerge = s.nextMerge := rfl
@[simp] theorem State.modTeam_remotes : (s.modTeam i f).remotes = s.remotes := rfl
@[simp] theorem State.modTeam_nextReq : (s.modTeam i f).nextReq = s.nextReq := rfl
@[simp] theorem State.modTeam_dedupe : (s.modTeam i f).dedupe = s.dedupe := rfl
@[simp] theorem State.modTeam_domainClock : (s.modTeam i f).domainClock = s.domainClock := rfl
@[simp] theorem State.modTeam_clockBehind : (s.modTeam i f).clockBehind = s.clockBehind := rfl
@[simp] theorem State.modTeam_lastSync : (s.modTeam i f).lastSync = s.lastSync := rfl
@[simp] theorem State.modTeam_syncLost : (s.modTeam i f).syncLost = s.syncLost := rfl
@[simp] theorem State.modTeam_snoops : (s.modTeam i f).snoops = s.snoops := rfl
@[simp] theorem State.modTeam_heldReqs : (s.modTeam i f).heldReqs = s.heldReqs := rfl
@[simp] theorem State.modTeam_heldHost : (s.modTeam i f).heldHost = s.heldHost := rfl
@[simp] theorem State.modTeam_sharers : (s.modTeam i f).sharers = s.sharers := rfl
@[simp] theorem State.modTeam_expAttached : (s.modTeam i f).expAttached = s.expAttached := rfl
@[simp] theorem State.modTeam_expLost : (s.modTeam i f).expLost = s.expLost := rfl
@[simp] theorem State.modTeam_expReleased : (s.modTeam i f).expReleased = s.expReleased := rfl
@[simp] theorem State.modTeam_ports : (s.modTeam i f).ports = s.ports := rfl
@[simp] theorem State.modTeam_deviceNumber : (s.modTeam i f).deviceNumber = s.deviceNumber := rfl
@[simp] theorem State.modTeam_hdrDropped : (s.modTeam i f).hdrDropped = s.hdrDropped := rfl
@[simp] theorem State.modTeam_hostPorts : (s.modTeam i f).hostPorts = s.hostPorts := rfl
@[simp] theorem State.modTeam_tdisp : (s.modTeam i f).tdisp = s.tdisp := rfl
@[simp] theorem State.modTeam_keySlots : (s.modTeam i f).keySlots = s.keySlots := rfl
@[simp] theorem State.modTeam_taskKeys : (s.modTeam i f).taskKeys = s.taskKeys := rfl
@[simp] theorem State.modTeam_partitions : (s.modTeam i f).partitions = s.partitions := rfl
@[simp] theorem State.modTeam_clusterPower : (s.modTeam i f).clusterPower = s.clusterPower := rfl
@[simp] theorem State.modTeam_closing : (s.modTeam i f).closing = s.closing := rfl
@[simp] theorem State.modTeam_extents : (s.modTeam i f).extents = s.extents := rfl
@[simp] theorem State.modTeam_deviceInfo : (s.modTeam i f).deviceInfo = s.deviceInfo := rfl
@[simp] theorem State.modTeam_clusterMap : (s.modTeam i f).clusterMap = s.clusterMap := rfl
@[simp] theorem State.modTeam_nocWeight : (s.modTeam i f).nocWeight = s.nocWeight := rfl
@[simp] theorem State.modTeam_timingStat : (s.modTeam i f).timingStat = s.timingStat := rfl
@[simp] theorem State.modTeam_injCtl : (s.modTeam i f).injCtl = s.injCtl := rfl
@[simp] theorem State.modTeam_injSeed : (s.modTeam i f).injSeed = s.injSeed := rfl
@[simp] theorem State.modTeam_injRate : (s.modTeam i f).injRate = s.injRate := rfl
@[simp] theorem State.modTeam_stestPass : (s.modTeam i f).stestPass = s.stestPass := rfl
@[simp] theorem State.modTeam_orreryCtl : (s.modTeam i f).orreryCtl = s.orreryCtl := rfl
@[simp] theorem State.modTeam_orreryStat : (s.modTeam i f).orreryStat = s.orreryStat := rfl
@[simp] theorem State.modTeam_timingArmed : (s.modTeam i f).timingArmed = s.timingArmed := rfl
@[simp] theorem State.modTeam_parityCount : (s.modTeam i f).parityCount = s.parityCount := rfl
@[simp] theorem State.modTeam_transitStopped : (s.modTeam i f).transitStopped = s.transitStopped := rfl
@[simp] theorem State.modTeam_chosen : (s.modTeam i f).chosen = s.chosen := rfl
@[simp] theorem State.modTeam_lastMismatch : (s.modTeam i f).lastMismatch = s.lastMismatch := rfl
@[simp] theorem State.modTeam_deviceFault : (s.modTeam i f).deviceFault = s.deviceFault := rfl
@[simp] theorem State.modTeam_bringUp : (s.modTeam i f).bringUp = s.bringUp := rfl
@[simp] theorem State.modTeam_pstate : (s.modTeam i f).pstate = s.pstate := rfl
@[simp] theorem State.modTeam_resetDue : (s.modTeam i f).resetDue = s.resetDue := rfl
@[simp] theorem State.modTeam_mailArea : (s.modTeam i f).mailArea = s.mailArea := rfl
@[simp] theorem State.modTeam_response : (s.modTeam i f).response = s.response := rfl
@[simp] theorem State.modTeam_mailBusy : (s.modTeam i f).mailBusy = s.mailBusy := rfl
@[simp] theorem State.modTeam_migration : (s.modTeam i f).migration = s.migration := rfl
@[simp] theorem State.modTeam_movedAway : (s.modTeam i f).movedAway = s.movedAway := rfl
@[simp] theorem State.modTeam_out : (s.modTeam i f).out = s.out := rfl
end

/-! ## State.post -/

section
variable (s : State) (i : Instr)
@[simp] theorem State.post_agenda : (s.post i).agenda = s.agenda ++ [i] := rfl
@[simp] theorem State.post_team : (s.post i).team = s.team := rfl
@[simp] theorem State.post_others : (s.post i).others = s.others := rfl
@[simp] theorem State.post_oracle : (s.post i).oracle = s.oracle := rfl
@[simp] theorem State.post_timebase : (s.post i).timebase = s.timebase := rfl
@[simp] theorem State.post_mem : (s.post i).mem = s.mem := rfl
@[simp] theorem State.post_tags : (s.post i).tags = s.tags := rfl
@[simp] theorem State.post_poison : (s.post i).poison = s.poison := rfl
@[simp] theorem State.post_checkErr : (s.post i).checkErr = s.checkErr := rfl
@[simp] theorem State.post_copies : (s.post i).copies = s.copies := rfl
@[simp] theorem State.post_tlbs : (s.post i).tlbs = s.tlbs := rfl
@[simp] theorem State.post_ctxs : (s.post i).ctxs = s.ctxs := rfl
@[simp] theorem State.post_owner : (s.post i).owner = s.owner := rfl
@[simp] theorem State.post_tableFree : (s.post i).tableFree = s.tableFree := rfl
@[simp] theorem State.post_cores : (s.post i).cores = s.cores := rfl
@[simp] theorem State.post_promised : (s.post i).promised = s.promised := rfl
@[simp] theorem State.post_wgs : (s.post i).wgs = s.wgs := rfl
@[simp] theorem State.post_gangs : (s.post i).gangs = s.gangs := rfl
@[simp] theorem State.post_launches : (s.post i).launches = s.launches := rfl
@[simp] theorem State.post_nextLaunch : (s.post i).nextLaunch = s.nextLaunch := rfl
@[simp] theorem State.post_nextOrder : (s.post i).nextOrder = s.nextOrder := rfl
@[simp] theorem State.post_queues : (s.post i).queues = s.queues := rfl
@[simp] theorem State.post_engines : (s.post i).engines = s.engines := rfl
@[simp] theorem State.post_nextJob : (s.post i).nextJob = s.nextJob := rfl
@[simp] theorem State.post_stage1 : (s.post i).stage1 = s.stage1 := rfl
@[simp] theorem State.post_stage2 : (s.post i).stage2 = s.stage2 := rfl
@[simp] theorem State.post_fnOwner : (s.post i).fnOwner = s.fnOwner := rfl
@[simp] theorem State.post_notifyDrop : (s.post i).notifyDrop = s.notifyDrop := rfl
@[simp] theorem State.post_sweepClock : (s.post i).sweepClock = s.sweepClock := rfl
@[simp] theorem State.post_sweepDone : (s.post i).sweepDone = s.sweepDone := rfl
@[simp] theorem State.post_sweepActive : (s.post i).sweepActive = s.sweepActive := rfl
@[simp] theorem State.post_sweepAgain : (s.post i).sweepAgain = s.sweepAgain := rfl
@[simp] theorem State.post_sweepEntries : (s.post i).sweepEntries = s.sweepEntries := rfl
@[simp] theorem State.post_sweepScanned : (s.post i).sweepScanned = s.sweepScanned := rfl
@[simp] theorem State.post_phaseAck : (s.post i).phaseAck = s.phaseAck := rfl
@[simp] theorem State.post_phaseBusy : (s.post i).phaseBusy = s.phaseBusy := rfl
@[simp] theorem State.post_phaseResult : (s.post i).phaseResult = s.phaseResult := rfl
@[simp] theorem State.post_phaseDone : (s.post i).phaseDone = s.phaseDone := rfl
@[simp] theorem State.post_domain : (s.post i).domain = s.domain := rfl
@[simp] theorem State.post_domainRoot : (s.post i).domainRoot = s.domainRoot := rfl
@[simp] theorem State.post_busyAt : (s.post i).busyAt = s.busyAt := rfl
@[simp] theorem State.post_specs : (s.post i).specs = s.specs := rfl
@[simp] theorem State.post_nextSpec : (s.post i).nextSpec = s.nextSpec := rfl
@[simp] theorem State.post_merges : (s.post i).merges = s.merges := rfl
@[simp] theorem State.post_nextMerge : (s.post i).nextMerge = s.nextMerge := rfl
@[simp] theorem State.post_remotes : (s.post i).remotes = s.remotes := rfl
@[simp] theorem State.post_nextReq : (s.post i).nextReq = s.nextReq := rfl
@[simp] theorem State.post_dedupe : (s.post i).dedupe = s.dedupe := rfl
@[simp] theorem State.post_domainClock : (s.post i).domainClock = s.domainClock := rfl
@[simp] theorem State.post_clockBehind : (s.post i).clockBehind = s.clockBehind := rfl
@[simp] theorem State.post_lastSync : (s.post i).lastSync = s.lastSync := rfl
@[simp] theorem State.post_syncLost : (s.post i).syncLost = s.syncLost := rfl
@[simp] theorem State.post_snoops : (s.post i).snoops = s.snoops := rfl
@[simp] theorem State.post_heldReqs : (s.post i).heldReqs = s.heldReqs := rfl
@[simp] theorem State.post_heldHost : (s.post i).heldHost = s.heldHost := rfl
@[simp] theorem State.post_sharers : (s.post i).sharers = s.sharers := rfl
@[simp] theorem State.post_expAttached : (s.post i).expAttached = s.expAttached := rfl
@[simp] theorem State.post_expLost : (s.post i).expLost = s.expLost := rfl
@[simp] theorem State.post_expReleased : (s.post i).expReleased = s.expReleased := rfl
@[simp] theorem State.post_ports : (s.post i).ports = s.ports := rfl
@[simp] theorem State.post_deviceNumber : (s.post i).deviceNumber = s.deviceNumber := rfl
@[simp] theorem State.post_hdrDropped : (s.post i).hdrDropped = s.hdrDropped := rfl
@[simp] theorem State.post_hostPorts : (s.post i).hostPorts = s.hostPorts := rfl
@[simp] theorem State.post_tdisp : (s.post i).tdisp = s.tdisp := rfl
@[simp] theorem State.post_keySlots : (s.post i).keySlots = s.keySlots := rfl
@[simp] theorem State.post_taskKeys : (s.post i).taskKeys = s.taskKeys := rfl
@[simp] theorem State.post_partitions : (s.post i).partitions = s.partitions := rfl
@[simp] theorem State.post_clusterPower : (s.post i).clusterPower = s.clusterPower := rfl
@[simp] theorem State.post_closing : (s.post i).closing = s.closing := rfl
@[simp] theorem State.post_extents : (s.post i).extents = s.extents := rfl
@[simp] theorem State.post_deviceInfo : (s.post i).deviceInfo = s.deviceInfo := rfl
@[simp] theorem State.post_clusterMap : (s.post i).clusterMap = s.clusterMap := rfl
@[simp] theorem State.post_nocWeight : (s.post i).nocWeight = s.nocWeight := rfl
@[simp] theorem State.post_timingStat : (s.post i).timingStat = s.timingStat := rfl
@[simp] theorem State.post_injCtl : (s.post i).injCtl = s.injCtl := rfl
@[simp] theorem State.post_injSeed : (s.post i).injSeed = s.injSeed := rfl
@[simp] theorem State.post_injRate : (s.post i).injRate = s.injRate := rfl
@[simp] theorem State.post_stestPass : (s.post i).stestPass = s.stestPass := rfl
@[simp] theorem State.post_orreryCtl : (s.post i).orreryCtl = s.orreryCtl := rfl
@[simp] theorem State.post_orreryStat : (s.post i).orreryStat = s.orreryStat := rfl
@[simp] theorem State.post_timingArmed : (s.post i).timingArmed = s.timingArmed := rfl
@[simp] theorem State.post_parityCount : (s.post i).parityCount = s.parityCount := rfl
@[simp] theorem State.post_transitStopped : (s.post i).transitStopped = s.transitStopped := rfl
@[simp] theorem State.post_chosen : (s.post i).chosen = s.chosen := rfl
@[simp] theorem State.post_lastMismatch : (s.post i).lastMismatch = s.lastMismatch := rfl
@[simp] theorem State.post_deviceFault : (s.post i).deviceFault = s.deviceFault := rfl
@[simp] theorem State.post_bringUp : (s.post i).bringUp = s.bringUp := rfl
@[simp] theorem State.post_pstate : (s.post i).pstate = s.pstate := rfl
@[simp] theorem State.post_resetDue : (s.post i).resetDue = s.resetDue := rfl
@[simp] theorem State.post_mailArea : (s.post i).mailArea = s.mailArea := rfl
@[simp] theorem State.post_response : (s.post i).response = s.response := rfl
@[simp] theorem State.post_mailBusy : (s.post i).mailBusy = s.mailBusy := rfl
@[simp] theorem State.post_migration : (s.post i).migration = s.migration := rfl
@[simp] theorem State.post_movedAway : (s.post i).movedAway = s.movedAway := rfl
@[simp] theorem State.post_out : (s.post i).out = s.out := rfl
end

/-! ## State.postAll -/

section
variable (s : State) (is : List Instr)
@[simp] theorem State.postAll_agenda : (s.postAll is).agenda = s.agenda ++ is := rfl
@[simp] theorem State.postAll_team : (s.postAll is).team = s.team := rfl
@[simp] theorem State.postAll_others : (s.postAll is).others = s.others := rfl
@[simp] theorem State.postAll_oracle : (s.postAll is).oracle = s.oracle := rfl
@[simp] theorem State.postAll_timebase : (s.postAll is).timebase = s.timebase := rfl
@[simp] theorem State.postAll_mem : (s.postAll is).mem = s.mem := rfl
@[simp] theorem State.postAll_tags : (s.postAll is).tags = s.tags := rfl
@[simp] theorem State.postAll_poison : (s.postAll is).poison = s.poison := rfl
@[simp] theorem State.postAll_checkErr : (s.postAll is).checkErr = s.checkErr := rfl
@[simp] theorem State.postAll_copies : (s.postAll is).copies = s.copies := rfl
@[simp] theorem State.postAll_tlbs : (s.postAll is).tlbs = s.tlbs := rfl
@[simp] theorem State.postAll_ctxs : (s.postAll is).ctxs = s.ctxs := rfl
@[simp] theorem State.postAll_owner : (s.postAll is).owner = s.owner := rfl
@[simp] theorem State.postAll_tableFree : (s.postAll is).tableFree = s.tableFree := rfl
@[simp] theorem State.postAll_cores : (s.postAll is).cores = s.cores := rfl
@[simp] theorem State.postAll_promised : (s.postAll is).promised = s.promised := rfl
@[simp] theorem State.postAll_wgs : (s.postAll is).wgs = s.wgs := rfl
@[simp] theorem State.postAll_gangs : (s.postAll is).gangs = s.gangs := rfl
@[simp] theorem State.postAll_launches : (s.postAll is).launches = s.launches := rfl
@[simp] theorem State.postAll_nextLaunch : (s.postAll is).nextLaunch = s.nextLaunch := rfl
@[simp] theorem State.postAll_nextOrder : (s.postAll is).nextOrder = s.nextOrder := rfl
@[simp] theorem State.postAll_queues : (s.postAll is).queues = s.queues := rfl
@[simp] theorem State.postAll_engines : (s.postAll is).engines = s.engines := rfl
@[simp] theorem State.postAll_nextJob : (s.postAll is).nextJob = s.nextJob := rfl
@[simp] theorem State.postAll_stage1 : (s.postAll is).stage1 = s.stage1 := rfl
@[simp] theorem State.postAll_stage2 : (s.postAll is).stage2 = s.stage2 := rfl
@[simp] theorem State.postAll_fnOwner : (s.postAll is).fnOwner = s.fnOwner := rfl
@[simp] theorem State.postAll_notifyDrop : (s.postAll is).notifyDrop = s.notifyDrop := rfl
@[simp] theorem State.postAll_sweepClock : (s.postAll is).sweepClock = s.sweepClock := rfl
@[simp] theorem State.postAll_sweepDone : (s.postAll is).sweepDone = s.sweepDone := rfl
@[simp] theorem State.postAll_sweepActive : (s.postAll is).sweepActive = s.sweepActive := rfl
@[simp] theorem State.postAll_sweepAgain : (s.postAll is).sweepAgain = s.sweepAgain := rfl
@[simp] theorem State.postAll_sweepEntries : (s.postAll is).sweepEntries = s.sweepEntries := rfl
@[simp] theorem State.postAll_sweepScanned : (s.postAll is).sweepScanned = s.sweepScanned := rfl
@[simp] theorem State.postAll_phaseAck : (s.postAll is).phaseAck = s.phaseAck := rfl
@[simp] theorem State.postAll_phaseBusy : (s.postAll is).phaseBusy = s.phaseBusy := rfl
@[simp] theorem State.postAll_phaseResult : (s.postAll is).phaseResult = s.phaseResult := rfl
@[simp] theorem State.postAll_phaseDone : (s.postAll is).phaseDone = s.phaseDone := rfl
@[simp] theorem State.postAll_domain : (s.postAll is).domain = s.domain := rfl
@[simp] theorem State.postAll_domainRoot : (s.postAll is).domainRoot = s.domainRoot := rfl
@[simp] theorem State.postAll_busyAt : (s.postAll is).busyAt = s.busyAt := rfl
@[simp] theorem State.postAll_specs : (s.postAll is).specs = s.specs := rfl
@[simp] theorem State.postAll_nextSpec : (s.postAll is).nextSpec = s.nextSpec := rfl
@[simp] theorem State.postAll_merges : (s.postAll is).merges = s.merges := rfl
@[simp] theorem State.postAll_nextMerge : (s.postAll is).nextMerge = s.nextMerge := rfl
@[simp] theorem State.postAll_remotes : (s.postAll is).remotes = s.remotes := rfl
@[simp] theorem State.postAll_nextReq : (s.postAll is).nextReq = s.nextReq := rfl
@[simp] theorem State.postAll_dedupe : (s.postAll is).dedupe = s.dedupe := rfl
@[simp] theorem State.postAll_domainClock : (s.postAll is).domainClock = s.domainClock := rfl
@[simp] theorem State.postAll_clockBehind : (s.postAll is).clockBehind = s.clockBehind := rfl
@[simp] theorem State.postAll_lastSync : (s.postAll is).lastSync = s.lastSync := rfl
@[simp] theorem State.postAll_syncLost : (s.postAll is).syncLost = s.syncLost := rfl
@[simp] theorem State.postAll_snoops : (s.postAll is).snoops = s.snoops := rfl
@[simp] theorem State.postAll_heldReqs : (s.postAll is).heldReqs = s.heldReqs := rfl
@[simp] theorem State.postAll_heldHost : (s.postAll is).heldHost = s.heldHost := rfl
@[simp] theorem State.postAll_sharers : (s.postAll is).sharers = s.sharers := rfl
@[simp] theorem State.postAll_expAttached : (s.postAll is).expAttached = s.expAttached := rfl
@[simp] theorem State.postAll_expLost : (s.postAll is).expLost = s.expLost := rfl
@[simp] theorem State.postAll_expReleased : (s.postAll is).expReleased = s.expReleased := rfl
@[simp] theorem State.postAll_ports : (s.postAll is).ports = s.ports := rfl
@[simp] theorem State.postAll_deviceNumber : (s.postAll is).deviceNumber = s.deviceNumber := rfl
@[simp] theorem State.postAll_hdrDropped : (s.postAll is).hdrDropped = s.hdrDropped := rfl
@[simp] theorem State.postAll_hostPorts : (s.postAll is).hostPorts = s.hostPorts := rfl
@[simp] theorem State.postAll_tdisp : (s.postAll is).tdisp = s.tdisp := rfl
@[simp] theorem State.postAll_keySlots : (s.postAll is).keySlots = s.keySlots := rfl
@[simp] theorem State.postAll_taskKeys : (s.postAll is).taskKeys = s.taskKeys := rfl
@[simp] theorem State.postAll_partitions : (s.postAll is).partitions = s.partitions := rfl
@[simp] theorem State.postAll_clusterPower : (s.postAll is).clusterPower = s.clusterPower := rfl
@[simp] theorem State.postAll_closing : (s.postAll is).closing = s.closing := rfl
@[simp] theorem State.postAll_extents : (s.postAll is).extents = s.extents := rfl
@[simp] theorem State.postAll_deviceInfo : (s.postAll is).deviceInfo = s.deviceInfo := rfl
@[simp] theorem State.postAll_clusterMap : (s.postAll is).clusterMap = s.clusterMap := rfl
@[simp] theorem State.postAll_nocWeight : (s.postAll is).nocWeight = s.nocWeight := rfl
@[simp] theorem State.postAll_timingStat : (s.postAll is).timingStat = s.timingStat := rfl
@[simp] theorem State.postAll_injCtl : (s.postAll is).injCtl = s.injCtl := rfl
@[simp] theorem State.postAll_injSeed : (s.postAll is).injSeed = s.injSeed := rfl
@[simp] theorem State.postAll_injRate : (s.postAll is).injRate = s.injRate := rfl
@[simp] theorem State.postAll_stestPass : (s.postAll is).stestPass = s.stestPass := rfl
@[simp] theorem State.postAll_orreryCtl : (s.postAll is).orreryCtl = s.orreryCtl := rfl
@[simp] theorem State.postAll_orreryStat : (s.postAll is).orreryStat = s.orreryStat := rfl
@[simp] theorem State.postAll_timingArmed : (s.postAll is).timingArmed = s.timingArmed := rfl
@[simp] theorem State.postAll_parityCount : (s.postAll is).parityCount = s.parityCount := rfl
@[simp] theorem State.postAll_transitStopped : (s.postAll is).transitStopped = s.transitStopped := rfl
@[simp] theorem State.postAll_chosen : (s.postAll is).chosen = s.chosen := rfl
@[simp] theorem State.postAll_lastMismatch : (s.postAll is).lastMismatch = s.lastMismatch := rfl
@[simp] theorem State.postAll_deviceFault : (s.postAll is).deviceFault = s.deviceFault := rfl
@[simp] theorem State.postAll_bringUp : (s.postAll is).bringUp = s.bringUp := rfl
@[simp] theorem State.postAll_pstate : (s.postAll is).pstate = s.pstate := rfl
@[simp] theorem State.postAll_resetDue : (s.postAll is).resetDue = s.resetDue := rfl
@[simp] theorem State.postAll_mailArea : (s.postAll is).mailArea = s.mailArea := rfl
@[simp] theorem State.postAll_response : (s.postAll is).response = s.response := rfl
@[simp] theorem State.postAll_mailBusy : (s.postAll is).mailBusy = s.mailBusy := rfl
@[simp] theorem State.postAll_migration : (s.postAll is).migration = s.migration := rfl
@[simp] theorem State.postAll_movedAway : (s.postAll is).movedAway = s.movedAway := rfl
@[simp] theorem State.postAll_out : (s.postAll is).out = s.out := rfl
end

/-! ## State.tick -/

section
variable (s : State)
@[simp] theorem State.tick_agenda : (s.tick).agenda = s.agenda := rfl
@[simp] theorem State.tick_team : (s.tick).team = s.team := rfl
@[simp] theorem State.tick_others : (s.tick).others = s.others := rfl
@[simp] theorem State.tick_oracle : (s.tick).oracle = s.oracle + 1 := rfl
@[simp] theorem State.tick_timebase : (s.tick).timebase = s.timebase := rfl
@[simp] theorem State.tick_mem : (s.tick).mem = s.mem := rfl
@[simp] theorem State.tick_tags : (s.tick).tags = s.tags := rfl
@[simp] theorem State.tick_poison : (s.tick).poison = s.poison := rfl
@[simp] theorem State.tick_checkErr : (s.tick).checkErr = s.checkErr := rfl
@[simp] theorem State.tick_copies : (s.tick).copies = s.copies := rfl
@[simp] theorem State.tick_tlbs : (s.tick).tlbs = s.tlbs := rfl
@[simp] theorem State.tick_ctxs : (s.tick).ctxs = s.ctxs := rfl
@[simp] theorem State.tick_owner : (s.tick).owner = s.owner := rfl
@[simp] theorem State.tick_tableFree : (s.tick).tableFree = s.tableFree := rfl
@[simp] theorem State.tick_cores : (s.tick).cores = s.cores := rfl
@[simp] theorem State.tick_promised : (s.tick).promised = s.promised := rfl
@[simp] theorem State.tick_wgs : (s.tick).wgs = s.wgs := rfl
@[simp] theorem State.tick_gangs : (s.tick).gangs = s.gangs := rfl
@[simp] theorem State.tick_launches : (s.tick).launches = s.launches := rfl
@[simp] theorem State.tick_nextLaunch : (s.tick).nextLaunch = s.nextLaunch := rfl
@[simp] theorem State.tick_nextOrder : (s.tick).nextOrder = s.nextOrder := rfl
@[simp] theorem State.tick_queues : (s.tick).queues = s.queues := rfl
@[simp] theorem State.tick_engines : (s.tick).engines = s.engines := rfl
@[simp] theorem State.tick_nextJob : (s.tick).nextJob = s.nextJob := rfl
@[simp] theorem State.tick_stage1 : (s.tick).stage1 = s.stage1 := rfl
@[simp] theorem State.tick_stage2 : (s.tick).stage2 = s.stage2 := rfl
@[simp] theorem State.tick_fnOwner : (s.tick).fnOwner = s.fnOwner := rfl
@[simp] theorem State.tick_notifyDrop : (s.tick).notifyDrop = s.notifyDrop := rfl
@[simp] theorem State.tick_sweepClock : (s.tick).sweepClock = s.sweepClock := rfl
@[simp] theorem State.tick_sweepDone : (s.tick).sweepDone = s.sweepDone := rfl
@[simp] theorem State.tick_sweepActive : (s.tick).sweepActive = s.sweepActive := rfl
@[simp] theorem State.tick_sweepAgain : (s.tick).sweepAgain = s.sweepAgain := rfl
@[simp] theorem State.tick_sweepEntries : (s.tick).sweepEntries = s.sweepEntries := rfl
@[simp] theorem State.tick_sweepScanned : (s.tick).sweepScanned = s.sweepScanned := rfl
@[simp] theorem State.tick_phaseAck : (s.tick).phaseAck = s.phaseAck := rfl
@[simp] theorem State.tick_phaseBusy : (s.tick).phaseBusy = s.phaseBusy := rfl
@[simp] theorem State.tick_phaseResult : (s.tick).phaseResult = s.phaseResult := rfl
@[simp] theorem State.tick_phaseDone : (s.tick).phaseDone = s.phaseDone := rfl
@[simp] theorem State.tick_domain : (s.tick).domain = s.domain := rfl
@[simp] theorem State.tick_domainRoot : (s.tick).domainRoot = s.domainRoot := rfl
@[simp] theorem State.tick_busyAt : (s.tick).busyAt = s.busyAt := rfl
@[simp] theorem State.tick_specs : (s.tick).specs = s.specs := rfl
@[simp] theorem State.tick_nextSpec : (s.tick).nextSpec = s.nextSpec := rfl
@[simp] theorem State.tick_merges : (s.tick).merges = s.merges := rfl
@[simp] theorem State.tick_nextMerge : (s.tick).nextMerge = s.nextMerge := rfl
@[simp] theorem State.tick_remotes : (s.tick).remotes = s.remotes := rfl
@[simp] theorem State.tick_nextReq : (s.tick).nextReq = s.nextReq := rfl
@[simp] theorem State.tick_dedupe : (s.tick).dedupe = s.dedupe := rfl
@[simp] theorem State.tick_domainClock : (s.tick).domainClock = s.domainClock := rfl
@[simp] theorem State.tick_clockBehind : (s.tick).clockBehind = s.clockBehind := rfl
@[simp] theorem State.tick_lastSync : (s.tick).lastSync = s.lastSync := rfl
@[simp] theorem State.tick_syncLost : (s.tick).syncLost = s.syncLost := rfl
@[simp] theorem State.tick_snoops : (s.tick).snoops = s.snoops := rfl
@[simp] theorem State.tick_heldReqs : (s.tick).heldReqs = s.heldReqs := rfl
@[simp] theorem State.tick_heldHost : (s.tick).heldHost = s.heldHost := rfl
@[simp] theorem State.tick_sharers : (s.tick).sharers = s.sharers := rfl
@[simp] theorem State.tick_expAttached : (s.tick).expAttached = s.expAttached := rfl
@[simp] theorem State.tick_expLost : (s.tick).expLost = s.expLost := rfl
@[simp] theorem State.tick_expReleased : (s.tick).expReleased = s.expReleased := rfl
@[simp] theorem State.tick_ports : (s.tick).ports = s.ports := rfl
@[simp] theorem State.tick_deviceNumber : (s.tick).deviceNumber = s.deviceNumber := rfl
@[simp] theorem State.tick_hdrDropped : (s.tick).hdrDropped = s.hdrDropped := rfl
@[simp] theorem State.tick_hostPorts : (s.tick).hostPorts = s.hostPorts := rfl
@[simp] theorem State.tick_tdisp : (s.tick).tdisp = s.tdisp := rfl
@[simp] theorem State.tick_keySlots : (s.tick).keySlots = s.keySlots := rfl
@[simp] theorem State.tick_taskKeys : (s.tick).taskKeys = s.taskKeys := rfl
@[simp] theorem State.tick_partitions : (s.tick).partitions = s.partitions := rfl
@[simp] theorem State.tick_clusterPower : (s.tick).clusterPower = s.clusterPower := rfl
@[simp] theorem State.tick_closing : (s.tick).closing = s.closing := rfl
@[simp] theorem State.tick_extents : (s.tick).extents = s.extents := rfl
@[simp] theorem State.tick_deviceInfo : (s.tick).deviceInfo = s.deviceInfo := rfl
@[simp] theorem State.tick_clusterMap : (s.tick).clusterMap = s.clusterMap := rfl
@[simp] theorem State.tick_nocWeight : (s.tick).nocWeight = s.nocWeight := rfl
@[simp] theorem State.tick_timingStat : (s.tick).timingStat = s.timingStat := rfl
@[simp] theorem State.tick_injCtl : (s.tick).injCtl = s.injCtl := rfl
@[simp] theorem State.tick_injSeed : (s.tick).injSeed = s.injSeed := rfl
@[simp] theorem State.tick_injRate : (s.tick).injRate = s.injRate := rfl
@[simp] theorem State.tick_stestPass : (s.tick).stestPass = s.stestPass := rfl
@[simp] theorem State.tick_orreryCtl : (s.tick).orreryCtl = s.orreryCtl := rfl
@[simp] theorem State.tick_orreryStat : (s.tick).orreryStat = s.orreryStat := rfl
@[simp] theorem State.tick_timingArmed : (s.tick).timingArmed = s.timingArmed := rfl
@[simp] theorem State.tick_parityCount : (s.tick).parityCount = s.parityCount := rfl
@[simp] theorem State.tick_transitStopped : (s.tick).transitStopped = s.transitStopped := rfl
@[simp] theorem State.tick_chosen : (s.tick).chosen = s.chosen := rfl
@[simp] theorem State.tick_lastMismatch : (s.tick).lastMismatch = s.lastMismatch := rfl
@[simp] theorem State.tick_deviceFault : (s.tick).deviceFault = s.deviceFault := rfl
@[simp] theorem State.tick_bringUp : (s.tick).bringUp = s.bringUp := rfl
@[simp] theorem State.tick_pstate : (s.tick).pstate = s.pstate := rfl
@[simp] theorem State.tick_resetDue : (s.tick).resetDue = s.resetDue := rfl
@[simp] theorem State.tick_mailArea : (s.tick).mailArea = s.mailArea := rfl
@[simp] theorem State.tick_response : (s.tick).response = s.response := rfl
@[simp] theorem State.tick_mailBusy : (s.tick).mailBusy = s.mailBusy := rfl
@[simp] theorem State.tick_migration : (s.tick).migration = s.migration := rfl
@[simp] theorem State.tick_movedAway : (s.tick).movedAway = s.movedAway := rfl
@[simp] theorem State.tick_out : (s.tick).out = s.out := rfl
end

/-! ## State.send -/

section
variable (s : State) (o : Output)
@[simp] theorem State.send_agenda : (s.send o).agenda = s.agenda := rfl
@[simp] theorem State.send_team : (s.send o).team = s.team := rfl
@[simp] theorem State.send_others : (s.send o).others = s.others := rfl
@[simp] theorem State.send_oracle : (s.send o).oracle = s.oracle := rfl
@[simp] theorem State.send_timebase : (s.send o).timebase = s.timebase := rfl
@[simp] theorem State.send_mem : (s.send o).mem = s.mem := rfl
@[simp] theorem State.send_tags : (s.send o).tags = s.tags := rfl
@[simp] theorem State.send_poison : (s.send o).poison = s.poison := rfl
@[simp] theorem State.send_checkErr : (s.send o).checkErr = s.checkErr := rfl
@[simp] theorem State.send_copies : (s.send o).copies = s.copies := rfl
@[simp] theorem State.send_tlbs : (s.send o).tlbs = s.tlbs := rfl
@[simp] theorem State.send_ctxs : (s.send o).ctxs = s.ctxs := rfl
@[simp] theorem State.send_owner : (s.send o).owner = s.owner := rfl
@[simp] theorem State.send_tableFree : (s.send o).tableFree = s.tableFree := rfl
@[simp] theorem State.send_cores : (s.send o).cores = s.cores := rfl
@[simp] theorem State.send_promised : (s.send o).promised = s.promised := rfl
@[simp] theorem State.send_wgs : (s.send o).wgs = s.wgs := rfl
@[simp] theorem State.send_gangs : (s.send o).gangs = s.gangs := rfl
@[simp] theorem State.send_launches : (s.send o).launches = s.launches := rfl
@[simp] theorem State.send_nextLaunch : (s.send o).nextLaunch = s.nextLaunch := rfl
@[simp] theorem State.send_nextOrder : (s.send o).nextOrder = s.nextOrder := rfl
@[simp] theorem State.send_queues : (s.send o).queues = s.queues := rfl
@[simp] theorem State.send_engines : (s.send o).engines = s.engines := rfl
@[simp] theorem State.send_nextJob : (s.send o).nextJob = s.nextJob := rfl
@[simp] theorem State.send_stage1 : (s.send o).stage1 = s.stage1 := rfl
@[simp] theorem State.send_stage2 : (s.send o).stage2 = s.stage2 := rfl
@[simp] theorem State.send_fnOwner : (s.send o).fnOwner = s.fnOwner := rfl
@[simp] theorem State.send_notifyDrop : (s.send o).notifyDrop = s.notifyDrop := rfl
@[simp] theorem State.send_sweepClock : (s.send o).sweepClock = s.sweepClock := rfl
@[simp] theorem State.send_sweepDone : (s.send o).sweepDone = s.sweepDone := rfl
@[simp] theorem State.send_sweepActive : (s.send o).sweepActive = s.sweepActive := rfl
@[simp] theorem State.send_sweepAgain : (s.send o).sweepAgain = s.sweepAgain := rfl
@[simp] theorem State.send_sweepEntries : (s.send o).sweepEntries = s.sweepEntries := rfl
@[simp] theorem State.send_sweepScanned : (s.send o).sweepScanned = s.sweepScanned := rfl
@[simp] theorem State.send_phaseAck : (s.send o).phaseAck = s.phaseAck := rfl
@[simp] theorem State.send_phaseBusy : (s.send o).phaseBusy = s.phaseBusy := rfl
@[simp] theorem State.send_phaseResult : (s.send o).phaseResult = s.phaseResult := rfl
@[simp] theorem State.send_phaseDone : (s.send o).phaseDone = s.phaseDone := rfl
@[simp] theorem State.send_domain : (s.send o).domain = s.domain := rfl
@[simp] theorem State.send_domainRoot : (s.send o).domainRoot = s.domainRoot := rfl
@[simp] theorem State.send_busyAt : (s.send o).busyAt = s.busyAt := rfl
@[simp] theorem State.send_specs : (s.send o).specs = s.specs := rfl
@[simp] theorem State.send_nextSpec : (s.send o).nextSpec = s.nextSpec := rfl
@[simp] theorem State.send_merges : (s.send o).merges = s.merges := rfl
@[simp] theorem State.send_nextMerge : (s.send o).nextMerge = s.nextMerge := rfl
@[simp] theorem State.send_remotes : (s.send o).remotes = s.remotes := rfl
@[simp] theorem State.send_nextReq : (s.send o).nextReq = s.nextReq := rfl
@[simp] theorem State.send_dedupe : (s.send o).dedupe = s.dedupe := rfl
@[simp] theorem State.send_domainClock : (s.send o).domainClock = s.domainClock := rfl
@[simp] theorem State.send_clockBehind : (s.send o).clockBehind = s.clockBehind := rfl
@[simp] theorem State.send_lastSync : (s.send o).lastSync = s.lastSync := rfl
@[simp] theorem State.send_syncLost : (s.send o).syncLost = s.syncLost := rfl
@[simp] theorem State.send_snoops : (s.send o).snoops = s.snoops := rfl
@[simp] theorem State.send_heldReqs : (s.send o).heldReqs = s.heldReqs := rfl
@[simp] theorem State.send_heldHost : (s.send o).heldHost = s.heldHost := rfl
@[simp] theorem State.send_sharers : (s.send o).sharers = s.sharers := rfl
@[simp] theorem State.send_expAttached : (s.send o).expAttached = s.expAttached := rfl
@[simp] theorem State.send_expLost : (s.send o).expLost = s.expLost := rfl
@[simp] theorem State.send_expReleased : (s.send o).expReleased = s.expReleased := rfl
@[simp] theorem State.send_ports : (s.send o).ports = s.ports := rfl
@[simp] theorem State.send_deviceNumber : (s.send o).deviceNumber = s.deviceNumber := rfl
@[simp] theorem State.send_hdrDropped : (s.send o).hdrDropped = s.hdrDropped := rfl
@[simp] theorem State.send_hostPorts : (s.send o).hostPorts = s.hostPorts := rfl
@[simp] theorem State.send_tdisp : (s.send o).tdisp = s.tdisp := rfl
@[simp] theorem State.send_keySlots : (s.send o).keySlots = s.keySlots := rfl
@[simp] theorem State.send_taskKeys : (s.send o).taskKeys = s.taskKeys := rfl
@[simp] theorem State.send_partitions : (s.send o).partitions = s.partitions := rfl
@[simp] theorem State.send_clusterPower : (s.send o).clusterPower = s.clusterPower := rfl
@[simp] theorem State.send_closing : (s.send o).closing = s.closing := rfl
@[simp] theorem State.send_extents : (s.send o).extents = s.extents := rfl
@[simp] theorem State.send_deviceInfo : (s.send o).deviceInfo = s.deviceInfo := rfl
@[simp] theorem State.send_clusterMap : (s.send o).clusterMap = s.clusterMap := rfl
@[simp] theorem State.send_nocWeight : (s.send o).nocWeight = s.nocWeight := rfl
@[simp] theorem State.send_timingStat : (s.send o).timingStat = s.timingStat := rfl
@[simp] theorem State.send_injCtl : (s.send o).injCtl = s.injCtl := rfl
@[simp] theorem State.send_injSeed : (s.send o).injSeed = s.injSeed := rfl
@[simp] theorem State.send_injRate : (s.send o).injRate = s.injRate := rfl
@[simp] theorem State.send_stestPass : (s.send o).stestPass = s.stestPass := rfl
@[simp] theorem State.send_orreryCtl : (s.send o).orreryCtl = s.orreryCtl := rfl
@[simp] theorem State.send_orreryStat : (s.send o).orreryStat = s.orreryStat := rfl
@[simp] theorem State.send_timingArmed : (s.send o).timingArmed = s.timingArmed := rfl
@[simp] theorem State.send_parityCount : (s.send o).parityCount = s.parityCount := rfl
@[simp] theorem State.send_transitStopped : (s.send o).transitStopped = s.transitStopped := rfl
@[simp] theorem State.send_chosen : (s.send o).chosen = s.chosen := rfl
@[simp] theorem State.send_lastMismatch : (s.send o).lastMismatch = s.lastMismatch := rfl
@[simp] theorem State.send_deviceFault : (s.send o).deviceFault = s.deviceFault := rfl
@[simp] theorem State.send_bringUp : (s.send o).bringUp = s.bringUp := rfl
@[simp] theorem State.send_pstate : (s.send o).pstate = s.pstate := rfl
@[simp] theorem State.send_resetDue : (s.send o).resetDue = s.resetDue := rfl
@[simp] theorem State.send_mailArea : (s.send o).mailArea = s.mailArea := rfl
@[simp] theorem State.send_response : (s.send o).response = s.response := rfl
@[simp] theorem State.send_mailBusy : (s.send o).mailBusy = s.mailBusy := rfl
@[simp] theorem State.send_migration : (s.send o).migration = s.migration := rfl
@[simp] theorem State.send_movedAway : (s.send o).movedAway = s.movedAway := rfl
@[simp] theorem State.send_out : (s.send o).out = o :: s.out := rfl
end

/-! ## State.writeByte -/

section
variable (s : State) (k : Nat) (b : Byte)
@[simp] theorem State.writeByte_agenda : (s.writeByte k b).agenda = s.agenda := rfl
@[simp] theorem State.writeByte_team : (s.writeByte k b).team = s.team := rfl
@[simp] theorem State.writeByte_others : (s.writeByte k b).others = s.others := rfl
@[simp] theorem State.writeByte_oracle : (s.writeByte k b).oracle = s.oracle := rfl
@[simp] theorem State.writeByte_timebase : (s.writeByte k b).timebase = s.timebase := rfl
@[simp] theorem State.writeByte_mem : (s.writeByte k b).mem = SMap.put 0 s.mem k b := rfl
@[simp] theorem State.writeByte_tags : (s.writeByte k b).tags = s.tags := rfl
@[simp] theorem State.writeByte_poison : (s.writeByte k b).poison = s.poison := rfl
@[simp] theorem State.writeByte_checkErr : (s.writeByte k b).checkErr = s.checkErr := rfl
@[simp] theorem State.writeByte_copies : (s.writeByte k b).copies = s.copies := rfl
@[simp] theorem State.writeByte_tlbs : (s.writeByte k b).tlbs = s.tlbs := rfl
@[simp] theorem State.writeByte_ctxs : (s.writeByte k b).ctxs = s.ctxs := rfl
@[simp] theorem State.writeByte_owner : (s.writeByte k b).owner = s.owner := rfl
@[simp] theorem State.writeByte_tableFree : (s.writeByte k b).tableFree = s.tableFree := rfl
@[simp] theorem State.writeByte_cores : (s.writeByte k b).cores = s.cores := rfl
@[simp] theorem State.writeByte_promised : (s.writeByte k b).promised = s.promised := rfl
@[simp] theorem State.writeByte_wgs : (s.writeByte k b).wgs = s.wgs := rfl
@[simp] theorem State.writeByte_gangs : (s.writeByte k b).gangs = s.gangs := rfl
@[simp] theorem State.writeByte_launches : (s.writeByte k b).launches = s.launches := rfl
@[simp] theorem State.writeByte_nextLaunch : (s.writeByte k b).nextLaunch = s.nextLaunch := rfl
@[simp] theorem State.writeByte_nextOrder : (s.writeByte k b).nextOrder = s.nextOrder := rfl
@[simp] theorem State.writeByte_queues : (s.writeByte k b).queues = s.queues := rfl
@[simp] theorem State.writeByte_engines : (s.writeByte k b).engines = s.engines := rfl
@[simp] theorem State.writeByte_nextJob : (s.writeByte k b).nextJob = s.nextJob := rfl
@[simp] theorem State.writeByte_stage1 : (s.writeByte k b).stage1 = s.stage1 := rfl
@[simp] theorem State.writeByte_stage2 : (s.writeByte k b).stage2 = s.stage2 := rfl
@[simp] theorem State.writeByte_fnOwner : (s.writeByte k b).fnOwner = s.fnOwner := rfl
@[simp] theorem State.writeByte_notifyDrop : (s.writeByte k b).notifyDrop = s.notifyDrop := rfl
@[simp] theorem State.writeByte_sweepClock : (s.writeByte k b).sweepClock = s.sweepClock := rfl
@[simp] theorem State.writeByte_sweepDone : (s.writeByte k b).sweepDone = s.sweepDone := rfl
@[simp] theorem State.writeByte_sweepActive : (s.writeByte k b).sweepActive = s.sweepActive := rfl
@[simp] theorem State.writeByte_sweepAgain : (s.writeByte k b).sweepAgain = s.sweepAgain := rfl
@[simp] theorem State.writeByte_sweepEntries : (s.writeByte k b).sweepEntries = s.sweepEntries := rfl
@[simp] theorem State.writeByte_sweepScanned : (s.writeByte k b).sweepScanned = s.sweepScanned := rfl
@[simp] theorem State.writeByte_phaseAck : (s.writeByte k b).phaseAck = s.phaseAck := rfl
@[simp] theorem State.writeByte_phaseBusy : (s.writeByte k b).phaseBusy = s.phaseBusy := rfl
@[simp] theorem State.writeByte_phaseResult : (s.writeByte k b).phaseResult = s.phaseResult := rfl
@[simp] theorem State.writeByte_phaseDone : (s.writeByte k b).phaseDone = s.phaseDone := rfl
@[simp] theorem State.writeByte_domain : (s.writeByte k b).domain = s.domain := rfl
@[simp] theorem State.writeByte_domainRoot : (s.writeByte k b).domainRoot = s.domainRoot := rfl
@[simp] theorem State.writeByte_busyAt : (s.writeByte k b).busyAt = s.busyAt := rfl
@[simp] theorem State.writeByte_specs : (s.writeByte k b).specs = s.specs := rfl
@[simp] theorem State.writeByte_nextSpec : (s.writeByte k b).nextSpec = s.nextSpec := rfl
@[simp] theorem State.writeByte_merges : (s.writeByte k b).merges = s.merges := rfl
@[simp] theorem State.writeByte_nextMerge : (s.writeByte k b).nextMerge = s.nextMerge := rfl
@[simp] theorem State.writeByte_remotes : (s.writeByte k b).remotes = s.remotes := rfl
@[simp] theorem State.writeByte_nextReq : (s.writeByte k b).nextReq = s.nextReq := rfl
@[simp] theorem State.writeByte_dedupe : (s.writeByte k b).dedupe = s.dedupe := rfl
@[simp] theorem State.writeByte_domainClock : (s.writeByte k b).domainClock = s.domainClock := rfl
@[simp] theorem State.writeByte_clockBehind : (s.writeByte k b).clockBehind = s.clockBehind := rfl
@[simp] theorem State.writeByte_lastSync : (s.writeByte k b).lastSync = s.lastSync := rfl
@[simp] theorem State.writeByte_syncLost : (s.writeByte k b).syncLost = s.syncLost := rfl
@[simp] theorem State.writeByte_snoops : (s.writeByte k b).snoops = s.snoops := rfl
@[simp] theorem State.writeByte_heldReqs : (s.writeByte k b).heldReqs = s.heldReqs := rfl
@[simp] theorem State.writeByte_heldHost : (s.writeByte k b).heldHost = s.heldHost := rfl
@[simp] theorem State.writeByte_sharers : (s.writeByte k b).sharers = s.sharers := rfl
@[simp] theorem State.writeByte_expAttached : (s.writeByte k b).expAttached = s.expAttached := rfl
@[simp] theorem State.writeByte_expLost : (s.writeByte k b).expLost = s.expLost := rfl
@[simp] theorem State.writeByte_expReleased : (s.writeByte k b).expReleased = s.expReleased := rfl
@[simp] theorem State.writeByte_ports : (s.writeByte k b).ports = s.ports := rfl
@[simp] theorem State.writeByte_deviceNumber : (s.writeByte k b).deviceNumber = s.deviceNumber := rfl
@[simp] theorem State.writeByte_hdrDropped : (s.writeByte k b).hdrDropped = s.hdrDropped := rfl
@[simp] theorem State.writeByte_hostPorts : (s.writeByte k b).hostPorts = s.hostPorts := rfl
@[simp] theorem State.writeByte_tdisp : (s.writeByte k b).tdisp = s.tdisp := rfl
@[simp] theorem State.writeByte_keySlots : (s.writeByte k b).keySlots = s.keySlots := rfl
@[simp] theorem State.writeByte_taskKeys : (s.writeByte k b).taskKeys = s.taskKeys := rfl
@[simp] theorem State.writeByte_partitions : (s.writeByte k b).partitions = s.partitions := rfl
@[simp] theorem State.writeByte_clusterPower : (s.writeByte k b).clusterPower = s.clusterPower := rfl
@[simp] theorem State.writeByte_closing : (s.writeByte k b).closing = s.closing := rfl
@[simp] theorem State.writeByte_extents : (s.writeByte k b).extents = s.extents := rfl
@[simp] theorem State.writeByte_deviceInfo : (s.writeByte k b).deviceInfo = s.deviceInfo := rfl
@[simp] theorem State.writeByte_clusterMap : (s.writeByte k b).clusterMap = s.clusterMap := rfl
@[simp] theorem State.writeByte_nocWeight : (s.writeByte k b).nocWeight = s.nocWeight := rfl
@[simp] theorem State.writeByte_timingStat : (s.writeByte k b).timingStat = s.timingStat := rfl
@[simp] theorem State.writeByte_injCtl : (s.writeByte k b).injCtl = s.injCtl := rfl
@[simp] theorem State.writeByte_injSeed : (s.writeByte k b).injSeed = s.injSeed := rfl
@[simp] theorem State.writeByte_injRate : (s.writeByte k b).injRate = s.injRate := rfl
@[simp] theorem State.writeByte_stestPass : (s.writeByte k b).stestPass = s.stestPass := rfl
@[simp] theorem State.writeByte_orreryCtl : (s.writeByte k b).orreryCtl = s.orreryCtl := rfl
@[simp] theorem State.writeByte_orreryStat : (s.writeByte k b).orreryStat = s.orreryStat := rfl
@[simp] theorem State.writeByte_timingArmed : (s.writeByte k b).timingArmed = s.timingArmed := rfl
@[simp] theorem State.writeByte_parityCount : (s.writeByte k b).parityCount = s.parityCount := rfl
@[simp] theorem State.writeByte_transitStopped : (s.writeByte k b).transitStopped = s.transitStopped := rfl
@[simp] theorem State.writeByte_chosen : (s.writeByte k b).chosen = s.chosen := rfl
@[simp] theorem State.writeByte_lastMismatch : (s.writeByte k b).lastMismatch = s.lastMismatch := rfl
@[simp] theorem State.writeByte_deviceFault : (s.writeByte k b).deviceFault = s.deviceFault := rfl
@[simp] theorem State.writeByte_bringUp : (s.writeByte k b).bringUp = s.bringUp := rfl
@[simp] theorem State.writeByte_pstate : (s.writeByte k b).pstate = s.pstate := rfl
@[simp] theorem State.writeByte_resetDue : (s.writeByte k b).resetDue = s.resetDue := rfl
@[simp] theorem State.writeByte_mailArea : (s.writeByte k b).mailArea = s.mailArea := rfl
@[simp] theorem State.writeByte_response : (s.writeByte k b).response = s.response := rfl
@[simp] theorem State.writeByte_mailBusy : (s.writeByte k b).mailBusy = s.mailBusy := rfl
@[simp] theorem State.writeByte_migration : (s.writeByte k b).migration = s.migration := rfl
@[simp] theorem State.writeByte_movedAway : (s.writeByte k b).movedAway = s.movedAway := rfl
@[simp] theorem State.writeByte_out : (s.writeByte k b).out = s.out := rfl
end

/-! ## State.writeBytes -/

section
variable (s : State) (k : Nat) (bs : List Byte)
@[simp] theorem State.writeBytes_agenda : (s.writeBytes k bs).agenda = s.agenda := rfl
@[simp] theorem State.writeBytes_team : (s.writeBytes k bs).team = s.team := rfl
@[simp] theorem State.writeBytes_others : (s.writeBytes k bs).others = s.others := rfl
@[simp] theorem State.writeBytes_oracle : (s.writeBytes k bs).oracle = s.oracle := rfl
@[simp] theorem State.writeBytes_timebase : (s.writeBytes k bs).timebase = s.timebase := rfl
@[simp] theorem State.writeBytes_mem : (s.writeBytes k bs).mem = writeBytesFrom k bs s.mem := rfl
@[simp] theorem State.writeBytes_tags : (s.writeBytes k bs).tags = s.tags := rfl
@[simp] theorem State.writeBytes_poison : (s.writeBytes k bs).poison = s.poison := rfl
@[simp] theorem State.writeBytes_checkErr : (s.writeBytes k bs).checkErr = s.checkErr := rfl
@[simp] theorem State.writeBytes_copies : (s.writeBytes k bs).copies = s.copies := rfl
@[simp] theorem State.writeBytes_tlbs : (s.writeBytes k bs).tlbs = s.tlbs := rfl
@[simp] theorem State.writeBytes_ctxs : (s.writeBytes k bs).ctxs = s.ctxs := rfl
@[simp] theorem State.writeBytes_owner : (s.writeBytes k bs).owner = s.owner := rfl
@[simp] theorem State.writeBytes_tableFree : (s.writeBytes k bs).tableFree = s.tableFree := rfl
@[simp] theorem State.writeBytes_cores : (s.writeBytes k bs).cores = s.cores := rfl
@[simp] theorem State.writeBytes_promised : (s.writeBytes k bs).promised = s.promised := rfl
@[simp] theorem State.writeBytes_wgs : (s.writeBytes k bs).wgs = s.wgs := rfl
@[simp] theorem State.writeBytes_gangs : (s.writeBytes k bs).gangs = s.gangs := rfl
@[simp] theorem State.writeBytes_launches : (s.writeBytes k bs).launches = s.launches := rfl
@[simp] theorem State.writeBytes_nextLaunch : (s.writeBytes k bs).nextLaunch = s.nextLaunch := rfl
@[simp] theorem State.writeBytes_nextOrder : (s.writeBytes k bs).nextOrder = s.nextOrder := rfl
@[simp] theorem State.writeBytes_queues : (s.writeBytes k bs).queues = s.queues := rfl
@[simp] theorem State.writeBytes_engines : (s.writeBytes k bs).engines = s.engines := rfl
@[simp] theorem State.writeBytes_nextJob : (s.writeBytes k bs).nextJob = s.nextJob := rfl
@[simp] theorem State.writeBytes_stage1 : (s.writeBytes k bs).stage1 = s.stage1 := rfl
@[simp] theorem State.writeBytes_stage2 : (s.writeBytes k bs).stage2 = s.stage2 := rfl
@[simp] theorem State.writeBytes_fnOwner : (s.writeBytes k bs).fnOwner = s.fnOwner := rfl
@[simp] theorem State.writeBytes_notifyDrop : (s.writeBytes k bs).notifyDrop = s.notifyDrop := rfl
@[simp] theorem State.writeBytes_sweepClock : (s.writeBytes k bs).sweepClock = s.sweepClock := rfl
@[simp] theorem State.writeBytes_sweepDone : (s.writeBytes k bs).sweepDone = s.sweepDone := rfl
@[simp] theorem State.writeBytes_sweepActive : (s.writeBytes k bs).sweepActive = s.sweepActive := rfl
@[simp] theorem State.writeBytes_sweepAgain : (s.writeBytes k bs).sweepAgain = s.sweepAgain := rfl
@[simp] theorem State.writeBytes_sweepEntries : (s.writeBytes k bs).sweepEntries = s.sweepEntries := rfl
@[simp] theorem State.writeBytes_sweepScanned : (s.writeBytes k bs).sweepScanned = s.sweepScanned := rfl
@[simp] theorem State.writeBytes_phaseAck : (s.writeBytes k bs).phaseAck = s.phaseAck := rfl
@[simp] theorem State.writeBytes_phaseBusy : (s.writeBytes k bs).phaseBusy = s.phaseBusy := rfl
@[simp] theorem State.writeBytes_phaseResult : (s.writeBytes k bs).phaseResult = s.phaseResult := rfl
@[simp] theorem State.writeBytes_phaseDone : (s.writeBytes k bs).phaseDone = s.phaseDone := rfl
@[simp] theorem State.writeBytes_domain : (s.writeBytes k bs).domain = s.domain := rfl
@[simp] theorem State.writeBytes_domainRoot : (s.writeBytes k bs).domainRoot = s.domainRoot := rfl
@[simp] theorem State.writeBytes_busyAt : (s.writeBytes k bs).busyAt = s.busyAt := rfl
@[simp] theorem State.writeBytes_specs : (s.writeBytes k bs).specs = s.specs := rfl
@[simp] theorem State.writeBytes_nextSpec : (s.writeBytes k bs).nextSpec = s.nextSpec := rfl
@[simp] theorem State.writeBytes_merges : (s.writeBytes k bs).merges = s.merges := rfl
@[simp] theorem State.writeBytes_nextMerge : (s.writeBytes k bs).nextMerge = s.nextMerge := rfl
@[simp] theorem State.writeBytes_remotes : (s.writeBytes k bs).remotes = s.remotes := rfl
@[simp] theorem State.writeBytes_nextReq : (s.writeBytes k bs).nextReq = s.nextReq := rfl
@[simp] theorem State.writeBytes_dedupe : (s.writeBytes k bs).dedupe = s.dedupe := rfl
@[simp] theorem State.writeBytes_domainClock : (s.writeBytes k bs).domainClock = s.domainClock := rfl
@[simp] theorem State.writeBytes_clockBehind : (s.writeBytes k bs).clockBehind = s.clockBehind := rfl
@[simp] theorem State.writeBytes_lastSync : (s.writeBytes k bs).lastSync = s.lastSync := rfl
@[simp] theorem State.writeBytes_syncLost : (s.writeBytes k bs).syncLost = s.syncLost := rfl
@[simp] theorem State.writeBytes_snoops : (s.writeBytes k bs).snoops = s.snoops := rfl
@[simp] theorem State.writeBytes_heldReqs : (s.writeBytes k bs).heldReqs = s.heldReqs := rfl
@[simp] theorem State.writeBytes_heldHost : (s.writeBytes k bs).heldHost = s.heldHost := rfl
@[simp] theorem State.writeBytes_sharers : (s.writeBytes k bs).sharers = s.sharers := rfl
@[simp] theorem State.writeBytes_expAttached : (s.writeBytes k bs).expAttached = s.expAttached := rfl
@[simp] theorem State.writeBytes_expLost : (s.writeBytes k bs).expLost = s.expLost := rfl
@[simp] theorem State.writeBytes_expReleased : (s.writeBytes k bs).expReleased = s.expReleased := rfl
@[simp] theorem State.writeBytes_ports : (s.writeBytes k bs).ports = s.ports := rfl
@[simp] theorem State.writeBytes_deviceNumber : (s.writeBytes k bs).deviceNumber = s.deviceNumber := rfl
@[simp] theorem State.writeBytes_hdrDropped : (s.writeBytes k bs).hdrDropped = s.hdrDropped := rfl
@[simp] theorem State.writeBytes_hostPorts : (s.writeBytes k bs).hostPorts = s.hostPorts := rfl
@[simp] theorem State.writeBytes_tdisp : (s.writeBytes k bs).tdisp = s.tdisp := rfl
@[simp] theorem State.writeBytes_keySlots : (s.writeBytes k bs).keySlots = s.keySlots := rfl
@[simp] theorem State.writeBytes_taskKeys : (s.writeBytes k bs).taskKeys = s.taskKeys := rfl
@[simp] theorem State.writeBytes_partitions : (s.writeBytes k bs).partitions = s.partitions := rfl
@[simp] theorem State.writeBytes_clusterPower : (s.writeBytes k bs).clusterPower = s.clusterPower := rfl
@[simp] theorem State.writeBytes_closing : (s.writeBytes k bs).closing = s.closing := rfl
@[simp] theorem State.writeBytes_extents : (s.writeBytes k bs).extents = s.extents := rfl
@[simp] theorem State.writeBytes_deviceInfo : (s.writeBytes k bs).deviceInfo = s.deviceInfo := rfl
@[simp] theorem State.writeBytes_clusterMap : (s.writeBytes k bs).clusterMap = s.clusterMap := rfl
@[simp] theorem State.writeBytes_nocWeight : (s.writeBytes k bs).nocWeight = s.nocWeight := rfl
@[simp] theorem State.writeBytes_timingStat : (s.writeBytes k bs).timingStat = s.timingStat := rfl
@[simp] theorem State.writeBytes_injCtl : (s.writeBytes k bs).injCtl = s.injCtl := rfl
@[simp] theorem State.writeBytes_injSeed : (s.writeBytes k bs).injSeed = s.injSeed := rfl
@[simp] theorem State.writeBytes_injRate : (s.writeBytes k bs).injRate = s.injRate := rfl
@[simp] theorem State.writeBytes_stestPass : (s.writeBytes k bs).stestPass = s.stestPass := rfl
@[simp] theorem State.writeBytes_orreryCtl : (s.writeBytes k bs).orreryCtl = s.orreryCtl := rfl
@[simp] theorem State.writeBytes_orreryStat : (s.writeBytes k bs).orreryStat = s.orreryStat := rfl
@[simp] theorem State.writeBytes_timingArmed : (s.writeBytes k bs).timingArmed = s.timingArmed := rfl
@[simp] theorem State.writeBytes_parityCount : (s.writeBytes k bs).parityCount = s.parityCount := rfl
@[simp] theorem State.writeBytes_transitStopped : (s.writeBytes k bs).transitStopped = s.transitStopped := rfl
@[simp] theorem State.writeBytes_chosen : (s.writeBytes k bs).chosen = s.chosen := rfl
@[simp] theorem State.writeBytes_lastMismatch : (s.writeBytes k bs).lastMismatch = s.lastMismatch := rfl
@[simp] theorem State.writeBytes_deviceFault : (s.writeBytes k bs).deviceFault = s.deviceFault := rfl
@[simp] theorem State.writeBytes_bringUp : (s.writeBytes k bs).bringUp = s.bringUp := rfl
@[simp] theorem State.writeBytes_pstate : (s.writeBytes k bs).pstate = s.pstate := rfl
@[simp] theorem State.writeBytes_resetDue : (s.writeBytes k bs).resetDue = s.resetDue := rfl
@[simp] theorem State.writeBytes_mailArea : (s.writeBytes k bs).mailArea = s.mailArea := rfl
@[simp] theorem State.writeBytes_response : (s.writeBytes k bs).response = s.response := rfl
@[simp] theorem State.writeBytes_mailBusy : (s.writeBytes k bs).mailBusy = s.mailBusy := rfl
@[simp] theorem State.writeBytes_migration : (s.writeBytes k bs).migration = s.migration := rfl
@[simp] theorem State.writeBytes_movedAway : (s.writeBytes k bs).movedAway = s.movedAway := rfl
@[simp] theorem State.writeBytes_out : (s.writeBytes k bs).out = s.out := rfl
end

/-! ## State.setTag -/

section
variable (s : State) (k : Nat) (b : Bool)
@[simp] theorem State.setTag_agenda : (s.setTag k b).agenda = s.agenda := rfl
@[simp] theorem State.setTag_team : (s.setTag k b).team = s.team := rfl
@[simp] theorem State.setTag_others : (s.setTag k b).others = s.others := rfl
@[simp] theorem State.setTag_oracle : (s.setTag k b).oracle = s.oracle := rfl
@[simp] theorem State.setTag_timebase : (s.setTag k b).timebase = s.timebase := rfl
@[simp] theorem State.setTag_mem : (s.setTag k b).mem = s.mem := rfl
@[simp] theorem State.setTag_tags : (s.setTag k b).tags = s.tags.put false (k / 16) (b && regionTagged (k / 16 * 16)) := rfl
@[simp] theorem State.setTag_poison : (s.setTag k b).poison = s.poison := rfl
@[simp] theorem State.setTag_checkErr : (s.setTag k b).checkErr = s.checkErr := rfl
@[simp] theorem State.setTag_copies : (s.setTag k b).copies = s.copies := rfl
@[simp] theorem State.setTag_tlbs : (s.setTag k b).tlbs = s.tlbs := rfl
@[simp] theorem State.setTag_ctxs : (s.setTag k b).ctxs = s.ctxs := rfl
@[simp] theorem State.setTag_owner : (s.setTag k b).owner = s.owner := rfl
@[simp] theorem State.setTag_tableFree : (s.setTag k b).tableFree = s.tableFree := rfl
@[simp] theorem State.setTag_cores : (s.setTag k b).cores = s.cores := rfl
@[simp] theorem State.setTag_promised : (s.setTag k b).promised = s.promised := rfl
@[simp] theorem State.setTag_wgs : (s.setTag k b).wgs = s.wgs := rfl
@[simp] theorem State.setTag_gangs : (s.setTag k b).gangs = s.gangs := rfl
@[simp] theorem State.setTag_launches : (s.setTag k b).launches = s.launches := rfl
@[simp] theorem State.setTag_nextLaunch : (s.setTag k b).nextLaunch = s.nextLaunch := rfl
@[simp] theorem State.setTag_nextOrder : (s.setTag k b).nextOrder = s.nextOrder := rfl
@[simp] theorem State.setTag_queues : (s.setTag k b).queues = s.queues := rfl
@[simp] theorem State.setTag_engines : (s.setTag k b).engines = s.engines := rfl
@[simp] theorem State.setTag_nextJob : (s.setTag k b).nextJob = s.nextJob := rfl
@[simp] theorem State.setTag_stage1 : (s.setTag k b).stage1 = s.stage1 := rfl
@[simp] theorem State.setTag_stage2 : (s.setTag k b).stage2 = s.stage2 := rfl
@[simp] theorem State.setTag_fnOwner : (s.setTag k b).fnOwner = s.fnOwner := rfl
@[simp] theorem State.setTag_notifyDrop : (s.setTag k b).notifyDrop = s.notifyDrop := rfl
@[simp] theorem State.setTag_sweepClock : (s.setTag k b).sweepClock = s.sweepClock := rfl
@[simp] theorem State.setTag_sweepDone : (s.setTag k b).sweepDone = s.sweepDone := rfl
@[simp] theorem State.setTag_sweepActive : (s.setTag k b).sweepActive = s.sweepActive := rfl
@[simp] theorem State.setTag_sweepAgain : (s.setTag k b).sweepAgain = s.sweepAgain := rfl
@[simp] theorem State.setTag_sweepEntries : (s.setTag k b).sweepEntries = s.sweepEntries := rfl
@[simp] theorem State.setTag_sweepScanned : (s.setTag k b).sweepScanned = s.sweepScanned := rfl
@[simp] theorem State.setTag_phaseAck : (s.setTag k b).phaseAck = s.phaseAck := rfl
@[simp] theorem State.setTag_phaseBusy : (s.setTag k b).phaseBusy = s.phaseBusy := rfl
@[simp] theorem State.setTag_phaseResult : (s.setTag k b).phaseResult = s.phaseResult := rfl
@[simp] theorem State.setTag_phaseDone : (s.setTag k b).phaseDone = s.phaseDone := rfl
@[simp] theorem State.setTag_domain : (s.setTag k b).domain = s.domain := rfl
@[simp] theorem State.setTag_domainRoot : (s.setTag k b).domainRoot = s.domainRoot := rfl
@[simp] theorem State.setTag_busyAt : (s.setTag k b).busyAt = s.busyAt := rfl
@[simp] theorem State.setTag_specs : (s.setTag k b).specs = s.specs := rfl
@[simp] theorem State.setTag_nextSpec : (s.setTag k b).nextSpec = s.nextSpec := rfl
@[simp] theorem State.setTag_merges : (s.setTag k b).merges = s.merges := rfl
@[simp] theorem State.setTag_nextMerge : (s.setTag k b).nextMerge = s.nextMerge := rfl
@[simp] theorem State.setTag_remotes : (s.setTag k b).remotes = s.remotes := rfl
@[simp] theorem State.setTag_nextReq : (s.setTag k b).nextReq = s.nextReq := rfl
@[simp] theorem State.setTag_dedupe : (s.setTag k b).dedupe = s.dedupe := rfl
@[simp] theorem State.setTag_domainClock : (s.setTag k b).domainClock = s.domainClock := rfl
@[simp] theorem State.setTag_clockBehind : (s.setTag k b).clockBehind = s.clockBehind := rfl
@[simp] theorem State.setTag_lastSync : (s.setTag k b).lastSync = s.lastSync := rfl
@[simp] theorem State.setTag_syncLost : (s.setTag k b).syncLost = s.syncLost := rfl
@[simp] theorem State.setTag_snoops : (s.setTag k b).snoops = s.snoops := rfl
@[simp] theorem State.setTag_heldReqs : (s.setTag k b).heldReqs = s.heldReqs := rfl
@[simp] theorem State.setTag_heldHost : (s.setTag k b).heldHost = s.heldHost := rfl
@[simp] theorem State.setTag_sharers : (s.setTag k b).sharers = s.sharers := rfl
@[simp] theorem State.setTag_expAttached : (s.setTag k b).expAttached = s.expAttached := rfl
@[simp] theorem State.setTag_expLost : (s.setTag k b).expLost = s.expLost := rfl
@[simp] theorem State.setTag_expReleased : (s.setTag k b).expReleased = s.expReleased := rfl
@[simp] theorem State.setTag_ports : (s.setTag k b).ports = s.ports := rfl
@[simp] theorem State.setTag_deviceNumber : (s.setTag k b).deviceNumber = s.deviceNumber := rfl
@[simp] theorem State.setTag_hdrDropped : (s.setTag k b).hdrDropped = s.hdrDropped := rfl
@[simp] theorem State.setTag_hostPorts : (s.setTag k b).hostPorts = s.hostPorts := rfl
@[simp] theorem State.setTag_tdisp : (s.setTag k b).tdisp = s.tdisp := rfl
@[simp] theorem State.setTag_keySlots : (s.setTag k b).keySlots = s.keySlots := rfl
@[simp] theorem State.setTag_taskKeys : (s.setTag k b).taskKeys = s.taskKeys := rfl
@[simp] theorem State.setTag_partitions : (s.setTag k b).partitions = s.partitions := rfl
@[simp] theorem State.setTag_clusterPower : (s.setTag k b).clusterPower = s.clusterPower := rfl
@[simp] theorem State.setTag_closing : (s.setTag k b).closing = s.closing := rfl
@[simp] theorem State.setTag_extents : (s.setTag k b).extents = s.extents := rfl
@[simp] theorem State.setTag_deviceInfo : (s.setTag k b).deviceInfo = s.deviceInfo := rfl
@[simp] theorem State.setTag_clusterMap : (s.setTag k b).clusterMap = s.clusterMap := rfl
@[simp] theorem State.setTag_nocWeight : (s.setTag k b).nocWeight = s.nocWeight := rfl
@[simp] theorem State.setTag_timingStat : (s.setTag k b).timingStat = s.timingStat := rfl
@[simp] theorem State.setTag_injCtl : (s.setTag k b).injCtl = s.injCtl := rfl
@[simp] theorem State.setTag_injSeed : (s.setTag k b).injSeed = s.injSeed := rfl
@[simp] theorem State.setTag_injRate : (s.setTag k b).injRate = s.injRate := rfl
@[simp] theorem State.setTag_stestPass : (s.setTag k b).stestPass = s.stestPass := rfl
@[simp] theorem State.setTag_orreryCtl : (s.setTag k b).orreryCtl = s.orreryCtl := rfl
@[simp] theorem State.setTag_orreryStat : (s.setTag k b).orreryStat = s.orreryStat := rfl
@[simp] theorem State.setTag_timingArmed : (s.setTag k b).timingArmed = s.timingArmed := rfl
@[simp] theorem State.setTag_parityCount : (s.setTag k b).parityCount = s.parityCount := rfl
@[simp] theorem State.setTag_transitStopped : (s.setTag k b).transitStopped = s.transitStopped := rfl
@[simp] theorem State.setTag_chosen : (s.setTag k b).chosen = s.chosen := rfl
@[simp] theorem State.setTag_lastMismatch : (s.setTag k b).lastMismatch = s.lastMismatch := rfl
@[simp] theorem State.setTag_deviceFault : (s.setTag k b).deviceFault = s.deviceFault := rfl
@[simp] theorem State.setTag_bringUp : (s.setTag k b).bringUp = s.bringUp := rfl
@[simp] theorem State.setTag_pstate : (s.setTag k b).pstate = s.pstate := rfl
@[simp] theorem State.setTag_resetDue : (s.setTag k b).resetDue = s.resetDue := rfl
@[simp] theorem State.setTag_mailArea : (s.setTag k b).mailArea = s.mailArea := rfl
@[simp] theorem State.setTag_response : (s.setTag k b).response = s.response := rfl
@[simp] theorem State.setTag_mailBusy : (s.setTag k b).mailBusy = s.mailBusy := rfl
@[simp] theorem State.setTag_migration : (s.setTag k b).migration = s.migration := rfl
@[simp] theorem State.setTag_movedAway : (s.setTag k b).movedAway = s.movedAway := rfl
@[simp] theorem State.setTag_out : (s.setTag k b).out = s.out := rfl
end

/-! ## State.setPoison -/

section
variable (s : State) (l : Nat) (b : Bool)
@[simp] theorem State.setPoison_agenda : (s.setPoison l b).agenda = s.agenda := rfl
@[simp] theorem State.setPoison_team : (s.setPoison l b).team = s.team := rfl
@[simp] theorem State.setPoison_others : (s.setPoison l b).others = s.others := rfl
@[simp] theorem State.setPoison_oracle : (s.setPoison l b).oracle = s.oracle := rfl
@[simp] theorem State.setPoison_timebase : (s.setPoison l b).timebase = s.timebase := rfl
@[simp] theorem State.setPoison_mem : (s.setPoison l b).mem = s.mem := rfl
@[simp] theorem State.setPoison_tags : (s.setPoison l b).tags = s.tags := rfl
@[simp] theorem State.setPoison_poison : (s.setPoison l b).poison = s.poison.put false l b := rfl
@[simp] theorem State.setPoison_checkErr : (s.setPoison l b).checkErr = s.checkErr := rfl
@[simp] theorem State.setPoison_copies : (s.setPoison l b).copies = s.copies := rfl
@[simp] theorem State.setPoison_tlbs : (s.setPoison l b).tlbs = s.tlbs := rfl
@[simp] theorem State.setPoison_ctxs : (s.setPoison l b).ctxs = s.ctxs := rfl
@[simp] theorem State.setPoison_owner : (s.setPoison l b).owner = s.owner := rfl
@[simp] theorem State.setPoison_tableFree : (s.setPoison l b).tableFree = s.tableFree := rfl
@[simp] theorem State.setPoison_cores : (s.setPoison l b).cores = s.cores := rfl
@[simp] theorem State.setPoison_promised : (s.setPoison l b).promised = s.promised := rfl
@[simp] theorem State.setPoison_wgs : (s.setPoison l b).wgs = s.wgs := rfl
@[simp] theorem State.setPoison_gangs : (s.setPoison l b).gangs = s.gangs := rfl
@[simp] theorem State.setPoison_launches : (s.setPoison l b).launches = s.launches := rfl
@[simp] theorem State.setPoison_nextLaunch : (s.setPoison l b).nextLaunch = s.nextLaunch := rfl
@[simp] theorem State.setPoison_nextOrder : (s.setPoison l b).nextOrder = s.nextOrder := rfl
@[simp] theorem State.setPoison_queues : (s.setPoison l b).queues = s.queues := rfl
@[simp] theorem State.setPoison_engines : (s.setPoison l b).engines = s.engines := rfl
@[simp] theorem State.setPoison_nextJob : (s.setPoison l b).nextJob = s.nextJob := rfl
@[simp] theorem State.setPoison_stage1 : (s.setPoison l b).stage1 = s.stage1 := rfl
@[simp] theorem State.setPoison_stage2 : (s.setPoison l b).stage2 = s.stage2 := rfl
@[simp] theorem State.setPoison_fnOwner : (s.setPoison l b).fnOwner = s.fnOwner := rfl
@[simp] theorem State.setPoison_notifyDrop : (s.setPoison l b).notifyDrop = s.notifyDrop := rfl
@[simp] theorem State.setPoison_sweepClock : (s.setPoison l b).sweepClock = s.sweepClock := rfl
@[simp] theorem State.setPoison_sweepDone : (s.setPoison l b).sweepDone = s.sweepDone := rfl
@[simp] theorem State.setPoison_sweepActive : (s.setPoison l b).sweepActive = s.sweepActive := rfl
@[simp] theorem State.setPoison_sweepAgain : (s.setPoison l b).sweepAgain = s.sweepAgain := rfl
@[simp] theorem State.setPoison_sweepEntries : (s.setPoison l b).sweepEntries = s.sweepEntries := rfl
@[simp] theorem State.setPoison_sweepScanned : (s.setPoison l b).sweepScanned = s.sweepScanned := rfl
@[simp] theorem State.setPoison_phaseAck : (s.setPoison l b).phaseAck = s.phaseAck := rfl
@[simp] theorem State.setPoison_phaseBusy : (s.setPoison l b).phaseBusy = s.phaseBusy := rfl
@[simp] theorem State.setPoison_phaseResult : (s.setPoison l b).phaseResult = s.phaseResult := rfl
@[simp] theorem State.setPoison_phaseDone : (s.setPoison l b).phaseDone = s.phaseDone := rfl
@[simp] theorem State.setPoison_domain : (s.setPoison l b).domain = s.domain := rfl
@[simp] theorem State.setPoison_domainRoot : (s.setPoison l b).domainRoot = s.domainRoot := rfl
@[simp] theorem State.setPoison_busyAt : (s.setPoison l b).busyAt = s.busyAt := rfl
@[simp] theorem State.setPoison_specs : (s.setPoison l b).specs = s.specs := rfl
@[simp] theorem State.setPoison_nextSpec : (s.setPoison l b).nextSpec = s.nextSpec := rfl
@[simp] theorem State.setPoison_merges : (s.setPoison l b).merges = s.merges := rfl
@[simp] theorem State.setPoison_nextMerge : (s.setPoison l b).nextMerge = s.nextMerge := rfl
@[simp] theorem State.setPoison_remotes : (s.setPoison l b).remotes = s.remotes := rfl
@[simp] theorem State.setPoison_nextReq : (s.setPoison l b).nextReq = s.nextReq := rfl
@[simp] theorem State.setPoison_dedupe : (s.setPoison l b).dedupe = s.dedupe := rfl
@[simp] theorem State.setPoison_domainClock : (s.setPoison l b).domainClock = s.domainClock := rfl
@[simp] theorem State.setPoison_clockBehind : (s.setPoison l b).clockBehind = s.clockBehind := rfl
@[simp] theorem State.setPoison_lastSync : (s.setPoison l b).lastSync = s.lastSync := rfl
@[simp] theorem State.setPoison_syncLost : (s.setPoison l b).syncLost = s.syncLost := rfl
@[simp] theorem State.setPoison_snoops : (s.setPoison l b).snoops = s.snoops := rfl
@[simp] theorem State.setPoison_heldReqs : (s.setPoison l b).heldReqs = s.heldReqs := rfl
@[simp] theorem State.setPoison_heldHost : (s.setPoison l b).heldHost = s.heldHost := rfl
@[simp] theorem State.setPoison_sharers : (s.setPoison l b).sharers = s.sharers := rfl
@[simp] theorem State.setPoison_expAttached : (s.setPoison l b).expAttached = s.expAttached := rfl
@[simp] theorem State.setPoison_expLost : (s.setPoison l b).expLost = s.expLost := rfl
@[simp] theorem State.setPoison_expReleased : (s.setPoison l b).expReleased = s.expReleased := rfl
@[simp] theorem State.setPoison_ports : (s.setPoison l b).ports = s.ports := rfl
@[simp] theorem State.setPoison_deviceNumber : (s.setPoison l b).deviceNumber = s.deviceNumber := rfl
@[simp] theorem State.setPoison_hdrDropped : (s.setPoison l b).hdrDropped = s.hdrDropped := rfl
@[simp] theorem State.setPoison_hostPorts : (s.setPoison l b).hostPorts = s.hostPorts := rfl
@[simp] theorem State.setPoison_tdisp : (s.setPoison l b).tdisp = s.tdisp := rfl
@[simp] theorem State.setPoison_keySlots : (s.setPoison l b).keySlots = s.keySlots := rfl
@[simp] theorem State.setPoison_taskKeys : (s.setPoison l b).taskKeys = s.taskKeys := rfl
@[simp] theorem State.setPoison_partitions : (s.setPoison l b).partitions = s.partitions := rfl
@[simp] theorem State.setPoison_clusterPower : (s.setPoison l b).clusterPower = s.clusterPower := rfl
@[simp] theorem State.setPoison_closing : (s.setPoison l b).closing = s.closing := rfl
@[simp] theorem State.setPoison_extents : (s.setPoison l b).extents = s.extents := rfl
@[simp] theorem State.setPoison_deviceInfo : (s.setPoison l b).deviceInfo = s.deviceInfo := rfl
@[simp] theorem State.setPoison_clusterMap : (s.setPoison l b).clusterMap = s.clusterMap := rfl
@[simp] theorem State.setPoison_nocWeight : (s.setPoison l b).nocWeight = s.nocWeight := rfl
@[simp] theorem State.setPoison_timingStat : (s.setPoison l b).timingStat = s.timingStat := rfl
@[simp] theorem State.setPoison_injCtl : (s.setPoison l b).injCtl = s.injCtl := rfl
@[simp] theorem State.setPoison_injSeed : (s.setPoison l b).injSeed = s.injSeed := rfl
@[simp] theorem State.setPoison_injRate : (s.setPoison l b).injRate = s.injRate := rfl
@[simp] theorem State.setPoison_stestPass : (s.setPoison l b).stestPass = s.stestPass := rfl
@[simp] theorem State.setPoison_orreryCtl : (s.setPoison l b).orreryCtl = s.orreryCtl := rfl
@[simp] theorem State.setPoison_orreryStat : (s.setPoison l b).orreryStat = s.orreryStat := rfl
@[simp] theorem State.setPoison_timingArmed : (s.setPoison l b).timingArmed = s.timingArmed := rfl
@[simp] theorem State.setPoison_parityCount : (s.setPoison l b).parityCount = s.parityCount := rfl
@[simp] theorem State.setPoison_transitStopped : (s.setPoison l b).transitStopped = s.transitStopped := rfl
@[simp] theorem State.setPoison_chosen : (s.setPoison l b).chosen = s.chosen := rfl
@[simp] theorem State.setPoison_lastMismatch : (s.setPoison l b).lastMismatch = s.lastMismatch := rfl
@[simp] theorem State.setPoison_deviceFault : (s.setPoison l b).deviceFault = s.deviceFault := rfl
@[simp] theorem State.setPoison_bringUp : (s.setPoison l b).bringUp = s.bringUp := rfl
@[simp] theorem State.setPoison_pstate : (s.setPoison l b).pstate = s.pstate := rfl
@[simp] theorem State.setPoison_resetDue : (s.setPoison l b).resetDue = s.resetDue := rfl
@[simp] theorem State.setPoison_mailArea : (s.setPoison l b).mailArea = s.mailArea := rfl
@[simp] theorem State.setPoison_response : (s.setPoison l b).response = s.response := rfl
@[simp] theorem State.setPoison_mailBusy : (s.setPoison l b).mailBusy = s.mailBusy := rfl
@[simp] theorem State.setPoison_migration : (s.setPoison l b).migration = s.migration := rfl
@[simp] theorem State.setPoison_movedAway : (s.setPoison l b).movedAway = s.movedAway := rfl
@[simp] theorem State.setPoison_out : (s.setPoison l b).out = s.out := rfl
end

/-! ## State.makeCheck -/

section
variable (s : State) (l : Nat)
@[simp] theorem State.makeCheck_agenda : (s.makeCheck l).agenda = s.agenda := rfl
@[simp] theorem State.makeCheck_team : (s.makeCheck l).team = s.team := rfl
@[simp] theorem State.makeCheck_others : (s.makeCheck l).others = s.others := rfl
@[simp] theorem State.makeCheck_oracle : (s.makeCheck l).oracle = s.oracle := rfl
@[simp] theorem State.makeCheck_timebase : (s.makeCheck l).timebase = s.timebase := rfl
@[simp] theorem State.makeCheck_mem : (s.makeCheck l).mem = s.mem := rfl
@[simp] theorem State.makeCheck_tags : (s.makeCheck l).tags = s.tags := rfl
@[simp] theorem State.makeCheck_poison : (s.makeCheck l).poison = s.poison := rfl
@[simp] theorem State.makeCheck_checkErr : (s.makeCheck l).checkErr = s.checkErr.put 0 l 0 := rfl
@[simp] theorem State.makeCheck_copies : (s.makeCheck l).copies = s.copies := rfl
@[simp] theorem State.makeCheck_tlbs : (s.makeCheck l).tlbs = s.tlbs := rfl
@[simp] theorem State.makeCheck_ctxs : (s.makeCheck l).ctxs = s.ctxs := rfl
@[simp] theorem State.makeCheck_owner : (s.makeCheck l).owner = s.owner := rfl
@[simp] theorem State.makeCheck_tableFree : (s.makeCheck l).tableFree = s.tableFree := rfl
@[simp] theorem State.makeCheck_cores : (s.makeCheck l).cores = s.cores := rfl
@[simp] theorem State.makeCheck_promised : (s.makeCheck l).promised = s.promised := rfl
@[simp] theorem State.makeCheck_wgs : (s.makeCheck l).wgs = s.wgs := rfl
@[simp] theorem State.makeCheck_gangs : (s.makeCheck l).gangs = s.gangs := rfl
@[simp] theorem State.makeCheck_launches : (s.makeCheck l).launches = s.launches := rfl
@[simp] theorem State.makeCheck_nextLaunch : (s.makeCheck l).nextLaunch = s.nextLaunch := rfl
@[simp] theorem State.makeCheck_nextOrder : (s.makeCheck l).nextOrder = s.nextOrder := rfl
@[simp] theorem State.makeCheck_queues : (s.makeCheck l).queues = s.queues := rfl
@[simp] theorem State.makeCheck_engines : (s.makeCheck l).engines = s.engines := rfl
@[simp] theorem State.makeCheck_nextJob : (s.makeCheck l).nextJob = s.nextJob := rfl
@[simp] theorem State.makeCheck_stage1 : (s.makeCheck l).stage1 = s.stage1 := rfl
@[simp] theorem State.makeCheck_stage2 : (s.makeCheck l).stage2 = s.stage2 := rfl
@[simp] theorem State.makeCheck_fnOwner : (s.makeCheck l).fnOwner = s.fnOwner := rfl
@[simp] theorem State.makeCheck_notifyDrop : (s.makeCheck l).notifyDrop = s.notifyDrop := rfl
@[simp] theorem State.makeCheck_sweepClock : (s.makeCheck l).sweepClock = s.sweepClock := rfl
@[simp] theorem State.makeCheck_sweepDone : (s.makeCheck l).sweepDone = s.sweepDone := rfl
@[simp] theorem State.makeCheck_sweepActive : (s.makeCheck l).sweepActive = s.sweepActive := rfl
@[simp] theorem State.makeCheck_sweepAgain : (s.makeCheck l).sweepAgain = s.sweepAgain := rfl
@[simp] theorem State.makeCheck_sweepEntries : (s.makeCheck l).sweepEntries = s.sweepEntries := rfl
@[simp] theorem State.makeCheck_sweepScanned : (s.makeCheck l).sweepScanned = s.sweepScanned := rfl
@[simp] theorem State.makeCheck_phaseAck : (s.makeCheck l).phaseAck = s.phaseAck := rfl
@[simp] theorem State.makeCheck_phaseBusy : (s.makeCheck l).phaseBusy = s.phaseBusy := rfl
@[simp] theorem State.makeCheck_phaseResult : (s.makeCheck l).phaseResult = s.phaseResult := rfl
@[simp] theorem State.makeCheck_phaseDone : (s.makeCheck l).phaseDone = s.phaseDone := rfl
@[simp] theorem State.makeCheck_domain : (s.makeCheck l).domain = s.domain := rfl
@[simp] theorem State.makeCheck_domainRoot : (s.makeCheck l).domainRoot = s.domainRoot := rfl
@[simp] theorem State.makeCheck_busyAt : (s.makeCheck l).busyAt = s.busyAt := rfl
@[simp] theorem State.makeCheck_specs : (s.makeCheck l).specs = s.specs := rfl
@[simp] theorem State.makeCheck_nextSpec : (s.makeCheck l).nextSpec = s.nextSpec := rfl
@[simp] theorem State.makeCheck_merges : (s.makeCheck l).merges = s.merges := rfl
@[simp] theorem State.makeCheck_nextMerge : (s.makeCheck l).nextMerge = s.nextMerge := rfl
@[simp] theorem State.makeCheck_remotes : (s.makeCheck l).remotes = s.remotes := rfl
@[simp] theorem State.makeCheck_nextReq : (s.makeCheck l).nextReq = s.nextReq := rfl
@[simp] theorem State.makeCheck_dedupe : (s.makeCheck l).dedupe = s.dedupe := rfl
@[simp] theorem State.makeCheck_domainClock : (s.makeCheck l).domainClock = s.domainClock := rfl
@[simp] theorem State.makeCheck_clockBehind : (s.makeCheck l).clockBehind = s.clockBehind := rfl
@[simp] theorem State.makeCheck_lastSync : (s.makeCheck l).lastSync = s.lastSync := rfl
@[simp] theorem State.makeCheck_syncLost : (s.makeCheck l).syncLost = s.syncLost := rfl
@[simp] theorem State.makeCheck_snoops : (s.makeCheck l).snoops = s.snoops := rfl
@[simp] theorem State.makeCheck_heldReqs : (s.makeCheck l).heldReqs = s.heldReqs := rfl
@[simp] theorem State.makeCheck_heldHost : (s.makeCheck l).heldHost = s.heldHost := rfl
@[simp] theorem State.makeCheck_sharers : (s.makeCheck l).sharers = s.sharers := rfl
@[simp] theorem State.makeCheck_expAttached : (s.makeCheck l).expAttached = s.expAttached := rfl
@[simp] theorem State.makeCheck_expLost : (s.makeCheck l).expLost = s.expLost := rfl
@[simp] theorem State.makeCheck_expReleased : (s.makeCheck l).expReleased = s.expReleased := rfl
@[simp] theorem State.makeCheck_ports : (s.makeCheck l).ports = s.ports := rfl
@[simp] theorem State.makeCheck_deviceNumber : (s.makeCheck l).deviceNumber = s.deviceNumber := rfl
@[simp] theorem State.makeCheck_hdrDropped : (s.makeCheck l).hdrDropped = s.hdrDropped := rfl
@[simp] theorem State.makeCheck_hostPorts : (s.makeCheck l).hostPorts = s.hostPorts := rfl
@[simp] theorem State.makeCheck_tdisp : (s.makeCheck l).tdisp = s.tdisp := rfl
@[simp] theorem State.makeCheck_keySlots : (s.makeCheck l).keySlots = s.keySlots := rfl
@[simp] theorem State.makeCheck_taskKeys : (s.makeCheck l).taskKeys = s.taskKeys := rfl
@[simp] theorem State.makeCheck_partitions : (s.makeCheck l).partitions = s.partitions := rfl
@[simp] theorem State.makeCheck_clusterPower : (s.makeCheck l).clusterPower = s.clusterPower := rfl
@[simp] theorem State.makeCheck_closing : (s.makeCheck l).closing = s.closing := rfl
@[simp] theorem State.makeCheck_extents : (s.makeCheck l).extents = s.extents := rfl
@[simp] theorem State.makeCheck_deviceInfo : (s.makeCheck l).deviceInfo = s.deviceInfo := rfl
@[simp] theorem State.makeCheck_clusterMap : (s.makeCheck l).clusterMap = s.clusterMap := rfl
@[simp] theorem State.makeCheck_nocWeight : (s.makeCheck l).nocWeight = s.nocWeight := rfl
@[simp] theorem State.makeCheck_timingStat : (s.makeCheck l).timingStat = s.timingStat := rfl
@[simp] theorem State.makeCheck_injCtl : (s.makeCheck l).injCtl = s.injCtl := rfl
@[simp] theorem State.makeCheck_injSeed : (s.makeCheck l).injSeed = s.injSeed := rfl
@[simp] theorem State.makeCheck_injRate : (s.makeCheck l).injRate = s.injRate := rfl
@[simp] theorem State.makeCheck_stestPass : (s.makeCheck l).stestPass = s.stestPass := rfl
@[simp] theorem State.makeCheck_orreryCtl : (s.makeCheck l).orreryCtl = s.orreryCtl := rfl
@[simp] theorem State.makeCheck_orreryStat : (s.makeCheck l).orreryStat = s.orreryStat := rfl
@[simp] theorem State.makeCheck_timingArmed : (s.makeCheck l).timingArmed = s.timingArmed := rfl
@[simp] theorem State.makeCheck_parityCount : (s.makeCheck l).parityCount = s.parityCount := rfl
@[simp] theorem State.makeCheck_transitStopped : (s.makeCheck l).transitStopped = s.transitStopped := rfl
@[simp] theorem State.makeCheck_chosen : (s.makeCheck l).chosen = s.chosen := rfl
@[simp] theorem State.makeCheck_lastMismatch : (s.makeCheck l).lastMismatch = s.lastMismatch := rfl
@[simp] theorem State.makeCheck_deviceFault : (s.makeCheck l).deviceFault = s.deviceFault := rfl
@[simp] theorem State.makeCheck_bringUp : (s.makeCheck l).bringUp = s.bringUp := rfl
@[simp] theorem State.makeCheck_pstate : (s.makeCheck l).pstate = s.pstate := rfl
@[simp] theorem State.makeCheck_resetDue : (s.makeCheck l).resetDue = s.resetDue := rfl
@[simp] theorem State.makeCheck_mailArea : (s.makeCheck l).mailArea = s.mailArea := rfl
@[simp] theorem State.makeCheck_response : (s.makeCheck l).response = s.response := rfl
@[simp] theorem State.makeCheck_mailBusy : (s.makeCheck l).mailBusy = s.mailBusy := rfl
@[simp] theorem State.makeCheck_migration : (s.makeCheck l).migration = s.migration := rfl
@[simp] theorem State.makeCheck_movedAway : (s.makeCheck l).movedAway = s.movedAway := rfl
@[simp] theorem State.makeCheck_out : (s.makeCheck l).out = s.out := rfl
end

/-! ## State.dropCopy -/

section
variable (s : State) (k : Nat)
@[simp] theorem State.dropCopy_agenda : (s.dropCopy k).agenda = s.agenda := rfl
@[simp] theorem State.dropCopy_team : (s.dropCopy k).team = s.team := rfl
@[simp] theorem State.dropCopy_others : (s.dropCopy k).others = s.others := rfl
@[simp] theorem State.dropCopy_oracle : (s.dropCopy k).oracle = s.oracle := rfl
@[simp] theorem State.dropCopy_timebase : (s.dropCopy k).timebase = s.timebase := rfl
@[simp] theorem State.dropCopy_mem : (s.dropCopy k).mem = s.mem := rfl
@[simp] theorem State.dropCopy_tags : (s.dropCopy k).tags = s.tags := rfl
@[simp] theorem State.dropCopy_poison : (s.dropCopy k).poison = s.poison := rfl
@[simp] theorem State.dropCopy_checkErr : (s.dropCopy k).checkErr = s.checkErr := rfl
@[simp] theorem State.dropCopy_copies : (s.dropCopy k).copies = s.copies.erase k := rfl
@[simp] theorem State.dropCopy_tlbs : (s.dropCopy k).tlbs = s.tlbs := rfl
@[simp] theorem State.dropCopy_ctxs : (s.dropCopy k).ctxs = s.ctxs := rfl
@[simp] theorem State.dropCopy_owner : (s.dropCopy k).owner = s.owner := rfl
@[simp] theorem State.dropCopy_tableFree : (s.dropCopy k).tableFree = s.tableFree := rfl
@[simp] theorem State.dropCopy_cores : (s.dropCopy k).cores = s.cores := rfl
@[simp] theorem State.dropCopy_promised : (s.dropCopy k).promised = s.promised := rfl
@[simp] theorem State.dropCopy_wgs : (s.dropCopy k).wgs = s.wgs := rfl
@[simp] theorem State.dropCopy_gangs : (s.dropCopy k).gangs = s.gangs := rfl
@[simp] theorem State.dropCopy_launches : (s.dropCopy k).launches = s.launches := rfl
@[simp] theorem State.dropCopy_nextLaunch : (s.dropCopy k).nextLaunch = s.nextLaunch := rfl
@[simp] theorem State.dropCopy_nextOrder : (s.dropCopy k).nextOrder = s.nextOrder := rfl
@[simp] theorem State.dropCopy_queues : (s.dropCopy k).queues = s.queues := rfl
@[simp] theorem State.dropCopy_engines : (s.dropCopy k).engines = s.engines := rfl
@[simp] theorem State.dropCopy_nextJob : (s.dropCopy k).nextJob = s.nextJob := rfl
@[simp] theorem State.dropCopy_stage1 : (s.dropCopy k).stage1 = s.stage1 := rfl
@[simp] theorem State.dropCopy_stage2 : (s.dropCopy k).stage2 = s.stage2 := rfl
@[simp] theorem State.dropCopy_fnOwner : (s.dropCopy k).fnOwner = s.fnOwner := rfl
@[simp] theorem State.dropCopy_notifyDrop : (s.dropCopy k).notifyDrop = s.notifyDrop := rfl
@[simp] theorem State.dropCopy_sweepClock : (s.dropCopy k).sweepClock = s.sweepClock := rfl
@[simp] theorem State.dropCopy_sweepDone : (s.dropCopy k).sweepDone = s.sweepDone := rfl
@[simp] theorem State.dropCopy_sweepActive : (s.dropCopy k).sweepActive = s.sweepActive := rfl
@[simp] theorem State.dropCopy_sweepAgain : (s.dropCopy k).sweepAgain = s.sweepAgain := rfl
@[simp] theorem State.dropCopy_sweepEntries : (s.dropCopy k).sweepEntries = s.sweepEntries := rfl
@[simp] theorem State.dropCopy_sweepScanned : (s.dropCopy k).sweepScanned = s.sweepScanned := rfl
@[simp] theorem State.dropCopy_phaseAck : (s.dropCopy k).phaseAck = s.phaseAck := rfl
@[simp] theorem State.dropCopy_phaseBusy : (s.dropCopy k).phaseBusy = s.phaseBusy := rfl
@[simp] theorem State.dropCopy_phaseResult : (s.dropCopy k).phaseResult = s.phaseResult := rfl
@[simp] theorem State.dropCopy_phaseDone : (s.dropCopy k).phaseDone = s.phaseDone := rfl
@[simp] theorem State.dropCopy_domain : (s.dropCopy k).domain = s.domain := rfl
@[simp] theorem State.dropCopy_domainRoot : (s.dropCopy k).domainRoot = s.domainRoot := rfl
@[simp] theorem State.dropCopy_busyAt : (s.dropCopy k).busyAt = s.busyAt := rfl
@[simp] theorem State.dropCopy_specs : (s.dropCopy k).specs = s.specs := rfl
@[simp] theorem State.dropCopy_nextSpec : (s.dropCopy k).nextSpec = s.nextSpec := rfl
@[simp] theorem State.dropCopy_merges : (s.dropCopy k).merges = s.merges := rfl
@[simp] theorem State.dropCopy_nextMerge : (s.dropCopy k).nextMerge = s.nextMerge := rfl
@[simp] theorem State.dropCopy_remotes : (s.dropCopy k).remotes = s.remotes := rfl
@[simp] theorem State.dropCopy_nextReq : (s.dropCopy k).nextReq = s.nextReq := rfl
@[simp] theorem State.dropCopy_dedupe : (s.dropCopy k).dedupe = s.dedupe := rfl
@[simp] theorem State.dropCopy_domainClock : (s.dropCopy k).domainClock = s.domainClock := rfl
@[simp] theorem State.dropCopy_clockBehind : (s.dropCopy k).clockBehind = s.clockBehind := rfl
@[simp] theorem State.dropCopy_lastSync : (s.dropCopy k).lastSync = s.lastSync := rfl
@[simp] theorem State.dropCopy_syncLost : (s.dropCopy k).syncLost = s.syncLost := rfl
@[simp] theorem State.dropCopy_snoops : (s.dropCopy k).snoops = s.snoops := rfl
@[simp] theorem State.dropCopy_heldReqs : (s.dropCopy k).heldReqs = s.heldReqs := rfl
@[simp] theorem State.dropCopy_heldHost : (s.dropCopy k).heldHost = s.heldHost := rfl
@[simp] theorem State.dropCopy_sharers : (s.dropCopy k).sharers = s.sharers := rfl
@[simp] theorem State.dropCopy_expAttached : (s.dropCopy k).expAttached = s.expAttached := rfl
@[simp] theorem State.dropCopy_expLost : (s.dropCopy k).expLost = s.expLost := rfl
@[simp] theorem State.dropCopy_expReleased : (s.dropCopy k).expReleased = s.expReleased := rfl
@[simp] theorem State.dropCopy_ports : (s.dropCopy k).ports = s.ports := rfl
@[simp] theorem State.dropCopy_deviceNumber : (s.dropCopy k).deviceNumber = s.deviceNumber := rfl
@[simp] theorem State.dropCopy_hdrDropped : (s.dropCopy k).hdrDropped = s.hdrDropped := rfl
@[simp] theorem State.dropCopy_hostPorts : (s.dropCopy k).hostPorts = s.hostPorts := rfl
@[simp] theorem State.dropCopy_tdisp : (s.dropCopy k).tdisp = s.tdisp := rfl
@[simp] theorem State.dropCopy_keySlots : (s.dropCopy k).keySlots = s.keySlots := rfl
@[simp] theorem State.dropCopy_taskKeys : (s.dropCopy k).taskKeys = s.taskKeys := rfl
@[simp] theorem State.dropCopy_partitions : (s.dropCopy k).partitions = s.partitions := rfl
@[simp] theorem State.dropCopy_clusterPower : (s.dropCopy k).clusterPower = s.clusterPower := rfl
@[simp] theorem State.dropCopy_closing : (s.dropCopy k).closing = s.closing := rfl
@[simp] theorem State.dropCopy_extents : (s.dropCopy k).extents = s.extents := rfl
@[simp] theorem State.dropCopy_deviceInfo : (s.dropCopy k).deviceInfo = s.deviceInfo := rfl
@[simp] theorem State.dropCopy_clusterMap : (s.dropCopy k).clusterMap = s.clusterMap := rfl
@[simp] theorem State.dropCopy_nocWeight : (s.dropCopy k).nocWeight = s.nocWeight := rfl
@[simp] theorem State.dropCopy_timingStat : (s.dropCopy k).timingStat = s.timingStat := rfl
@[simp] theorem State.dropCopy_injCtl : (s.dropCopy k).injCtl = s.injCtl := rfl
@[simp] theorem State.dropCopy_injSeed : (s.dropCopy k).injSeed = s.injSeed := rfl
@[simp] theorem State.dropCopy_injRate : (s.dropCopy k).injRate = s.injRate := rfl
@[simp] theorem State.dropCopy_stestPass : (s.dropCopy k).stestPass = s.stestPass := rfl
@[simp] theorem State.dropCopy_orreryCtl : (s.dropCopy k).orreryCtl = s.orreryCtl := rfl
@[simp] theorem State.dropCopy_orreryStat : (s.dropCopy k).orreryStat = s.orreryStat := rfl
@[simp] theorem State.dropCopy_timingArmed : (s.dropCopy k).timingArmed = s.timingArmed := rfl
@[simp] theorem State.dropCopy_parityCount : (s.dropCopy k).parityCount = s.parityCount := rfl
@[simp] theorem State.dropCopy_transitStopped : (s.dropCopy k).transitStopped = s.transitStopped := rfl
@[simp] theorem State.dropCopy_chosen : (s.dropCopy k).chosen = s.chosen := rfl
@[simp] theorem State.dropCopy_lastMismatch : (s.dropCopy k).lastMismatch = s.lastMismatch := rfl
@[simp] theorem State.dropCopy_deviceFault : (s.dropCopy k).deviceFault = s.deviceFault := rfl
@[simp] theorem State.dropCopy_bringUp : (s.dropCopy k).bringUp = s.bringUp := rfl
@[simp] theorem State.dropCopy_pstate : (s.dropCopy k).pstate = s.pstate := rfl
@[simp] theorem State.dropCopy_resetDue : (s.dropCopy k).resetDue = s.resetDue := rfl
@[simp] theorem State.dropCopy_mailArea : (s.dropCopy k).mailArea = s.mailArea := rfl
@[simp] theorem State.dropCopy_response : (s.dropCopy k).response = s.response := rfl
@[simp] theorem State.dropCopy_mailBusy : (s.dropCopy k).mailBusy = s.mailBusy := rfl
@[simp] theorem State.dropCopy_migration : (s.dropCopy k).migration = s.migration := rfl
@[simp] theorem State.dropCopy_movedAway : (s.dropCopy k).movedAway = s.movedAway := rfl
@[simp] theorem State.dropCopy_out : (s.dropCopy k).out = s.out := rfl
end

/-! ## Team.setV -/

section
variable (t : Team) (r : Nat) (f : Nat → Option Word)
@[simp] theorem Team.setV_id : (t.setV r f).id = t.id := rfl
@[simp] theorem Team.setV_ctx : (t.setV r f).ctx = t.ctx := rfl
@[simp] theorem Team.setV_nv : (t.setV r f).nv = t.nv := rfl
@[simp] theorem Team.setV_nq : (t.setV r f).nq = t.nq := rfl
@[simp] theorem Team.setV_run : (t.setV r f).run = t.run := rfl
@[simp] theorem Team.setV_pc : (t.setV r f).pc = t.pc := rfl
@[simp] theorem Team.setV_active : (t.setV r f).active = t.active := rfl
@[simp] theorem Team.setV_exited : (t.setV r f).exited = t.exited := rfl
@[simp] theorem Team.setV_stack : (t.setV r f).stack = t.stack := rfl
@[simp] theorem Team.setV_deep : (t.setV r f).deep = t.deep := rfl
@[simp] theorem Team.setV_why : (t.setV r f).why = t.why := rfl
@[simp] theorem Team.setV_spilled : (t.setV r f).spilled = t.spilled := rfl
@[simp] theorem Team.setV_mode : (t.setV r f).mode = t.mode := rfl
@[simp] theorem Team.setV_fmt : (t.setV r f).fmt = t.fmt := rfl
@[simp] theorem Team.setV_flags : (t.setV r f).flags = t.flags := rfl
@[simp] theorem Team.setV_priv : (t.setV r f).priv = t.priv := rfl
@[simp] theorem Team.setV_codeCap : (t.setV r f).codeCap = t.codeCap := rfl
@[simp] theorem Team.setV_q : (t.setV r f).q = t.q := rfl
@[simp] theorem Team.setV_s : (t.setV r f).s = t.s := rfl
@[simp] theorem Team.setV_c : (t.setV r f).c = t.c := rfl
@[simp] theorem Team.setV_p : (t.setV r f).p = t.p := rfl
@[simp] theorem Team.setV_latch : (t.setV r f).latch = t.latch := rfl
@[simp] theorem Team.setV_pending : (t.setV r f).pending = t.pending := rfl
@[simp] theorem Team.setV_past : (t.setV r f).past = t.past := rfl
@[simp] theorem Team.setV_trap : (t.setV r f).trap = t.trap := rfl
@[simp] theorem Team.setV_saved : (t.setV r f).saved = t.saved := rfl
@[simp] theorem Team.setV_inner : (t.setV r f).inner = t.inner := rfl
@[simp] theorem Team.setV_innerEntry : (t.setV r f).innerEntry = t.innerEntry := rfl
@[simp] theorem Team.setV_replay : (t.setV r f).replay = t.replay := rfl
@[simp] theorem Team.setV_cont : (t.setV r f).cont = t.cont := rfl
@[simp] theorem Team.setV_replayPages : (t.setV r f).replayPages = t.replayPages := rfl
@[simp] theorem Team.setV_sleep : (t.setV r f).sleep = t.sleep := rfl
@[simp] theorem Team.setV_trapNext : (t.setV r f).trapNext = t.trapNext := rfl
@[simp] theorem Team.setV_asyncNext : (t.setV r f).asyncNext = t.asyncNext := rfl
@[simp] theorem Team.setV_owedNotes : (t.setV r f).owedNotes = t.owedNotes := rfl
@[simp] theorem Team.setV_stalled : (t.setV r f).stalled = t.stalled := rfl
end

/-! ## Team.setQ -/

section
variable (t : Team) (r : Nat) (f : Nat → Option Cap)
@[simp] theorem Team.setQ_id : (t.setQ r f).id = t.id := rfl
@[simp] theorem Team.setQ_ctx : (t.setQ r f).ctx = t.ctx := rfl
@[simp] theorem Team.setQ_width : (t.setQ r f).width = t.width := rfl
@[simp] theorem Team.setQ_nv : (t.setQ r f).nv = t.nv := rfl
@[simp] theorem Team.setQ_nq : (t.setQ r f).nq = t.nq := rfl
@[simp] theorem Team.setQ_run : (t.setQ r f).run = t.run := rfl
@[simp] theorem Team.setQ_pc : (t.setQ r f).pc = t.pc := rfl
@[simp] theorem Team.setQ_active : (t.setQ r f).active = t.active := rfl
@[simp] theorem Team.setQ_exited : (t.setQ r f).exited = t.exited := rfl
@[simp] theorem Team.setQ_stack : (t.setQ r f).stack = t.stack := rfl
@[simp] theorem Team.setQ_deep : (t.setQ r f).deep = t.deep := rfl
@[simp] theorem Team.setQ_why : (t.setQ r f).why = t.why := rfl
@[simp] theorem Team.setQ_spilled : (t.setQ r f).spilled = t.spilled := rfl
@[simp] theorem Team.setQ_mode : (t.setQ r f).mode = t.mode := rfl
@[simp] theorem Team.setQ_fmt : (t.setQ r f).fmt = t.fmt := rfl
@[simp] theorem Team.setQ_flags : (t.setQ r f).flags = t.flags := rfl
@[simp] theorem Team.setQ_priv : (t.setQ r f).priv = t.priv := rfl
@[simp] theorem Team.setQ_codeCap : (t.setQ r f).codeCap = t.codeCap := rfl
@[simp] theorem Team.setQ_v : (t.setQ r f).v = t.v := rfl
@[simp] theorem Team.setQ_s : (t.setQ r f).s = t.s := rfl
@[simp] theorem Team.setQ_c : (t.setQ r f).c = t.c := rfl
@[simp] theorem Team.setQ_p : (t.setQ r f).p = t.p := rfl
@[simp] theorem Team.setQ_latch : (t.setQ r f).latch = t.latch := rfl
@[simp] theorem Team.setQ_pending : (t.setQ r f).pending = t.pending := rfl
@[simp] theorem Team.setQ_past : (t.setQ r f).past = t.past := rfl
@[simp] theorem Team.setQ_trap : (t.setQ r f).trap = t.trap := rfl
@[simp] theorem Team.setQ_saved : (t.setQ r f).saved = t.saved := rfl
@[simp] theorem Team.setQ_inner : (t.setQ r f).inner = t.inner := rfl
@[simp] theorem Team.setQ_innerEntry : (t.setQ r f).innerEntry = t.innerEntry := rfl
@[simp] theorem Team.setQ_replay : (t.setQ r f).replay = t.replay := rfl
@[simp] theorem Team.setQ_cont : (t.setQ r f).cont = t.cont := rfl
@[simp] theorem Team.setQ_replayPages : (t.setQ r f).replayPages = t.replayPages := rfl
@[simp] theorem Team.setQ_sleep : (t.setQ r f).sleep = t.sleep := rfl
@[simp] theorem Team.setQ_trapNext : (t.setQ r f).trapNext = t.trapNext := rfl
@[simp] theorem Team.setQ_asyncNext : (t.setQ r f).asyncNext = t.asyncNext := rfl
@[simp] theorem Team.setQ_owedNotes : (t.setQ r f).owedNotes = t.owedNotes := rfl
@[simp] theorem Team.setQ_stalled : (t.setQ r f).stalled = t.stalled := rfl
end

/-! ## Team.setS -/

section
variable (t : Team) (r : Nat) (x : Dword)
@[simp] theorem Team.setS_id : (t.setS r x).id = t.id := rfl
@[simp] theorem Team.setS_ctx : (t.setS r x).ctx = t.ctx := rfl
@[simp] theorem Team.setS_width : (t.setS r x).width = t.width := rfl
@[simp] theorem Team.setS_nv : (t.setS r x).nv = t.nv := rfl
@[simp] theorem Team.setS_nq : (t.setS r x).nq = t.nq := rfl
@[simp] theorem Team.setS_run : (t.setS r x).run = t.run := rfl
@[simp] theorem Team.setS_pc : (t.setS r x).pc = t.pc := rfl
@[simp] theorem Team.setS_active : (t.setS r x).active = t.active := rfl
@[simp] theorem Team.setS_exited : (t.setS r x).exited = t.exited := rfl
@[simp] theorem Team.setS_stack : (t.setS r x).stack = t.stack := rfl
@[simp] theorem Team.setS_deep : (t.setS r x).deep = t.deep := rfl
@[simp] theorem Team.setS_why : (t.setS r x).why = t.why := rfl
@[simp] theorem Team.setS_spilled : (t.setS r x).spilled = t.spilled := rfl
@[simp] theorem Team.setS_mode : (t.setS r x).mode = t.mode := rfl
@[simp] theorem Team.setS_fmt : (t.setS r x).fmt = t.fmt := rfl
@[simp] theorem Team.setS_flags : (t.setS r x).flags = t.flags := rfl
@[simp] theorem Team.setS_priv : (t.setS r x).priv = t.priv := rfl
@[simp] theorem Team.setS_codeCap : (t.setS r x).codeCap = t.codeCap := rfl
@[simp] theorem Team.setS_v : (t.setS r x).v = t.v := rfl
@[simp] theorem Team.setS_q : (t.setS r x).q = t.q := rfl
@[simp] theorem Team.setS_c : (t.setS r x).c = t.c := rfl
@[simp] theorem Team.setS_p : (t.setS r x).p = t.p := rfl
@[simp] theorem Team.setS_latch : (t.setS r x).latch = t.latch := rfl
@[simp] theorem Team.setS_pending : (t.setS r x).pending = t.pending := rfl
@[simp] theorem Team.setS_past : (t.setS r x).past = t.past := rfl
@[simp] theorem Team.setS_trap : (t.setS r x).trap = t.trap := rfl
@[simp] theorem Team.setS_saved : (t.setS r x).saved = t.saved := rfl
@[simp] theorem Team.setS_inner : (t.setS r x).inner = t.inner := rfl
@[simp] theorem Team.setS_innerEntry : (t.setS r x).innerEntry = t.innerEntry := rfl
@[simp] theorem Team.setS_replay : (t.setS r x).replay = t.replay := rfl
@[simp] theorem Team.setS_cont : (t.setS r x).cont = t.cont := rfl
@[simp] theorem Team.setS_replayPages : (t.setS r x).replayPages = t.replayPages := rfl
@[simp] theorem Team.setS_sleep : (t.setS r x).sleep = t.sleep := rfl
@[simp] theorem Team.setS_trapNext : (t.setS r x).trapNext = t.trapNext := rfl
@[simp] theorem Team.setS_asyncNext : (t.setS r x).asyncNext = t.asyncNext := rfl
@[simp] theorem Team.setS_owedNotes : (t.setS r x).owedNotes = t.owedNotes := rfl
@[simp] theorem Team.setS_stalled : (t.setS r x).stalled = t.stalled := rfl
end

/-! ## Team.setC -/

section
variable (t : Team) (r : Nat) (k : Cap)
@[simp] theorem Team.setC_id : (t.setC r k).id = t.id := rfl
@[simp] theorem Team.setC_ctx : (t.setC r k).ctx = t.ctx := rfl
@[simp] theorem Team.setC_width : (t.setC r k).width = t.width := rfl
@[simp] theorem Team.setC_nv : (t.setC r k).nv = t.nv := rfl
@[simp] theorem Team.setC_nq : (t.setC r k).nq = t.nq := rfl
@[simp] theorem Team.setC_run : (t.setC r k).run = t.run := rfl
@[simp] theorem Team.setC_pc : (t.setC r k).pc = t.pc := rfl
@[simp] theorem Team.setC_active : (t.setC r k).active = t.active := rfl
@[simp] theorem Team.setC_exited : (t.setC r k).exited = t.exited := rfl
@[simp] theorem Team.setC_stack : (t.setC r k).stack = t.stack := rfl
@[simp] theorem Team.setC_deep : (t.setC r k).deep = t.deep := rfl
@[simp] theorem Team.setC_why : (t.setC r k).why = t.why := rfl
@[simp] theorem Team.setC_spilled : (t.setC r k).spilled = t.spilled := rfl
@[simp] theorem Team.setC_mode : (t.setC r k).mode = t.mode := rfl
@[simp] theorem Team.setC_fmt : (t.setC r k).fmt = t.fmt := rfl
@[simp] theorem Team.setC_flags : (t.setC r k).flags = t.flags := rfl
@[simp] theorem Team.setC_priv : (t.setC r k).priv = t.priv := rfl
@[simp] theorem Team.setC_codeCap : (t.setC r k).codeCap = t.codeCap := rfl
@[simp] theorem Team.setC_v : (t.setC r k).v = t.v := rfl
@[simp] theorem Team.setC_q : (t.setC r k).q = t.q := rfl
@[simp] theorem Team.setC_s : (t.setC r k).s = t.s := rfl
@[simp] theorem Team.setC_p : (t.setC r k).p = t.p := rfl
@[simp] theorem Team.setC_latch : (t.setC r k).latch = t.latch := rfl
@[simp] theorem Team.setC_pending : (t.setC r k).pending = t.pending := rfl
@[simp] theorem Team.setC_past : (t.setC r k).past = t.past := rfl
@[simp] theorem Team.setC_trap : (t.setC r k).trap = t.trap := rfl
@[simp] theorem Team.setC_saved : (t.setC r k).saved = t.saved := rfl
@[simp] theorem Team.setC_inner : (t.setC r k).inner = t.inner := rfl
@[simp] theorem Team.setC_innerEntry : (t.setC r k).innerEntry = t.innerEntry := rfl
@[simp] theorem Team.setC_replay : (t.setC r k).replay = t.replay := rfl
@[simp] theorem Team.setC_cont : (t.setC r k).cont = t.cont := rfl
@[simp] theorem Team.setC_replayPages : (t.setC r k).replayPages = t.replayPages := rfl
@[simp] theorem Team.setC_sleep : (t.setC r k).sleep = t.sleep := rfl
@[simp] theorem Team.setC_trapNext : (t.setC r k).trapNext = t.trapNext := rfl
@[simp] theorem Team.setC_asyncNext : (t.setC r k).asyncNext = t.asyncNext := rfl
@[simp] theorem Team.setC_owedNotes : (t.setC r k).owedNotes = t.owedNotes := rfl
@[simp] theorem Team.setC_stalled : (t.setC r k).stalled = t.stalled := rfl
end

/-! ## Team.raise -/

section
variable (t : Team) (f : Word)
@[simp] theorem Team.raise_id : (t.raise f).id = t.id := rfl
@[simp] theorem Team.raise_ctx : (t.raise f).ctx = t.ctx := rfl
@[simp] theorem Team.raise_width : (t.raise f).width = t.width := rfl
@[simp] theorem Team.raise_nv : (t.raise f).nv = t.nv := rfl
@[simp] theorem Team.raise_nq : (t.raise f).nq = t.nq := rfl
@[simp] theorem Team.raise_run : (t.raise f).run = t.run := rfl
@[simp] theorem Team.raise_pc : (t.raise f).pc = t.pc := rfl
@[simp] theorem Team.raise_active : (t.raise f).active = t.active := rfl
@[simp] theorem Team.raise_exited : (t.raise f).exited = t.exited := rfl
@[simp] theorem Team.raise_stack : (t.raise f).stack = t.stack := rfl
@[simp] theorem Team.raise_deep : (t.raise f).deep = t.deep := rfl
@[simp] theorem Team.raise_why : (t.raise f).why = t.why := rfl
@[simp] theorem Team.raise_spilled : (t.raise f).spilled = t.spilled := rfl
@[simp] theorem Team.raise_mode : (t.raise f).mode = t.mode := rfl
@[simp] theorem Team.raise_fmt : (t.raise f).fmt = t.fmt := rfl
@[simp] theorem Team.raise_priv : (t.raise f).priv = t.priv := rfl
@[simp] theorem Team.raise_codeCap : (t.raise f).codeCap = t.codeCap := rfl
@[simp] theorem Team.raise_v : (t.raise f).v = t.v := rfl
@[simp] theorem Team.raise_q : (t.raise f).q = t.q := rfl
@[simp] theorem Team.raise_s : (t.raise f).s = t.s := rfl
@[simp] theorem Team.raise_c : (t.raise f).c = t.c := rfl
@[simp] theorem Team.raise_p : (t.raise f).p = t.p := rfl
@[simp] theorem Team.raise_latch : (t.raise f).latch = t.latch := rfl
@[simp] theorem Team.raise_pending : (t.raise f).pending = t.pending := rfl
@[simp] theorem Team.raise_past : (t.raise f).past = t.past := rfl
@[simp] theorem Team.raise_trap : (t.raise f).trap = t.trap := rfl
@[simp] theorem Team.raise_saved : (t.raise f).saved = t.saved := rfl
@[simp] theorem Team.raise_inner : (t.raise f).inner = t.inner := rfl
@[simp] theorem Team.raise_innerEntry : (t.raise f).innerEntry = t.innerEntry := rfl
@[simp] theorem Team.raise_replay : (t.raise f).replay = t.replay := rfl
@[simp] theorem Team.raise_cont : (t.raise f).cont = t.cont := rfl
@[simp] theorem Team.raise_replayPages : (t.raise f).replayPages = t.replayPages := rfl
@[simp] theorem Team.raise_sleep : (t.raise f).sleep = t.sleep := rfl
@[simp] theorem Team.raise_trapNext : (t.raise f).trapNext = t.trapNext := rfl
@[simp] theorem Team.raise_asyncNext : (t.raise f).asyncNext = t.asyncNext := rfl
@[simp] theorem Team.raise_owedNotes : (t.raise f).owedNotes = t.owedNotes := rfl
@[simp] theorem Team.raise_stalled : (t.raise f).stalled = t.stalled := rfl
end

/-! ## Team.advance -/

section
variable (t : Team)
@[simp] theorem Team.advance_id : (t.advance).id = t.id := rfl
@[simp] theorem Team.advance_ctx : (t.advance).ctx = t.ctx := rfl
@[simp] theorem Team.advance_width : (t.advance).width = t.width := rfl
@[simp] theorem Team.advance_nv : (t.advance).nv = t.nv := rfl
@[simp] theorem Team.advance_nq : (t.advance).nq = t.nq := rfl
@[simp] theorem Team.advance_run : (t.advance).run = t.run := rfl
@[simp] theorem Team.advance_active : (t.advance).active = t.active := rfl
@[simp] theorem Team.advance_exited : (t.advance).exited = t.exited := rfl
@[simp] theorem Team.advance_stack : (t.advance).stack = t.stack := rfl
@[simp] theorem Team.advance_deep : (t.advance).deep = t.deep := rfl
@[simp] theorem Team.advance_why : (t.advance).why = t.why := rfl
@[simp] theorem Team.advance_spilled : (t.advance).spilled = t.spilled := rfl
@[simp] theorem Team.advance_mode : (t.advance).mode = t.mode := rfl
@[simp] theorem Team.advance_fmt : (t.advance).fmt = t.fmt := rfl
@[simp] theorem Team.advance_flags : (t.advance).flags = t.flags := rfl
@[simp] theorem Team.advance_priv : (t.advance).priv = t.priv := rfl
@[simp] theorem Team.advance_codeCap : (t.advance).codeCap = t.codeCap := rfl
@[simp] theorem Team.advance_v : (t.advance).v = t.v := rfl
@[simp] theorem Team.advance_q : (t.advance).q = t.q := rfl
@[simp] theorem Team.advance_s : (t.advance).s = t.s := rfl
@[simp] theorem Team.advance_c : (t.advance).c = t.c := rfl
@[simp] theorem Team.advance_p : (t.advance).p = t.p := rfl
@[simp] theorem Team.advance_trap : (t.advance).trap = t.trap := rfl
@[simp] theorem Team.advance_saved : (t.advance).saved = t.saved := rfl
@[simp] theorem Team.advance_inner : (t.advance).inner = t.inner := rfl
@[simp] theorem Team.advance_innerEntry : (t.advance).innerEntry = t.innerEntry := rfl
@[simp] theorem Team.advance_sleep : (t.advance).sleep = t.sleep := rfl
@[simp] theorem Team.advance_trapNext : (t.advance).trapNext = t.trapNext := rfl
@[simp] theorem Team.advance_asyncNext : (t.advance).asyncNext = t.asyncNext := rfl
@[simp] theorem Team.advance_owedNotes : (t.advance).owedNotes = t.owedNotes := rfl
@[simp] theorem Team.advance_stalled : (t.advance).stalled = t.stalled := rfl
end

/-! ## Team.goto -/

section
variable (t : Team) (a : Dword)
@[simp] theorem Team.goto_id : (t.goto a).id = t.id := rfl
@[simp] theorem Team.goto_ctx : (t.goto a).ctx = t.ctx := rfl
@[simp] theorem Team.goto_width : (t.goto a).width = t.width := rfl
@[simp] theorem Team.goto_nv : (t.goto a).nv = t.nv := rfl
@[simp] theorem Team.goto_nq : (t.goto a).nq = t.nq := rfl
@[simp] theorem Team.goto_run : (t.goto a).run = t.run := rfl
@[simp] theorem Team.goto_active : (t.goto a).active = t.active := rfl
@[simp] theorem Team.goto_exited : (t.goto a).exited = t.exited := rfl
@[simp] theorem Team.goto_stack : (t.goto a).stack = t.stack := rfl
@[simp] theorem Team.goto_deep : (t.goto a).deep = t.deep := rfl
@[simp] theorem Team.goto_why : (t.goto a).why = t.why := rfl
@[simp] theorem Team.goto_spilled : (t.goto a).spilled = t.spilled := rfl
@[simp] theorem Team.goto_mode : (t.goto a).mode = t.mode := rfl
@[simp] theorem Team.goto_fmt : (t.goto a).fmt = t.fmt := rfl
@[simp] theorem Team.goto_flags : (t.goto a).flags = t.flags := rfl
@[simp] theorem Team.goto_priv : (t.goto a).priv = t.priv := rfl
@[simp] theorem Team.goto_codeCap : (t.goto a).codeCap = t.codeCap := rfl
@[simp] theorem Team.goto_v : (t.goto a).v = t.v := rfl
@[simp] theorem Team.goto_q : (t.goto a).q = t.q := rfl
@[simp] theorem Team.goto_s : (t.goto a).s = t.s := rfl
@[simp] theorem Team.goto_c : (t.goto a).c = t.c := rfl
@[simp] theorem Team.goto_p : (t.goto a).p = t.p := rfl
@[simp] theorem Team.goto_pending : (t.goto a).pending = t.pending := rfl
@[simp] theorem Team.goto_past : (t.goto a).past = t.past := rfl
@[simp] theorem Team.goto_trap : (t.goto a).trap = t.trap := rfl
@[simp] theorem Team.goto_saved : (t.goto a).saved = t.saved := rfl
@[simp] theorem Team.goto_inner : (t.goto a).inner = t.inner := rfl
@[simp] theorem Team.goto_innerEntry : (t.goto a).innerEntry = t.innerEntry := rfl
@[simp] theorem Team.goto_sleep : (t.goto a).sleep = t.sleep := rfl
@[simp] theorem Team.goto_trapNext : (t.goto a).trapNext = t.trapNext := rfl
@[simp] theorem Team.goto_asyncNext : (t.goto a).asyncNext = t.asyncNext := rfl
@[simp] theorem Team.goto_owedNotes : (t.goto a).owedNotes = t.owedNotes := rfl
@[simp] theorem Team.goto_stalled : (t.goto a).stalled = t.stalled := rfl
end

end Sys2Proof.Machine
end

