-- ==== Sys2Proof/Laws/Memory.lean ====
section
/-!
SUPPORT. Laws/Memory.lean: what every operation over memory keeps. A property of the bytes and tags at the homes that a put,
a tag write and a removal by key keep, such as the canonical form, is kept by every operation that reaches a home.
-/

namespace Sys2Proof.Machine

/-- A property of the bytes and the tags at the homes that the three ways of changing them keep. -/
structure MemLaw (P : List Host.Cell → SMap Bool → Prop) : Prop where
  put : ∀ m t k b, P m t → P (SMap.put 0 m k b) t
  tag : ∀ m t g b, P m t → P m (t.put false g (b && regionTagged (g * 16)))
  drop : ∀ m t (p q : Nat → Bool), P m t → P (m.filter fun c => p c.1) (t.filter fun c => q c.1)

/-- The canonical form of memory is such a property. -/
theorem memLaw_wf : MemLaw fun m _ => Memory.wf m = true :=
  ⟨fun _ _ k b h => SMap.wf_put k b h, fun _ _ _ _ h => h, fun _ _ p _ h => SMap.wf_filter (fun c => p c.1) h⟩

theorem SMap.find_filter_key {α : Type} (m : SMap α) (p : Nat → Bool) (n : Nat) :
    SMap.find? (m.filter fun c => p c.1) n = if p n then m.find? n else none := by
  induction m with
  | nil => simp [SMap.find?]
  | cons h t ih =>
    obtain ⟨k, x⟩ := h
    by_cases hk : p k = true
    · rw [List.filter_cons_of_pos (by simpa using hk), SMap.find_cons, SMap.find_cons, ih]
      by_cases hn : n = k
      · simp [hn, hk]
      · simp [hn]
    · rw [List.filter_cons_of_neg (by simpa using hk), ih, SMap.find_cons]
      by_cases hn : n = k
      · simp [hn, hk]
      · simp [hn]

/-- That host memory holds no tag (R165) is such a property. -/
theorem memLaw_host : MemLaw fun _ t => ∀ g, regionSize ≤ 16 * g → 16 * g < 2 * regionSize → SMap.getD t g false = false := by
  refine ⟨fun _ _ _ _ h => h, ?_, ?_⟩
  · intro _ t g b h k h1 h2
    rw [SMap.getD_put]
    split
    · rename_i hk
      subst hk
      have : k * 16 / regionSize = 1 := by
        apply Nat.div_eq_of_lt_le
        · omega
        · omega
      simp [regionTagged, this]
    · exact h k h1 h2
  · intro _ t _ q h k h1 h2
    have := h k h1 h2
    simp only [SMap.getD] at this ⊢
    rw [SMap.find_filter_key]
    split
    · exact this
    · rfl

/-- A fold of steps that keep a property keeps it. -/
theorem foldl_keeps {α β : Type} {P : β → Prop} {f : β → α → β} (hf : ∀ b a, P b → P (f b a)) (xs : List α) {b : β}
    (h : P b) : P (xs.foldl f b) := by
  induction xs generalizing b with
  | nil => exact h
  | cons a xs ih => exact ih (hf b a h)

section
variable {P : List Host.Cell → SMap Bool → Prop} (L : MemLaw P) {s : State}

/-- The property, of a state. -/
abbrev State.Has (P : List Host.Cell → SMap Bool → Prop) (s : State) : Prop := P s.mem s.tags

include L

theorem writeBytesFrom_keeps {t : SMap Bool} (bs : List Byte) (k : Nat) {m : List Host.Cell} (h : P m t) :
    P (writeBytesFrom k bs m) t := by
  induction bs generalizing k m with
  | nil => exact h
  | cons b bs ih => exact ih _ (L.put _ _ _ _ h)

theorem writeByte_keeps (k : Nat) (b : Byte) (h : s.Has P) : (s.writeByte k b).Has P := L.put _ _ _ _ h
theorem writeBytes_keeps (k : Nat) (bs : List Byte) (h : s.Has P) : (s.writeBytes k bs).Has P :=
  writeBytesFrom_keeps L bs k h
theorem setTag_keeps (k : Nat) (b : Bool) (h : s.Has P) : (s.setTag k b).Has P := L.tag _ _ _ _ h

omit L in
theorem notice_keeps (l c st n : Nat) (h : s.Has P) : (s.notice l c st n).Has P := by
  unfold State.notice
  dsimp only
  split <;> exact h
omit L in
theorem wake_keeps (l : Nat) (h : s.Has P) : (s.wake l).Has P := h
omit L in
theorem orrCount_keeps (c k : Nat) (h : s.Has P) : (s.orrCount c k).Has P := h

theorem clearWindow_keeps (n : Nat) (h : s.Has P) : (s.clearWindow n).Has P :=
  L.drop _ _ (fun k => k / regionSize != winRegion n) (fun k => k * 16 / regionSize != winRegion n) h
theorem dropGang_keeps (n : Nat) (h : s.Has P) : (s.dropGang n).Has P := clearWindow_keeps L n h
omit L in
theorem freeArgs_keeps (l : Launch) (h : s.Has P) : (s.freeArgs l).Has P := by
  unfold State.freeArgs
  dsimp only
  repeat' first | exact h | split
theorem discardSpec_keeps (i c : Nat) (h : s.Has P) : (s.discardSpec i c).Has P := by
  unfold State.discardSpec
  split
  · exact h
  · exact foldl_keeps (P := State.Has P) (fun _ l hb => freeArgs_keeps l hb) _
      (foldl_keeps (P := State.Has P) (fun _ n hb => dropGang_keeps L n hb) _ h)
theorem discardSpecs_keeps (c : Nat) (f : Spec → Bool) (h : s.Has P) : (s.discardSpecs c f).Has P :=
  foldl_keeps (P := State.Has P) (fun _ p hb => discardSpec_keeps L p.id c hb) _ h
theorem frameChanged_keeps (f : Nat) (h : s.Has P) : (s.frameChanged f).Has P :=
  discardSpecs_keeps L _ _ (discardSpecs_keeps L _ _ h)
theorem scrubFrame_keeps (f : Nat) (h : s.Has P) : (s.scrubFrame f).Has P :=
  L.drop _ _ (fun k => k / 65536 != f) (fun k => k / 4096 != f) (frameChanged_keeps L f h)
theorem homeChanged_keeps (l : Nat) (h : s.Has P) : (s.homeChanged l).Has P := by
  unfold State.homeChanged
  dsimp only
  split
  · exact discardSpecs_keeps L _ _ (discardSpecs_keeps L _ _ (wake_keeps l h))
  · exact wake_keeps l h

omit L in
theorem failNotice_keeps (l : Nat) (h : s.Has P) : (s.failNotice l).Has P := notice_keeps (s := s.failLine l) _ _ _ _ h
omit L in
theorem injected_keeps (k c : Nat) (h : s.Has P) : (s.injected k c).2.Has P := by
  unfold State.injected
  dsimp only
  repeat' first | exact h | split
omit L in
theorem injectMerge_keeps (c l : Nat) (h : s.Has P) : (s.injectMerge c l).Has P := by
  have hi := fun k => injected_keeps (P := P) k c h
  unfold State.injectMerge
  dsimp only
  repeat' first | exact h | exact hi _ | split

theorem homeMerge_keeps (l : Nat) (c : Copy) (made : Bool) (h : s.Has P) : (s.homeMerge l c made).Has P := by
  unfold State.homeMerge
  dsimp only
  apply homeChanged_keeps L
  show State.Has P (ite _ _ _)
  have h : State.Has P (if injEn s.injCtl = true then c.writers.foldl (fun s x => s.injectMerge x.1 l) s else s) := by
    split
    · exact foldl_keeps (P := State.Has P) (fun _ x hb => injectMerge_keeps x.1 l hb) _ h
    · exact h
  generalize (if injEn s.injCtl = true then c.writers.foldl (fun s x => s.injectMerge x.1 l) s else s) = s at h ⊢
  have h1 : State.Has P (if (s.checkBad l && !(made && c.dirty == BitVec.allOnes 128)) = true then s.failNotice l else s) := by
    split
    · exact failNotice_keeps _ h
    · exact h
  generalize (if (s.checkBad l && !(made && c.dirty == BitVec.allOnes 128)) = true then s.failNotice l else s) = u at h1 ⊢
  have h2 := foldl_keeps (P := State.Has P)
    (f := fun s i => s.writeByte (l * 128 + i) ((c.data >>> (8 * i)).setWidth 8)) (fun _ i hb => writeByte_keeps L _ _ hb)
    ((List.range 128).filter fun i => c.dirty.getLsbD i) h1
  have h3 := foldl_keeps (P := State.Has P) (f := fun s g => s.setTag (l * 128 + 16 * g) (c.tags.getLsbD g))
    (fun _ g hb => setTag_keeps L _ _ hb)
    ((List.range 8).filter fun g => ((List.range 128).filter fun i => c.dirty.getLsbD i).any fun i => i / 16 = g) h2
  split <;> exact h3
theorem homeWrite_keeps (k : Nat) (bs : List Byte) (h : s.Has P) : (s.homeWrite k bs).Has P :=
  foldl_keeps (P := State.Has P) (fun _ l hb => homeMerge_keeps L l _ true hb) _ h
theorem toCluster_keeps (cl l w : Nat) (c : Copy) (h : s.Has P) : (s.toCluster cl l w c).Has P := by
  unfold State.toCluster
  dsimp only
  split
  · exact h
  · exact homeMerge_keeps L (s := { s with copies := _ }) _ _ false h
theorem writeBack_keeps (k : Nat) (h : s.Has P) : (s.writeBack k).Has P := by
  unfold State.writeBack
  split
  · exact h
  · split
    · exact h
    · dsimp only
      split
      · exact toCluster_keeps L (s := { s with copies := _ }) _ _ _ _ h
      · exact homeMerge_keeps L (s := { s with copies := _ }) _ _ false h
theorem evict_keeps (k : Nat) (h : s.Has P) : (s.evict k).Has P := writeBack_keeps L k h
theorem writeBackAll_keeps (p : Nat → Bool) (h : s.Has P) : (s.writeBackAll p).Has P :=
  foldl_keeps (P := State.Has P) (fun _ k hb => writeBack_keeps L k hb) _
    (foldl_keeps (P := State.Has P) (fun _ k hb => writeBack_keeps L k hb) _ h)
theorem evictAll_keeps (p : Nat → Bool) (h : s.Has P) : (s.evictAll p).Has P :=
  foldl_keeps (P := State.Has P) (fun _ k hb => evict_keeps L k hb) _
    (foldl_keeps (P := State.Has P) (fun _ k hb => evict_keeps L k hb) _ h)
theorem background_keeps (h : s.Has P) : s.background.Has P := by
  unfold State.background
  split
  · exact h
  · refine foldl_keeps (P := State.Has P) (fun b x hb => ?_) _ h
    dsimp only
    split
    · exact evict_keeps L _ hb
    · split
      · exact writeBack_keeps L _ hb
      · exact hb

theorem trimHolder_keeps (n k : Nat) (h : s.Has P) : (State.trimHolder n s k).Has P := by
  induction n generalizing s with
  | zero => exact h
  | succ n ih =>
    unfold State.trimHolder
    dsimp only
    split
    · exact h
    · split
      · exact ih (s := (s.evict _).tick) (evict_keeps L _ h)
      · exact h
theorem trim_keeps (h : s.Has P) : s.trim.Has P := by
  unfold State.trim
  dsimp only
  split
  · exact h
  · exact foldl_keeps (P := State.Has P) (fun _ k hb => trimHolder_keeps L _ k hb) _
      (foldl_keeps (P := State.Has P) (fun _ k hb => trimHolder_keeps L _ k hb) _ h)

omit L in
theorem verify_keeps (l : Nat) (h : s.Has P) : (s.verify l).1.Has P := by
  unfold State.verify
  split
  · exact h
  · split <;> exact h
omit L in
theorem homeLine_keeps (k n : Nat) (h : s.Has P) : (s.homeLine k n).2.Has P := by
  have hv := verify_keeps (P := P) (k / 128) h
  unfold State.homeLine
  split <;> (rename_i he; rw [he] at hv; exact hv)
omit L in
theorem fill_keeps (c l : Nat) (h : s.Has P) : (s.fill c l).2.Has P := by
  have hv := verify_keeps (P := P) l h
  unfold State.fill
  split <;> (rename_i he; rw [he] at hv; exact hv)
omit L in
theorem clusterLine_keeps (c l lo n : Nat) (h : s.Has P) : (s.clusterLine c l lo n).2.Has P := by
  have hf := fill_keeps (P := P) c l h
  have hv := verify_keeps (P := P) l h
  unfold State.clusterLine
  split
  · split
    · exact h
    · exact hf
  · split
    · exact hf
    · split <;> (rename_i he; rw [he] at hv; exact hv)
omit L in
theorem loadLine_keeps (k c a n : Nat) (h : s.Has P) : (s.loadLine k c a n).2.Has P := by
  have hc := clusterLine_keeps (P := P) c (a / 128) (a % 128) n h
  unfold State.loadLine
  dsimp only
  split
  · exact homeLine_keeps _ _ h
  · split
    · exact h
    · split <;> (rename_i he; rw [he] at hc; exact hc)

theorem arrive_keeps (l : Nat) (c : Copy) (made bad : Bool) (h : s.Has P) : (s.arrive l c made bad).Has P := by
  unfold State.arrive
  dsimp only
  split <;> exact homeMerge_keeps L _ _ _ h
theorem cohWrite_keeps (l : Nat) (c : Copy) (made bad : Bool) (h : s.Has P) : (s.cohWrite l c made bad).Has P := by
  have h1 := evictAll_keeps L (fun k => copyLine k == l) h
  unfold State.cohWrite
  dsimp only
  split
  · exact arrive_keeps L _ _ _ _ h1
  · exact foldl_keeps (P := State.Has P) (f := fun s h => s.send (.snoop h l)) (fun _ _ hb => hb) _ h1
theorem storeLine_keeps (k cl l : Nat) (c : Copy) (coh : Bool) (h : s.Has P) : (s.storeLine k cl l c coh).Has P := by
  unfold State.storeLine
  dsimp only
  split
  · exact homeMerge_keeps L _ _ false h
  · split
    · exact cohWrite_keeps L _ _ _ _ h
    · split
      · exact h
      · exact writeBack_keeps L (s := { s with copies := _ }) _ h
theorem injectRead_keeps (c l : Nat) (home : Bool) (h : s.Has P) : (s.injectRead c l home).Has P := by
  have hi := fun k => injected_keeps (P := P) k c h
  unfold State.injectRead
  dsimp only
  repeat' first | exact h | exact hi _ | exact evictAll_keeps L _ (hi _) | split
omit L in
theorem verifyHome_keeps (l : Nat) (h : s.Has P) : (s.verifyHome l).1.Has P := by
  unfold State.verifyHome
  repeat' first | exact h | exact failNotice_keeps _ h | split
theorem settled_keeps (cl l : Nat) (coh : Bool) (h : s.Has P) :
    State.Has P (if coh then s.evictAll fun x => copyLine x == l else s.settleLine cl l) := by
  split <;> exact evictAll_keeps L _ h
theorem atHome_keeps (cl k n : Nat) (coh : Bool) (f : Nat → Option Nat) (ctx : Option Nat) (h : s.Has P) :
    (s.atHome cl k n coh f ctx).2.Has P := by
  have go : ∀ v : State, v.Has P → (v.atHome cl k n coh f none).2.Has P := by
    intro v hv
    have h2 := verifyHome_keeps (P := P) (k / 128) (settled_keeps L cl (k / 128) coh hv)
    unfold State.atHome
    dsimp only
    split
    · rename_i he; rw [he] at h2; exact h2
    · rename_i he
      rw [he] at h2
      split
      · dsimp only
        split
        · exact cohWrite_keeps L _ _ _ _ h2
        · exact homeWrite_keeps L _ _ h2
      · exact h2
  cases ctx with
  | none => exact go s h
  | some c => exact go (s.injectRead c (k / 128)) (injectRead_keeps L _ _ _ h)
end

/-- A page moved within the device leaves memory in its form. -/
theorem copyPage_wf {s : State} (old new : Nat) (h : Memory.wf s.mem = true) : Memory.wf (s.copyPage old new).mem = true := by
  have hu : Memory.wf (if new < regionSize then s.frameChanged (new / 65536) else s).mem = true := by
    split
    · exact frameChanged_keeps memLaw_wf _ h
    · exact h
  unfold State.copyPage
  dsimp only
  generalize (if new < regionSize then s.frameChanged (new / 65536) else s) = u at hu ⊢
  have hall := ((SMap.wf_iff (d := (0 : Byte)) u.mem).1 hu).2
  have key : ∀ (xs : List Host.Cell) (m : List Host.Cell), (∀ x ∈ xs, x.2 ≠ (0 : Byte)) → Memory.wf m = true →
      Memory.wf (xs.foldl (fun r x => SMap.insert r (x.1 - old / 1 + new / 1) x.2) m) = true := by
    intro xs
    induction xs with
    | nil => intro m _ hm; exact hm
    | cons x xs ih =>
      intro m hx hm
      exact ih _ (fun y hy => hx y (List.mem_cons_of_mem _ hy)) (SMap.wf_insert _ (hx x List.mem_cons_self) hm)
  exact key _ _ (fun x hx => hall x (List.mem_of_mem_filter hx)) (SMap.wf_filter _ hu)

/-- What a program is loaded with keeps memory's form. -/
theorem plant_wf {s : State} (keys : List Nat) (bs : List Byte) (h : Memory.wf s.mem = true) :
    Memory.wf (s.plant keys bs).mem = true :=
  foldl_keeps (P := fun m => Memory.wf m = true) (f := fun (m : List Host.Cell) (x : Nat × Byte) => SMap.put 0 m x.1 x.2)
    (fun _ _ hb => SMap.wf_put _ _ hb) (keys.zip bs) h

/-- Memory after reset is in its form. -/
theorem reset_wf : Memory.wf State.reset.mem = true := rfl

/-! ## Reading what was written -/

@[simp] theorem readByte_writeByte_self (s : State) (k : Nat) (b : Byte) : (s.writeByte k b).readByte k = b := by
  simp [State.readByte, State.writeByte]
theorem readByte_writeByte_ne (s : State) {k a : Nat} (b : Byte) (h : a ≠ k) : (s.writeByte k b).readByte a = s.readByte a :=
  SMap.getD_put_of_ne _ _ _ _ h
theorem readByte_scrubFrame (s : State) (f a : Nat) :
    (s.scrubFrame f).readByte a = if a / 65536 = f then 0 else (s.frameChanged f).readByte a := by
  simp only [State.readByte, State.scrubFrame, SMap.getD]
  rw [SMap.find_filter_key (s.frameChanged f).mem (fun k => k / 65536 != f)]
  by_cases h : a / 65536 = f <;> simp [h]

end Sys2Proof.Machine
end

