-- ==== Sys2Proof/Tests/Slice0.lean ====
section
/-! SUPPORT. Tests and witnesses: words the spec gives decode to the instructions it names, an ill-formed term for each check of WellFormed,
one concrete state and operands for the hypotheses of every obligation, and worked results of the spec, one step each. -/

set_option Elab.async false

namespace Sys2Proof.Tests
open Sys2Proof Sys2Proof.Machine

/-! ## Decoding: words that the spec writes out, or the fields of its tables, against their instructions -/

/-- Every word of a list decodes to its instruction, which is well formed and encodes to it. -/
def reads (l : List (Nat × Instr)) : Bool :=
  l.all fun x => decodeTableWord 32 x.1 == some x.2 && x.2.wf && encode x.2 == [BitVec.ofNat 32 x.1]

-- Branch format and CTRL (R101; R319 to R323, R371, R394, R405, R412, R414, R437, R442). BRA, CALL and MARK: OP, COND 0, OFF20.
def wordsControl : List (Nat × Instr) := [(0x01000002, .bra 2), (0x010FFFFF, .bra (-1)), (0x02A00005, .brc true 2 5),
    (0x021FFFF7, .brc false 1 (-9)), (0x03100006, .brd false 1 6), (0x04000003, .call 3), (0x05000004, .mark 4),
    (0x06000000, .nop), (0x0603F001, .ret 63), (0x06014001, .ret 20), (0x06000002, .join), (0x06000003, .exit),
    (0x06000004, .yield), (0x06000005, .rte), (0x06000006, .bkpt), (0x07000123, .trap 0x123), (0x07000FFF, .trap 4095)]
theorem test_decode_control : reads wordsControl = true := by decide +kernel

-- MODESET, PRED and LANE (R102, R407, R411, R413, R421, R422, R440): SETMODE from its fields, the others as their entries say.
def wordsMode : List (Nat × Instr) := [(0x10000180, .setmode 6), (0x10000181, .setfmt 6), (0x110420C0, .pand 1 2 3),
    (0x11080001, .por 2 0 0), (0x110C30C2, .pxor 3 3 3), (0x11101003, .pnot 4 1), (0x12143000, .rflLane 5 3 false),
    (0x12184001, .rflLane 6 4 true), (0x120C4142, .shflIdx 3 4 5), (0x120C4143, .shflUp 3 4 5), (0x120C4144, .shflDown 3 4 5),
    (0x120C4145, .shflXor 3 4 5), (0x12102006, .voteAny 4 2), (0x12142007, .voteAll 5 2), (0x12183008, .voteCount 6 3)]
theorem test_decode_mode : reads wordsMode = true := by decide +kernel

-- INT32, INT64 and the short forms (R103, R312 to R317, R355 to R367, R401, R406, R409, R417, R423, R443).
def wordsVector : List (Nat × Instr) := [(0x20105180, .iadd false 4 5 6), (0x21106200, .iadd true 4 6 8),
    (0x28105FFF, .iaddI 4 5 (-1)), (0x20105181, .isub false 4 5 6), (0x21106201, .isub true 4 6 8),
    (0x20105182, .imul false 4 5 6), (0x2910500A, .imulI 4 5 10), (0x201C5183, .imulh false 7 5 6),
    (0x201C5184, .imulhUnsigned false 7 5 6), (0x21204184, .imulhUnsigned true 8 4 6), (0x20205185, .imad false 8 5 6),
    (0x200C1086, .imin false 3 1 2 false), (0x200C1087, .imin false 3 1 2 true), (0x200C1088, .imax false 3 1 2 false),
    (0x200C1089, .imax false 3 1 2 true), (0x200C200A, .iabs false 3 2), (0x2108400A, .iabs true 2 4),
    (0x2010518B, .and false 4 5 6), (0x2110620B, .and true 4 6 8), (0x2A1050FF, .andI 4 5 255), (0x2010518C, .andn false 4 5 6)]
theorem test_decode_vector : reads wordsVector = true := by decide +kernel
def wordsVectorMore : List (Nat × Instr) := [(0x2010518D, .or false 4 5 6), (0x2B105080, .orI 4 5 128),
    (0x2010518E, .xor false 4 5 6), (0x2C105FFF, .xorI 4 5 (-1)), (0x2010518F, .shl false 4 5 6), (0x2D105003, .shlI 4 5 3),
    (0x20105190, .shr false 4 5 6), (0x2E105003, .shrI 4 5 3), (0x20105191, .sar false 4 5 6), (0x2F105003, .sarI 4 5 3),
    (0x201C3253, .bfx false 7 3 9 true), (0x201C3252, .bfx false 7 3 9 false), (0x20085254, .bfi false 2 5 9),
    (0x200C2015, .popc false 3 2), (0x21084015, .popc true 2 4), (0x200C8016, .clz false 3 8), (0x200C01D7, .mov false 3 7),
    (0x21100197, .mov true 4 6), (0x270C0FFB, .movi 3 (-5)), (0x22084142, .icmp false 2 4 5 .lt),
    (0x230C4189, .icmp true 3 4 6 .geu), (0x240C4142, .sel 3 4 5 false false 2), (0x240C414A, .sel 3 4 5 false true 2),
    (0x24188291, .sel 6 8 10 true false 1)]
theorem test_decode_vector_more : reads wordsVectorMore = true := by decide +kernel

-- UINT64, UINT32 and the short forms (R387, R415 to R419, R423 to R426).
def wordsUniform : List (Nat × Instr) := [(0x30105180, .sadd true 4 5 6), (0x33105180, .sadd false 4 5 6),
    (0x38041FF8, .saddI 1 1 (-8)), (0x30105181, .ssub true 4 5 6), (0x30105182, .smul true 4 5 6), (0x3910500A, .smulI 4 5 10),
    (0x30105183, .smulh true 4 5 6), (0x30105184, .smulhUnsigned true 4 5 6), (0x30105185, .smad true 4 5 6),
    (0x30105186, .smin true 4 5 6 false), (0x30105189, .smax true 4 5 6 true), (0x3010518B, .sand true 4 5 6),
    (0x3310518B, .sand false 4 5 6), (0x3A1050FF, .sandI 4 5 255), (0x3010518D, .sor true 4 5 6), (0x3B105080, .sorI 4 5 128),
    (0x3010518E, .sxor true 4 5 6), (0x3C105FFF, .sxorI 4 5 (-1)), (0x304D328F, .sshl true 19 19 10), (0x3D105003, .sshlI 4 5 3)]
theorem test_decode_uniform : reads wordsUniform = true := by decide +kernel
def wordsUniformMore : List (Nat × Instr) := [(0x30105190, .sshr true 4 5 6), (0x3E105003, .sshrI 4 5 3),
    (0x30105191, .ssar true 4 5 6), (0x3F10503F, .ssarI 4 5 63), (0x301C3252, .sbfx true 7 3 9 false),
    (0x301C3253, .sbfx true 7 3 9 true), (0x30100197, .smov true 4 6), (0x33100197, .smov false 4 6), (0x37100FFB, .smovi 4 (-5)),
    (0x31044140, .scmp64 1 4 5 .eq), (0x31053449, .scmp64 1 19 17 .geu), (0x34084145, .scmp32 2 4 5 .ge),
    (0x32105182, .ssel 4 5 6 false 2), (0x3210518A, .ssel 4 5 6 true 2)]
theorem test_decode_uniform_more : reads wordsUniformMore = true := by decide +kernel

-- FLOAT, FCMP, the conversions, FLONGA and FLONGB (R105, R107, R329 to R354).
def wordsFloat : List (Nat × Instr) := [(0x400C1080, .fadd 3 1 2), (0x400C1081, .fsub 3 1 2), (0x40184142, .fmul 6 4 5),
    (0x40184143, .fma 6 4 5), (0x400C1084, .fmin 3 1 2), (0x400C1085, .fmax 3 1 2), (0x400C2006, .fabs 3 2),
    (0x400C2007, .fneg 3 2), (0x400C2008, .frint 3 2), (0x40144009, .fclass 5 4), (0x41084142, .fcmp 2 4 5 .lt),
    (0x420C2001, .fcvt 3 2 .f32 .f16), (0x42103020, .fcvt 4 3 .dm8 .f32), (0x42084018, .fcvt 2 4 .f64 .f32),
    (0x43142002, .f2i 5 2 .s32), (0x44085006, .i2f 2 5 .n32), (0x48144001, .frcp 5 4 1), (0x48144010, .frsq 5 4 0),
    (0x48144023, .fsqrt 5 4 3), (0x482061F4, .fdiv 8 6 7 4), (0x49184001, .fexp2 6 4 1), (0x49184010, .flog2 6 4 0),
    (0x49184020, .fsin 6 4 0), (0x491C4032, .fcos 7 4 2)]
theorem test_decode_float : reads wordsFloat = true := by decide +kernel

-- CAPU, CAPL, KINC and KSWEEP (R106, R163, R373 to R384).
def wordsCapability : List (Nat × Instr) := [(0x500420C0, .kinc false 1 2 3), (0x51450080, .kinc true 17 16 2),
    (0x52041040, .kincI false 1 1 64), (0x53483FF0, .kincI true 18 3 (-16)), (0x500420C1, .kset false 1 2 3),
    (0x51410101, .kset true 16 16 4), (0x500C2142, .kbnd false 3 2 5), (0x51451082, .kbnd true 17 17 2),
    (0x500C3143, .kprm false 3 3 5), (0x50103344, .kseal false 4 3 13), (0x51492344, .kseal true 18 18 13),
    (0x50104345, .kopen false 4 4 13), (0x501C30C6, .kget false 7 3 .len), (0x51111046, .kget true 4 17 .base),
    (0x50203087, .ksub false 8 3 2), (0x51190087, .ksub true 6 16 2), (0x50143008, .kmov false 5 3), (0x514C5008, .kmov true 19 5),
    (0x50140009, .kclr false 5), (0x51400009, .kclr true 16), (0x58104000, .ksweep false 4 4 0), (0x59451000, .ksweep true 17 17 0)]
theorem test_decode_capability : reads wordsCapability = true := by decide +kernel

-- Loads and stores (R107, R385 to R393, R427 to R432, R408).
def wordsMemory : List (Nat × Instr) := [(0x61151090, .ld .s8 5 17 2 .x1 0), (0x621010E0, .ld .b16 4 1 3 .scaled 0),
    (0x64102062, .ld .b32 4 2 1 .scaled 2), (0x66203000, .ld .b128 8 3 0 .absent 0), (0x68102050, .st .b8 4 2 1 .x1 0),
    (0x691020A0, .st .b16 4 2 2 .scaled 0), (0x6A0C1020, .st .b32 3 1 0 .scaled 0), (0x6B1910A0, .st .b64 6 17 2 .scaled 0),
    (0x6C203000, .st .b128 8 3 0 .absent 0), (0x6E4420E0, .ldc 17 2 3 .scaled 0), (0x6F4420E0, .stc 17 2 3 .scaled 0),
    (0x70084000, .ldu false 2 4 0 .absent 0), (0x711020E0, .ldu true 4 2 3 .scaled 0), (0x72084000, .stu false 2 4 0 .absent 0),
    (0x731020E0, .stu true 4 2 3 .scaled 0), (0x7404E003, .ldcu 1 14 0 .absent 3), (0x740CE0A1, .ldcu 3 14 2 .scaled 1),
    (0x750CD0A0, .stcu 3 13 2 .scaled 0), (0x78002000, .pref 2 0 false 0), (0x780110D0, .pref 17 3 true 0)]
theorem test_decode_memory : reads wordsMemory = true := by decide +kernel

-- FLUSH, INVAL, FENCE, DRAIN, the atomics, counters and submissions (R107, R108, R210, R211, R217, R219, R220, R368, R388, R435).
def wordsOrder : List (Nat × Instr) := [(0x79103000, .flush .device 3 .cursor 0), (0x790C5010, .flush .gang 5 .bounds 0),
    (0x79100020, .flush .device 0 .held 0), (0x7A143010, .inval .pool 3 .bounds 0), (0x7B100010, .fence .device .release 0),
    (0x7B0C0020, .fence .gang .acquire 0), (0x7B140000, .fence .pool .full 0), (0x7C000000, .drain 0),
    (0x80102042, .atom false .add 4 2 1 2), (0x86183080, .atom true .xchg 6 3 2 0), (0x83202040, .cas false 8 2 1 0),
    (0x87211080, .cas true 8 17 2 0), (0x8A1830B0, .red false .fmax 6 3 2 0), (0x8C182100, .red true .add 6 2 4 0),
    (0x90004180, .cadd 0 4 6 false 0), (0x901C4191, .cadd 7 4 6 true 1), (0x91004240, .cwait 0 4 9 false 0),
    (0x91204250, .cwait 8 4 9 true 0), (0x98006080, .job 6 2 0), (0x99007080, .task 7 2 0), (0x9A007080, .launch 7 2 0)]

-- The matrix format and its long-latency rows, SYSRW, TLBINV, PGMAP and the prefixes (R109, R110, R144, R395 to R404, R436).
def wordsMatrix : List (Nat × Instr) := [(0xA0265002, .mma 1 3 2 true false false 2), (0xA0002800, .mma 0 0 1 false true false 0),
    (0xA0840100, .mma 4 2 0 false false true 0), (0xA1400000, .mza 2 0), (0xA80C2101, .mldt 3 2 4 false 1),
    (0xA8142111, .mldt 5 2 4 true 1), (0xA9083100, .mlda 2 3 4 0), (0xAA043190, .msta 1 3 6 true 0), (0xAA043180, .msta 1 3 6 false 0),
    (0xAB08A000, .mmap 2 10 0), (0xAC240001, .mchk 9 1), (0xE0100240, .sysr 4 9), (0xE0006241, .sysw 6 9),
    (0xE1002000, .tlbinv 2), (0xE1000001, .tlbinvAll), (0xE2102000, .pgmap 4 2), (0xFE002000, .imm 0x2000),
    (0xFEFFFFFF, .imm 0xFFFFFF), (0xFF180000, .uni 6)]
theorem test_decode_matrix : reads wordsMatrix = true := by decide +kernel
theorem test_decode_order : reads wordsOrder = true := by decide +kernel

-- Words that raise ILLEGAL (R92, R95, R99 to R110): unallocated opcodes and functions, non-zero reserved fields.
theorem test_decode_refuses : ([0x00000000, 0xFFFFFFFF, 0x20000018, 0x03800010, 0x01100000, 0x08000000, 0x06000007, 0x06001000,
    0x07001000, 0x10000002, 0x11200000, 0x1200000A, 0x2000004A, 0x2200000A, 0x24000020,
    0x3000000A, 0x41000008, 0x42000000, 0x42000005, 0x43000008, 0x50400000, 0x51000000, 0x5000000A, 0x50000206, 0x60000030,
    0x60018000, 0x60000040, 0x7B1C0000, 0x7C000010, 0x83000010, 0x8A000000, 0x98000010, 0xA0000200, 0xA1000100, 0xA0000010,
    0xA8400000, 0xA9200000, 0xE0000002, 0xE2000001, 0xB0000000, 0xFF000001] : List Nat).all
    (fun w => decodeTableWord 32 w == none) = true := by decide +kernel

/-! ## Well-formedness: for each check a term that it refuses -/

theorem test_wf_refuses : ([.bra 524288, .bra (-524289), .brc true 8 0, .brd false 8 0, .brd true 0 0, .ret 64, .trap 4096,
    .setmode 64, .pand 8 0 0, .pnot 0 8, .rflLane 64 0 false, .shflIdx 0 64 0, .voteAny 0 8, .iadd false 64 0 0,
    .iaddI 0 0 2048, .iaddI 0 0 (-2049), .iabs true 0 64, .mov false 64 0, .movi 0 2048, .icmp false 8 0 0 .eq,
    .sel 0 0 0 false true 0, .sel 0 0 64 false false 1, .sadd true 0 64 0, .saddI 64 0 0, .smov true 0 64, .smovi 64 0,
    .scmp64 8 0 0 .eq, .ssel 0 0 0 true 8, .fadd 0 0 64, .fabs 64 0, .fcmp 8 0 0 .eq, .fcvt 0 0 .f16 .f16, .f2i 64 0 .s8,
    .frcp 0 0 16, .fdiv 0 64 0 0, .kinc false 16 0 0, .kinc true 0 0 0, .kincI false 0 16 0, .kseal false 0 0 16,
    .kget true 0 24 .cur, .ksub false 0 0 16, .kmov true 15 0, .kclr false 16, .ksweep true 0 16 0, .ld .b8 0 24 0 .x1 0,
    .ld .b8 0 0 1 .absent 0, .st .b8 0 0 0 .x1 16, .ldc 0 0 0 .x1 0, .stc 24 0 0 .x1 0, .ldu false 0 16 0 .x1 0, .stu false 64 0 0 .x1 0,
    .ldcu 16 0 0 .x1 0, .stcu 0 16 0 .x1 0, .pref 0 1 false 0, .flush .team 1 .held 0, .inval .team 16 .cursor 0,
    .fence .team .full 16, .drain 16, .atom false .add 0 24 0 0, .cas false 0 0 64 0, .red false .xchg 0 0 0 0,
    .cadd 1 0 0 false 0, .cwait 0 16 0 true 0, .job 16 0 0, .task 0 64 0, .launch 0 0 16, .mma 8 0 0 false false false 0,
    .mma 0 16 0 false false false 0, .mma 0 0 16 false false false 0, .mza 8 0, .mldt 16 0 0 false 0, .mlda 8 0 0 0,
    .msta 0 16 0 false 0, .mmap 16 0 0, .mchk 64 0, .sysr 64 0, .sysw 0 64, .tlbinv 64, .pgmap 0 64, .imm 16777216, .uni 64,
    .bankMode 16 0, .bankSwitchComplete 0 4, .notify 0 0 2, .fabricPause 128 0, .fabricResume 0 4] : List Instr).all
    (fun i => !i.wf) = true := by decide +kernel


/-! ## A small device

Context 0 maps page 1 (frame 1) for its code, page 2 (frame 2) for data and page 3 (frame 3) for its supervisor; frame 4 is in
its pool. One team of 32 lanes with ticket 1 stands at its first instruction, in SUPER. -/

def capAt (base len perm : Nat) : Cap := (capExact base len perm 0).getD Cap.null

def demoCtx (c : Ctx) : Ctx :=
  { c with ptes := [(1, 0x1001E), (2, 0x2000E), (3, 0x3003E)], pool := [4], supBase := 196608, supLen := 65536,
           codeBase := 196608, codeLen := 65536, trapVec := 0x8000000000030000, evtRing := 65536, evtCtl := 131072,
           capLog2 := 4 }

/-- q0 holds, in lane l, a capability at the data page's byte 8·l; c1 and c3 hold one at its start, c13 a sealing one. -/
def demo : State :=
  let s := (State.reset.placeTeam).modCtx 0 demoCtx
  let d := capAt 131072 65536 1023
  { s with
    bringUp := 0, owner := [(1, 1), (2, 1), (3, 1), (4, 1)],
    team := { s.team with
      priv := .super,
      s := [(2, 1), (3, 16), (4, 131072), (5, 40), (6, 0x2000), (9, 0x2000), (10, 0x1234), (63, 65544)],
      c := [(1, d), (2, d), (3, d), (4, d), (6, d), (13, d.setCur 131073)],
      v := [(0, (List.range 32).map fun l => BitVec.ofNat 32 l), (1, (List.range 32).map fun l => BitVec.ofNat 32 (l + 1)),
        (2, (List.range 32).map fun _ => 0x40400000)],
      q := [(0, (List.range 32).map fun l => d.setCur (131072 + 16 * l))],
      p := [(1, 0x0000FFFF), (2, 0)] } }

/-! ## Witnesses: states and operands that meet the hypotheses of the statements

Each theorem is named for its statement and meets, in one line a clause, the hypotheses of that statement's clauses. -/

def demoTeam (f : Team → Team) : State := { demo with team := f demo.team }

theorem fst_eq {α β : Type} {p : α × β} {a : α} (h : p.1 = a) : p = (a, p.2) := by cases p; cases h; rfl

theorem clear_of {s : State} (h : (s.merges.isEmpty && s.snoops.isEmpty && s.specs.isEmpty && !s.speculative &&
    !injEn s.injCtl && !s.queueOwes && decide (s.who.core < 320) && decide (s.team.id.ticket < 2 ^ 32) &&
    ((s.ctx? s.team.ctx).all fun c => c.window % 65536 == 0) && s.copies.isEmpty) = true) : s.Clear := by
  simp only [Bool.and_eq_true, List.isEmpty_iff, Bool.not_eq_true', decide_eq_true_eq] at h
  obtain ⟨⟨⟨⟨⟨⟨⟨⟨⟨a, b⟩, c⟩, d⟩, e⟩, f⟩, o⟩, g⟩, i⟩, j⟩ := h
  refine ⟨a, b, c, d, e, f, o, g, fun x hx => ?_, fun x hx => ?_⟩
  · rw [hx] at i; simpa using i
  · rw [j] at hx; cases hx

theorem here_of {ps : List Plan} (h : (ps.all fun p => (match p.res with | .ok _ => true | .error _ => false) &&
    p.parts.all fun q => (peerOf q.key).isNone && q.fifo.isNone) = true) : Here ps := by
  intro p hp
  have := List.all_eq_true.1 h p hp
  simp only [Bool.and_eq_true] at this
  refine ⟨?_, fun q hq => ?_⟩
  · cases hr : p.res with
    | ok qs => exact ⟨qs, rfl⟩
    | error e => rw [hr] at this; simp at this
  · have := List.all_eq_true.1 this.2 q hq
    simpa using this

theorem onlyOwn_of {s : State} {core : Nat} {ps : List Plan} (h : s.copies = []) : s.OnlyOwn core ps := by
  intro p _ k _ x c hx
  rw [h] at hx; cases hx
theorem fresh_of {s : State} {ps : List Plan} (h : s.copies = []) : s.Fresh ps := by
  intro p _ k _
  refine ⟨fun c hx => ?_, fun c hx => ?_⟩
  · rw [h] at hx; cases hx
  · rw [State.copy?, h] at hx; cases hx

/-- Every encoded instruction issues on it: the premise of every statement about an instruction's own effect. -/
theorem witness_all_issue : ((wordsControl ++ wordsMode ++ wordsVector ++ wordsVectorMore ++ wordsUniform ++ wordsUniformMore ++
    wordsFloat ++ wordsCapability ++ wordsMemory ++ wordsOrder ++ wordsMatrix).all fun x =>
      (match x.2 with | .imm _ => true | .uni _ => true | i => demo.issues i)) = true := by decide +kernel

theorem demo_clear : demo.Clear := clear_of (by decide +kernel)

theorem witness_DecodeEncodeAgree : (Instr.sadd true 4 5 6).encoded = true ∧ (Instr.sadd true 4 5 6).wf = true ∧
    decodeWord (0x30105180 : Word).toNat = .ok (.sadd true 4 5 6) := by decide +kernel

/-- demo with two words at its pc, the second in the upper half of `w`. -/
def codeAt (w : Nat) : State := demo.withFetchWord 96 w
def oneMerge : State := { demo with timebase := 64, merges := [⟨0, 0, 131072, 4, .add, 3, ⟨1, 0, 0, 0⟩, 0, 0, 131072, false, 0⟩] }
def emptied : State := demoTeam fun t => { t with active := 0 }
def tested : State := { demo with injCtl := 0x0001000B }

/-- The state in which a turn begins, and whether it is the issuing team's. -/
def turnOf (s : State) : State := s.cycle.nextEvent.2
def hasTurn (s : State) : Bool :=
  s.cycle.agenda.isEmpty && s.cycle.nextEvent.1 == none && (turnOf s).canIssue (turnOf s).team &&
    !(decide ((turnOf s).ready.team.active = 0) && (turnOf s).ready.team.saved.isNone)

theorem witness_StepOrder :
    (∃ i rest, ({ demo with agenda := [Instr.dispatch] } : State).cycle.agenda = i :: rest ∧ i.encoded = false) ∧
    (oneMerge.cycle.agenda = [] ∧ oneMerge.cycle.nextEvent.1 = some (.mergeBufferSend 0)) ∧
    (State.reset.cycle.agenda = [] ∧ State.reset.cycle.nextEvent.1 = none ∧
      (turnOf State.reset).canIssue (turnOf State.reset).team = false) ∧
    (emptied.cycle.agenda = [] ∧ emptied.cycle.nextEvent.1 = none ∧ (turnOf emptied).canIssue (turnOf emptied).team = true ∧
      (turnOf emptied).ready.team.active = 0 ∧ (turnOf emptied).ready.team.saved = none) ∧
    (hasTurn tested && (turnOf tested).ready.injectTiming.1) = true ∧ demo.closing = [] :=
  ⟨⟨_, _, rfl, rfl⟩, by decide +kernel, by decide +kernel, by decide +kernel, by decide +kernel, rfl⟩

/-- The words of StepRunsDecoded's clauses: an instruction, no instruction, and each after one prefix and after two. -/
theorem witness_StepRunsDecoded : ([(0x30105180, 0), (0, 0), (0xFE002000, 0x30105180), (0xFE002000, 0),
      (0xFE002000, 0xFE002000), (0xFE002000, 0xFF180000)] : List (Nat × Nat)).all (fun x =>
    let s := codeAt (x.1 + 2 ^ 32 * x.2)
    let u := (turnOf s).ready.injectTiming.2
    let f := u.fetchWord u.team.pc
    let g := f.2.fetchWord (u.team.pc + 4)
    hasTurn s && !(turnOf s).ready.injectTiming.1 && (match f.1 with | .ok w => w == x.1 | _ => false) &&
      (match g.1 with | .ok w => w == x.2 | _ => false)) = true := by decide +kernel

theorem witness_fetch_fails :
    (let s := demoTeam fun t => { t with pc := 0x30000 }
     hasTurn s && (match ((turnOf s).ready.fetchWord 0x30000).1 with | .error (.trap _ _) => true | _ => false)) = true := by
  decide +kernel

def codePlan : Plan := ⟨0, 65536, demo.resolve demo.who 0 demo.team.codeCap 65536 4 permExec 4 .fetch, []⟩
theorem witness_FetchReadsTheCode : (∃ ps, codePlan.res = .ok ps) ∧ demo.Clear ∧ Here [codePlan] ∧ demo.Sound [codePlan] ∧
    demo.Fresh [codePlan] :=
  ⟨(here_of (ps := [codePlan]) (by decide +kernel) _ List.mem_cons_self).1, demo_clear, here_of (by decide +kernel),
    fun p hp => by rw [List.mem_singleton.1 hp]; decide +kernel, fresh_of rfl⟩

theorem witness_StepsGoOn : ∀ i ∈ demo.agenda, i.encoded = false := by decide +kernel
theorem witness_StepKeepsMemoryForm : Memory.wf (codeAt 0x30105180).mem = true ∧
    (match step (codeAt 0x30105180) with | .next _ => true | _ => false) = true := by decide +kernel
theorem witness_StepKeepsHostUntagged : ∀ g, regionSize ≤ 16 * g → 16 * g < 2 * regionSize → SMap.getD demo.tags g false = false :=
  fun _ _ _ => rfl

/-! ### Checks, traps and control flow -/

/-- Operands out of range, a prefix that has no place, USER, a lookahead hazard under LACHK and a guarded collective. -/
def userTeam (s : State) : State := { s with team := { s.team with priv := .user } }
theorem witness_ChecksStopInOrder :
    (demo.team.blocked (.sadd true 4 5 6) || demo.team.blocked .tlbinvAll) = false ∧
    ¬ (∀ u ∈ ({ demo.team with nv := 8 } : Team).uses (.iadd false 9 0 0), u.ok { demo.team with nv := 8 } = true) ∧
    ((takes .tlbinvAll).fits ⟨some 1, none, 1, []⟩ = false) ∧
    ((userTeam demo).team.privOk .tlbinvAll = false ∧ ((userTeam demo).entering .tlbinvAll).team = (userTeam demo).team) ∧
    (kindOf (.mma 0 0 0 false false false 0) = .collective ∧
      (demoTeam fun t => { t with active := 1 }).team.active ≠ fullMask 32) := by decide +kernel
theorem witness_hazard : ∃ t : Team, ∃ i : Instr, t.hazard i = true ∧ t.blocked i = false := ⟨
  { demo.team with mode := 0x1000, pending := [⟨0, 3, [.s 5 (some 1)], 0, [], [], 65536, 0, 1, true, true, [], [], 0, []⟩] }, .sadd true 4 5 6,
  by decide +kernel⟩

/-- The privileged instructions, and selectors of a SUPER register (0x012), a read-only one (0x010) and none (0xFFF). -/
theorem witness_PrivilegeIsChecked : ([Instr.rte, .tlbinvAll, .tlbinv 2, .pgmap 4 2].all fun i =>
      !(userTeam demo).team.blocked i && ((userTeam demo).team.uses i).all (fun u => u.ok (userTeam demo).team) &&
      (takes i).fits demo.team.latch) = true ∧
    (∃ r, sysRow (0x093 * 4096) = some r ∧ Priv.user.rank < r.readAt.rank) ∧ sysRow (0xFFF * 4096) = none ∧
    (∃ r, sysRow (0x010 * 4096) = some r ∧ r.writeAt = none) := by
  refine ⟨by decide +kernel, ?_, by decide +kernel, ?_⟩
  · exact ⟨_, rfl, by decide +kernel⟩
  · exact ⟨_, rfl, by decide +kernel⟩

theorem witness_TrapEntryAndReplay :
    (∃ k, demo.ctx? demo.team.ctx = some k ∧ k.trapV = true ∧ inCode k.supCode k.trapAddr 4 = true) ∧
    demo.specOf demo.team = none ∧ demo.team.closeWindows.finishAll.pending = [] ∧ demo.team.saved = none ∧
    containCause (Cause.instr 0x01 0).code = false ∧ demo.team.replay = none ∧
    (demoTeam fun t => { t with pending := [⟨0, 0, [], 0, [7], [], 0, 0, 1, false, true, [], [], 0, []⟩] }).team.closeWindows.finishAll.pending
      ≠ [] ∧ demo.queueOf demo.team = false ∧ demo.team.pending = [] ∧ demo.team.past = [] ∧
    (demo.issues .bkpt && demo.issues (.trap 4095)) = true := by
  refine ⟨⟨_, rfl, by decide +kernel⟩, by decide +kernel⟩

def handler (replay : Mask) (code : Cap) : State := demoTeam fun t => { t with
  saved := some ⟨0xFFFFFFFF, 0, 0, Cap.null, code, .user⟩, active := 3, trap := { t.trap with pc := 65540, words := 1, replay := replay } }
theorem witness_ReturnFromHandlers :
    ([handler 0 demo.team.codeCap, handler 1 demo.team.codeCap].all fun s => s.issues .rte && s.issues .exit &&
      inCode demo.team.codeCap (if s.team.trap.replay = 0 then 65544 else 65540) 4 && s.team.saved.isSome) = true ∧
    demo.issues .rte = true ∧ demo.team.saved = none ∧ inCode Cap.null 65544 4 = false ∧
    (0xFFFFFFFF : Mask) &&& ~~~ (handler 0 Cap.null).team.active ≠ 0 := by decide +kernel

/-- Targets at the first byte of the code capability, at its last word and one word past either end. -/
theorem witness_BranchesAndCalls :
    (inCode demo.team.codeCap (demo.team.pc + BitVec.ofInt 64 0) 4 = true ∧
      inCode demo.team.codeCap (demo.team.pc + BitVec.ofInt 64 (4 * 16383)) 4 = true ∧
      inCode demo.team.codeCap (demo.team.pc + BitVec.ofInt 64 (4 * 16384)) 4 = false ∧
      inCode demo.team.codeCap (demo.team.pc + BitVec.ofInt 64 (4 * -1)) 4 = false) ∧
    (demo.team.selected 0 = true ∧ demo.team.getP 1 0 = true ∧ demo.team.getP 1 31 = false ∧ demo.team.getP 2 0 = false) ∧
    ((demo.team.getS 63).toNat < 2 ^ 57 ∧ (demo.team.getS 63).toNat % 4 = 0 ∧ inCode demo.team.codeCap (demo.team.getS 63) 4 = true ∧
      inCode demo.team.codeCap (demo.team.getS 5) 4 = false) ∧
    ([Instr.bra 2, .brc false 1 2, .brc true 0 2, .call 2, .ret 63, .mark 2, .brd false 1 2].all demo.issues) = true := by
  decide +kernel

def entry (k : EntryKind) (m : Mask) : StackEntry := ⟨k, 65544, m, 0, 0⟩
def stacked (n : Nat) : State := demoTeam fun t => { t with stack := List.replicate n (entry .join 0xFFFFFFFF) }
theorem witness_DivergenceStack :
    ((stacked 31).team.stack.length < 32 ∧ 32 ≤ (stacked 32).team.stack.length ∧ (stacked 32).issues (.mark 2) = true ∧
      (stacked 32).issues (.brd false 1 2) = true ∧ (0x0000FFFF : Mask) ≠ 0 ∧ demo.team.active &&& ~~~0x0000FFFF ≠ 0) ∧
    (stacked 1).team.LiveAt 0 (entry .join 0xFFFFFFFF) [] ∧ (∀ d ∈ (stacked 1).team.stack, d.mask &&& ~~~(0xFFFFFFFF : Mask) = 0) ∧ demo.team.active ≠ 0 ∧ (demoTeam fun t => { t with spilled := 1 }).team.spilled ≠ 0 ∧
    emptied.team.active = 0 ∧ demo.issues .join = true ∧ demo.issues .exit = true := by
  refine ⟨by decide +kernel, ⟨[], rfl, by simp, by decide +kernel⟩, by decide +kernel, by decide +kernel⟩
theorem witness_takers : demo.team.IsSet 0x0000FFFF (fun l => demo.team.selected l && (demo.team.getP 1 l != false)) := by
  have h : ((List.range 1024).all fun l => (0x0000FFFF : Mask).getLsbD l ==
      (decide (l < demo.team.width) && (demo.team.selected l && (demo.team.getP 1 l != false)))) = true := by decide +kernel
  intro l hl
  simpa using List.all_eq_true.1 h l (List.mem_range.2 hl)

theorem witness_ModesAndPrefixes :
    (let x (t : Team) (b : Nat) : Word := (t.sBz b).setWidth 32
     (x demo.team 2).toNat / 2 ^ 13 = 0 ∧ (x demo.team 2).toNat / 2 ^ 7 % 8 ≤ 4 ∧ (x demo.team 9).toNat / 2 ^ 13 ≠ 0) ∧
    demo.team.latch.imm = none ∧ demo.team.latch.uni = none ∧ (0xFFFFFF : Nat) < 2 ^ 24 ∧
    (demo.issues (.setmode 2) && demo.issues (.setmode 9) && demo.issues (.setfmt 2)) = true := by decide +kernel

/-! ### Values -/

theorem witness_PredicatesVotesAndShuffles : (∀ l < 32, (demoTeam fun t => { t with p := [(0, 0)], active := 0 }).team.selected l = false) ∧
    (demo.team.selected 0 = true ∧ ∀ k < 0, demo.team.selected k = false) ∧
    (let t := (demoTeam fun t => { t with active := 0x80000000 }).team
     t.selected 31 = true ∧ ∀ k < 31, t.selected k = false) := by decide +kernel

def three : FVal := fmtF32.unpack false 0x40400000
def minusThree : FVal := fmtF32.unpack false 0xC0400000
theorem three_eq : three = .fin false 12582912 (-22) := by decide +kernel
theorem minusThree_eq : minusThree = .fin true 12582912 (-22) := by decide +kernel

theorem witness_SumsProductsAndRounding :
    (three.isFin = true ∧ minusThree.isFin = true ∧ three.rat + three.rat ≠ 0 ∧ three.rat + minusThree.rat = 0 ∧ three.rat ≠ 0 ∧
      three.rat * minusThree.rat ≠ 0) ∧
    (FVal.nan true).isNan = true ∧
    ∀ F ∈ [fmtF32, fmtF16, fmtBf16, fmtF64], F.standard ∧ ∀ r, r ≤ 4 → (F.round ⟨r, false, false⟩ false 1 0).2.getLsbD 2 = false := by
  have h : three.rat = 3 := by rw [three_eq]; norm_num [FVal.rat]
  have h' : minusThree.rat = -3 := by rw [minusThree_eq]; norm_num [FVal.rat]
  rw [h, h']
  refine ⟨⟨by decide +kernel, by decide +kernel, by norm_num, by norm_num, by norm_num, by norm_num⟩, rfl, fun F hF => ?_⟩
  have g : ([fmtF32, fmtF16, fmtBf16, fmtF64].all fun F => (List.range 5).all fun r =>
      !(F.round ⟨r, false, false⟩ false 1 0).2.getLsbD 2) = true := by decide +kernel
  refine ⟨by simpa [FFmt.standard] using hF, fun r hr => ?_⟩
  simpa using List.all_eq_true.1 (List.all_eq_true.1 g F hF) r (List.mem_range.2 (by omega))

/-- A value that overflows, one that stays finite, a subnormal operand, and results that are subnormal and that are not, under FTZ. -/
theorem witness_SumsProductsAndRounding_bounds :
    fmtF32.bias + 1 = 128 ∧ (FVal.fin false 1 128).rat = 2 ^ 128 ∧ fmtF32.isSubnormal 1 = true ∧
    (∀ r, r < 5 → ∀ sat : Bool, (fmtF32.round ⟨r, sat, false⟩ true 1 128).2.getLsbD 2 = true) ∧
    fmtF32.isSubnormal (fmtF32.round ⟨0, false, false⟩ false 1 (-149)).1 = true ∧
    fmtF32.isSubnormal (fmtF32.round ⟨0, false, false⟩ false 1 0).1 = false :=
  ⟨by decide +kernel, by norm_num [FVal.rat], by decide +kernel, by decide +kernel, by decide +kernel, by decide +kernel⟩

theorem witness_FloatSelectsAndCompares : (FVal.nan false).isNan = true ∧ three.isNan = false ∧ minusThree.isFin = true ∧
    three.isFin = true ∧ minusThree.rat < three.rat := by
  refine ⟨rfl, by decide +kernel, by decide +kernel, by decide +kernel, ?_⟩
  rw [three_eq, minusThree_eq]; norm_num [FVal.rat]

/-- Conversions: the extremes of the types, and the codes on either side of NaR. -/
theorem witness_FloatConversions : (∀ k : ITy, ityMin k ≤ ityMin k ∧ ityMin k ≤ ityMax k ∧ ityMax k ≤ ityMax k) ∧
    three.isFin = true ∧ ((0x7F : Nat) < 256 ∧ (0x7F : Nat) ≠ 0x80 ∧ (0xFF : Nat) < 256 ∧ (0xFF : Nat) ≠ 0x80) := by
  refine ⟨fun k => by cases k <;> decide +kernel, by decide +kernel⟩

def landed : Pending := ⟨4, 2, [.v 3 (List.replicate 32 (some 9))], 1, [], [], 65536, 0, 1, false, true, [], [], 0, []⟩
theorem witness_LongFloats :
    (demoTeam fun t => { t with pending := [landed] }).team.pending.find? (fun x => x.id == landed.id) = some landed ∧
    landed.waits = [] ∧ landed.faults = [] ∧ fmtF32.standard ∧ (1 : Nat) ≠ 0 ∧ (0 : Nat) < demo.team.width := by
  refine ⟨by decide +kernel, rfl, rfl, Or.inl rfl, by decide, by decide +kernel⟩

/-! ### Capabilities -/

def data : Cap := capAt 131072 65536 1023
def sealer (n : Nat) : Cap := (capAt 0 64 1023).setCur n
def okOr (x : Except Nat Cap) : Cap := match x with | .ok k => k | .error _ => Cap.null
def seals (x : Except Nat Cap) (e : Nat) : Bool := match x with | .error c => c == e | .ok _ => false
def passes (x : Except Nat Cap) : Bool := match x with | .ok _ => true | .error _ => false
/-- `data` sealed with type 15, the highest. -/
def sealed15 : Cap := okOr (capSeal data (sealer 15))

/-- Derivations that pass and that fail, uniform and in every lane, and each refusal of R163 at its boundary. -/
theorem witness_CapabilityDerivations :
    (passes (capMove data 131073) && seals (capMove sealed15 131073) 0x13 && passes (capSeal data (sealer 15)) &&
      passes (capOpen sealed15 (sealer 15))) = true ∧
    (demo.issues (.kinc false 1 2 3) && demo.issues (.kinc true 17 16 2)) = true ∧
    ((List.range 32).all fun l => passes (capMove (demo.team.getK 16 l) ((demo.team.getK 16 l).cur + 1))) = true ∧
    (sealed15.tag = true ∧ sealed15.isSealed = true ∧ sealed15.otype = 15 ∧ (sealer 15).cur = 15) ∧
    ((sealer 15).tag = true ∧ (sealer 15).isSealed = false ∧ (sealer 15).perm.testBit 9 = true ∧ (sealer 15).cur < 16) ∧
    (∃ lo hi, capDecode (sealer 15) = some (lo, hi) ∧ lo ≤ (sealer 15).cur ∧ (sealer 15).cur < hi) ∧
    ¬ (sealer 16).cur < 16 ∧ (capAt 0 64 511).perm.testBit 9 = false ∧ Cap.null.tag = false ∧
    (sealed15.isSealed = true ∧ sealed15.otype ≠ (sealer 14).cur) := by
  refine ⟨by decide +kernel, by decide +kernel, by decide +kernel, by decide +kernel, by decide +kernel,
    ⟨0, 64, by decide +kernel, by decide +kernel, by decide +kernel⟩, by decide +kernel⟩

theorem witness_CapabilityMovesReadsAndFields : capDecode data = some (131072, 196608) ∧
    (let k : Cap := ⟨true, 36 <<< 57⟩; 35 < k.g ∧ capDecode k = none) ∧ ¬ 35 < (⟨true, 35 <<< 57⟩ : Cap).g := by decide +kernel

theorem witness_DerivationNeverEnlarges : capDecode data = some (131072, 196608) ∧
    (let r := okOr (capMove data 196607); passes (capMove data 196607) ∧ r.tag = true) ∧
    (let r := okOr (capBound data 65536); passes (capBound data 65536) ∧ r.tag = true) ∧
    (let r := okOr (capPerms data 3); passes (capPerms data 3) ∧ r.tag = true) ∧
    passes (capSeal data (sealer 1)) ∧ passes (capOpen sealed15 (sealer 15)) ∧ capDecode sealed15 = some (131072, 196608) ∧
    (2 ^ 57 - 1 < 2 ^ 57) := by decide +kernel

/-! ### Memory -/

/-- demo with page 2 mapped by `e`. -/
def mapped (e : BitVec 128) : State := demo.modCtx 0 fun c => { c with ptes := c.ptes.put 0 2 e }
theorem demo_ctx : (demo.ctx? 0).isSome = true := by decide +kernel
def ctxOf (s : State) : Ctx := (s.ctx? 0).getD ((demo.ctx? 0).get demo_ctx)
def walks (s : State) (va : Nat) (e : BitVec 128) : Bool := match (ctxOf s).walk va with | .ok x => x == e | .error _ => false

/-- A team with one active lane whose bank 0 is a FIFO with `n` entries, reached by lane capability 16. -/
def fifo (n : Nat) : State :=
  { demo with
    cores := [(0, ⟨some ⟨1, 0, 0⟩, none, [⟨.fifo, some ⟨1, 0, 0⟩, 0, none, 0, false, List.replicate n 7⟩, Bank.reset, Bank.reset, Bank.reset]⟩)],
    team := { demo.team with active := 1, q := [(0, List.replicate 32 (capAt 16777216 65536 1023))] } }
/-- The team's bank 0 with a change of mode on its way. -/
def switched (m : Option BankMode) : State := { demo with
  cores := [(0, ⟨some ⟨1, 0, 0⟩, none, [⟨.scratch, some ⟨1, 0, 0⟩, 0, m, 0, false, []⟩, Bank.reset, Bank.reset, Bank.reset]⟩)] }

/-- Accesses of R157 at the bounds and one byte outside them, and of R188 with an unmapped page, MIG, another GEN, no right, SUP,
a frame of no context, a lost expander, and a viral context's write to host memory. -/
theorem witness_AccessChecksInOrder :
    (data.tag = true ∧ data.isSealed = false ∧ data.has 1 = true ∧ Cap.null.tag = false ∧ sealed15.isSealed = true ∧
      (capAt 0 64 2).has 1 = false ∧ capDecode ⟨true, (36 <<< 57) ||| (3 <<< 110)⟩ = none ∧ (⟨true, (36 <<< 57) ||| (3 <<< 110)⟩ : Cap).has 1 = true) ∧
    (capDecode data = some (131072, 196608) ∧ (131071 : Int) < 131072 ∧ (196608 : Int) < 196605 + 4 ∧ (131072 : Int) ≤ 131072 ∧
      (196604 + 4 : Int) ≤ 196608 ∧ (131073 % 2 ≠ 0) ∧ 196604 / 65536 = (196604 + 4 - 1) / 65536) ∧
    (ctxOf demo).window = 16777216 ∧ demo.tlbs = [] ∧
    (match (ctxOf demo).walk 0x40000 with | .error (l, b) => l == 0 && !b | .ok _ => false) = true ∧
    ([0x2000E, 0x2100E, (1 <<< 64) ||| 0x2000E, 0x20006, 0x2002E, 0x9000E, 0x2008E, 0x2004E].all
      fun e => walks (mapped e) 131072 e) = true ∧
    (State.releasedFrame { demo with expReleased := [(0, 2)] } 2 0 2 = true ∧ demo.releasedFrame 2 0 2 = false) ∧
    (pteMig 0x2100E = true ∧ pteGen ((1 <<< 64) ||| 0x2000E) ≠ data.gen ∧ pteW 0x20006 = false ∧ pteSup 0x2002E = true ∧
      demo.owner.getD 9 0 ≠ 1 ∧ pteLoc 0x2008E = 2 ∧ pteLoc 0x2004E = 1 ∧ demo.owner.getD 2 0 = 1) := by decide +kernel

/-- Accesses to the window: without a gang, by another context, past the gang's shape, in a bank whose switch is open, in no bank of
the workgroup, in one, and while the gang is streamed out. And an access over two pages. -/
theorem witness_AccessChecksInOrder_window :
    let k := capAt 16777216 16777216 1023
    let gang (f : Gang → Gang) : State := { fifo 1 with gangs := demo.gangs.map f }
    (k.tag && !k.isSealed && k.has 1 && capDecode k == some (16777216, 33554432) && demo.tlbs.isEmpty) = true ∧
    (demo.gang? 9).isNone = true ∧ ((gang fun g => { g with ctx := 5 }).gang? 1).map Gang.ctx = some 5 ∧
    ((demo.gang? 1).map fun g => (g.ctx, g.ox + 16 * g.oy, g.shape.w * g.shape.h, g.phase != .streamed)) = some (0, 0, 1, true) ∧
    (16777216 + 524288 - 16777216) / 524288 = 1 ∧
    (((switched (some .fifo)).core 0).banks.any fun b => b.owner == some ⟨1, 0, 0⟩ && b.slot == 0 && b.switching.isSome) = true ∧
    ((fifo 1).bankAt 0 ⟨1, 0, 0⟩ 1).isNone = true ∧ (((fifo 1).bankAt 0 ⟨1, 0, 0⟩ 0).map fun x => (x.1, x.2.mode)) = some (0, .fifo) ∧
    (((switched none).bankAt 0 ⟨1, 0, 0⟩ 0).map fun x => (x.1, x.2.mode)) = some (0, .scratch) ∧
    (((gang fun g => { g with phase := .streamed, shape := { g.shape with scratch := 131072 } }).gang? 1).map fun g =>
      (g.phase == .streamed, (g.shape.scratch + 131071) / 131072)) = some (true, 1) := by decide +kernel
theorem witness_AccessChecksInOrder_pages :
    let k := capAt 65536 131072 1023
    (k.tag && !k.isSealed && k.has 1 && capDecode k == some (65536, 196608)) = true ∧ 131070 / 65536 < (131070 + 4 - 1) / 65536 ∧
    (match demo.resolve demo.who 0 k 131070 4 1 1 .read with | .ok ps => ps.map Part.page | .error _ => []) = [1, 2] := by
  decide +kernel

theorem sound_of {s : State} {ps : List Plan} (h : (ps.all fun p => p.keys.all fun k => !s.checkBad (k / 128) && !s.poisoned (k / 128)) = true) :
    s.Sound ps := by
  intro p hp k hk
  simpa using List.all_eq_true.1 (List.all_eq_true.1 h p hp) k hk
theorem unshared_of {s : State} {ps : List Plan} (h : (ps.all fun p => p.parts.all fun q => !q.coh) = true) : s.Unshared ps := by
  intro p hp q hq hc
  have := List.all_eq_true.1 (List.all_eq_true.1 h p hp) q hq
  simp [hc] at this

/-- The accesses of every lane at lane capability 16, and of the team at capability 1, on demo. -/
def laneLoads (n need align : Nat) (acc : Access) (fifo : Bool) : List Plan := demo.lanePlans 16 0 .absent n need align acc fifo
def teamLoad (n need align : Nat) (acc : Access) : List Plan := [demo.uniPlan 1 0 .absent n need align acc false]

theorem local_of {ps : List Plan} (h : (ps.all fun p => !p.waits && p.parts.all fun q => (peerOf q.key).isNone && q.fifo.isNone) = true) :
    Local ps := by
  intro p hp
  have := List.all_eq_true.1 h p hp
  simp only [Bool.and_eq_true, Bool.not_eq_true', List.all_eq_true, Option.isNone_iff_eq_none] at this
  exact this

/-- demo with page 2 at frame 1 of peer device 1, lane 0 alone active. -/
def peered : State := { mapped ((1 <<< 80) ||| 0x100CE) with team := { demo.team with active := 1 } }
def peeredPlan : Plan := peered.lanePlan 16 0 .absent 1 1 1 .read true 0
/-- PREF of lines here, whose lanes all pass, and of a line at a peer. -/
theorem witness_LoadsReadMemory_pref :
    Local ((laneLoads 1 1 1 .read true).filter fun p => p.fault?.isNone) ∧
    peered.issues (.pref 16 0 false 0) = true ∧ peered.Clear ∧ (List.range peered.team.width).filter peered.team.selected = [0] ∧
    (∃ q, peeredPlan.res = .ok [q] ∧ peerOf q.key = some 1 ∧ peered.checkBad (q.key / 128) = false ∧
      peered.poisoned (q.key / 128) = false ∧
      peered.holds peered.who.core peered.who.cluster (128 * (q.key / 128)) 128 = false) :=
  ⟨local_of (by decide +kernel), by decide +kernel, clear_of (by decide +kernel), by decide +kernel,
    _, rfl, by decide +kernel, by decide +kernel, by decide +kernel, by decide +kernel⟩

theorem witness_LoadsReadMemory : (demo.issues (.ld .b8 5 16 0 .absent 2) && demo.issues (.ldcu 2 1 0 .absent 2) &&
      demo.issues (.pref 16 0 false 0)) = true ∧ demo.Clear ∧
    (∀ ps, demo.Fresh ps) ∧
    (∀ n ∈ [1, 2, 4, 8, 16], Here (laneLoads n 1 1 .read (n == 16)) ∧ demo.Sound (laneLoads n 1 1 .read (n == 16))) ∧
    (Here (laneLoads 16 1 16 .read false) ∧ demo.Sound (laneLoads 16 1 16 .read false)) ∧
    ∀ n ∈ [4, 8, 16], Here (teamLoad n 1 n .read) ∧ demo.Sound (teamLoad n 1 n .read) := by
  refine ⟨by decide +kernel, demo_clear, fun _ => fresh_of rfl, fun n hn => ?_,
    ⟨here_of (by decide +kernel), sound_of (by decide +kernel)⟩, fun n hn => ?_⟩
  · simp only [List.mem_cons, List.not_mem_nil, or_false] at hn
    rcases hn with rfl | rfl | rfl | rfl | rfl <;> exact ⟨here_of (by decide +kernel), sound_of (by decide +kernel)⟩
  · simp only [List.mem_cons, List.not_mem_nil, or_false] at hn
    rcases hn with rfl | rfl | rfl <;> exact ⟨here_of (by decide +kernel), sound_of (by decide +kernel)⟩

theorem witness_StoresWriteMemory : (demo.issues (.st .b8 0 16 0 .absent 0) && demo.issues (.stc 16 16 0 .absent 0) &&
      demo.issues (.stcu 2 1 0 .absent 0)) = true ∧ demo.Clear ∧
    (∀ n ∈ [1, 2, 4, 8, 16], Here (laneLoads n 2 1 .write (n == 16)) ∧ demo.Unshared (laneLoads n 2 1 .write (n == 16))) ∧
    (∀ n ∈ [4, 8], Here (teamLoad n 2 1 .write) ∧ demo.Unshared (teamLoad n 2 1 .write)) ∧
    (let ps := ((List.range 32).filter demo.team.selected).map fun l =>
        storeCapCheck (demo.team.getK 16 l) (demo.team.getQ 0 l) (demo.lanePlan 16 0 .absent 16 2 16 .write true l)
     Here ps ∧ demo.Unshared ps) ∧
    ∃ p j, LastAt (teamLoad 8 2 1 .write) (regionSize * 0 + 131079) p j := by
  refine ⟨by decide +kernel, demo_clear, fun n hn => ?_, fun n hn => ?_, ⟨here_of (by decide +kernel), unshared_of (by decide +kernel)⟩, ?_⟩
  · simp only [List.mem_cons, List.not_mem_nil, or_false] at hn
    rcases hn with rfl | rfl | rfl | rfl | rfl <;> exact ⟨here_of (by decide +kernel), unshared_of (by decide +kernel)⟩
  · simp only [List.mem_cons, List.not_mem_nil, or_false] at hn
    rcases hn with rfl | rfl <;> exact ⟨here_of (by decide +kernel), unshared_of (by decide +kernel)⟩
  · exact ⟨_, 7, [], [], rfl, by decide +kernel, by decide +kernel, by simp⟩

theorem fifo_length (n : Nat) : ((fifo n).fifoOf (0, 0)).length = n := by
  change (List.replicate n (7 : BitVec 128)).length = n
  simp

/-- Plans that wait, that fault, and that reach a FIFO bank, empty, with one entry, with one place free and full. -/
theorem witness_MemoryFaultsAndFifos :
    (let e := mapped 0x2100E
     e.issues (.stu true 4 1 0 .absent 0) = true ∧ (e.uniPlan 1 0 .absent 8 2 1 .write false).waits = true) ∧
    (let e := mapped 0x20006
     ((e.uniPlan 1 0 .absent 8 2 1 .write false).fault?.map LaneFault.cause) = some 0x21) ∧
    (∀ n, n = 0 ∨ n = 1 ∨ n = 8191 ∨ n = 8192 → (((fifo n).fifoOf (0, 0)).length = n)) ∧
    ((fifo 1).issues (.st .b128 4 16 0 .absent 0) = true ∧ (fifo 1).issues (.ld .b128 4 16 0 .absent 0) = true ∧
      (List.range (fifo 1).team.width).filter (fifo 1).team.selected = [0] ∧
      ((fifo 1).lanePlan 16 0 .absent 16 2 1 .write true 0).fifo? = some (0, 0) ∧
      ((fifo 1).lanePlan 16 0 .absent 16 1 1 .read true 0).fifo? = some (0, 0) ∧ 0 < ((fifo 1).core 0).banks.length) ∧
    (∃ q qs, (demo.uniPlan 1 0 .absent 16 2 16 .write true).res = .ok (q :: qs) ∧ ¬ regionSize * winRegion 0 ≤ q.key ∧ q.fifo = none) ∧
    (data.tag = true ∧ (capAt 0 64 3).has 8 = false ∧ data.has 8 = true ∧ (capAt 0 64 511).has permGlobal = true ∧
      (capAt 0 64 3).has permGlobal = false) := by
  refine ⟨by decide +kernel, by decide +kernel, fun n _ => fifo_length n, by decide +kernel, ?_, by decide +kernel⟩
  exact ⟨_, _, rfl, by decide +kernel, by decide +kernel⟩
/-- demo with a lane whose access passes, one of another GEN, and one whose page is not mapped. -/
def mixed : State := { demo with team := { demo.team with active := 7, q := [(0, [data, (capExact 131072 65536 1023 1).getD Cap.null, capAt 0x400000 4096 1023] ++
  List.replicate 29 Cap.null)] } }
def mixedPlans (n need : Nat) (acc : Access) : List Plan := mixed.lanePlans 16 0 .absent n need 1 acc (n == 16)
/-- Lanes that pass beside lanes that fail, of page causes among them; a migrating page; a FIFO bank reached by two lanes. -/
theorem witness_MemoryFaultsAndFifos_lanes :
    (mixed.issues (.st .b128 4 16 0 .absent 0) && mixed.issues (.ld .b8 4 16 0 .absent 0)) = true ∧ mixed.Clear ∧
    (Local (mixedPlans 4 2 .write) ∧ mixed.Unshared (mixedPlans 4 2 .write)) ∧
    (Local (mixedPlans 4 1 .read) ∧ mixed.Sound (mixedPlans 4 1 .read) ∧ mixed.Fresh (mixedPlans 4 1 .read)) ∧
    ((mixedPlans 4 2 .write).filterMap Plan.fault?).map LaneFault.cause = [0x14, 0x20] ∧
    ((mapped 0x2100E).lanePlans 16 0 .absent 4 2 1 .write false).any Plan.waits = true ∧
    (let e := { fifo 2 with team := { (fifo 2).team with active := 3 } }
     let ps := e.lanePlans 16 0 .absent 16 1 1 .read true
     e.issues (.ld .b128 4 16 0 .absent 0) = true ∧ (ps.all fun p => p.fifo? == some (0, 0)) = true ∧ ps.length = 2) :=
  ⟨by decide +kernel, clear_of (by decide +kernel), ⟨local_of (by decide +kernel), unshared_of (by decide +kernel)⟩,
    ⟨local_of (by decide +kernel), sound_of (by decide +kernel), fresh_of rfl⟩, by decide +kernel, by decide +kernel, by decide +kernel⟩
/-- A capability without SHARE, and one with it, stored to a peer's page and to the window. -/
theorem witness_MemoryFaultsAndFifos_share :
    (match (peered.uniPlan 1 0 .absent 16 2 16 .write true).res with
     | .ok [q] => (peerOf q.key).isSome && q.fifo.isNone && Nat.blt q.key (regionSize * winRegion 0) && q.key / regionSize != 1
     | _ => false) = true ∧
    (let v := capAt 0 64 (511 - permShare)
     v.tag = true ∧ v.has permShare = false ∧ v.has permGlobal = true ∧ (capAt 0 64 511).has permShare = true) :=
  by decide +kernel
theorem witness_fifo_clear : (fifo 0).Clear := clear_of (by decide +kernel)

def atomPlans (s : State) (n need : Nat) (acc : Access) : List Plan :=
  ((List.range 32).filter s.team.selected).map fun l => s.atomPlan s.who l (s.team.getK 16 l) (s.team.laneEa 16 0 .scaled n l) n need acc
/-- Lane 31's line in a peer's memory is the last; its bounds are those of its capability. -/
def onHost : State := { demo with ctxs := (mapped 0x2004E).ctxs }
def mergeOf (s : State) (key : Nat) : State := { s with merges := [⟨0, 0, key, 4, .add, 3, ⟨1, 0, 0, 0⟩, 0, 0, 131072, false, 0⟩] }
theorem witness_AtomicsActInSomeOrder :
    (demo.issues (.atom false .add 4 16 0 2) && demo.issues (.cas true 8 16 0 2) && demo.issues (.red false .fmax 6 16 0 0)) = true ∧
    demo.Clear ∧ (let ps := atomPlans demo 4 35 .update; Here ps ∧ demo.Sound ps ∧ demo.Unshared ps ∧ demo.OnlyOwn demo.who.core ps) ∧
    (let ps := atomPlans onHost 4 34 .add; Here ps ∧ onHost.Sound ps ∧ onHost.Unshared ps ∧
      (ps.all fun p => 1 ≤ p.key / regionSize ∧ p.key / regionSize < 10000) = true) ∧
    ((atomPlans demo 4 34 .add).all fun p => p.key / regionSize = 0) = true ∧ (List.range 32).filter demo.team.selected ≠ [] ∧
    (let s := mergeOf demo 131196
     s.snoops = [] ∧ s.specs = [] ∧ s.copies = [] ∧ injEn s.injCtl = false ∧ s.checkBad (131196 / 128) = false ∧ s.poisoned (131196 / 128) = false ∧
      131196 % 128 + 4 ≤ 128 ∧ s.sharers.getD (131196 / 128) [] = [] ∧ (s.team? ⟨1, 0, 0, 0⟩).isSome ∧ (s.teams.map Team.id).Nodup) ∧
    three.isFin = true ∧ minusThree.rat < three.rat := by
  refine ⟨by decide +kernel, demo_clear, ⟨here_of (by decide +kernel), sound_of (by decide +kernel), unshared_of (by decide +kernel),
    onlyOwn_of rfl⟩, ⟨here_of (by decide +kernel), sound_of (by decide +kernel), unshared_of (by decide +kernel), by decide +kernel⟩,
    by decide +kernel, by decide +kernel, by decide +kernel, by decide +kernel, witness_FloatSelectsAndCompares.2.2.2.2⟩

def counterAt (need : Nat) (a : Access) : List Plan := [demo.counterPlan (demo.team.getC 1) need a]
def asleep (limit : Option Nat) (target : Dword) : State := demoTeam fun t => { t with
  run := .asleep, sleep := some ⟨131072, 131072, 0, target, limit, 0, some 4, 2, true, 0, false, false, 1, 0⟩ }
/-- The counter holds 0: a target of 0 is met, one of 1 is not; the timeouts are none, 0 and 1 cycle away. -/
theorem witness_CountersAddAndWait :
    (demo.issues (.cadd 0 1 6 true 0) && demo.issues (.cwait 4 1 9 true 0)) = true ∧ demo.Clear ∧ demo.copies = [] ∧
    (Here (counterAt 34 .counterAdd) ∧ demo.Sound (counterAt 34 .counterAdd) ∧ demo.Unshared (counterAt 34 .counterAdd) ∧
      ((counterAt 34 .counterAdd).all fun p => !demo.releaseWaits (counterScope p.key)) = true) ∧
    (Here (counterAt 1 .counter) ∧ demo.Sound (counterAt 1 .counter)) ∧ demo.acquireWaits = false ∧
    (∀ x ∈ [(none, 0), (none, 1), (some 0, 1), (some 1, 1)],
      let s := asleep x.1 x.2
      s.team? ⟨1, 0, 0, 0⟩ = some s.team ∧ (s.teams.map Team.id).Nodup ∧ s.team.run = .asleep ∧
      s.team.sleep = some ⟨131072, 131072, 0, x.2, x.1, 0, some 4, 2, true, 0, false, false, 1, 0⟩ ∧ s.resident s.team = true ∧ s.merges = [] ∧
      s.snoops = [] ∧ s.specs = [] ∧ s.copies = [] ∧ peerOf 131072 = none ∧ s.checkBad (131072 / 128) = false ∧
      (match s.pagePart s.who (ctxOf s) 0 .counter 131072 8 with | .ok (some p) => p.key == 131072 | _ => false) = true ∧
      s.poisoned (131072 / 128) = false ∧ natOfBytes (s.readBytes 131072 8) = 0 ∧ s.timebase = 0 ∧ injEn s.injCtl = false) := by
  refine ⟨by decide +kernel, demo_clear, rfl, ⟨here_of (by decide +kernel), sound_of (by decide +kernel), unshared_of (by decide +kernel),
    by decide +kernel⟩, ⟨here_of (by decide +kernel), sound_of (by decide +kernel)⟩, by decide +kernel, by decide +kernel⟩

theorem witness_FencesMoveDirtyBytes : (demo.issues (.fence .device .full 0) && demo.issues (.drain 0) &&
      demo.issues (.flush .team 1 .bounds 0) && demo.issues (.inval .gang 1 .held 0)) = true ∧ demo.Clear ∧ demo.remotes = [] ∧
    (match demo.lineCheck? (demo.team.getC 1) 1 with | .ok _ => true | .error _ => false) = true ∧
    (match demo.lineCheck? (demo.team.getC 1) 0 with | .ok _ => true | .error _ => false) = true ∧
    capDecode (demo.team.getC 1) = some (131072, 196608) ∧ demo.migratesWithin (ctxOf demo) 131072 196608 = false ∧
    demo.wideScope .gang = false ∧ demo.wideScope .device = true := by
  refine ⟨by decide +kernel, demo_clear, by decide +kernel⟩

/-- The shares of KSWEEP's ranges that are pages: a whole page of one team capability, the rest of it in every lane, none at the
top, and a page that is not mapped. -/
def sweepShare (s : State) (k : Cap) : Except (Nat × Nat × Bool) (Option Part) :=
  s.pagePart s.who (ctxOf s) k.gen .update k.cur (196608 - k.cur)
def sweeps (k : Cap) : Bool :=
  k.tag && !k.isSealed && k.has 524 && capDecode k == some (131072, 196608) && decide (131072 ≤ k.cur) && decide (k.cur ≤ 196608)
theorem witness_KsweepClearsStaleTags : (demo.issues (.ksweep false 2 1 0) && demo.issues (.ksweep true 17 16 0)) = true ∧
    demo.Clear ∧ demo.copies = [] ∧ demo.ctx? 0 = some (ctxOf demo) ∧
    (([demo.team.getC 1] ++ (List.range 32).map fun l => demo.team.getK 16 l).all fun k => sweeps k && decide (k.cur < 196608) &&
      (match sweepShare demo k with
        | .ok (some p) => p.fifo.isNone && (peerOf p.key).isNone && !p.coh && (linesOf p.key p.len).all fun l => !demo.checkBad l
        | _ => false)) = true ∧
    sweeps (data.setCur 196608) = true ∧
    (match sweepShare (mapped 0) data with | .error (0x20, _, false) => true | _ => false) = true := by
  refine ⟨by decide +kernel, demo_clear, by decide +kernel⟩

def someJob (o : Oper) : Job := ⟨0, 0, 0, 0, o, Cap.null, data, data.setCur 131328, data.setCur 131584, 0, 0, 16, 16, 16, 0, 5, 0,
  false, none, false, none, false, none, 0⟩
def someQueue (images : List (List Byte × Option Nat)) : Queue :=
  ⟨0, 3, 131072, 131072, 2, 6, 0, true, 0, 0, false, 0, 0, 0, false, false, images, 0, [], none, none, []⟩
def submitting (kind n : Nat) : State := { demo with
  mem := [(131072, BitVec.ofNat 8 kind)], queues := [(9, someQueue (List.replicate n ([], none)))],
  engines := [(0, List.replicate 63 (someJob .copy)), (127, List.replicate 64 (someJob .copy))] }
def cardPlan (s : State) : List Plan := [s.plan s.who 0 (s.team.getC 1) (s.team.getC 1).cur 128 257 1 .read false]
theorem witness_SubmissionsReachTheirQueues : ∀ kind ∈ [1, 5],
    let s := submitting kind 15
    (s.issues (.job 1 3 0) && s.issues (.task 1 3 0) && s.issues (.launch 1 3 0)) = true ∧ s.Clear ∧
    (Here (cardPlan s) ∧ s.Sound (cardPlan s) ∧ s.Fresh (cardPlan s)) ∧ s.remotes = [] ∧ (s.team.getC 1).cur % 16 = 0 ∧
    s.engineFor 0 = some 0 ∧ (s.engineQueue 0).length < 64 ∧ s.engineFor 127 = some 127 ∧ 64 ≤ (s.engineQueue 127).length ∧
    s.engineFor 128 = none ∧ s.engineFor 0xFFFF ≠ none ∧ s.slotOf s.team.ctx 3 = some 9 ∧
    (s.queues.find? 9).isSome ∧ (someQueue (List.replicate 15 ([], none))).inlet.length < 16 ∧
    16 ≤ (someQueue (List.replicate 16 ([], none))).inlet.length ∧ natOfBytes (s.readBytes 131072 1) % 16 = kind := by
  intro kind hk
  simp only [List.mem_cons, List.not_mem_nil, or_false] at hk
  rcases hk with rfl | rfl <;>
  exact ⟨by decide +kernel, clear_of (by decide +kernel), ⟨here_of (by decide +kernel), sound_of (by decide +kernel), fresh_of rfl⟩,
    by decide +kernel⟩

/-! ### The matrix engine -/

def wgs (f : Workgroup → Workgroup) : State := { demo with wgs := demo.wgs.map f }
def mma (pair : Bool) : MOp := .mma 7 15 15 true pair false
def head (op : MOp) (fmt : Word := 0) : MEntry := ⟨op, ⟨1, 0, 0, 0⟩, 0, fmt, 131072, [⟨131072, 2048, false⟩], 65536, 0, 0⟩
/-- The element formats that agree: fp8 pairs, bf16, f16, tf32, f64 and int8, with their accumulators. -/
def goodFmts : List Word := [0, 9, 18, 27, 36 + 0x40000000, 45 + 0x80000000]

/-- One place free and none in the queue; a lone driver, formats that agree and one that does not, maps legal and not. -/
theorem witness_MatrixInstructionsEnterTheQueue :
    (demo.issues (.mza 7 0) && demo.issues (.mchk 9 1) && demo.issues (.mma 7 15 15 true false false 0) && demo.issues (.mmap 15 10 0) &&
      demo.issues (.mldt 15 1 0 false 0) && demo.issues (.mlda 7 1 0 0) && demo.issues (.msta 7 1 0 true 0)) = true ∧
    demo.merges = [] ∧ demo.queueFull = false ∧ (wgs fun w => { w with queue := List.replicate 7 (head (.mza 0)) }).queueFull = false ∧
    (wgs fun w => { w with queue := List.replicate 8 (head (.mza 0)) }).queueFull = true ∧
    (demo.team.id.gx % 2 = 0 ∧ (demo.gang? demo.team.id.ticket).all (fun g => g.shape.w ≤ demo.team.id.gx + 1) = true) ∧
    (goodFmts.all fun f => decide (fmtAtype f = fmtBtype f ∧ fmtAtype f ≤ 5 ∧
      fmtAcct f = (if fmtAtype f = 4 then 1 else if fmtAtype f = 5 then 2 else 0) ∧ (fmtAtype f ≠ 0 → fmtAscale f = 0 ∧ fmtBscale f = 0))) = true ∧
    fmtAtype 8 ≠ fmtBtype 8 ∧ (match demo.mapPlace 0 (mshape 0) false with | .ok _ => true | .error _ => false) = true ∧
    (let y : BitVec 128 := demo.team.getS 11 ++ demo.team.getS 10
     y.toNat / 2 ^ 81 = 0 ∧ y.toNat / 2 ^ 64 % 2 ^ 7 ≤ 64 ∧ y.toNat / 2 ^ 71 % 2 ^ 7 ≤ 32 ∧ y.toNat / 2 ^ 78 % 2 ^ 3 ≤ 3 ∧
       (match demo.mapPlace y (mshape 0) true with | .ok _ => true | .error _ => false) = true) ∧
    (2 ^ 81 : Nat) / 2 ^ 81 ≠ 0 ∧ demo.snoops = [] ∧ demo.remotes = [] ∧ demo.speculative = false ∧
    (∀ n ∈ [512, 1024, 2048, 4096], (match demo.resolve demo.who 0 (demo.team.getC 1) (demo.team.uniEa 1 0 .x1 1) n 2 128 .write true with
      | .ok ps => ps.all fun p => p.fifo.isNone | .error _ => false) = true) ∧
    mstaFormat 0 = true ∧ mstaFormat 5 = false := by decide +kernel

/-- Each operation at the head of a queue whose gang runs. -/
theorem witness_MatrixQueueExecutes : ∀ op ∈ [.mza 7, .mmap 15 1, .mchk 4, .mldt 15 false, .mlda 7, .msta 7 false, mma false],
    let e : MEntry := { head op (45 + 0x80000000) with pieces := [⟨131072, if op = .mldt 15 false then 2048 else 4096, false⟩] }
    let s := wgs fun w => { w with queue := [e] }
    (∃ w, s.wg? ⟨1, 0, 0⟩ = some w ∧ w.queue = [e] ∧ s.engineRuns w = true) ∧ s.team? e.team = some s.team ∧
    (s.teams.map Team.id).Nodup ∧ injEn s.injCtl = false ∧ s.specs = [] ∧ s.copies = [] ∧ s.specOf s.team = none ∧
    (∀ p ∈ e.pieces, 0 < p.len) ∧ (fmtAtype e.fmt = 5 ∧ fmtAcct e.fmt = 2) ∧ s.transferSent e = false ∧
    s.badB 1 0 (mshape (fmtAtype e.fmt)) = none ∧
    (∀ l ∈ transferLines e.pieces, s.refuses 0 true l.key = none ∧ peerOf l.key = none) ∧ (∀ p ∈ e.pieces, p.coh = false) := by
  intro op h
  simp only [List.mem_cons, List.not_mem_nil, or_false] at h
  rcases h with rfl | rfl | rfl | rfl | rfl | rfl | rfl <;> exact ⟨⟨_, rfl, rfl, by decide +kernel⟩, by decide +kernel⟩
/-- MLDT transposed, MSTA converted from each kind of accumulator, and a floating MMA. -/
theorem witness_MatrixQueueExecutes_converted : ∀ x ∈ [(.mldt 15 true, 0, 2048), (.msta 7 true, 0, 1024), (.msta 7 true, 18, 2048),
      (.msta 7 true, 45 + 0x80000000, 1024), (mma false, 0, 1024), (mma false, 36 + 0x40000000, 1024)],
    let e : MEntry := { head x.1 x.2.1 with pieces := [⟨131072, x.2.2, false⟩] }
    let s := wgs fun w => { w with queue := [e] }
    (∃ w, s.wg? ⟨1, 0, 0⟩ = some w ∧ w.queue = [e] ∧ s.engineRuns w = true) ∧ s.team? e.team = some s.team ∧
    s.transferSent e = false ∧ fmtAtype e.fmt ≤ 5 ∧ fmtAcct e.fmt = (if fmtAtype e.fmt = 4 then 1 else if fmtAtype e.fmt = 5 then 2 else 0) ∧
    modeRnd e.mode = 0 ∧ 0 ≤ fmtOscale e.fmt ∧ s.badB 1 0 (mshape (fmtAtype e.fmt)) = none := by
  intro x h
  simp only [List.mem_cons, List.not_mem_nil, or_false] at h
  rcases h with rfl | rfl | rfl | rfl | rfl | rfl <;> exact ⟨⟨_, rfl, rfl, by decide +kernel⟩, by decide +kernel⟩
theorem witness_MatrixQueueExecutes_keys (n : Nat) :
    (([⟨131072, n, false⟩] : List Piece).flatMap fun p => (List.range p.len).map fun i => p.key + i).Nodup := by
  simpa using List.nodup_range.map fun _ _ h => Nat.add_left_cancel h
theorem witness_MatrixQueueExecutes_bytes :
    ((List.range 4096).all fun i => !demo.checkBad ((131072 + i) / 128) && !demo.poisoned ((131072 + i) / 128) &&
      (peerOf (131072 + i)).isNone && decide (131072 + i < 2 ^ 128)) = true := by decide +kernel
theorem witness_MatrixQueueExecutes_sizes : acctSize 0 = 4096 ∧ acctSize 1 = 2048 ∧ acctSize 2 = 4096 := by decide +kernel

/-- Two workgroups side by side with a paired MMA at both heads. -/
def pairTeam (gx : Nat) : Team := { demo.team with id := ⟨1, gx, 0, 0⟩, run := .pairing }
def pairWg (gx : Nat) (p : PairPhase) : Workgroup := { (demo.wgs.headD ⟨⟨0, 0, 0⟩, 0, 0, [], [], [], [], [], none, 0, .quiet, 0, 0, 0, false, false, []⟩) with
  id := ⟨1, gx, 0⟩, core := gx, pair := p, queue := [{ head (mma true) with team := ⟨1, gx, 0, 0⟩ }] }
def paired (p q : PairPhase) : State := { demo with
  timebase := 4096, team := pairTeam 0, others := [pairTeam 1], wgs := [pairWg 0 p, pairWg 1 q],
  gangs := demo.gangs.map fun g => { g with shape := { g.shape with w := 2 } },
  cores := [(0, { CoreState.reset with issuing := some ⟨1, 0, 0⟩ }), (1, { CoreState.reset with issuing := some ⟨1, 1, 0⟩ })] }
theorem witness_PairedEnginesMeet :
    (∀ x ∈ [((PairPhase.quiet, PairPhase.quiet) : PairPhase × PairPhase), (.waiting, .reserved)],
      let s := paired x.1 x.2
      s.wg? ⟨1, 0, 0⟩ = some (pairWg 0 x.1) ∧ s.wg? ⟨1, 1, 0⟩ = some (pairWg 1 x.2) ∧ (pairWg 0 x.1).pairHead.isSome ∧
      (pairWg 1 x.2).pairHead.isSome ∧ s.engineRuns (pairWg 0 x.1) = true ∧ s.engineRuns (pairWg 1 x.2) = true ∧
      pairMatch { head (mma true) with team := ⟨1, 0, 0, 0⟩ } { head (mma true) with team := ⟨1, 1, 0, 0⟩ } = true ∧
      injEn s.injCtl = false ∧ s.badB 1 0 (mshape 0) = none ∧ (s.team? ⟨1, 0, 0, 0⟩).isSome ∧ (s.team? ⟨1, 1, 0, 0⟩).isSome ∧
      (s.teams.map Team.id).Nodup ∧ s.team.run = .pairing ∧ 4096 ≤ 0 + (s.timebase - 0)) ∧
    ((paired .waiting .reserved).badB 1 0 (mshape 0) = none ∧ (⟨1, 0, 0, 0⟩ : TeamId) ≠ ⟨1, 1, 0, 0⟩ ∧ (pairTeam 1).run = .pairing ∧
      pairMatch (head (mma true)) (head (mma true) 9) = false) ∧
    (pairTeam 0).asyncNext = [] ∧ (pairTeam 1).asyncNext = [] ∧ (pairWg 1 .quiet).pair ≠ .waiting ∧ ({ pairWg 1 .quiet with queue := [] } : Workgroup).pairHead = none := by decide +kernel

/-! ### System registers and page tables -/

/-- A firmware team whose s2 selects an instance of a register. -/
def selecting (sel : Nat) (v : Dword := 0) : State := demoTeam fun t =>
  { t with priv := .firm, s := [(2, BitVec.ofNat 64 sel), (4, v)], stack := (stacked 32).team.stack }
theorem witness_SystemRegistersRead : (sysTable.all fun r => [0, r.instances - 1].all fun j =>
      let s := selecting (r.num * 4096 + j)
      s.issues (.sysr 5 2) && s.team.selector 2 == r.num * 4096 + j && decide (j < 4096) && !s.speculative && !s.queueOf s.team &&
        (s.ctx? s.team.ctx).isSome) = true := by decide +kernel

theorem witness_SystemRegisterWrites : ((sysTable.filter fun r => r.writeAt.isSome).all fun r => [0, r.instances - 1].all fun j =>
      let s := selecting (r.num * 4096 + j) 0x7FFF
      s.issues (.sysw 4 2) && s.team.selector 2 == r.num * 4096 + j && !s.speculative && s.team.getS 4 == 0x7FFF) = true ∧
    (modeLegal 0 = true ∧ fmtLegal 0 = true ∧ modeLegal 0x7FFF = false ∧ fmtLegal 0xFFFFFFFF = false ∧ 31 < (selecting 0).team.stack.length) ∧
    (containCause 0x30 = true ∧ containCause 1 = false ∧ demo.team.pending = [] ∧ demo.queueOf demo.team = false ∧ demo.team.saved = none ∧ demo.team.inner = none ∧
      demo.team.run = .ready) ∧
    (let s := demo.modCtx 0 fun c => { c with frozen := true, delegates := [0] }
     (ctxOf s).frozen = true ∧ (ctxOf s).delegates.contains 0 = true ∧ s.deviceFault = false ∧ (ctxOf demo).delegates.contains 0 = false) ∧
    (let s := { (demo.modCtx 0 fun c => { c with frozen := true, delegates := [0], revCtl := [(0, 1 <<< 63)] }) with deviceFault := true }
     s.deviceFault = true ∧ 0x300 / 256 % 4 = 3 ∧ (0 : Nat) / 256 % 4 ≠ 3 ∧ ((ctxOf s).revCtl.getD 0 0).getLsbD 63 = true ∧
      ((ctxOf demo).revCtl.getD 0 0).getLsbD 63 = false) ∧
    (demo.sweepActive = false ∧ ({ demo with sweepActive := true } : State).sweepActive = true) := by decide +kernel
/-- Banks that may become FIFO banks, and that one may leave. -/
theorem witness_BankMode : (let x := (demo.core 0).banks.getD 0 Bank.reset
      x.mode = .cache ∧ x.owner = none ∧ x.firm = false ∧ x.switching = none) ∧
    (let x := ((fifo 0).core 0).banks.getD 0 Bank.reset
     x.mode = .fifo ∧ x.owner = some demo.team.wg ∧ x.switching = none) := by decide +kernel

/-- Leaf types, the page's own leaf, a frame that is granted and one that is not, a pool that is empty and one that is not. -/
theorem witness_PageTablesChange : (demo.issues (.tlbinv 2) && demo.issues .tlbinvAll && demo.issues (.pgmap 4 2)) = true ∧
    demo.speculative = false ∧ demo.specs = [] ∧ demo.transferHolds 0 (fun _ => true) = false ∧
    (demo.ctx? 0).isSome ∧ demo.team.saved = none ∧ (ctxOf demo).missing 131072 = [] ∧
    (pteType ((ctxOf demo).pte 2) = 2 ∧ pteMig ((ctxOf demo).pte 2) = false ∧ pteMig ((ctxOf (mapped 0x2100E)).pte 2) = true) ∧
    (pteReserved 0x4000E = false ∧ demo.granted 0 0 0 4 = true ∧ demo.granted 0 0 0 9 = false ∧ pteReserved (1 <<< 93) = true) ∧
    ((ctxOf demo).pool = [4] ∧ (pteLoc 0xE = 0 ∧ pteFrame 0xE = 0)) ∧ demo.copies = [] ∧
    [(copyKey 0 1024, Copy.empty)].Pairwise (fun x y => x.1 < y.1) ∧ (demo.tlbs.map Prod.fst).Nodup := by decide +kernel

/-! ### Management, containment, sweeps -/

def mapCtx (f : Ctx → Ctx) : State := demo.modCtx 0 f
def created : State := { demo with mem := [(2 ^ 64 + 4, 8), (2 ^ 64 + 5, 6)] }
def queued (ps : List Packet) : State := { demo with queues := [(9, { someQueue [] with packets := ps })] }
def idle : State := { demo with gangs := [] }

/-- A device whose frames have the owners `os`, and no reserve for tables. -/
def owning (os : SMap Nat) : State := { created with owner := os, tableFree := [] }
theorem owning_full (os : SMap Nat) (h : hFrames < os.length + 1) : (owning os).tick.freshFrames 1 = [] := by
  have e : (owning os).tick.localFrames = hFrames := by
    rw [State.localFrames, show (owning os).tick.isL = demo.isL from rfl, show demo.isL = false by decide +kernel]; rfl
  exact if_pos (by rw [e]; exact h)
theorem witness_MailboxCommandsOfContexts_root :
    (∃ p ∈ ({ created with tableFree := [3, 8, 9] } : State).tableFree, p % 2 = 0 ∧
      p + 1 ∈ ({ created with tableFree := [3, 8, 9] } : State).tableFree) ∧
    ∃ os : SMap Nat, (¬ ∃ p ∈ (owning os).tableFree, p % 2 = 0 ∧ p + 1 ∈ (owning os).tableFree) ∧
      (owning os).tick.freshFrames 1 = [] :=
  ⟨by decide +kernel, List.replicate 4534272 (1, 1), fun ⟨_, h, _⟩ => (nomatch h), owning_full _ (by rw [List.length_replicate]; decide)⟩

theorem witness_MailboxCommandsOfContexts :
    (demo.listens ∧ (0 : Nat) < 256 ∧ (255 : Nat) < 256 ∧ demo.ctx? 255 = none ∧ (demo.ctx? 0).isSome) ∧
    ((creation (created.readBytes (2 ^ 64 + 0) 128)).isSome ∧ created.deviceFault = false ∧
      (creation (created.readBytes (2 ^ 64 + 0) 128)).all (fun c => c.function == 0 && !c.confidential && c.capLog2 == 8) = true) ∧
    ((ctxOf (mapCtx fun c => { c with frozen := true })).frozen = true ∧ idle.ctxIdle 0 = true ∧ demo.ctxIdle 0 = false ∧
      (ctxOf demo).frozen = false ∧ (ctxOf demo).killed = false ∧ (ctxOf demo).saving = false ∧ (ctxOf demo).viral = false ∧
      (ctxOf demo).saved = false ∧ (ctxOf (mapCtx fun c => { c with saved := true })).saved = true) ∧
    (63 < 64 ∧ (2 ^ 57 - 128 < 2 ^ 57 ∧ (2 ^ 57 - 128) % 128 = 0) ∧ 23 < 24 ∧ 6 ≤ 6 ∧ 16 ≤ 16 ∧ demo.slotOf 0 63 = none ∧
      demo.queue? 4095 = none) ∧
    ((queued []).slotOf 0 3 = some 9 ∧ ((queued []).queue? 9).isSome) ∧ (511 < 512 ∧ 4095 < 4096 ∧ 2 ^ 32 - 1 < 2 ^ 32) ∧
    (let s := { mapCtx (fun c => { c with saving := true }) with gangs := [], mailBusy := some 1 }
     s.mailBusy ≠ none ∧ (ctxOf s).saving = true ∧ s.saveDue 0 = true) := by
  refine ⟨⟨⟨rfl, rfl, rfl⟩, by decide +kernel⟩, by decide +kernel, by decide +kernel, by decide +kernel, by decide +kernel,
    by decide +kernel, by decide +kernel⟩

def tenant (d : Debug) (test : Bool) : State := { demo with partitions := [(0, ⟨[0, 79], test, d, .running⟩)] }
/-- An extent of a Bilran L on frames 4096 to 8191, that address 2^28 has room for. -/
def extended (os : SMap Nat) : State := { (demo.modCtx 0 fun c => { c with
    quota := 4096, tables := (c.tables.take 2) ++ [(tableKey 2 0, 1), (tableKey 1 0, 1)] ++
      ((List.range 4).map fun i => (tableKey 0 (2 ^ 28 + 2 ^ 26 * i), 1)) }) with
  deviceInfo := 0x4E010001, owner := os, extents := [(65535, ⟨0, 4096, false, false⟩)] }
def extentOwners : SMap Nat := (List.range 4096).map fun j => (4096 + j, 1)
theorem find_run (k n i : Nat) (h : i < n) :
    SMap.find? ((List.range n).map fun j => ((k + j, 1) : Nat × Nat)) (k + i) = some 1 := by
  induction n generalizing k i with
  | zero => omega
  | succ n ih =>
    rw [List.range_succ_eq_map, List.map_cons, List.map_map]
    cases i with
    | zero => simp [SMap.find_cons]
    | succ i =>
      rw [SMap.find_cons, if_neg (by omega)]
      have := ih (k + 1) i (by omega)
      rw [show k + 1 + i = k + (i + 1) by omega] at this
      rw [← this]; congr 2; funext j; simp; omega
theorem firewall_run (n : Nat) (os : SMap Nat) (h : os = (List.range n).map fun j => (n + j, 1)) (i : Nat) (hi : i < n) :
    (extended os).firewall 0 (n + i) = true := by
  rw [State.firewall, SMap.getD, show (extended os).owner = os from rfl, h, find_run n n i hi]; rfl
theorem witness_MailboxCommandsOfMemory_extent :
    (extended extentOwners).isL = true ∧ (extended extentOwners).specs = [] ∧
    (extended extentOwners).heldFrames 0 (ctxOf (extended [])) + 4096 ≤ (ctxOf (extended [])).quota ∧ (ctxOf (extended [])).reserve = [] ∧
    4096 + 4096 ≤ lFrames ∧ 2 ^ 28 % 65536 = 0 ∧ 2 ^ 28 + 2 ^ 28 ≤ 2 ^ 57 := by decide +kernel
theorem witness_MailboxCommandsOfMemory_owner : (extended extentOwners).listens ∧
    (∀ os, (extended os).ctx? 0 = (extended []).ctx? 0) ∧ ∀ i, i < 4096 → (extended extentOwners).firewall 0 (4096 + i) = true :=
  ⟨⟨rfl, rfl, rfl⟩, fun _ => rfl, firewall_run 4096 extentOwners (by rw [extentOwners])⟩
theorem witness_MailboxCommandsOfMemory_pages : ∀ i, i < 4096 →
    (ctxOf (extended [])).missing (2 ^ 28 + 65536 * i) = [] ∧ pteMig ((ctxOf (extended [])).pte (2 ^ 28 / 65536 + i)) = false := by
  have h : ((List.range 4096).all fun i => (ctxOf (extended [])).missing (2 ^ 28 + 65536 * i) == [] &&
      !pteMig ((ctxOf (extended [])).pte (2 ^ 28 / 65536 + i))) = true := by decide +kernel
  intro i hi
  simpa using List.all_eq_true.1 h i (List.mem_range.2 hi)

/-- What the commands about memory refuse: a malformed mint, a page that stays, frames of a confidential context, and a Bilran L's grants. -/
theorem witness_MailboxCommandsOfMemory_refused :
    capExact 1 (2 ^ 40) 0 0 = none ∧ demo.ctx? 1 = none ∧
    (let s := { mapCtx (fun c => { c with confidential := true, remote := [⟨2, 3, 4, 4⟩] }) with ctxs := (mapCtx (fun c => { c with
        confidential := true, remote := [⟨2, 3, 4, 4⟩] })).ctxs ++ [(1, ctxOf demo)] }
     s.secretRange 1 2 3 7 1 = true ∧ s.secretRange 1 2 3 8 1 = false ∧ s.secretFrames 2 1 = true ∧ s.secretFrames 5 1 = false) ∧
    (let s := { mapCtx (fun c => { c with reserve := [3] }) with deviceInfo := 0x4E010001 }
     s.isL = true ∧ s.heldFrames 0 (ctxOf s) + 1 ≤ (ctxOf s).quota ∧ (ctxOf s).reserve.length = 1) ∧
    ((ctxOf (mapped 0x2020E)).pte 2).getLsbD 9 = true ∧ ({ demo with tags := [(131072 / 16, true)] } : State).pageTagged (frameKey 0 0 2) = true ∧
    (ctxOf (mapCtx fun c => { c with pool := [] })).pool = [] ∧ (ctxOf demo).pool = [4] ∧ demo.heldReqs = [] ∧ demo.heldHost = [] := by
  decide +kernel

/-- The commands about memory: what each clause of the statement needs, its numbers at the ends of their ranges. -/
theorem witness_MailboxCommandsOfMemory :
    demo.listens ∧ (demo.ctx? 0).isSome ∧ demo.specs = [] ∧
    ((capExact 131072 65536 1023 0).isSome ∧ (ctxOf demo).genIs 131072 65536 0 = true ∧ (ctxOf demo).genIs 131072 65536 1 = false ∧
      15 < 2 ^ (ctxOf demo).capLog2 ∧ 2 ^ (ctxOf demo).capLog2 ≤ 16) ∧
    (match demo.cpPlace 0 ((ctxOf demo).supBase + 16 * 15) 16 .write with
      | .ok p => !p.coh && p.key % 16 == 0 | .error _ => false) = true ∧
    ((ctxOf demo).quota < demo.heldFrames 0 (ctxOf demo) + 17 ∧ demo.heldFrames 0 (ctxOf demo) + 1 ≤ (ctxOf demo).quota ∧
      demo.isL = false ∧ demo.owner.length + 1 ≤ hFrames) ∧
    ((2 : Nat) ^ 57 ≤ 2 ^ 57 ∧ 2 ^ 57 - 1 < 2 ^ 57 ∧ pteType 1 = 1 ∧ pteType 3 = 3 ∧ pteType 2 = 2 ∧ pteReserved (2 ||| (1 <<< 93)) = true ∧
      pteReserved 2 = false) ∧
    (let s := { demo with extents := [(65535, ⟨0, 4096, false, false⟩)], deviceInfo := 0x4E010001 }
     (s.extents.find? 65535).isSome ∧ s.isL = true) ∧
    (let s := mapCtx fun c => { c with remote := [⟨3, 8191, 1, 4⟩] }
     pteType ((ctxOf s).pte 2) = 2 ∧ pteMig ((ctxOf s).pte 2) = false ∧ ((ctxOf s).pte 2).getLsbD 9 = false ∧ s.heldForReplay 0 2 = false ∧
      s.granted 0 0 0 4 = true ∧ s.granted 0 3 8191 4 = true ∧ s.granted 0 3 8191 5 = false ∧ (ctxOf s).viral = false) ∧
    (let s := { mapped 0x2100E with migration := some ⟨0, 2, 0, 0, 4, none⟩, mailBusy := some 1 }
     pteMig ((ctxOf s).pte 2) = true ∧ s.transferHolds 0 (fun p => p == 2) = false ∧ s.merges = [] ∧ s.snoops = [] ∧ s.copies = [] ∧
      s.remotes = [] ∧ peerOf (frameKey 0 0 2) = none ∧ peerOf (frameKey 0 0 4) = none ∧ frameKey 0 0 2 ≠ frameKey 0 0 4 ∧ s.pageTagged (frameKey 0 0 2) = false ∧
      Memory.wf s.mem = true) ∧
    ((6 ≤ 12 / 2 % 8 ∧ 10 / 2 % 8 < 6 ∧ 11 % 2 = 1) ∧ demo.testCtx 0 = false ∧ (tenant .locked true).testCtx 0 = true) ∧
    ((tenant .locked true).partitions.find? 0 = some ⟨[0, 79], true, .locked, .running⟩ ∧
      (demo.ctxs.any fun x => x.2.partition == 0 && x.2.confidential) = false ∧
      ((mapCtx fun c => { c with confidential := true }).ctxs.any fun x => x.2.partition == 0 && x.2.confidential) = true) ∧
    (let s := { tenant .tenant false with gangs := demo.gangs.map fun (g : Gang) => { g with phase := .streamed } }
     (s.gang? 1).isSome ∧ s.debugOf 0 = .tenant ∧ (tenant .locked false).debugOf 0 = .locked ∧
      (s.gang? 1).all (fun g => g.phase == .streamed && decide (8 < areaSize g.shape)) = true) := by
  refine ⟨⟨rfl, rfl, rfl⟩, by decide +kernel, rfl, ?_⟩
  decide +kernel

theorem witness_freshFrames : (({ demo with owner := [] } : State).freshFrames 1).length = 1 := rfl

def rec1 : EventRec := EventRec.plain 1 0 0
def trapping (r : Option TrapRec) : State := demoTeam fun t => { t with run := .trapping, trapNext := r }
/-- Records with room and without, a trap that waited, and a contained team. -/
theorem witness_ContainmentFreezesAndChoices :
    (demo.ctx? 0).isSome ∧
    (let s := trapping none
     s.team? ⟨1, 0, 0, 0⟩ = some s.team ∧ s.team.ctx = 0 ∧ (s.teams.map Team.id).Nodup ∧ s.team.pending = [] ∧ s.queueOf s.team = false ∧
      s.team.trapNext = none) ∧
    (let r := demo.team.trapRec (.instr 1 0)
     (trapping (some r)).team.trapNext = some r ∧ containCause r.code = false ∧ (ctxOf demo).trapV = true ∧ demo.team.saved = none ∧
      inCode (ctxOf demo).supCode (ctxOf demo).trapAddr 4 = true) ∧
    ((ctxOf demo).viral = false ∧ (ctxOf demo).evtLost = 0 ∧ (ctxOf demo).evtDue = []) ∧
    (let s := mapCtx fun c => { c with evtDue := [rec1] }
     (ctxOf s).evtDue = [rec1] ∧ s.eventRoom (ctxOf s) = true) ∧
    (let s := mapCtx fun c => { c with evtDue := [rec1], evtWritten := 64 }
     (ctxOf s).evtDue = [rec1] ∧ s.eventRoom (ctxOf s) = false) ∧
    (let s := mapCtx fun c => { c with evtLost := 1 }
     (ctxOf s).evtLost ≠ 0 ∧ (ctxOf s).evtDue = [] ∧ s.eventRoom (ctxOf s) = true) ∧
    (let s := demoTeam fun t => { t with run := .contained, trap := { t.trap with words := 1 } }
     s.others = [] ∧ s.team.ctx = 0 ∧ s.team.run = .contained ∧ s.team.inner = none ∧ s.team.trap.words ≠ 0 ∧
      (s.gang? s.team.id.ticket).isSome) ∧
    (let r := hostKey ((ctxOf demo).evtRing + 64 * 0); let c := hostKey (ctxOf demo).evtCtl; r + 64 ≤ c) ∧
    demo.transitStopped = false ∧ ({ demo with transitStopped := true } : State).transitStopped = true := by decide +kernel

def switching (m : Option BankMode) : State := { demo with
  cores := [(0, ⟨some ⟨1, 0, 0⟩, none, [Bank.reset, Bank.reset, Bank.reset, { Bank.reset with switching := m }]⟩)] }
theorem witness_SweepPassesClearStaleTags :
    (demo.sweepActive = false ∧ demo.specs = [] ∧ ({ demo with sweepActive := true } : State).sweepActive = true) ∧
    ((demo.wg? ⟨1, 0, 0⟩).isSome ∧ (demo.wg? ⟨1, 0, 0⟩).all (fun g => !g.sweepPending && (demo.ctx? g.ctx).isSome) = true ∧
      ((wgs fun w => { w with sweepPending := true }).wg? ⟨1, 0, 0⟩).all (fun g => g.sweepPending) = true ∧
      demo.team.wg = ⟨1, 0, 0⟩) ∧
    (let s := { demo with sweepActive := true }; s.unswept = [] ∧ s.sweepDue = false) ∧
    (let s := { demo with sweepActive := true, sweepScanned := true, sweepEntries := [31] }
     s.sweepDue = true ∧ (s.ctx? (31 / 32)).isSome) ∧
    (∀ m ∈ [none, some BankMode.cache, some .scratch, some .fifo, some .shadow],
      (((switching m).core 0).bank 3).switching = m) ∧ demo.copies = [] ∧ (demo.ctxs.map Prod.fst).Nodup ∧
    (let named := { switched (some .fifo) with wgs := (wgs fun w => { w with queue := [head (mma false)], maps := [(15, 0x1040 <<< 64)] }).wgs }
     named.bankNamed 0 0 = true ∧ (switched (some .fifo)).bankNamed 0 0 = false ∧
      ((switched (some .fifo)).wg? ⟨1, 0, 0⟩).map Workgroup.queue = some [] ∧ (demo.gang? 1).isSome = true) := by decide +kernel

/-! ### Gangs, packets and engines -/

def someLaunch (prio : Nat) (sh : Shape) : Launch :=
  ⟨5, 0, 9, 0, 0, prio, 1, 1, 1, 0, [], sh, demo.team.codeCap, Cap.null, 0, none, false, false, none, 0⟩
def small : Shape := ⟨65536, 32, 1, 1, 1, 64, 8, 0⟩
def big : Shape := ⟨65536, 32, 1, 2, 2, 64, 8, 0⟩
def launching (prio : Nat) (sh : Shape) : State := { demo with launches := [someLaunch prio sh] }
/-- Every cluster but the first is off, the running gang stands where the launch would go, and its context has frames for its save
area. -/
def crowded : State := { (launching 20 big).modCtx 0 (fun c => { c with pool := (List.range 16).map fun i => 100 + i }) with
  clusterPower := (List.range 79).map fun i => (i + 1, Power.off) }
def phased (p : GangPhase) (pool : List Nat) (core : CoreState) : State :=
  { demo.modCtx 0 fun c => { c with pool := pool } with
    gangs := demo.gangs.map fun (g : Gang) => { g with phase := p }, cores := [(0, core)] }
def holding : CoreState := { CoreState.reset with issuing := some ⟨1, 0, 0⟩ }
def shadowing : CoreState := { CoreState.reset with shadow := some ⟨1, 0, 0⟩ }

theorem witness_GangsMoveThroughTheirPhases :
    (demo.decide.isNone && demo.specPlacement.isNone) = true ∧
    ((match (launching 2 small).decide with | some (.place (.launch l) _) => l.id == 5 | _ => false) = true ∧
      (launching 2 small).specs = [] ∧ (launching 2 small).gangs.length < 2 ^ 32 - 1 ∧ ((launching 2 small).ctx? 0).isSome) ∧
    (([phased .shadow [] shadowing, phased .streamed [] CoreState.reset].all fun s =>
      match s.decide with | some (.place (.gang g) _) => g.ticket == 1 | _ => false) = true) ∧
    ((match crowded.decide with
      | some (.preempt c o) => (crowded.withoutSpecs.victims c o).map Gang.ticket == [1] &&
          ((crowded.withoutSpecs.victims c o).all fun v => v.areaFrames == 16)
      | _ => false) = true ∧ crowded.specs = [] ∧ (ctxOf crowded).pool.length = 16) ∧
    ((phased .shadow [] holding).gang? 1).any (fun g => g.phase == .shadow) = true ∧
    (((phased .running [] shadowing).core 0).issuing = none ∧ ((phased .running [] shadowing).core 0).shadow = some ⟨1, 0, 0⟩) ∧
    ((phased .leaving (List.range 15) holding).settled 1 = true ∧ (ctxOf (phased .leaving (List.range 15) holding)).pool.length < 16) ∧
    ((ctxOf (phased .leaving (List.range 16) holding)).pool.length = 16) ∧
    ((phased .leaving [] holding).gang? 1).all (fun g => g.area.isEmpty) = true ∧
    (let s := phased .entering [] holding
     (s.gang? 1).any (fun g => g.phase == .entering && g.area.isEmpty) = true ∧ s.transitStopped = false ∧ s.rereading 1 = false) ∧
    (let s := phased .entering [] holding
     let t : State := { s with gangs := s.gangs.map fun (g : Gang) => { g with area := [7] } }
     (t.gang? 1).any (fun g => g.phase == .entering && !g.area.isEmpty) = true ∧ t.transitStopped = false ∧ t.specs = [] ∧
      ({ t with transitStopped := true } : State).transitStopped = true) ∧
    (let s := demoTeam fun t => { t with run := .retired }
     (s.teams.all fun t => t.run == .retired && t.pending.isEmpty) = true ∧ s.merges = [] ∧ s.remotes = [] ∧ s.snoops = [] ∧
      (s.wgs.all fun w => w.queue.isEmpty) = true ∧ (1 : Nat) ≠ 0) := by decide +kernel

/-- A packet image of a kind: its first byte, and others as given by offset. -/
def image (bs : List (Nat × Byte)) : List Byte := (List.range 128).map fun i => SMap.getD bs i 0
def pkt (img : List Byte) (w : PacketWait := .notStarted) : Packet := ⟨0, false, img, w, none, none, none⟩
def starting (img : List Byte) : State := queued [pkt img]
theorem starts_of {s : State} {q : Queue} {p : Packet} (h : (s.queue? 9 == some q && s.startable 9 == some p && p.headerOk &&
    (q.packets.all fun x => x.wait == .notStarted) && s.copies.isEmpty && s.specs.isEmpty) = true) : s.Starts 9 q p := by
  simp only [Bool.and_eq_true, beq_iff_eq, List.all_eq_true, List.isEmpty_iff] at h
  obtain ⟨⟨⟨⟨⟨a, b⟩, c⟩, d⟩, e⟩, f⟩ := h
  exact ⟨a, b, c, d, e, f⟩

/-- One packet of each KIND that may start; the WAITCTR's and ADDCTR's counter stands in c-table entry 1. -/
theorem witness_PacketsRunByKind_starts : ∀ k ∈ [0, 1, 2, 3, 4, 5, 6],
    (starting (image [(0, BitVec.ofNat 8 k), (2, if k = 4 then 1 else 0), (16, if k = 3 then 1 else 0)])).Starts 9
      { someQueue [] with packets := [pkt (image [(0, BitVec.ofNat 8 k), (2, if k = 4 then 1 else 0), (16, if k = 3 then 1 else 0)])] }
      (pkt (image [(0, BitVec.ofNat 8 k), (2, if k = 4 then 1 else 0), (16, if k = 3 then 1 else 0)])) := by
  intro k hk
  simp only [List.mem_cons, List.not_mem_nil, or_false] at hk
  rcases hk with rfl | rfl | rfl | rfl | rfl | rfl | rfl <;> exact starts_of (by decide +kernel)

/-- A capability in entry 1 of the context's table, which stands in frame 3. -/
def tabled (k : Cap) (s : State) : State :=
  (s.writeBytes 196624 ((List.range 16).map fun i => (k.bits >>> (8 * i)).setWidth 8)).setTag 196624 true
def okVal {α : Type} (d : α) (x : Except CpStop α) : α := match x with | .ok a => a | .error _ => d
def isOk {α : Type} (x : Except CpStop α) : Bool := match x with | .ok _ => true | .error _ => false
def notifying : State := { queued [] with stage1 := [(511, 0x80000FFF)], stage2 := [(4095, 0x80000009)] }
def wiring : State := { starting (image [(0, 5), (46, 7)]) with
  taskKeys := [⟨0, 7, 0, 5, 6, 8, none⟩], expAttached := [7] }
/-- The other premises of PacketsRunByKind: the notify tables at their last entries, the inlet and the ring, the headers the command
processor refuses, the bodies of each KIND, deadlines that have passed, drains and completions. -/
theorem witness_PacketsRunByKind :
    (demo.notifySlot 0 0 = none ∧ notifying.notifySlot 0 511 = some 9 ∧ (notifying.queue? 9).isSome) ∧
    ((ctxOf demo).confidential = false ∧ (ctxOf (mapCtx fun c => { c with confidential := true })).confidential = true) ∧
    ((queued []).mayFetch (someQueue []) = true ∧ (queued []).mayFetch { someQueue [] with stopped := true } = false) ∧
    ((someQueue [([], none)]).inlet.length = 1 ∧ (someQueue []).inlet = [] ∧ (someQueue []).scanning = false) ∧
    (isOk ((queued []).cpRead 0 (131072 + 128 * 0) 8).1 = true ∧
      isOk (((queued []).cpRead 0 (131072 + 128 * 0) 8).2.cpRead 0 (131072 + 128 * 0 + 8) 120).1 = true ∧
      (((queued []).cpRead 0 131072 8).2.cpRead 0 131080 120).2.queue? 9 = some (someQueue [])) ∧
    ([0, 1, 2, 3, 4, 5, 6].all fun k => !(pkt (image [(0, BitVec.ofNat 8 (k + 16))])).headerOk) = true ∧
    (let s := tabled data (starting (image [(0, 4), (2, 1)]))
     let r := s.handleCap 0 1
     isOk r.1 = true ∧ (okVal Cap.null r.1) = data ∧ data.usable (permAtomic + permStore) = true ∧ data.cur % 8 = 0 ∧ data.coversCur 8 = true ∧
      r.2.specs = [] ∧ r.2.queue? 9 = s.queue? 9 ∧ r.2.timebase = s.timebase ∧ r.2.expLost = s.expLost ∧
      (match r.2.resolve (counterWho 0) 0 data data.cur 8 permLoad 8 .counter with
        | .ok [x] => (peerOf x.key).isNone && !r.2.checkBad (x.key / 128) && !r.2.poisoned (x.key / 128)
        | _ => false) = true ∧ r.2.copies = [] ∧ r.2.remotes = []) ∧
    ((someQueue []).first 0 = true ∧ ({ someQueue [] with packets := [{ pkt [] .job with num := 1 }, pkt []] }).first 0 = false) ∧
    (wiring.taskKeys.find? (fun k => k.ctx == 0 && k.expander == 7)).isSome ∧ wiring.expAttached.contains 7 = true ∧
    wiring.expLost.contains 7 = false ∧ ({ wiring with expLost := [7] } : State).expLost.contains 7 = true ∧
    (demo.taskKeys.find? fun k => k.ctx == 0 && k.expander == 7) = none ∧
    (let s := queued [pkt [] (.counter data 131072 1 (some 0) 0)]
     (s.queue? 9).isSome ∧ (0 : Nat) ≤ s.timebase ∧ peerOf 131072 = none ∧ s.checkBad (131072 / 128) = false ∧
      s.poisoned (131072 / 128) = false ∧ s.copies = [] ∧ s.remotes = []) ∧
    (let s := { queued [pkt [] .drain] with team := { demo.team with active := 0 }, gangs := [], wgs := [], timebase := 512 }
     s.drained = true ∧ (s.queues.any fun x => x.2.ctx == 0 && x.2.drains) = true) ∧ demo.drained = false ∧
    (let s := { mapped 0x2100E with queues := [(9, { someQueue [] with owed := some 0 })] }
     (match (s.report 9).1 with | .error .wait => true | _ => false) = true) ∧
    ((pkt (image [(0, 4)]) (.done 0 0)).kind ≠ 1 ∧ (pkt [] (.done 255 0)).ctr = none) ∧
    (let s := { queued [] with queues := [(9, { someQueue [] with packets := [{ pkt (image [(0, 4)]) (.done 0 0) with ctr := some data }] })] }
     (s.ctrAdd (slotUnit 9) none 0 0 0 true data 0).1 = some (0, 0)) ∧
    injEn demo.injCtl = false ∧ demo.expAttached.contains 7 = false ∧ (someQueue []).owed = none ∧ (demo.queues.map Prod.fst).Nodup := by decide +kernel

theorem works_of {s : State} {e : Nat} {o : Oper} {j : Job} (h : (s.headJob e == some j && decide (j.oper = o) && s.jobRuns j &&
    s.copies.isEmpty && s.specs.isEmpty && s.snoops.isEmpty && !injEn s.injCtl && s.tlbs.isEmpty) = true) : s.Works e o j := by
  simp only [Bool.and_eq_true, beq_iff_eq, decide_eq_true_eq, List.isEmpty_iff, Bool.not_eq_true'] at h
  obtain ⟨⟨⟨⟨⟨⟨⟨a, b⟩, c⟩, d⟩, e⟩, f⟩, g⟩, i⟩ := h
  refine ⟨a, b, c, d, e, f, g, fun n _ x hx => ?_⟩
  rw [i] at hx; cases hx

def placed (s : State) (j : Job) (k : Cap) (foot : Nat × Nat) (x m need : Nat) (a : Access) (K : Nat → Nat) : Bool :=
  match s.engPlace j k foot x m need a with
  | .ok ps => (ps.flatMap fun p => (List.range p.len).map fun i => p.key + i) == (List.range m).map (fun i => K (x + i)) &&
      ps.all fun p => (peerOf p.key).isNone && !p.coh
  | _ => false
theorem reaches_of {s : State} {j : Job} {k : Cap} {foot : Nat × Nat} {lo n need : Nat} {a : Access} {K : Nat → Nat}
    (h : ((List.range (n + 1)).all fun i => (List.range (n + 1 - i)).all fun m => m == 0 || placed s j k foot (lo + i) m need a K) = true) :
    s.Reaches j k foot lo n need a K := by
  intro x m hx hm h0
  have h1 := List.all_eq_true.1 h (x - lo) (List.mem_range.2 (by omega))
  have h2 := List.all_eq_true.1 h1 m (List.mem_range.2 (by omega))
  rw [show lo + (x - lo) = x by omega] at h2
  simp only [Bool.or_eq_true, beq_iff_eq, placed] at h2
  rcases h2 with h2 | h2
  · omega
  · revert h2
    cases hp : s.engPlace j k foot x m need a with
    | wait => intro h2; cases h2
    | fail _ _ => intro h2; cases h2
    | ok ps =>
      intro h2
      simp only [Bool.and_eq_true, beq_iff_eq, List.all_eq_true, Option.isNone_iff_eq_none, Bool.not_eq_true'] at h2
      exact ⟨ps, rfl, h2.1, fun p hp => h2.2 p hp⟩

/-- A job at the head of engine 127's queue, its source, destination and AUX apart in frame 2. -/
def jobOf (o : Oper) : Job :=
  { someJob o with snarrow := 65536, dnarrow := 65536, aux := data.setCur 131840, p1 := 4, p2 := 4,
                   len := (match o with | .copy2d => 17179869188 | .gather => 4 | _ => 16) }
def working (o : Oper) : State := { demo with engines := [(127, [jobOf o])] }
theorem witness_engines_work : ∀ o ∈ [Oper.copy, .copy2d, .fill, .gather, .redscat, .allgath, .publish, .cin, .cout],
    (working o).Works 127 o (jobOf o) := by
  intro o ho
  simp only [List.mem_cons, List.not_mem_nil, or_false] at ho
  rcases ho with rfl | rfl | rfl | rfl | rfl | rfl | rfl | rfl | rfl <;> exact works_of (by decide +kernel)
theorem allClean_of {s : State} {n : Nat} {f : Nat → Nat} (h : ((List.range n).all fun x => !s.checkBad (f x / 128) && !s.poisoned (f x / 128)) = true) :
    s.AllClean n f := by
  intro x hx
  simpa using List.all_eq_true.1 h x (List.mem_range.2 hx)

/-- The four moves of bytes, rows of 4 bytes where there are rows; the indices of GATHER read as 0. -/
theorem witness_EnginesMoveBytes :
    (let s := working .copy; let j := jobOf .copy
     s.Reaches j j.src j.srcFoot j.src.cur j.len permLoad .read id ∧ s.Reaches j j.dst j.dstFoot j.dst.cur j.len permStore .write id ∧
      s.AllClean j.len (fun x => id (j.src.cur + x)) ∧ (∀ x, x < 16 → ∀ y, y < 16 → j.src.cur + x ≠ j.dst.cur + y)) ∧
    (let s := working .fill; let j := jobOf .fill
     s.Reaches j j.dst j.dstFoot j.dst.cur j.len permStore .write id) ∧
    (let s := working .copy2d; let j := jobOf .copy2d
     j.len % 2 ^ 32 = 4 ∧ j.len / 2 ^ 32 = 4 ∧ ∀ r, r < 4 → s.Reaches j j.src j.srcFoot (j.src.cur + r * j.p1) 4 permLoad .read id ∧
       s.Reaches j j.dst j.dstFoot (j.dst.cur + r * j.p2) 4 permStore .write id) ∧
    (let s := working .gather; let j := jobOf .gather
     s.Reaches j j.aux j.aux.range j.aux.cur (4 * j.len) permLoad .read id ∧ s.AllClean (4 * j.len) (fun x => id (j.aux.cur + x)) ∧
      ∀ r, r < j.len → s.Reaches j j.src j.srcFoot (j.src.cur + 0 * j.p1) j.p1 permLoad .read id ∧
        s.Reaches j j.dst j.dstFoot (j.dst.cur + r * j.p1) j.p1 permStore .write id) := by
  refine ⟨⟨reaches_of (by decide +kernel), reaches_of (by decide +kernel), allClean_of (by decide +kernel), by decide +kernel⟩,
    reaches_of (by decide +kernel), ⟨by decide +kernel, by decide +kernel, fun r hr => ?_⟩,
    ⟨reaches_of (by decide +kernel), allClean_of (by decide +kernel), fun r hr => ?_⟩⟩
  · have : r = 0 ∨ r = 1 ∨ r = 2 ∨ r = 3 := by omega
    rcases this with rfl | rfl | rfl | rfl <;> exact ⟨reaches_of (by decide +kernel), reaches_of (by decide +kernel)⟩
  · have h4 : r < 4 := hr
    have : r = 0 ∨ r = 1 ∨ r = 2 ∨ r = 3 := by omega
    rcases this with rfl | rfl | rfl | rfl <;> exact ⟨reaches_of (by decide +kernel), reaches_of (by decide +kernel)⟩

/-- The value of an engine's read, where it has one. -/
def engVal (x : Eng (List TByte)) : List TByte := match x with | .ok bs => bs | _ => []
def engOk (x : Eng (List TByte)) : Bool := match x with | .ok _ => true | _ => false
theorem eng_eq {p : Eng (List TByte) × State} (h : engOk p.1 = true) : p = (.ok (engVal p.1), p.2) := by
  obtain ⟨x, t⟩ := p
  cases x with
  | ok bs => rfl
  | wait => cases h
  | fail _ _ => cases h

/-- A collective of two members on a peer, page 5 of the context standing for its frame 1: what its engine asks for, answered. -/
def peering (o : Oper) : State := { mapCtx (fun c => { c with ptes := c.ptes.put 0 5 ((1 <<< 80) ||| 0x100CE) }) with
  engines := [(127, [jobOf o])], mem := [(131840, 2), (131858, 5), (131866, 5)] }
def answered (o : Oper) : State := match (if o = .redscat then exec (.redscat 127) (peering o) else exec (.allgath 127) (peering o)) with
  | .next t => { t with tlbs := [], remotes := t.remotes.map fun (r : Remote) => { r with got := some (List.replicate 129 1) } }
  | _ => peering o
def ringGo (o : Oper) : State := (answered o).modJob 127 fun x => { x with started := true }
def ringJob (o : Oper) : Job := { jobOf o with started := true }
def ringHead (o : Oper) : Eng (List TByte) × State := (ringGo o).engFetch 127 (ringJob o) (ringJob o).aux (ringJob o).aux.range 131840 16
def ringMembers (o : Oper) : Eng (List TByte) × State :=
  (ringHead o).2.engFetch 127 (ringJob o) (ringJob o).aux (ringJob o).aux.range (131840 + 16) 16
def ownShare (o : Oper) : Eng (List TByte) × State :=
  (ringMembers o).2.engFetch 127 (ringJob o) (ringJob o).src (ringJob o).srcFoot ((ringJob o).src.cur + 0) 16
def peerShare (o : Oper) : Eng (List TByte) × State := (ownShare o).2.memberRead 127 (ringJob o) 327680 16

theorem witness_collectives : ∀ o ∈ [Oper.redscat, .allgath],
    (answered o).Works 127 o (ringJob o) ∧ engOk (ringHead o).1 = true ∧ engOk (ringMembers o).1 = true ∧
    (let hd := (engVal (ringHead o).1).map Prod.fst; let ms := (engVal (ringMembers o).1).map Prod.fst
     fieldAt hd 0 2 = 2 ∧ fieldAt hd 2 2 = 0 ∧ fieldAt hd 4 1 = 0 ∧ fieldAt hd 5 1 = 0 ∧ zeroAt hd 6 10 = true ∧
      (ringJob o).len % 2 = 0 ∧ fieldAt ms 0 8 = 327680 ∧ fieldAt ms 8 8 = 327680) ∧
    ((ringMembers o).2.onPeer 0 327680 32 && (ringMembers o).2.onPeer 0 327680 16) = true ∧
    SharesRead 127 (ringJob o) 0 0 16 [(0, 327680), (1, 327680)] (ringMembers o).2
      [(engVal (ownShare o).1).map Prod.fst, (engVal (peerShare o).1).map Prod.fst] (peerShare o).2 := by
  intro o ho
  simp only [List.mem_cons, List.not_mem_nil, or_false] at ho
  rcases ho with rfl | rfl <;>
    exact ⟨works_of (by decide +kernel), by decide +kernel, by decide +kernel, by decide +kernel, by decide +kernel,
      ⟨_, _, _, eng_eq (by decide +kernel), rfl, _, _, _, eng_eq (by decide +kernel), rfl, rfl, rfl⟩⟩

/-- One subscriber of this device: its payload at 132096 and its version at 133120. -/
def publishing : State := { working .publish with mem := [(131840, 1), (131857, 4), (131858, 2), (131865, 8), (131866, 2)] }
def pubGo : State := publishing.modJob 127 fun x => { x with started := true }
def pubHead : Eng (List TByte) × State := pubGo.engFetch 127 (jobOf .publish) (jobOf .publish).aux (jobOf .publish).aux.range 131840 16
def pubSubs : Eng (List TByte) × State := pubHead.2.engFetch 127 (jobOf .publish) (jobOf .publish).aux (jobOf .publish).aux.range (131840 + 16) 16
def pubData : Eng (List TByte) × State := pubSubs.2.engFetch 127 (jobOf .publish) (jobOf .publish).src (jobOf .publish).srcFoot 131072 16
def here (s : State) (va n : Nat) (a : Access) : Bool := match s.subscriber (jobOf .publish) va n a with
  | .ok ps => (ps.flatMap fun p => (List.range p.len).map fun i => p.key + i) == (List.range n).map (fun i => va + i) &&
      ps.all fun p => (peerOf p.key).isNone && !p.coh && p.loc != 1 && !s.checkBad (p.key / 128) && !s.poisoned (p.key / 128)
  | _ => false
theorem witness_publish : publishing.Works 127 .publish (jobOf .publish) ∧ publishing.remotes = [] ∧
    (engOk pubHead.1 && engOk pubSubs.1 && engOk pubData.1) = true ∧
    (let hd := (engVal pubHead.1).map Prod.fst; let es := (engVal pubSubs.1).map Prod.fst
     fieldAt hd 0 2 = 1 ∧ zeroAt hd 2 14 = true ∧ fieldAt es 0 8 = 132096 ∧ fieldAt es 8 8 = 133120 ∧ 133120 % 8 = 0) ∧
    (here pubData.2 132096 16 .write && here pubData.2 133120 8 .counterAdd) = true ∧ (jobOf .publish).paid = false ∧
    (match pubSubs.2.subscriber (jobOf .publish) 133120 8 .counterAdd with | .ok [_] => true | _ => false) = true ∧
    (match pubData.2.subscriber (jobOf .publish) 133120 8 .counterAdd with | .ok [_] => true | _ => false) = true ∧
    pubData.2.remotes = [] ∧ pubData.2.copies = [] ∧ pubData.2.specs = [] ∧ pubData.2.snoops = [] ∧ 0 < (jobOf .publish).len ∧
    (((List.range 16).map fun i => 132096 + i) ++ (List.range 8).map fun i => 133120 + i).Nodup := by
  exact ⟨works_of (by decide +kernel), by decide +kernel⟩

/-- CIN and COUT under slot 0, whose counters stand at 0: the card's counter is `ctr`. -/
def ciphering (o : Oper) (ctr : Byte) (slots : SMap KeySlot) : State := { working o with
  mem := if ctr = 0 then [] else [(131848, ctr)], keySlots := slots }
def cipherHead (o : Oper) (ctr : Byte) (slots : SMap KeySlot) : Eng (List TByte) × State :=
  ((ciphering o ctr slots).modJob 127 fun x => { x with started := true }).engFetch 127 (jobOf o) (jobOf o).aux (jobOf o).aux.range 131840 16
def slot0 : SMap KeySlot := [(0, ⟨0, 5, some 0, some 0⟩)]
/-- A CIN or COUT whose CTR has been recorded; the bytes of a job that are to be written. -/
theorem witness_ciphers_keyed : ∀ o ∈ [Oper.cin, .cout], let j : Job := { jobOf o with keyed := some (7, List.replicate 16 0) }
    let s : State := { demo with engines := [(127, [j])] }
    s.Works 127 o j ∧ j.keyed = some (7, List.replicate 16 0) ∧ 16 ≤ j.len ∧ j.len ≤ 67108864 ∧ j.len % 16 = 0 ∧
    engOk ((s.modJob 127 fun x => { x with started := true }).engFetch 127 j j.src j.srcFoot j.src.cur 32).1 = true ∧
    s.Reaches j j.dst j.dstFoot j.dst.cur 16 permStore .write id ∧ (∀ a, id a % 16 = a % 16) := by
  intro o ho
  simp only [List.mem_cons, List.not_mem_nil, or_false] at ho
  rcases ho with rfl | rfl <;>
    exact ⟨works_of (by decide +kernel), rfl, by decide +kernel, by decide +kernel, by decide +kernel, by decide +kernel,
      reaches_of (by decide +kernel), fun _ => rfl⟩
theorem witness_ciphers : ∀ o ∈ [Oper.cin, .cout],
    ((ciphering o 0 []).Works 127 o (jobOf o) ∧ (ciphering o 0 slot0).Works 127 o (jobOf o) ∧ (ciphering o 1 slot0).Works 127 o (jobOf o)) ∧
    (engOk (cipherHead o 0 []).1 && engOk (cipherHead o 0 slot0).1 && engOk (cipherHead o 1 slot0).1) = true ∧
    (cipherHead o 0 []).2.slotFor (jobOf o) 0 = none ∧ (cipherHead o 0 slot0).2.slotFor (jobOf o) 0 = some ⟨0, 5, some 0, some 0⟩ ∧
    (cipherHead o 1 slot0).2.slotFor (jobOf o) 0 = some ⟨0, 5, some 0, some 0⟩ ∧ (jobOf o).keyed = none ∧
    fieldAt ((engVal (cipherHead o 0 slot0).1).map Prod.fst) 8 8 = 0 ∧ fieldAt ((engVal (cipherHead o 1 slot0).1).map Prod.fst) 8 8 = 1 ∧
    fieldAt ((engVal (cipherHead o 1 slot0).1).map Prod.fst) 0 4 = 0 ∧ 16 ≤ (jobOf o).len ∧ (jobOf o).len ≤ 67108864 ∧ (jobOf o).len % 16 = 0 ∧
    engOk ((cipherHead o 1 slot0).2.engFetch 127 (jobOf o) (jobOf o).src (jobOf o).srcFoot 131072 32).1 = true := by
  intro o ho
  simp only [List.mem_cons, List.not_mem_nil, or_false] at ho
  rcases ho with rfl | rfl <;>
    exact ⟨⟨works_of (by decide +kernel), works_of (by decide +kernel), works_of (by decide +kernel)⟩, by decide +kernel⟩

-- The tag of AES-256 in GCM over nothing, under the zero key and IV (the algorithm R302 and R460 name).
theorem test_gcm : gcmTag ⟨List.replicate 32 0, List.replicate 12 0⟩ [] [] =
    [0x53, 0x0F, 0x8A, 0xFB, 0xC7, 0x45, 0x36, 0xB9, 0xA9, 0x63, 0xB4, 0xF1, 0xC4, 0xCB, 0x73, 0x8B] := by decide +kernel

/-- A JOB packet whose card is a FILL through entry 1, and one whose COPY has no SRC. -/
def fillCard (eng : Byte) : List Byte := image [(0, 2), (2, eng), (48, 1), (80, 2)]
def copyCard : List Byte := image [(0, 2), (48, 1), (80, 0)]
def jobs (img : List Byte) : State := tabled data (starting img)
def ended (p : Option (Nat × Nat)) (st : Option Nat) (ctr : Cap) : State := { queued [pkt [] .job] with
  engines := [(127, [{ jobOf .copy with packet := p, ended := st, ctr := ctr }])] }
/-- A kernel at 132096: TEAM_WIDTH 2^5, one team, a 1 by 1 gang, 64 vector and 8 lane-capability registers. -/
def kernel (entry : Byte) : State := { tabled (data.setCur 132096) (starting (image [(0, 1), (16, 1)])) with
  mem := [(132096, entry), (132100, 5), (132102, 0x11), (132103, 64), (132104, 8)] ++
    (tabled (data.setCur 132096) (starting (image [(0, 1), (16, 1)]))).mem }
/-- The same with QUOTA reached: its argument block's frame comes from the pool, if there is one there. -/
def blocked (pool : List Nat) : State :=
  { (kernel 128).modCtx 0 fun c => { c with quota := 0, pool := pool } with tableFree := [1, 2, 3] }
/-- The state once the LAUNCH's handle, granules and descriptor are read. -/
def described (s : State) : State :=
  (((s.handleCap 0 1).2.bodyGranules 0 (image [(0, 1), (16, 1)])).2.descriptor 0 (data.setCur 132096)).2
theorem missing_le (c : Ctx) (va : Nat) : (c.missing va).length ≤ 3 := List.length_filter_le _ _
theorem witness_JobAndLaunchPackets_blocked (ks : List Cap) :
    (described (blocked [])).argBlock 0 ks = none ∧ ((described (blocked [4])).argBlock 0 ks).isSome = true := by
  constructor
  · have c : (described (blocked [])).ctx? 0 = some (ctxOf (described (blocked []))) := by decide +kernel
    have h : (described (blocked [])).argFrame 0 (ctxOf (described (blocked []))) = none := by decide +kernel
    rw [State.argBlock, c]
    simp only [h, Option.bind_none]
  · have c : (described (blocked [4])).ctx? 0 = some (ctxOf (described (blocked [4]))) := by decide +kernel
    have h : (described (blocked [4])).argFrame 0 (ctxOf (described (blocked [4]))) = some (4, 1) := by decide +kernel
    rw [State.argBlock, c]
    simp only [h, Option.bind_some]
    rw [if_neg]
    · rfl
    · exact Nat.not_lt.2 (missing_le _ _)
theorem witness_JobAndLaunchPackets :
    (∀ img ∈ [fillCard 0, fillCard 127, fillCard 128, copyCard],
      (jobs img).Starts 9 { someQueue [] with packets := [pkt img] } (pkt img) ∧ (pkt img).kind = 2) ∧
    (operOf (fieldAt (image [(0, 2), (80, 200)]) 80 1) = none ∧ operOf (fieldAt (fillCard 127) 80 1) = some .fill ∧
      operOf (fieldAt copyCard 80 1) = some .copy) ∧
    (let s := jobs (fillCard 127)
     (([16, 32, 64].all fun o => isOk (s.handleField 0 (((fillCard 127).drop o).take 16)).1 &&
       okVal data (s.handleField 0 (((fillCard 127).drop o).take 16)).1 == Cap.null) = true) ∧
     okVal Cap.null (s.handleField 0 (((fillCard 127).drop 48).take 16)).1 = data ∧
     s.cardStatus 0 false (fillCard 127) Cap.null Cap.null data Cap.null = 0 ∧
     s.cardStatus 0 false copyCard Cap.null Cap.null data Cap.null ≠ 0 ∧ s.engineFor 127 = some 127 ∧ s.engineFor 128 = none) ∧
    ((ended none none Cap.null).headJob 127 = some { jobOf .copy with ended := none } ∧ demo.remotes = [] ∧ demo.snoops = [] ∧
      (ended (some (9, 0)) (some 255) Cap.null).headJob 127 = some { jobOf .copy with packet := some (9, 0), ended := some 255 } ∧
      data ≠ Cap.null ∧ ((ended (some (9, 0)) (some 0) data).ctrAdd ⟨0, 0, 0, 0⟩ (some 127) 0 0 0 false data 0).1 = some (0, 0)) ∧
    (∀ s ∈ [kernel 128, blocked [], blocked [4]],
     let k := data.setCur 132096
     let r := s.handleCap 0 1
     s.Starts 9 { someQueue [] with packets := [pkt (image [(0, 1), (16, 1)])] } (pkt (image [(0, 1), (16, 1)])) ∧
     bodyWellFormed (image [(0, 1), (16, 1)]) = true ∧ isOk r.1 = true ∧ okVal Cap.null r.1 = k ∧
     isOk (r.2.bodyGranules 0 (image [(0, 1), (16, 1)])).1 = true ∧ (r.2.bodyGranules 0 (image [(0, 1), (16, 1)])).2.specs = [] ∧
     k.isKernel = true ∧
     (let d := (r.2.bodyGranules 0 (image [(0, 1), (16, 1)])).2.descriptor 0 k
      isOk d.1 = true ∧ (okVal none d.1).isSome ∧ ((okVal none d.1).bind (validate k)).isSome ∧ d.2.nextLaunch = s.nextLaunch ∧ d.2.specs = [] ∧
       d.2.queue? 9 = s.queue? 9 ∧ d.2.launches = [])) ∧
    (let s := kernel 127
     ((okVal none (s.descriptor 0 (data.setCur 132096)).1).bind (validate (data.setCur 132096))) = none ∧
       (okVal none (s.descriptor 0 (data.setCur 132096)).1).isSome) := by
  refine ⟨fun img hi => ?_, by decide +kernel, by decide +kernel, by decide +kernel, ?_, by decide +kernel⟩
  · simp only [List.mem_cons, List.not_mem_nil, or_false] at hi
    rcases hi with rfl | rfl | rfl | rfl <;> exact ⟨starts_of (by decide +kernel), by decide +kernel⟩
  · intro s hs
    simp only [List.mem_cons, List.not_mem_nil, or_false] at hs
    rcases hs with rfl | rfl | rfl <;> exact ⟨starts_of (by decide +kernel), by decide +kernel⟩

/-- Speculation 1 of queue 9, whose launch is 5 and whose one gang is the device's. -/
def orrery (f : Spec → Spec := id) : Spec :=
  f ⟨1, 0, 9, 5, data.setCur 132096, bodyShape (image [(0, 1), (16, 1)]), [], List.replicate 80 0, 0, 0, 4, [(1024, ⟨5, 1, 1, 1, []⟩)], [1025], [1026], [], []⟩
def predicted (s : State) (f : Spec → Spec := id) : State := { s with
  specs := [orrery f], launches := [{ someLaunch 2 ⟨132096 + 128, 32, 1, 1, 1, 64, 8, 0⟩ with spec := some 1 }],
  gangs := s.gangs.map fun (g : Gang) => { g with spec := some 1, launch := 5 } }
def predictedImage : List Byte := image [(0, 1), (16, 1)]
def predictedRead : Except CpStop (List Cap) × State := ((predicted (kernel 128)).handleCap 0 1).2.bodyGranules 0 predictedImage
/-- What SpeculationsStartParkAndEnd asks: a speculative team at each instruction of R257, a speculation that runs, and the lines it
has read, hashed, and neither. -/
theorem witness_SpeculationsStartParkAndEnd :
    ((3 : Dword) - 2 = 2 - 1 ∧ (5 : Dword) - 2 ≠ 2 - 1 ∧ (5 : Dword) ≠ 2) ∧
    ((queued []).queue? 9).isSome = true ∧ (demo.orreryCtl.getD 0 4).getLsbD 31 = false ∧
    (let s := predicted demo
     ([Instr.atom true .add 4 16 0 0, .cas false 4 16 0 0, .red true .fmax 4 16 0 0, .job 1 3 0, .task 1 3 0, .launch 1 3 0,
       .fence .pool .full 0, .flush .fabric 1 .held 0, .inval .pool 1 .cursor 0, .drain 0, .ksweep false 4 1 0, .sysr 4 9, .sysw 4 9,
       .tlbinv 2, .tlbinvAll, .pgmap 4 2, .trap 7, .bkpt].all fun i => s.issues i && (s.entering i).speculative) = true ∧
     s.specs.find? (fun x => x.id == 1) = some orrery ∧ s.specs = [orrery] ∧ injEn s.injCtl = false ∧ s.sweepActive = false ∧
     (s.specs.all fun x => x.queue == 9) = true) ∧
    (orrery.reads.contains 1025 = true ∧ orrery.reads.contains 1026 = false ∧ 1026 ∈ orrery.signature ∧
      (orrery fun x => { x with signature := [] }).reads.contains 1027 = false ∧ ¬ (2 ^ 57 * 128 < 2 ^ 64)) := by decide +kernel
/-- A packet that fits the prediction and one that does not, of a kernel that still is as it was and of one that is not. -/
theorem witness_SpeculationsStartParkAndEnd_packet :
    let s := predicted (kernel 128)
    let img := predictedImage
    let r := s.handleCap 0 1
    let g := predictedRead
    s.queue? 9 = some { someQueue [] with packets := [pkt img] } ∧ s.startable 9 = some (pkt img) ∧ (pkt img).headerOk = true ∧
    (pkt img).kind = 1 ∧ s.copies = [] ∧ bodyWellFormed img = true ∧ fieldAt img 2 2 = 0 ∧ isOk r.1 = true ∧
    okVal Cap.null r.1 = data.setCur 132096 ∧ isOk g.1 = true ∧ okVal [data] g.1 = [] ∧ (data.setCur 132096).isKernel = true ∧
    g.2.specs = [orrery] ∧ orrery.fits (data.setCur 132096) (bodyShape img) [] = true ∧
    orrery.fits (data.setCur 132096) (bodyShape (image [(32, 1)])) [] = false ∧ (g.2.stillValid orrery).1 = some true ∧
    (g.2.stillValid (orrery fun x => { x with launch := 6 })).1 = some false ∧ (g.2.stillValid orrery).2.specs = [orrery] ∧
    (orrery.shadow.all fun y => !g.2.cohFrame (y.1 / 512)) = true := by decide +kernel
/-- Claims with a parked team and without. -/
theorem witness_SpeculationsStartParkAndEnd_claim :
    (let s := { predicted demo with team := { demo.team with run := .parked } }
     (s.teams.map Team.id).Nodup ∧ (s.wgs.all fun w => w.queue.isEmpty) = true ∧ s.team.asyncNext = [] ∧ s.team.owedNotes = [] ∧
     s.others = [] ∧ s.team.trapNext = none ∧ s.team.pending = [] ∧ s.team.sleep = none ∧ s.team.active ≠ 0 ∧
     (s.gang? s.team.id.ticket).any (fun g => g.launch == 5) = true) ∧
    (((predicted demo).teams.all fun u => u.run != .parked) = true ∧ (orrery.shadow.map Prod.fst).Nodup ∧
      (orrery.shadow.find? 1024).any (fun c => c.dirty.getLsbD 0) = true) := by decide +kernel

/-! ### Fabric, host, trust, errors, power -/

/-- A peer's request of a kind for the first line of frame 2, and a grant of that frame to it. -/
def request (k op : Nat) : FabHdr := ⟨BitVec.ofNat 8 k, 0, 0, 5, 0, BitVec.ofNat 8 op, 131072, 77, 2000, 0, 0, 0, BitVec.allOnes 128, 0⟩
def granting : State := mapCtx fun c => { c with peers := [⟨5, 0, 2, 1, 0⟩] }
theorem admits_of {s : State} {h : FabHdr} (g : (!hdrBad h && s.dedupe.isEmpty && s.heldReqs.isEmpty && !(s.grantsFor h).isEmpty &&
    !s.movingFrame (h.address.toNat / 65536) && !s.cohFrame (h.address.toNat / 65536) && s.snoops.isEmpty && s.copies.isEmpty &&
    s.specs.isEmpty && s.ports.isEmpty && !({ s with dedupe := s.window } : State).uncovered h.sent.toNat && !s.checkBad (h.address.toNat / 128) && !s.poisoned (h.address.toNat / 128)) = true) : s.Admits h := by
  simp only [Bool.and_eq_true, Bool.not_eq_true', List.isEmpty_iff, List.isEmpty_eq_false_iff] at g
  obtain ⟨⟨⟨⟨⟨⟨⟨⟨⟨⟨⟨⟨a, b⟩, m⟩, c⟩, d⟩, e⟩, f⟩, g⟩, i⟩, j⟩, n⟩, k⟩, l⟩ := g
  refine ⟨a, ⟨?_, n⟩, ⟨?_, m⟩, c, d, e, f, g, i, k, l⟩ <;> simp [b, j]
theorem witness_FabricRequestsOfPeers :
    (hdrBad { request 0 0 with zeros := 1 } = true ∧ hdrBad (request 8 0) = true ∧ hdrBad (request 7 0) = false) ∧
    (∀ k ∈ [0, 1, 2, 3, 4, 5], granting.Admits (request k 0) ∧ (request k 0).kind.toNat = k ∧ demo.grantsFor (request k 0) = []) ∧
    (let s := { granting with dedupe := [⟨77, 5, 0, [0]⟩] }
     s.ports = [] ∧ s.heldReqs = [] ∧ (s.window.find? fun d => d.id == 77 && d.src == 5).isSome) ∧
    (let s := { granting with domainClock := 3000000 }
     s.ports = [] ∧ s.heldReqs = [] ∧ s.dedupe = [] ∧ ({ s with dedupe := s.window } : State).uncovered (request 0 0).sent.toNat = true) ∧
    granting.sweepActive = false ∧ ((fabOp 0).isSome ∧ (fabOp 0x40).isSome ∧ 131072 % 8 = 0 ∧ (List.replicate 128 (0 : Byte)).length = 128) := by
  refine ⟨by decide +kernel, fun k hk => ?_, by decide +kernel, by decide +kernel, by decide +kernel⟩
  simp only [List.mem_cons, List.not_mem_nil, or_false] at hk
  rcases hk with rfl | rfl | rfl | rfl | rfl | rfl <;> exact ⟨admits_of (by decide +kernel), by decide +kernel⟩

/-- A request of lane 31 of the issuing team to peer 5, sent at 0, and the time. -/
def remote (form : LoadForm) (k : Nat) : Remote := ⟨77, { request k 0 with dst := 5, src := 0, mask := 15 }, [], ⟨1, 0, 0, 0⟩, 31, 3, form, 327680, 0,
  false, false, false, none, none, if form = .nothing then [] else [⟨31, 327680, 124, 4, form⟩], []⟩
def asking (form : LoadForm) (k clock : Nat) : State := { mapCtx (fun c => { c with ptes := c.ptes.put 0 5 ((1 <<< 80) ||| 0x100CE) }) with
  remotes := [remote form k], domainClock := clock,
  team := { demo.team with pending := [⟨3, 0, [.v 4 (List.replicate 32 none)], 0, [77], [], 65536, 0, 1, false, true, [], [], 0, []⟩] } }
def link : FabPort := ⟨true, 5, 10, false, true, [3], [], 0, [({ request 0 0 with flags := 3 }, [])]⟩
def answer (k op : Nat) : FabHdr := { request k op with src := 5 }
theorem witness_FabricAnswersLinksAndClock :
    (demo.ports = [] ∧ hdrBad (answer 6 0) = false ∧ (demo.remotes.find? fun r => r.id == 77) = none) ∧
    (∀ x ∈ [(LoadForm.lane 4 false, 0), (.nothing, 1)],
      let s := asking x.1 x.2 0
      let r := remote x.1 x.2
      (s.remotes.find? fun r => r.id == (answer 6 0).reqid.toNat && r.hdr.dst == (answer 6 0).src) = some r ∧ s.siblings r = [r] ∧ r.got = none ∧
      r.collected = false ∧ s.team? r.team = some s.team ∧ s.team.ctx = r.ctx ∧ (s.teams.map Team.id).Nodup ∧ s.team.run = .ready ∧
      r.lane < 32 ∧ (s.remotes.map Remote.id).Nodup ∧ hdrPoison (answer 6 0) = false ∧ r.polls = false ∧
      (∃ y, r.parts = [y] ∧ y.form = x.1 ∧ y.lane = 31 ∧ y.off + y.len ≤ 128)) ∧
    ((remote (.lane 4 false) 0).hdr.kind = 0 ∧ (remote .nothing 1).hdr.kind ≠ 0 ∧ (answer 6 0x80).op = 0x80 ∧ (answer 7 0x21).op ≠ 0 ∧
      (answer 7 0x21).op ≠ 0x80) ∧
    ((0 + 500000 ≤ (asking .nothing 1 500000).domainClock) ∧ ((asking .nothing 1 499999).domainClock < 0 + 500000) ∧
      (0 + 2000000 ≤ (asking .nothing 1 2000000).domainClock) ∧ ((asking .nothing 1 1999999).domainClock < 0 + 2000000) ∧
      (remote .gather 0).collected = true) ∧
    ((remote .pref 0).form = .pref ∧ (remote .pref 0).got = none ∧ (remote (.lane 4 false) 0).shares ≠ [] ∧
      (remote .nothing 1).form ≠ .gather ∧ (remote .nothing 1).form ≠ .pref ∧ ((1 <<< 80 ||| 0x110CE : BitVec 128)).getLsbD 12 = true) ∧
    (∃ e, (ctxOf (asking .nothing 1 0)).walk 327680 = .ok e ∧ pteMig e = false ∧
      peerOf (frameKey (pteLoc e) (ptePeer e) (pteFrame e) + 327680 % 65536 / 128 * 128 + 0) = some 1) ∧
    (128 ≤ 128 ∧ 127 < 128 ∧ 8191 < 8192) ∧
    (let s := { demo with ports := [(127, link)] }
     s.ports.find? 127 = some link ∧ (s.ports.map Prod.fst).Nodup ∧ 3 < 4 ∧ link.waiting ≠ []) ∧
    demo.fabricUp = false ∧ (let s := { demo with ports := [(127, link)], deviceNumber := 8191 }; s.fabricUp = true ∧ s.timeRoot = false) := by
  refine ⟨by decide +kernel, fun x hx => ?_, by decide +kernel, by decide +kernel, by decide +kernel, ⟨(1 <<< 80) ||| 0x100CE, rfl, by decide +kernel⟩, by decide +kernel⟩
  simp only [List.mem_cons, List.not_mem_nil, or_false] at hx
  rcases hx with rfl | rfl <;>
    exact ⟨by decide +kernel, by decide +kernel, rfl, rfl, by decide +kernel, by decide +kernel, by decide +kernel, rfl, by decide +kernel,
      by decide +kernel, by decide +kernel, by decide +kernel, _, rfl, rfl, rfl, by decide⟩

def hosted : State := { demo with hostPorts := [(0, ⟨true, 640, 16, false, false⟩)] }
def lineCopy : Copy := ⟨5, BitVec.allOnes 128, 1, 0, []⟩
def cached (line : Nat) (dirty : BitVec 128) : State := { hosted with copies := [(copyKey 0 line, { lineCopy with dirty := dirty })] }
theorem witness_HostAccessesAndSnoops :
    ((1 ≤ 1 ∧ 640 ∈ [25, 50, 80, 160, 320, 640] ∧ 16 ∈ [4, 8, 16]) ∧ (1 : Nat) < 2 ∧ 24 ∉ [25, 50, 80, 160, 320, 640] ∧ 1 ∉ [4, 8, 16]) ∧
    ((hosted.hostPorts.find? 0).any HostPort.up = true ∧ hosted.bringUp = 0 ∧ hosted.resetDue = false) ∧
    ((hostLines 131072 65536).all fun l => hosted.hostMay (l / 512) && !hosted.checkBad l && !hosted.cohFrame (l / 512) && !hosted.poisoned l) = true ∧
    ((hostLines (2 ^ 64 - 16) 16).all fun l => !hosted.hostMay (l / 512)) = true ∧
    (∃ l ∈ hostLines 131072 1, (hosted.setPoison 1024 true).poisoned l = true) ∧
    ((hosted.port 0).cxl = true ∧ (State.port { hosted with hostPorts := [(0, ⟨true, 25, 16, false, false⟩)] } 0).cxl = false ∧
      hosted.movingFrame 2 = false ∧ State.movingFrame { mapped 0x2100E with migration := some ⟨0, 2, 0, 0, 4, some 131072⟩ } 2 = true ∧
      4096 < 4097 ∧ 512 < 513) ∧
    (511 < 512 ∧ (bytesOfNat 8 0).length = 8 ∧ 56 + (bytesOfNat 8 0).length ≤ 64 ∧ (bytesOfNat 4 0).length = 4) ∧
    ((2 : Nat) ^ 64 ≤ 2 ^ 64 ∧ 300 * 2 ^ 64 - 1 < 300 * 2 ^ 64 ∧ 2 ^ 69 - 1 < 2 ^ 69) ∧ State.reset.bringUp = 1 ∧
    (copyLine (copyKey 0 1024) = 1024 ∧ (cached 1024 1).specs = []) ∧
    (let s := { hosted with snoops := [⟨1024, [0], lineCopy, false, false⟩] }
     s.heldReqs = [] ∧ s.heldHost = [] ∧ s.copies = [] ∧ s.specs = [] ∧ s.snooped 1024 = true ∧ hosted.snooped 1024 = false ∧
      hosted.sweepActive = false ∧ lineCopy.dirty ≠ 0 ∧ (s.snoops.any fun x => x.line == 1024 && x.holders.contains 0) = true) ∧
    (demo.snoops.any fun x => x.line == 1024 && x.holders.contains 0) = false := by
  refine ⟨by decide +kernel, by decide +kernel, by decide +kernel, by decide +kernel, ⟨1024, by decide +kernel, by decide +kernel⟩, by decide +kernel,
    by decide +kernel⟩

def onL (s : State) : State := { s with deviceInfo := 0x4E010001 }
/-- A task image for context 0's queue 0 on a Bilran L, sealed under key 5 with SEQ 9. -/
def sealed9 : List Byte := taskImage 5 6 9 (image [(0, 5)])
def tasked : State := onL { demo with queues := [(9, { someQueue [] with number := 0 })], taskKeys := [⟨0, 7, 0, 5, 6, 8, some 8⟩] }
theorem witness_TrustKeysAndExtents :
    ((hosted.hostPorts.find? 0).isSome ∧ hosted.tdisp.getD 255 .unlocked = .unlocked ∧ (0 : Nat) < 1 ∧ 255 < 256 ∧
      ({ hosted with tdisp := [(255, .error)] } : State).tdisp.getD 255 .unlocked = .error) ∧
    ((demo.ctxs.filter fun x => x.2.function == 0).length = 1 ∧ (demo.ctxs.map Prod.fst).Nodup ∧ demo.specs = [] ∧ demo.copies = []) ∧
    (let s := { mapCtx (fun c => { c with confidential := true }) with hostPorts := [(0, ⟨true, 640, 16, true, true⟩)], tdisp := [(0, .run)] }
     (s.hostPorts.find? 0).any HostPort.ide = true ∧ (ctxOf s).confidential = true ∧ (ctxOf s).killed = false) ∧
    ((hosted.hostPorts.find? 0).any HostPort.ide = false ∧ 2 ^ 32 - 1 < 2 ^ 32) ∧
    (demo.isL = false ∧ (onL demo).isL = true ∧ 65535 < 65536 ∧ (24178688 + 4096 ≤ 24182784) ∧ demo.extents = [] ∧
      ((List.range 4096).all fun i => demo.owner.getD (24178688 + i) 0 == 0) = true) ∧
    (let s := { demo with extents := [(65535, ⟨0, 4096, true, false⟩), (1, ⟨0, 8192, true, true⟩)] }
     (s.extents.find? 65535).any (fun x => !x.released) = true ∧ (s.extents.find? 1).any (fun x => x.released) = true ∧
      s.merges = [] ∧ s.snoops = [] ∧ (s.wgs.all fun w => w.queue.isEmpty) = true) ∧
    ((255, 0) ∉ demo.expReleased ∧ demo.merges = [] ∧ (255, 0) ∈ ({ demo with expReleased := [(255, 0)] } : State).expReleased) ∧
    ((tasked.taskKeys.all fun y => y.key != 4) = true ∧ (tasked.taskKeys.find? fun y => y.key == 5).isSome) ∧
    (sealed9.length = 128 ∧ tasked.isL = true ∧ (tasked.taskKeyOf 0).isSome ∧ (onL demo).taskKeyOf 0 = none ∧
      fieldAt sealed9 96 8 = 9 ∧ taskTag 5 6 9 sealed9 = sealed9.drop 112 ∧ taskTag 5 6 9 (sealed9.set 0 1) ≠ (sealed9.set 0 1).drop 112 ∧
      8 < 9 ∧ tasked.slotOf 0 0 = some 9 ∧ (tasked.queue? 9).isSome) ∧
    ((queued [pkt [] .task]).queue? 9).any (fun q => q.packets.any fun p => p.wait == .task) = true := by
  decide +kernel

/-- demo with page 2 shared-coherent. -/
def shared : State := mapped 0x2010E
/-- A line with holders outside, and a choice that waits for the Transit pair. -/
theorem witness_ErrorsAreContained_waits :
    (let s := { shared with sharers := [(1024, [0])] }
     s.cohFrame (1024 / 512) = true ∧ 1024 * 128 < regionSize ∧ s.sharers.getD 1024 [] ≠ [] ∧ s.snooped 1024 = false ∧
      (s.sharers.map Prod.fst).Nodup ∧ s.copies = []) ∧
    (demo.chosen = [] ∧ (demo.ctxs.all fun x => !x.2.saving) = true ∧ demo.closing = []) ∧
    (let s := { mapCtx (fun c => { c with frozen := true }) with transitStopped := true, chosen := [(0, .resume)] }
     let u : State := { s with transitStopped := false, chosen := [] }
     s.chosen = [(0, .resume)] ∧ u.choiceRefused 0 .resume = false ∧ ((u.choose 0 .resume).ctxs.all fun x => !x.2.saving) = true ∧
      (u.choose 0 .resume).closing = []) := by decide +kernel
theorem witness_ErrorsAreContained :
    (let s := { demo with copies := [(l1Key 0 1024, { lineCopy with dirty := 0 })] }
     s.copies.find? (l1Key 0 1024) = some { lineCopy with dirty := 0 } ∧ 1024 * 128 / regionSize < 300 ∧ s.checkBad 1024 = false ∧
      s.poisoned 1024 = false ∧ demo.copies.find? (l1Key 0 1024) = none) ∧
    (let f : LaneFault := ⟨0, 0x33, 0, false, false, 0⟩
     let s := { demoTeam fun t => { t with pending := [⟨0, 0, [], 0, [], [], 0, 0, 1, false, true, [], [(255, f)], 0, []⟩] } with
       expAttached := [255] }
     s.team? ⟨1, 0, 0, 0⟩ = some s.team ∧ (s.teams.map Team.id).Nodup ∧ s.merges = [] ∧ s.expLost.contains 255 = false ∧
      (s.team.pending.map Pending.far) = [[(255, f)]]) ∧
    ((cached 1024 1).copy? 0 1024).isSome ∧ (demo.copy? 0 1024).isNone ∧ demo.owner.find? (8 / 4) = some (0 + 1) ∧
    (let s := mergeOf demo 131072; s.merges.length = 1 ∧ (s.team? ⟨1, 0, 0, 0⟩).isSome ∧ (s.teams.map Team.id).Nodup ∧ s.specOf s.team = none) ∧
    (demo.timingArmed = [] ∧ ({ demo with timingArmed := [demo.team.id] } : State).timingArmed = [demo.team.id] ∧ 6 ≤ 6 ∧
      demo.queueOf demo.team = false ∧ demo.team.run = .ready ∧ demo.team.pending = [] ∧ demo.team.saved = none) ∧
    (demo.transitStopped = false ∧ demo.lastMismatch = none ∧
      (let s := { demo with timebase := 2100000001, lastMismatch := some 1 }; s.timebase - 1 ≤ 2100000000 ∧ s.deviceFault = false) ∧
      (let s := { demo with timebase := 2100000001, lastMismatch := some 0 }; 2100000000 < s.timebase - 0)) ∧
    (let s := { mapCtx (fun c => { c with watchdog := 1 }) with launches := [someLaunch 2 small], timebase := 2100001 }
     (s.launches.find? fun l => l.id == 5).isSome ∧ s.overdue (someLaunch 2 small) = true ∧ (ctxOf s).watchdog * 2100000 < s.timebase - 0) ∧
    (launching 2 small).overdue (someLaunch 2 small) = false ∧
    (let s := { demo with expAttached := [255] }; s.expAttached.contains 255 = true ∧ s.expLost.contains 255 = false) ∧
    (demo.expAttached.contains 255 = false ∧ (255 : Nat) < 256 ∧ 255 ≤ 255) ∧
    ((ctxOf demo).function = 0 ∧ (ctxOf demo).killed = false) ∧
    (let s := cached (2 ^ 57) 1; (s.hostPorts.find? 0).any (fun h => h.up && !h.ide) = true ∧
      (s.hostPorts.all fun x => x.1 == 0) = true ∧ 1 ≤ 2 ^ 57 * 128 / regionSize ∧ 2 ^ 57 * 128 / regionSize < 300) ∧
    (let s := { demo with hostPorts := [(0, ⟨false, 640, 16, false, false⟩)] }; (s.hostPorts.find? 0).any HostPort.up = false) := by
  decide +kernel

theorem witness_PowerAndBringUp :
    (demo.bringUp ≠ 1 ∧ demo.resetDue = false ∧ State.reset.bringUp = 1 ∧ ({ demo with resetDue := true } : State).resetDue = true) ∧
    (repairFor [0, 1, 2, 3, 4] = none ∧ (repairFor []).isSome ∧ (repairFor [79]).isSome ∧ (repairFor [80, 81, 82, 83]).isSome) ∧
    (79 ≤ 79 ∧ 79 < 80 ∧ demo.clusterPower.getD 79 .running = .running ∧ demo.slotted 79 true = false ∧ demo.copies = [] ∧
      ({ demo with clusterPower := [(79, .off)] } : State).clusterPower.getD 79 .running ≠ .running ∧ demo.slotted 0 true = true) ∧
    ((demo.gangsIn 0).all (fun g => g.phase != .entering && g.spec.isNone && (demo.ctx? g.ctx).all fun c => !c.frozen) = true ∧
      demo.gangsIn 0 ≠ [] ∧ demo.transitStopped = false ∧ ({ demo with transitStopped := true } : State).transitStopped = true) ∧
    ((phased .entering [] holding).gangsIn 0).any (fun g => g.phase == .entering) = true ∧
    ((mapCtx fun c => { c with frozen := true }).gangsIn 0).any (fun g => g.ctx == 0) = true ∧
    (let s := { demo with closing := [79] }; s.closing = [79] ∧ s.gangsIn 79 = [] ∧ s.specs = []) ∧
    (let s := { shared with copies := [(copyKey 79 1024, { lineCopy with dirty := 1 })] }
     s.clusterPower.getD 79 .running = .running ∧ s.slotted 79 true = false ∧ s.specs = [] ∧ s.cohAny 1024 = true ∧ injEn s.injCtl = false) ∧
    State.reset.gangs = [] ∧ State.reset.specs = [] ∧ ((tenant .locked false).partitions.find? 0).isSome := by decide +kernel

/-! ## One instruction at a time: the spec's own worked results

The words are the spec's; the expected values are those it gives beside them, in its tables of worked results. -/

/-- What the instruction with this word leaves of demo, its vector registers (the same in all lanes), its uniform registers and MODE as
given. -/
def ran (w : Nat) (vs : List (Nat × Nat)) (m : Nat := 0) (ss : List (Nat × Nat) := []) : Team :=
  match decodeWord w with
  | .error _ => demo.team
  | .ok i =>
    match exec i (demoTeam fun t => { t with mode := BitVec.ofNat 32 m, v := vs.map fun x => (x.1, List.replicate 32 (BitVec.ofNat 32 x.2)),
                                             s := ss.map fun x => (x.1, BitVec.ofNat 64 x.2) }) with
    | .next s => s.team
    | _ => demo.team
/-- A register's lane 31, and FLAGS. -/
def out (d : Nat) (t : Team) : Nat × Nat := ((t.getV d 31).toNat, t.flags.toNat)
def outS (d : Nat) (t : Team) : Nat := (t.getS d).toNat

-- R316: BFI of 0x5 into all ones, four bits at 4 and at 30.
theorem test_bfi : ((out 2 (ran 0x20085254 [(2, 0xFFFFFFFF), (5, 5), (9, 0x0404)])).1, (out 2 (ran 0x20085254 [(2, 0xFFFFFFFF), (5, 5), (9, 0x041E)])).1) =
    (0xFFFFFF5F, 0x7FFFFFFF) := by decide +kernel
-- R317: BFX of twelve bits at 8, unsigned and signed.
theorem test_bfx : ((out 7 (ran 0x201C3253 [(3, 0xDEADBEEF), (9, 0x0C08)])).1, (out 7 (ran 0x201C3252 [(3, 0xDEADBEEF), (9, 0x0C08)])).1) =
    (0xDBE, 0xFFFFFDBE) := by decide +kernel
-- R325 and R363 (IMULH).
theorem test_clz : (out 3 (ran 0x200C8016 [(8, 0x8000)])).1 = 16 := by decide +kernel
theorem test_imulh : ((out 7 (ran 0x201C5183 [(5, 0xFFFFFFFF), (6, 0xFFFFFFFF)])).1, (out 7 (ran 0x201C5184 [(5, 0xFFFFFFFF), (6, 0xFFFFFFFF)])).1,
    (out 7 (ran 0x201C5183 [(5, 0x80000000), (6, 2)])).1) = (0, 0xFFFFFFFE, 0xFFFFFFFF) := by decide +kernel
-- R356: an INT64 sum carries across the pair.
theorem test_iadd64 : (let t := ran 0x21106200 [(6, 0xFFFFFFFF), (8, 1)]; ((out 4 t).1, (out 5 t).1)) = (0, 1) := by decide +kernel
-- R424 to R426: the uniform results.
theorem test_smulh : (outS 4 (ran 0x30105183 [] 0 [(5, 0x8000000000000000), (6, 2)]), outS 4 (ran 0x33105183 [] 0 [(5, 0x80000000), (6, 2)])) =
    (0xFFFFFFFFFFFFFFFF, 0xFFFFFFFFFFFFFFFF) := by decide +kernel
theorem test_sadd32 : outS 4 (ran 0x33105180 [] 0 [(5, 0x7FFFFFFF), (6, 1)]) = 0xFFFFFFFF80000000 := by decide +kernel
-- R344, R115: an f32 product.
theorem test_fmul : out 6 (ran 0x40184142 [(4, 0x40400000), (5, 0x40000000)]) = (0x40C00000, 0) := by decide +kernel
-- R349: FRINT, the worked row of 2.5 in the five directions.
theorem test_frint_modes : ([0, 1, 2, 3, 4].map fun r => (out 3 (ran (0x400C2008) [(2, 0x40200000)] (128 * r))).1) =
    [0x40000000, 0x40000000, 0x40400000, 0x40000000, 0x40400000] := by decide +kernel
-- R123, R329: FCVT, the worked rows.
theorem test_fcvt : (out 3 (ran 0x420C2001 [(2, 0x3FA40000)]), out 3 (ran 0x420C2004 [(2, 0x3FA40000)]), out 4 (ran 0x42103020 [(3, 0xF3)]),
    out 4 (ran 0x42103020 [(3, 0x80)])) = ((0x3D20, 0), (0x70, 16), (0xC02C0000, 0), (0x7FC00000, 0)) := by decide +kernel
theorem test_fcvt_overflow : (out 3 (ran 0x420C2011 [(2, 0x4780)]), (out 3 (ran 0x420C2011 [(2, 0x4780)] 0x400)).1) =
    ((0x7C00, 20), 0x7BFF) := by decide +kernel
-- R354: I2F of 2^24 + 1, to nearest and up.
theorem test_i2f : (out 2 (ran 0x44080002 [(0, 0x01000001)]), out 2 (ran 0x44080002 [(0, 0x01000001)] 256)) =
    ((0x4B800000, 16), (0x4B800001, 16)) := by decide +kernel
-- R124: the DM8 value line.
def f32 (w : Nat) : FVal := fmtF32.unpack false w
theorem test_dm8 : ([(0, 0x3FA40000), (4, 0x3FA40000), (0, 0x3E99999A)].map fun x => encodeDm8 ⟨x.1, false, false⟩ (f32 x.2) 0) =
    [(0x70, fNX), (0x71, fNX), (0x64, fNX)] := by decide +kernel
theorem test_dm8_scaled : (encodeDm8 ⟨0, false, false⟩ (f32 0x42200000) 3, (encodeDm8 ⟨0, false, false⟩ (f32 0x42200000) 0).1) =
    ((0x77, fNX), 0x80) := by decide +kernel
-- R219: CADD saturates.
theorem test_cadd : saturate (2 ^ 64 - 2) 5 = 2 ^ 64 - 1 := by decide +kernel
-- R60: the worked divergence of a 64-lane team, p1 true in lanes 0 to 9 and 40 to 63: MARK, BRD, SETMODE and JOIN.
def diverged : Team :=
  let s := demoTeam fun t => { t with width := 64, active := 0xFFFFFFFFFFFFFFFF, p := [(1, 0xFFFFFF00000003FF)], s := [(2, 0x80)] }
  match exec (.mark 8) s with
  | .next s => (match exec (.brd false 1 4) s with
    | .next s => (match exec (.setmode 2) s with
      | .next s => s.team
      | _ => demo.team)
    | _ => demo.team)
  | _ => demo.team
theorem test_diverged : (diverged.active.toNat, diverged.mode.toNat, diverged.stack.map fun e => (e.kind, e.mask.toNat, e.mode.toNat)) =
    (0x000000FFFFFFFC00, 0x80, [(.path, 0xFFFFFF00000003FF, 0), (.join, 0xFFFFFFFFFFFFFFFF, 0)]) := by decide +kernel
theorem test_join : (match exec .join { demo with team := diverged } with
    | .next s => (s.team.active.toNat, s.team.mode.toNat, s.team.stack.length, s.team.pc.toNat) | _ => (0, 0, 0, 0)) =
    (0xFFFFFF00000003FF, 0, 1, 65536 + 4 + 16) := by decide +kernel
-- R141 to R143: the worked operand map: B[17][9] swizzled, and B[20][9] padding.
def mapD : BitVec 128 := (0x8C14 : BitVec 64) ++ (0x0000200050080000 : BitVec 64)
theorem test_map : (mapBase mapD, mapRstride mapD, mapCstride mapD, mapOffset mapD 17 9, mapPadding mapD 20 9, mapPadding mapD 17 9) =
    (0x80000, 80, 2, 0x80572, true, false) := by decide +kernel

end Sys2Proof.Tests
end

section
/-!
What a write that reaches a home changes (R256, R274, R283), stated as equations between whole states, so that proofs about events
that write memory need not unfold it.
-/

namespace Sys2Proof.Machine

/-! ## Speculations -/

/-- Where nothing runs speculatively there is nothing to discard (R258). -/
theorem discardSpecs_of_nil {s : State} (h : s.specs = []) (code : Nat) (f : Spec → Bool) : s.discardSpecs code f = s := by
  simp [State.discardSpecs, h]

theorem frameChanged_of_nil {s : State} (h : s.specs = []) (f : Nat) : s.frameChanged f = s := by
  simp [State.frameChanged, discardSpecs_of_nil, h]

theorem homeChanged_of_nil {s : State} (h : s.specs = []) (line : Nat) : s.homeChanged line = s.wake line := by
  have hw : (s.wake line).specs = [] := h
  simp [State.homeChanged, discardSpecs_of_nil, hw]

theorem shootDown_of_nil {s : State} (h : s.specs = []) (ctx : Nat) (p : Nat → Bool) :
    s.shootDown ctx p = { s with tlbs := (s.shootDown ctx p).tlbs } := by
  rw [State.shootDown, discardSpecs_of_nil]
  exact h

/-! ## What a write at a home may change -/

/-- `t` is `s` but for what a merge at a home changes while nothing runs speculatively: memory and its marks, the records
contexts are owed, the injector, and the events that become due. -/
def State.SameButHome (s t : State) : Prop :=
  t = { s with agenda := t.agenda, mem := t.mem, tags := t.tags, poison := t.poison, checkErr := t.checkErr, ctxs := t.ctxs,
               injCtl := t.injCtl, injSeed := t.injSeed }

/-- The same, but for what a discarded speculation takes along besides (R259). -/
def State.SameButSpecs (s t : State) : Prop :=
  t = { s with agenda := t.agenda, mem := t.mem, tags := t.tags, poison := t.poison, checkErr := t.checkErr, ctxs := t.ctxs,
               injCtl := t.injCtl, injSeed := t.injSeed, team := t.team, others := t.others, wgs := t.wgs, gangs := t.gangs,
               merges := t.merges, cores := t.cores, launches := t.launches, specs := t.specs, orreryStat := t.orreryStat,
               owner := t.owner, tlbs := t.tlbs }

theorem State.SameButHome.trans {s t u : State} (h : s.SameButHome t) (h' : t.SameButHome u) : s.SameButHome u := by
  unfold State.SameButHome at *
  calc u = _ := h'
    _ = _ := by rw [h]

theorem State.SameButSpecs.trans {s t u : State} (h : s.SameButSpecs t) (h' : t.SameButSpecs u) : s.SameButSpecs u := by
  unfold State.SameButSpecs at *
  calc u = _ := h'
    _ = _ := by rw [h]

theorem State.SameButHome.wide {s t : State} (h : s.SameButHome t) : s.SameButSpecs t := by
  unfold State.SameButHome at h
  unfold State.SameButSpecs
  rw [h]

/-- What a write that has reached a home leaves of the state around it. -/
structure State.Merged (s t : State) : Prop where
  wide : s.SameButSpecs t
  narrow : s.specs = [] → s.SameButHome t

namespace State.Merged
variable {s t u : State}

theorem of_home (h : s.SameButHome t) : s.Merged t := ⟨h.wide, fun _ => h⟩
theorem refl (s : State) : s.Merged s := of_home rfl
theorem specs_nil (h : s.Merged t) (hs : s.specs = []) : t.specs = [] := by
  rw [h.narrow hs]; exact hs
theorem trans (h : s.Merged t) (h' : t.Merged u) : s.Merged u :=
  ⟨h.wide.trans h'.wide, fun hs => (h.narrow hs).trans (h'.narrow (h.specs_nil hs))⟩
theorem foldl {α : Type} {f : State → α → State} (hf : ∀ (s : State) a, s.Merged (f s a)) (xs : List α) (s : State) :
    s.Merged (xs.foldl f s) :=
  foldl_keeps (P := s.Merged) (fun t a ht => ht.trans (hf t a)) xs (refl s)
theorem copies_eq (h : s.Merged t) : t.copies = s.copies := by rw [h.wide]
end State.Merged

theorem dropGang_wide (s : State) (n : Nat) : s.SameButSpecs (s.dropGang n) := rfl

theorem freeArgs_wide (s : State) (l : Launch) : s.SameButSpecs (s.freeArgs l) := by
  unfold State.freeArgs
  dsimp only
  repeat' split
  all_goals rfl

theorem discardSpec_wide (s : State) (id code : Nat) : s.SameButSpecs (s.discardSpec id code) := by
  unfold State.discardSpec
  split
  · rfl
  · refine State.SameButSpecs.trans (t := List.foldl _ _ _) ?_ rfl
    exact foldl_keeps (P := s.SameButSpecs) (fun t l h => h.trans (freeArgs_wide t l)) _
      (foldl_keeps (P := s.SameButSpecs) (fun t n h => h.trans (dropGang_wide t n)) _ rfl)

theorem discardSpecs_merged (s : State) (code : Nat) (f : Spec → Bool) : s.Merged (s.discardSpecs code f) :=
  ⟨foldl_keeps (P := s.SameButSpecs) (fun t p h => h.trans (discardSpec_wide t p.id code)) _ rfl,
    fun h => by rw [discardSpecs_of_nil h]; rfl⟩

theorem homeChanged_merged (s : State) (line : Nat) : s.Merged (s.homeChanged line) := by
  have hw : s.Merged (s.wake line) := .of_home rfl
  unfold State.homeChanged
  dsimp only
  split
  · exact (hw.trans (discardSpecs_merged _ _ _)).trans (discardSpecs_merged _ _ _)
  · exact hw

theorem failNotice_merged (s : State) (line : Nat) : s.Merged (s.failNotice line) := by
  unfold State.failNotice State.notice
  dsimp only
  split <;> exact .of_home rfl

theorem injected_merged (s : State) (kind ctx : Nat) : s.Merged (s.injected kind ctx).2 := by
  unfold State.injected
  dsimp only
  repeat' split
  all_goals exact .of_home rfl

theorem injectMerge_merged (s : State) (ctx line : Nat) : s.Merged (s.injectMerge ctx line) := by
  have h := fun kind => injected_merged s kind ctx
  unfold State.injectMerge
  split
  · exact h 0
  · dsimp only
    split
    · exact (h 1).trans (.of_home rfl)
    · exact h 1
  · dsimp only
    split
    · exact (h 2).trans (.of_home rfl)
    · exact h 2
  · exact .refl s

end Sys2Proof.Machine
end

section
/-!
A merge at a home (R274 to R276): the state around it, the bytes and the tags after it.
-/

namespace Sys2Proof.Machine

/-- A line's home after what the injector does to it for the contexts whose bytes a copy has (R283). -/
def State.eventsOf (s : State) (line : Nat) (c : Copy) : State :=
  if injEn s.injCtl then c.writers.foldl (fun s x => s.injectMerge x.1 line) s else s

/-- A line's home before written bytes merge into it: then what it held is checked (R275). -/
def State.admitted (s : State) (line : Nat) (c : Copy) (made : Bool) : State :=
  let s := s.eventsOf line c
  if s.checkBad line && !(made && c.dirty == BitVec.allOnes 128) then s.failNotice line else s

/-- The offsets in its line of the bytes a copy has written. -/
def Copy.offsets (c : Copy) : List Nat := (List.range 128).filter fun i => c.dirty.getLsbD i

/-- The written bytes of a copy laid over a line. -/
def State.layBytes (s : State) (line : Nat) (c : Copy) : State :=
  c.offsets.foldl (fun s i => s.writeByte (line * 128 + i) ((c.data >>> (8 * i)).setWidth 8)) s

/-- The granules of a line with a byte that a copy has written. -/
def Copy.granules (c : Copy) : List Nat := (List.range 8).filter fun g => c.offsets.any fun i => i / 16 = g

/-- The tags of those granules. -/
def State.layTags (s : State) (line : Nat) (c : Copy) : State :=
  c.granules.foldl (fun s g => s.setTag (line * 128 + 16 * g) (c.tags.getLsbD g)) s

/-- A line that has been written whole is not poisoned any more (R276). -/
def State.unpoisoned (s : State) (line : Nat) (c : Copy) : State :=
  if c.dirty == BitVec.allOnes 128 then s.setPoison line false else s

theorem homeMerge_eq (s : State) (line : Nat) (c : Copy) (made : Bool) :
    s.homeMerge line c made =
      (((((s.admitted line c made).layBytes line c).layTags line c).unpoisoned line c).makeCheck line).homeChanged line := rfl

/-! ## The state around it -/

theorem eventsOf_merged (s : State) (line : Nat) (c : Copy) : s.Merged (s.eventsOf line c) := by
  unfold State.eventsOf
  split
  · exact .foldl (f := fun s (x : Nat × BitVec 128) => s.injectMerge x.1 line) (fun s x => injectMerge_merged s x.1 line) _ s
  · exact .refl s

theorem admitted_merged (s : State) (line : Nat) (c : Copy) (made : Bool) : s.Merged (s.admitted line c made) := by
  have h := eventsOf_merged s line c
  unfold State.admitted
  dsimp only
  split
  · exact h.trans (failNotice_merged _ _)
  · exact h

theorem layBytes_merged (s : State) (line : Nat) (c : Copy) : s.Merged (s.layBytes line c) :=
  .foldl (f := fun s _ => s.writeByte _ _) (fun _ _ => .of_home rfl) _ s

theorem layTags_merged (s : State) (line : Nat) (c : Copy) : s.Merged (s.layTags line c) :=
  .foldl (f := fun s _ => s.setTag _ _) (fun _ _ => .of_home rfl) _ s

theorem unpoisoned_merged (s : State) (line : Nat) (c : Copy) : s.Merged (s.unpoisoned line c) := by
  unfold State.unpoisoned
  split <;> exact .of_home rfl

theorem makeCheck_merged (s : State) (line : Nat) : s.Merged (s.makeCheck line) := .of_home rfl

/-- A merge at a home leaves the state around it as `State.Merged` says. -/
theorem homeMerge_merged (s : State) (line : Nat) (c : Copy) (made : Bool) : s.Merged (s.homeMerge line c made) := by
  rw [homeMerge_eq]
  exact ((((admitted_merged s line c made).trans (layBytes_merged _ line c)).trans (layTags_merged _ line c)).trans
    ((unpoisoned_merged _ line c).trans (makeCheck_merged _ line))).trans (homeChanged_merged _ line)

theorem homeWrite_merged (s : State) (key : Nat) (bs : List Byte) : s.Merged (s.homeWrite key bs) :=
  .foldl (fun s line => homeMerge_merged s line _ true) _ s

/-! ## Bytes -/

theorem readByte_foldl_writeByte (xs : List Nat) (s : State) (k : Nat) (f : Nat → Byte) (a : Nat) :
    (xs.foldl (fun s i => s.writeByte (k + i) (f i)) s).readByte a =
      if k ≤ a ∧ a - k ∈ xs then f (a - k) else s.readByte a := by
  induction xs generalizing s with
  | nil => simp
  | cons x xs ih =>
    rw [List.foldl_cons, ih]
    by_cases hx : a = k + x
    · subst hx
      simp
    · have hne : ¬ (k ≤ a ∧ a - k = x) := by omega
      rw [readByte_writeByte_ne _ _ hx]
      simp only [List.mem_cons]
      by_cases hk : k ≤ a
      · simp_all
      · simp [hk]

theorem mem_offsets {c : Copy} {i : Nat} : i ∈ c.offsets ↔ i < 128 ∧ c.dirty.getLsbD i = true := by
  simp [Copy.offsets]

/-- The bytes and the tags at the homes are those of another state. -/
def State.SameBytes (s t : State) : Prop := t.mem = s.mem ∧ t.tags = s.tags

theorem failNotice_sameBytes (s : State) (line : Nat) : s.SameBytes (s.failNotice line) := by
  unfold State.failNotice State.notice
  dsimp only
  split <;> exact ⟨rfl, rfl⟩

theorem injected_sameBytes (s : State) (kind ctx : Nat) : s.SameBytes (s.injected kind ctx).2 := by
  unfold State.injected
  dsimp only
  repeat' split
  all_goals exact ⟨rfl, rfl⟩

theorem injectMerge_sameBytes (s : State) (ctx line : Nat) : s.SameBytes (s.injectMerge ctx line) := by
  have h := fun kind => injected_sameBytes s kind ctx
  unfold State.injectMerge
  split
  · exact h 0
  · dsimp only
    split <;> exact h 1
  · dsimp only
    split <;> exact h 2
  · exact ⟨rfl, rfl⟩

theorem admitted_sameBytes (s : State) (line : Nat) (c : Copy) (made : Bool) : s.SameBytes (s.admitted line c made) := by
  have trans : ∀ {s t u : State}, s.SameBytes t → t.SameBytes u → s.SameBytes u :=
    fun h h' => ⟨h'.1.trans h.1, h'.2.trans h.2⟩
  have h : s.SameBytes (s.eventsOf line c) := by
    unfold State.eventsOf
    split
    · exact foldl_keeps (P := s.SameBytes) (fun t x ht => trans ht (injectMerge_sameBytes t x.1 line)) _ ⟨rfl, rfl⟩
    · exact ⟨rfl, rfl⟩
  unfold State.admitted
  dsimp only
  split
  · exact trans h (failNotice_sameBytes _ _)
  · exact h

/-- Memory and tags after a merge: nothing that follows the bytes and the tags changes them. -/
theorem homeMerge_sameBytes {s : State} (hs : s.specs = []) (line : Nat) (c : Copy) (made : Bool) :
    (((s.admitted line c made).layBytes line c).layTags line c).SameBytes (s.homeMerge line c made) := by
  have hl := (((admitted_merged s line c made).trans (layBytes_merged _ line c)).trans (layTags_merged _ line c)).trans
    ((unpoisoned_merged _ line c).trans (makeCheck_merged _ line))
  rw [homeMerge_eq, homeChanged_of_nil (hl.specs_nil hs)]
  unfold State.unpoisoned
  split <;> exact ⟨rfl, rfl⟩

theorem mem_layTags (s : State) (line : Nat) (c : Copy) : (s.layTags line c).mem = s.mem :=
  foldl_keeps (P := fun (t : State) => t.mem = s.mem) (f := fun t _ => t.setTag _ _) (fun _ _ h => h) _ rfl

/-- The byte at a place after a merge: the copy's where the copy has written it. -/
theorem readByte_homeMerge {s : State} (hs : s.specs = []) (line : Nat) (c : Copy) (made : Bool) (a : Nat) :
    (s.homeMerge line c made).readByte a =
      if a / 128 = line ∧ c.dirty.getLsbD (a % 128) = true then (c.data >>> (8 * (a % 128))).setWidth 8
      else s.readByte a := by
  have hm : (s.homeMerge line c made).mem = ((s.admitted line c made).layBytes line c).mem :=
    (homeMerge_sameBytes hs line c made).1.trans (mem_layTags _ _ _)
  have ha : (s.admitted line c made).readByte a = s.readByte a := by
    rw [State.readByte, (admitted_sameBytes s line c made).1]; rfl
  rw [State.readByte, hm]
  change ((s.admitted line c made).layBytes line c).readByte a = _
  rw [State.layBytes, readByte_foldl_writeByte _ _ _ fun i => (c.data >>> (8 * i)).setWidth 8, ha]
  simp only [mem_offsets]
  by_cases hl : a / 128 = line
  · have : a - line * 128 = a % 128 ∧ line * 128 ≤ a ∧ a % 128 < 128 := by omega
    simp [this, hl]
  · have : ¬ (line * 128 ≤ a ∧ a - line * 128 < 128) := by omega
    simp only [hl, false_and, if_false]
    rw [if_neg fun h => this ⟨h.1, h.2.1⟩]

/-! ## Tags -/

theorem tagAt_setTag (s : State) (k : Nat) (b : Bool) (a : Nat) :
    (s.setTag k b).tagAt a = if a / 16 = k / 16 then b && regionTagged (a / 16 * 16) else s.tagAt a := by
  simp only [State.tagAt, State.setTag, SMap.getD_put]
  split <;> simp_all

theorem tagAt_foldl_setTag (xs : List Nat) (s : State) (line : Nat) (f : Nat → Bool) (a : Nat) :
    (xs.foldl (fun s g => s.setTag (line * 128 + 16 * g) (f g)) s).tagAt a =
      if 8 * line ≤ a / 16 ∧ a / 16 - 8 * line ∈ xs then f (a / 16 - 8 * line) && regionTagged (a / 16 * 16)
      else s.tagAt a := by
  induction xs generalizing s with
  | nil => simp
  | cons x xs ih =>
    rw [List.foldl_cons, ih, tagAt_setTag, show (line * 128 + 16 * x) / 16 = 8 * line + x by omega]
    by_cases hx : a / 16 = 8 * line + x
    · simp [hx]
    · have hne : ¬ (8 * line ≤ a / 16 ∧ a / 16 - 8 * line = x) := by omega
      simp only [List.mem_cons, if_neg hx]
      by_cases hk : 8 * line ≤ a / 16
      · simp_all
      · simp [hk]

theorem mem_granules {c : Copy} {g : Nat} : g ∈ c.granules ↔ g < 8 ∧ ∃ i ∈ c.offsets, i / 16 = g := by
  simp [Copy.granules]

theorem tags_layBytes (s : State) (line : Nat) (c : Copy) : (s.layBytes line c).tags = s.tags :=
  foldl_keeps (P := fun (t : State) => t.tags = s.tags) (f := fun t _ => t.writeByte _ _) (fun _ _ h => h) _ rfl

/-- The tag of a granule after a merge: the copy's where the copy has written a byte of the granule. -/
theorem tagAt_homeMerge {s : State} (hs : s.specs = []) (line : Nat) (c : Copy) (made : Bool) (a : Nat) :
    (s.homeMerge line c made).tagAt a =
      if a / 128 = line ∧ a % 128 / 16 ∈ c.granules then c.tags.getLsbD (a % 128 / 16) && regionTagged (a / 16 * 16)
      else s.tagAt a := by
  have hb : ((s.admitted line c made).layBytes line c).tagAt a = s.tagAt a := by
    rw [State.tagAt, tags_layBytes, (admitted_sameBytes s line c made).2]; rfl
  rw [State.tagAt, (homeMerge_sameBytes hs line c made).2]
  change (((s.admitted line c made).layBytes line c).layTags line c).tagAt a = _
  rw [State.layTags, tagAt_foldl_setTag _ _ _ fun g => c.tags.getLsbD g, hb]
  by_cases hl : a / 128 = line
  · have : a / 16 - 8 * line = a % 128 / 16 ∧ 8 * line ≤ a / 16 := by omega
    simp [this, hl]
  · have : ¬ (8 * line ≤ a / 16 ∧ a / 16 - 8 * line < 8) := by omega
    simp only [hl, false_and, if_false]
    rw [if_neg fun h => this ⟨h.1, (mem_granules.1 h.2).1⟩]

end Sys2Proof.Machine
end

section
/-!
Cached copies (R25, R28, R179): the state around a write-back, which copies an eviction leaves, and which are clean after a
write-back.
-/

namespace Sys2Proof.Machine

/-! ## The state around it -/

/-- `t` is `s` but for the cached copies and what merges at homes change. -/
def State.Cached (s t : State) : Prop := ({ s with copies := t.copies } : State).Merged t

namespace State.Cached
variable {s t u : State}

theorem of_merged (h : s.Merged t) : s.Cached t := by
  unfold State.Cached
  rw [h.copies_eq]
  exact h
theorem refl (s : State) : s.Cached s := of_merged (.refl s)
theorem of_copies (s : State) (m : SMap Copy) : s.Cached { s with copies := m } := Merged.refl _
theorem trans (h : s.Cached t) (h' : t.Cached u) : s.Cached u := by
  have shift : ({ s with copies := u.copies } : State).Merged { t with copies := u.copies } := by
    constructor
    · have := h.wide
      unfold State.SameButSpecs at *
      rw [this]
    · intro hs
      have := h.narrow hs
      unfold State.SameButHome at *
      rw [this]
  exact shift.trans h'
theorem foldl {α : Type} {f : State → α → State} (hf : ∀ (s : State) a, s.Cached (f s a)) (xs : List α) (s : State) :
    s.Cached (xs.foldl f s) :=
  foldl_keeps (P := s.Cached) (fun t a ht => ht.trans (hf t a)) xs (refl s)
/-- With nothing running speculatively, only memory, its marks, the injector, owed records and due events differ besides. -/
theorem narrow (h : s.Cached t) (hs : s.specs = []) : ({ s with copies := t.copies } : State).SameButHome t :=
  Merged.narrow h hs
end State.Cached

theorem toCluster_cached (s : State) (cl line writer : Nat) (c : Copy) : s.Cached (s.toCluster cl line writer c) := by
  unfold State.toCluster
  dsimp only
  split
  · exact .of_copies s _
  · exact (State.Cached.of_copies s _).trans (.of_merged (homeMerge_merged _ _ _ _))

theorem writeBack_cached (s : State) (k : Nat) : s.Cached (s.writeBack k) := by
  unfold State.writeBack
  split
  · exact .refl s
  · split
    · exact .refl s
    · dsimp only
      split
      · exact (State.Cached.of_copies s _).trans (toCluster_cached _ _ _ _ _)
      · exact (State.Cached.of_copies s _).trans (.of_merged (homeMerge_merged _ _ _ _))

theorem evict_cached (s : State) (k : Nat) : s.Cached (s.evict k) :=
  (writeBack_cached s k).trans (.of_copies _ _)

theorem writeBackAll_cached (s : State) (p : Nat → Bool) : s.Cached (s.writeBackAll p) :=
  (State.Cached.foldl writeBack_cached _ s).trans (.foldl writeBack_cached _ _)

theorem evictAll_cached (s : State) (p : Nat → Bool) : s.Cached (s.evictAll p) :=
  (State.Cached.foldl evict_cached _ s).trans (.foldl evict_cached _ _)

theorem writeBackAll_of_nil {s : State} (h : s.copies = []) (p : Nat → Bool) : s.writeBackAll p = s := by
  simp [State.writeBackAll, State.copyKeys, h]

theorem evictAll_of_nil {s : State} (h : s.copies = []) (p : Nat → Bool) : s.evictAll p = s := by
  simp [State.evictAll, State.copyKeys, h]

/-! ## Keys of copies -/

theorem copyHolder_copyKey {cl line : Nat} (h : line < 2 ^ 128) : copyHolder (copyKey cl line) = cl := by
  unfold copyHolder copyKey
  omega

theorem copyLine_copyKey {cl line : Nat} (h : line < 2 ^ 128) : copyLine (copyKey cl line) = line := by
  unfold copyLine copyKey
  omega

theorem copyLine_lt (k : Nat) : copyLine k < 2 ^ 128 := Nat.mod_lt _ (by decide)

/-- The key of a cluster cache's copy is that of no L1's. -/
theorem isL1_copyKey {cl line : Nat} (hc : cl < 80) (hl : line < 2 ^ 128) : isL1 (copyKey cl line) = false := by
  simp only [isL1, copyHolder_copyKey hl, decide_eq_false_iff_not]
  omega

theorem copyCluster_copyKey {cl line : Nat} (hc : cl < 80) (hl : line < 2 ^ 128) : copyCluster (copyKey cl line) = cl := by
  simp [copyCluster, isL1_copyKey hc hl, copyHolder_copyKey hl]

/-- The keys under which copies are held. -/
def State.copyNames (s : State) : List Nat := s.copies.map Prod.fst

theorem mem_copyKeys {s : State} {b : Bool} {p : Nat → Bool} {k : Nat} :
    k ∈ s.copyKeys b p ↔ k ∈ s.copyNames ∧ isL1 k = b ∧ p k = true := by
  simp [State.copyKeys, State.copyNames]

theorem mem_keys_of_find {α : Type} {m : SMap α} {k : Nat} {x : α} (h : m.find? k = some x) : k ∈ m.map Prod.fst := by
  induction m with
  | nil => simp at h
  | cons hd tl ih =>
    rw [SMap.find_cons] at h
    split at h
    · simp [*]
    · simp [ih h]

theorem mem_keys_insert {α : Type} {m : SMap α} {n k : Nat} {x : α} (h : k ∈ (m.insert n x).map Prod.fst) :
    k = n ∨ k ∈ m.map Prod.fst := by
  obtain ⟨y, hy, rfl⟩ := List.mem_map.1 h
  exact (SMap.mem_insert hy).imp (fun e => by rw [e]) (fun hm => List.mem_map_of_mem hm)

/-- The copies that hear of a write by a core of their cluster (R27). -/
def State.heard (s : State) (cl line writer : Nat) (m : BitVec 128) : SMap Copy :=
  s.copies.map fun (x : Nat × Copy) =>
    if isL1 x.1 && x.1 != writer && copyLine x.1 == line && copyCluster x.1 == cl then (x.1, x.2.snoop m) else x

theorem toCluster_copies (s : State) (cl line writer : Nat) (c : Copy) :
    (s.toCluster cl line writer c).copies = s.heard cl line writer c.dirty ∨
      cl < 80 ∧ ∃ x, (s.toCluster cl line writer c).copies = (s.heard cl line writer c.dirty).insert (copyKey cl line) x := by
  unfold State.toCluster
  dsimp only
  split
  · rename_i h
    have hc : cl < 80 := by
      simp only [State.caches, Bool.and_eq_true, decide_eq_true_eq] at h
      exact h.1
    exact .inr ⟨hc, _, rfl⟩
  · exact .inl (homeMerge_merged _ _ _ _).copies_eq

theorem keys_heard (s : State) (cl line writer : Nat) (m : BitVec 128) :
    (s.heard cl line writer m).map Prod.fst = s.copyNames := by
  simp only [State.heard, State.copyNames, List.map_map]
  refine List.map_congr_left fun x _ => ?_
  dsimp only [Function.comp]
  split <;> rfl

/-- What a write-back leaves of the copies: those there were, one of them clean, and a cluster's copy of an L1's line. -/
theorem mem_copyNames_writeBack {s : State} {k x : Nat} (h : x ∈ (s.writeBack k).copyNames) :
    x ∈ s.copyNames ∨ isL1 k = true ∧ copyCluster k < 80 ∧ x = copyKey (copyCluster k) (copyLine k) := by
  unfold State.writeBack at h
  split at h
  · exact .inl h
  · rename_i c hc
    have hk : k ∈ s.copyNames := mem_keys_of_find hc
    have old : ∀ {y : Copy}, x ∈ (s.copies.insert k y).map Prod.fst → x ∈ s.copyNames :=
      fun hy => (mem_keys_insert hy).elim (fun e => e ▸ hk) id
    split at h
    · exact .inl h
    · dsimp only at h
      split at h
      · rename_i hl
        rcases toCluster_copies _ (copyCluster k) (copyLine k) k c with he | ⟨hlt, y, he⟩ <;>
          rw [State.copyNames, he] at h
        · rw [keys_heard] at h
          exact .inl (old h)
        · rcases mem_keys_insert h with e | h
          · exact .inr ⟨hl, hlt, e⟩
          · rw [keys_heard] at h
            exact .inl (old h)
      · rw [State.copyNames, (homeMerge_merged _ _ _ _).copies_eq] at h
        exact .inl (old h)

theorem mem_copyNames_evict {s : State} {k x : Nat} (h : x ∈ (s.evict k).copyNames) :
    x ≠ k ∧ (x ∈ s.copyNames ∨ isL1 k = true ∧ copyCluster k < 80 ∧ x = copyKey (copyCluster k) (copyLine k)) := by
  simp only [State.copyNames, State.evict, State.dropCopy, SMap.erase, List.mem_map, List.mem_filter] at h
  obtain ⟨y, ⟨hy, hne⟩, rfl⟩ := h
  exact ⟨by simpa using hne, mem_copyNames_writeBack (List.mem_map_of_mem hy)⟩

/-- Evicting copies of one level: none of them is left among the copies of that level, or of any level for cluster caches. -/
theorem mem_copyNames_foldl_evict {b : Bool} {ks : List Nat} {s : State} {x : Nat} (hks : ∀ k ∈ ks, isL1 k = b)
    (hx : b = true → isL1 x = true) (h : x ∈ (ks.foldl State.evict s).copyNames) : x ∈ s.copyNames ∧ x ∉ ks := by
  induction ks generalizing s with
  | nil => exact ⟨h, List.not_mem_nil⟩
  | cons k ks ih =>
    obtain ⟨h, hn⟩ := ih (fun k hk => hks k (List.mem_cons_of_mem _ hk)) h
    obtain ⟨hne, h⟩ := mem_copyNames_evict h
    have hk := hks k List.mem_cons_self
    refine ⟨h.resolve_right fun ⟨hl, hc, e⟩ => ?_, by simp [hne, hn]⟩
    have := hx (hk ▸ hl)
    rw [e, isL1_copyKey hc (copyLine_lt k)] at this
    exact Bool.noConfusion this

/-- An eviction leaves no copy it was asked to evict: what the L1s pass on to their cluster's cache goes home after them. -/
theorem evictAll_copyNames {s : State} {p : Nat → Bool} {x : Nat} (h : x ∈ (s.evictAll p).copyNames) : p x = false := by
  obtain ⟨h1, hn1⟩ := mem_copyNames_foldl_evict (b := false) (fun k hk => (mem_copyKeys.1 hk).2.1) (fun e => by cases e) h
  by_contra hp
  rw [Bool.not_eq_false] at hp
  cases hl : isL1 x with
  | false => exact hn1 (mem_copyKeys.2 ⟨h1, hl, hp⟩)
  | true =>
    obtain ⟨h2, hn2⟩ := mem_copyNames_foldl_evict (b := true) (fun k hk => (mem_copyKeys.1 hk).2.1) (fun _ => hl) h1
    exact hn2 (mem_copyKeys.2 ⟨h2, hl, hp⟩)

theorem evictAll_true_copies (s : State) : (s.evictAll fun _ => true).copies = [] := by
  refine List.eq_nil_iff_forall_not_mem.2 fun x hx => ?_
  have : true = false := evictAll_copyNames (p := fun _ => true) (List.mem_map_of_mem (f := Prod.fst) hx)
  cases this

/-! ## Clean copies -/

/-- What copy `k`, if there is one, has written has been passed on. -/
def State.cleanAt (s : State) (k : Nat) : Prop := ∀ c, s.copies.find? k = some c → c.dirty = 0

theorem cleanAt_of_not_mem {s : State} {k : Nat} (h : k ∉ s.copyNames) : s.cleanAt k :=
  fun _ hc => absurd (mem_keys_of_find hc) h

/-- Hearing of a write changes no byte a copy has written itself. -/
theorem find_heard (s : State) (cl line writer : Nat) (m : BitVec 128) {x : Nat} {c : Copy}
    (h : (s.heard cl line writer m).find? x = some c) : ∃ c', s.copies.find? x = some c' ∧ c.dirty = c'.dirty := by
  unfold State.heard at h
  generalize s.copies = m' at h ⊢
  induction m' with
  | nil => simp at h
  | cons hd tl ih =>
    obtain ⟨j, y⟩ := hd
    rw [List.map_cons] at h
    by_cases hj : x = j
    · refine ⟨y, by rw [SMap.find_cons, if_pos hj], ?_⟩
      split at h <;> (rw [SMap.find_cons, if_pos hj] at h; cases h; rfl)
    · obtain ⟨c', hc', e⟩ := ih (by split at h <;> rwa [SMap.find_cons, if_neg hj] at h)
      exact ⟨c', by rwa [SMap.find_cons, if_neg hj], e⟩

/-- A write-back leaves its copy clean, and clean copies of an L1 so; a cluster cache's leaves every clean copy so. -/
theorem cleanAt_writeBack {s : State} {k x : Nat} (hl : isL1 k = true → isL1 x = true) (h : x = k ∨ s.cleanAt x) :
    (s.writeBack k).cleanAt x := by
  unfold State.writeBack
  split
  · rename_i hn
    rcases h with rfl | h
    · exact fun c hc => by rw [hn] at hc; cases hc
    · exact h
  · rename_i c hc
    split
    · rename_i hd
      rcases h with rfl | h
      · exact fun c' hc' => by rw [hc] at hc'; cases hc'; exact hd
      · exact h
    · have inserted : ∀ c', (s.copies.insert k { c with dirty := 0, writers := [] }).find? x = some c' → c'.dirty = 0 := by
        intro c' hc'
        by_cases e : x = k
        · rw [e, SMap.find_insert_self] at hc'
          cases hc'; rfl
        · rw [SMap.find_insert_of_ne _ _ e] at hc'
          exact h.resolve_left e c' hc'
      dsimp only
      split
      · rename_i hk
        intro c' hc'
        rcases toCluster_copies _ (copyCluster k) (copyLine k) k c with he | ⟨hlt, y, he⟩ <;> rw [he] at hc'
        · obtain ⟨d, hd, e⟩ := find_heard _ _ _ _ _ hc'
          rw [e]; exact inserted d hd
        · have hx : x ≠ copyKey (copyCluster k) (copyLine k) := fun e => by
            have := hl hk
            rw [e, isL1_copyKey hlt (copyLine_lt k)] at this
            cases this
          rw [SMap.find_insert_of_ne _ _ hx] at hc'
          obtain ⟨d, hd, e⟩ := find_heard _ _ _ _ _ hc'
          rw [e]; exact inserted d hd
      · intro c' hc'
        rw [(homeMerge_merged _ _ _ _).copies_eq] at hc'
        exact inserted c' hc'

theorem cleanAt_foldl_writeBack {b : Bool} {ks : List Nat} {s : State} {x : Nat} (hks : ∀ k ∈ ks, isL1 k = b)
    (hx : b = true → isL1 x = true) (h : x ∈ ks ∨ s.cleanAt x) : (ks.foldl State.writeBack s).cleanAt x := by
  induction ks generalizing s with
  | nil => exact h.resolve_left List.not_mem_nil
  | cons k ks ih =>
    refine ih (fun k hk => hks k (List.mem_cons_of_mem _ hk)) ?_
    have step : x = k ∨ s.cleanAt x → (s.writeBack k).cleanAt x :=
      cleanAt_writeBack fun hl => hx (hks k List.mem_cons_self ▸ hl)
    rcases h with h | h
    · exact (List.mem_cons.1 h).elim (fun e => .inr (step (.inl e))) .inl
    · exact .inr (step (.inr h))

/-- A write-back of a set of copies leaves each of them clean, those that L1s passed on to their cluster's cache too. -/
theorem cleanAt_writeBackAll {s : State} {p : Nat → Bool} {x : Nat} (hp : p x = true) : (s.writeBackAll p).cleanAt x := by
  refine cleanAt_foldl_writeBack (b := false) (fun k hk => (mem_copyKeys.1 hk).2.1) (fun e => by cases e) ?_
  cases hl : isL1 x with
  | false =>
    by_cases hm : x ∈ State.copyNames ((s.copyKeys true p).foldl State.writeBack s)
    · exact .inl (mem_copyKeys.2 ⟨hm, hl, hp⟩)
    · exact .inr (cleanAt_of_not_mem hm)
  | true =>
    refine .inr (cleanAt_foldl_writeBack (b := true) (fun k hk => (mem_copyKeys.1 hk).2.1) (fun _ => hl) ?_)
    by_cases hm : x ∈ s.copyNames
    · exact .inl (mem_copyKeys.2 ⟨hm, hl, hp⟩)
    · exact .inr (cleanAt_of_not_mem hm)

end Sys2Proof.Machine
end

section
/-!
Bring-up and warm reset (R18 to R20, R284, R308, R309).
-/

namespace Sys2Proof.Machine

theorem find_map_self {α : Type} (xs : List Nat) (f : Nat → α) (k : Nat) :
    SMap.find? (xs.map fun i => (i, f i)) k = if k ∈ xs then some (f k) else none := by
  induction xs with
  | nil => rfl
  | cons x xs ih =>
    rw [List.map_cons, SMap.find_cons, ih]
    by_cases h : k = x <;> simp [h]

/-- Setting every entry of a list to one value. -/
theorem getD_foldl_put {α : Type} [DecidableEq α] (d e y : α) (xs : List Nat) (m : SMap α) (k : Nat) :
    (xs.foldl (fun m x => SMap.put d m x y) m).getD k e =
      if k ∈ xs then (if y = d then e else y) else m.getD k e := by
  induction xs generalizing m with
  | nil => simp
  | cons x xs ih =>
    rw [List.foldl_cons, ih]
    by_cases hx : k = x
    · subst hx
      by_cases hy : y = d
      · simp [SMap.put, SMap.getD, hy]
      · simp [SMap.put, SMap.getD, hy]
    · simp [hx, SMap.getD_put_of_ne]

/-! ## Self-test bits -/

/-- A sum of distinct powers of two: the bits it has. -/
theorem foldl_bits (f : Nat → Bool) (n : Nat) :
    let b := (List.range n).foldl (fun a i => if f i then a else a + 2 ^ i) 0
    b < 2 ^ n ∧ ∀ j, b.testBit j = (decide (j < n) && !f j) := by
  induction n with
  | zero => simp
  | succ n ih =>
    dsimp only at ih ⊢
    obtain ⟨hlt, hbit⟩ := ih
    rw [List.range_succ, List.foldl_append, List.foldl_cons, List.foldl_nil]
    generalize (List.range n).foldl (fun a i => if f i then a else a + 2 ^ i) 0 = b at hlt hbit ⊢
    have hp : 2 ^ (n + 1) = 2 ^ n + 2 ^ n := by omega
    cases hf : f n with
    | true =>
      refine ⟨by simp; omega, fun j => ?_⟩
      rw [if_pos rfl, hbit]
      by_cases hj : j = n
      · simp [hj, hf]
      · have : j < n + 1 ↔ j < n := by omega
        simp [this]
    | false =>
      refine ⟨by simp; omega, fun j => ?_⟩
      rw [if_neg (by decide), Nat.add_comm]
      by_cases hj : j = n
      · subst hj
        rw [Nat.testBit_two_pow_add_eq, hbit]
        simp [hf]
      · rcases Nat.lt_or_gt_of_ne hj with h | h
        · rw [Nat.testBit_two_pow_add_gt h, hbit]
          simp [h, Nat.lt_succ_of_lt h]
        · rw [Nat.testBit_lt_two_pow (by have := Nat.pow_le_pow_right (n := 2) (by decide) h; omega)]
          have : ¬ j < n + 1 := by omega
          simp [this]

theorem getLsbD_passBits (failed : List Nat) (homes : Nat) {i : Nat} (hi : i < 84) :
    ((passBits failed homes).getD (i / 64) 0).getLsbD (i % 64) = !failed.contains i := by
  have key : ∀ lo n j, j < n → n ≤ 64 →
      (BitVec.ofNat 64 ((List.range n).foldl (fun a i => if failed.contains (lo + i) then a else a + 2 ^ i) 0)).getLsbD j =
        !failed.contains (lo + j) := by
    intro lo n j hj hn
    rw [BitVec.getLsbD_ofNat, (foldl_bits (fun i => failed.contains (lo + i)) n).2]
    have : j < 64 := by omega
    simp [hj, this]
  unfold passBits
  dsimp only
  rw [SMap.getD_put_of_ne _ _ _ _ (by omega)]
  by_cases h : i < 64
  · rw [show i / 64 = 0 by omega, show i % 64 = i by omega, SMap.getD_put_of_ne _ _ _ _ (by decide), SMap.getD_put_self,
      key 0 64 i h (by decide), Nat.zero_add]
  · rw [show i / 64 = 1 by omega, SMap.getD_put_self, key 64 20 (i % 64) (by omega) (by decide), show 64 + i % 64 = i by omega]

theorem getD_passBits_homes (failed : List Nat) (homes : Nat) : (passBits failed homes).getD 2 0 = BitVec.ofNat 64 homes :=
  SMap.getD_put_self _ _ _ _

/-! ## Links -/

theorem getD_mod_mem {α : Type} (xs : List α) (d : α) (n : Nat) (h : 0 < xs.length) : xs.getD (n % xs.length) d ∈ xs := by
  rw [List.getD_eq_getElem _ _ (Nat.mod_lt _ h)]
  exact List.getElem_mem _

theorem trainPorts_hostPort (s : State) {k : Nat} (hk : k < 2) :
    ∃ h, s.trainPorts.hostPorts.find? k = some h ∧ h.up = true ∧ h.rate ∈ [25, 50, 80, 160, 320, 640] ∧ h.width ∈ [4, 8, 16] ∧
      h.ide = false := by
  obtain rfl | rfl : k = 0 ∨ k = 1 := by omega
  all_goals exact ⟨_, rfl, rfl, getD_mod_mem _ _ _ (by decide), getD_mod_mem _ _ _ (by decide), rfl⟩

theorem trainFabric_mem {s : State} {domain : Nat} {x : Nat × FabPort} (h : x ∈ s.trainFabric domain) :
    x.2.up = true ∧ x.2.keyed = true := by
  unfold State.trainFabric at h
  split at h
  · cases h
  · simp only [List.mem_filterMap] at h
    obtain ⟨k, -, h⟩ := h
    split at h
    · cases h
    · cases h; exact ⟨rfl, rfl⟩

/-! ## Bring-up -/

/-- The logical clusters' places, as a map. -/
theorem getD_mapWords (fix : List (Nat × Nat)) {i : Nat} (hi : i < 80) :
    SMap.getD ((List.range 80).map fun i => (i, mapWord fix i)) i 0 = mapWord fix i := by
  rw [SMap.getD, find_map_self, if_pos (List.mem_range.2 hi), Option.getD_some]

theorem mem_tableFrames {fs : List Nat} {p : Nat} (h : p ∈ fs.flatMap fun f => (List.range 4).map fun i => 4 * f + i) :
    p / 4 ∈ fs := by
  obtain ⟨f, hf, hp⟩ := List.mem_flatMap.1 h
  obtain ⟨i, hi, rfl⟩ := List.mem_map.1 hp
  have := List.mem_range.1 hi
  rwa [show (4 * f + i) / 4 = f by omega]

theorem execBringUp_idle {s : State} (h : s.bringUp ≠ 1) (hr : s.resetDue = false) (ok : Bool) (failed : List Nat)
    (homes mem : Bool) : exec (.bringUp ok failed homes mem) s = .next s := by
  change execBringUp ok failed homes mem s = _
  rw [execBringUp, if_pos (by simp [h, hr])]

section
variable {s : State} (h : s.bringUp = 1 ∨ s.resetDue = true)
include h

theorem bringUp_due : ¬ (s.bringUp ≠ 1 ∧ (!s.resetDue) = true) := by
  rcases h with h | h <;> simp [h]

theorem execBringUp_unsigned (failed : List Nat) (homes mem : Bool) :
    exec (.bringUp false failed homes mem) s = .next { s.warmReset with bringUp := 2 } := by
  change execBringUp false failed homes mem s = _
  rw [execBringUp, if_neg (bringUp_due h)]
  rfl

theorem execBringUp_unrepaired {failed : List Nat} (hf : repairFor failed = none) (homes mem : Bool) :
    ∃ t, exec (.bringUp true failed homes mem) s = .next t ∧ t.bringUp = 3 := by
  change ∃ t, execBringUp true failed homes mem s = _ ∧ _
  rw [execBringUp, if_neg (bringUp_due h)]
  simp only [hf]
  exact ⟨_, rfl, rfl⟩

theorem execBringUp_repaired {failed : List Nat} {fix : List (Nat × Nat)} (hf : repairFor failed = some fix) (homes mem : Bool) :
    ∃ t, exec (.bringUp true failed homes mem) s = .next t ∧
        t.bringUp = (if homes then (if mem then 0 else 5) else 4) ∧ t.mem = s.warmReset.mem ∧ t.ctxs = [] ∧ t.gangs = [] ∧
        (∀ i, i < 80 → t.clusterMap.getD i 0 = match fix.find? fun x => x.1 == i with
          | some x => BitVec.ofNat 32 (2 ^ 31 + 80 + x.2)
          | none => BitVec.ofNat 32 i) ∧
        (∀ i, i < 84 → (t.stestPass.getD (i / 64) 0).getLsbD (i % 64) = !failed.contains i) ∧
        (homes = true → t.stestPass.getD 2 0 = BitVec.allOnes 64) ∧
        (homes = true → mem = true → t.deviceNumber < 8192 ∧ ∀ k, k < 2 → ∃ h, t.hostPorts.find? k = some h ∧ h.up = true ∧
          h.rate ∈ [25, 50, 80, 160, 320, 640] ∧ h.width ∈ [4, 8, 16] ∧ h.ide = false) ∧
        (homes = true → mem = true → (∀ x ∈ t.ports, x.2.up = true ∧ x.2.keyed = true) ∧
          ∀ p ∈ t.tableFree, t.owner.getD (p / 4) 0 = 257) := by
  change ∃ t, execBringUp true failed homes mem s = _ ∧ _
  rw [execBringUp, if_neg (bringUp_due h)]
  simp only [hf]
  cases homes with
  | false =>
    refine ⟨_, rfl, ?_⟩
    exact ⟨rfl, rfl, rfl, rfl, fun i => getD_mapWords fix, fun i => getLsbD_passBits failed _, fun e => absurd e Bool.false_ne_true,
      fun e => absurd e Bool.false_ne_true, fun e => absurd e Bool.false_ne_true⟩
  | true =>
    have ones : SMap.getD (passBits failed (2 ^ 64 - 1)) 2 0 = BitVec.allOnes 64 :=
      (getD_passBits_homes _ _).trans (by decide)
    have bits := fun i hi => getLsbD_passBits failed (2 ^ 64 - 1) (i := i) hi
    simp only [Bool.not_true, Bool.false_eq_true, if_false, if_true]
    cases mem with
    | false =>
      refine ⟨_, rfl, ?_⟩
      dsimp only
      exact ⟨rfl, rfl, rfl, rfl, fun i => getD_mapWords fix, bits, fun _ => ones,
        fun _ e => absurd e Bool.false_ne_true, fun _ e => absurd e Bool.false_ne_true⟩
    | true =>
      refine ⟨_, rfl, ?_⟩
      dsimp only
      refine ⟨rfl, rfl, rfl, rfl, fun i => getD_mapWords fix, bits, fun _ => ones, fun _ _ => ?_, fun _ _ => ?_⟩
      · exact ⟨Nat.mod_lt _ (by decide), fun k hk => trainPorts_hostPort _ hk⟩
      · refine ⟨fun x => trainFabric_mem, fun p hp => ?_⟩
        rw [getD_foldl_put, if_pos (mem_tableFrames hp)]
        rfl
end

/-! ## Warm reset -/

/-- What a warm reset keeps of memory: the host's and the expanders' (R308). -/
theorem readByte_warmReset (s : State) (a : Nat) :
    s.warmReset.readByte a = if 1 ≤ a / regionSize ∧ a / regionSize < 300 then s.readByte a else 0 := by
  have h := SMap.find_filter_key s.mem (fun k => decide (1 ≤ k * 1 / regionSize) && decide (k * 1 / regionSize < 300)) a
  rw [Nat.mul_one] at h
  change (SMap.find? (List.filter _ s.mem) a).getD 0 = _
  refine (congrArg (Option.getD · 0) h).trans ?_
  by_cases ha : 1 ≤ a / regionSize ∧ a / regionSize < 300
  · simp [ha, State.readByte, SMap.getD]
  · rw [if_neg ha, if_neg (by simpa using ha)]
    rfl

end Sys2Proof.Machine
end

section
/-!
The power states of clusters, partitions and the device (R306, R307).
-/

namespace Sys2Proof.Machine

/-! ## The state around clusters that go off -/

/-- `t` is `s` but for cached copies, banks, the oracle and what merges at homes change. -/
def State.Shut (s t : State) : Prop := ({ s with copies := t.copies, cores := t.cores, oracle := t.oracle } : State).Merged t

namespace State.Shut
variable {s t u : State}

theorem of_cached (h : s.Cached t) : s.Shut t := by
  constructor
  · have := h.wide
    unfold State.SameButSpecs at *
    rw [this]
  · intro hs
    have := State.Cached.narrow h hs
    unfold State.SameButHome at *
    rw [this]
theorem refl (s : State) : s.Shut s := of_cached (.refl s)
theorem trans (h : s.Shut t) (h' : t.Shut u) : s.Shut u := by
  have shift : ({ s with copies := u.copies, cores := u.cores, oracle := u.oracle } : State).Merged
      { t with copies := u.copies, cores := u.cores, oracle := u.oracle } := by
    constructor
    · have := h.wide
      unfold State.SameButSpecs at *
      rw [this]
    · intro hs
      have := h.narrow hs
      unfold State.SameButHome at *
      rw [this]
  exact shift.trans h'
theorem specs_nil (h : s.Shut t) (hs : s.specs = []) : t.specs = [] := Merged.specs_nil h hs
theorem foldl {α : Type} {f : State → α → State} (hf : ∀ (s : State) a, s.Shut (f s a)) (xs : List α) (s : State) :
    s.Shut (xs.foldl f s) :=
  foldl_keeps (P := s.Shut) (fun t a ht => ht.trans (hf t a)) xs (refl s)
theorem clusterPower_eq (h : s.Shut t) : t.clusterPower = s.clusterPower := by rw [h.wide]
theorem closing_eq (h : s.Shut t) : t.closing = s.closing := by rw [h.wide]
theorem pstate_eq (h : s.Shut t) : t.pstate = s.pstate := by rw [h.wide]
end State.Shut

theorem returnBanks_of_nil {s : State} (h : s.specs = []) (core need : Nat) :
    s.returnBanks core need = { s with cores := (s.returnBanks core need).cores, oracle := (s.returnBanks core need).oracle } := by
  unfold State.returnBanks
  dsimp only
  split
  · rfl
  · rw [discardSpecs_of_nil (by exact h)]
    rfl

theorem returnBanks_wide (s : State) (core need : Nat) :
    ({ s with oracle := (s.returnBanks core need).oracle } : State).SameButSpecs (s.returnBanks core need) := by
  have h := fun f g => (discardSpecs_merged (s.modCore core f) 5 g).wide
  unfold State.SameButSpecs at h ⊢
  unfold State.returnBanks
  dsimp only
  split
  · rfl
  · dsimp only [State.tick]
    rw [h]
    rfl

theorem returnBanks_copies (s : State) (core need : Nat) : (s.returnBanks core need).copies = s.copies := by
  rw [returnBanks_wide s core need]

theorem returnBanks_shut (s : State) (core need : Nat) : s.Shut (s.returnBanks core need) := by
  constructor
  · have := returnBanks_wide s core need
    unfold State.SameButSpecs at *
    rw [this]
  · intro hs
    have := returnBanks_of_nil (s := s) hs core need
    unfold State.SameButHome
    rw [this]

/-- The state in which clusters are about to go off: their caches are empty and their shadow banks withdrawn. -/
def State.emptied (s : State) (cls : List Nat) : State :=
  (cls.flatMap coresOf).foldl (fun s k => s.returnBanks k 4) (s.evictAll fun k => cls.contains (copyCluster k))

theorem emptied_shut (s : State) (cls : List Nat) : s.Shut (s.emptied cls) :=
  (State.Shut.of_cached (evictAll_cached _ _)).trans (.foldl (f := fun s k => s.returnBanks k 4) (fun s k => returnBanks_shut s k 4) _ _)

theorem emptied_copyCluster {s : State} {cls : List Nat} {x : Nat} (h : x ∈ (s.emptied cls).copyNames) :
    copyCluster x ∉ cls := by
  have hc : (s.emptied cls).copies = (s.evictAll fun k => cls.contains (copyCluster k)).copies :=
    foldl_keeps (P := fun t : State => t.copies = _) (f := fun s k => s.returnBanks k 4)
      (fun t k ht => (returnBanks_copies t k 4).trans ht) _ rfl
  rw [State.copyNames, hc] at h
  have := evictAll_copyNames (p := fun k => cls.contains (copyCluster k)) h
  simpa using this

theorem powerOff_cluster (s : State) {cl : Nat} (h : cl ≤ 79) :
    s.powerOff cl = { s.emptied [cl] with closing := (s.emptied [cl]).closing.filter fun c => c != cl,
                                          clusterPower := SMap.put .running (s.emptied [cl]).clusterPower cl .off } := by
  have h80 : cl ≠ 80 := by omega
  simp [State.powerOff, closingClusters, h80, State.emptied]

theorem flatMap_closing (s : State) {cl : Nat} (h : cl ≤ 79) : (closingClusters cl).flatMap s.gangsIn = s.gangsIn cl := by
  have h80 : cl ≠ 80 := by omega
  simp [closingClusters, h80]

theorem turnOff_empty {s : State} {cl : Nat} (h : cl ≤ 79) (hg : s.gangsIn cl = []) : s.turnOff cl = s.powerOff cl := by
  unfold State.turnOff
  simp only [flatMap_closing s h, hg, List.isEmpty_nil, if_true]

/-! ## Retention -/

theorem execClusterRetention_skip {s : State} {cl : Nat}
    (h : 79 < cl ∨ s.clusterPower.getD cl .running ≠ .running ∨ s.slotted cl true = true) :
    exec (.clusterRetention cl) s = .next s := by
  change execClusterRetention cl s = _
  rw [execClusterRetention, if_pos]
  rcases h with h | h | h <;> simp [h]

/-- What retention writes back (R307). -/
def State.retained (s : State) (cl : Nat) : State :=
  s.writeBackAll fun k => copyCluster k == cl && s.cohAny (copyLine k)

theorem execClusterRetention_of {s : State} {cl : Nat} (h : cl ≤ 79) (hp : s.clusterPower.getD cl .running = .running)
    (hs : s.slotted cl true = false) :
    exec (.clusterRetention cl) s =
      .next { s.retained cl with clusterPower := SMap.put .running (s.retained cl).clusterPower cl .retention } := by
  change execClusterRetention cl s = _
  rw [execClusterRetention, if_neg]
  · rfl
  · have : ¬ 79 < cl := by omega
    simp [this, hp, hs]

/-- With no cached copies there is nothing to write back. -/
theorem execClusterRetention_noCopies {s : State} {cl : Nat} (h : cl ≤ 79) (hp : s.clusterPower.getD cl .running = .running)
    (hi : s.slotted cl true = false) (hc : s.copies = []) :
    ∃ t, exec (.clusterRetention cl) s = .next t ∧ t = { s with clusterPower := t.clusterPower } ∧
      ∀ k, t.clusterPower.getD k .running = if k = cl then .retention else s.clusterPower.getD k .running := by
  have he := execClusterRetention_of h hp hi
  rw [State.retained, writeBackAll_of_nil hc] at he
  refine ⟨_, he, rfl, fun k => ?_⟩
  dsimp only
  rw [SMap.getD_put]

theorem retained_cores {s : State} (h : s.specs = []) (cl : Nat) : (s.retained cl).cores = s.cores := by
  rw [State.retained, State.Cached.narrow (writeBackAll_cached s _) h]

/-- With one copy, a cluster cache's of a shared-coherent line, retention writes that copy back. -/
theorem retained_single {s : State} {cl l : Nat} {c : Copy} (hc : cl ≤ 79) (hl : l < 2 ^ 128)
    (hs : s.copies = [(copyKey cl l, c)]) (hcoh : s.cohAny l = true) : s.retained cl = s.writeBack (copyKey cl l) := by
  have hlt : cl < 80 := by omega
  have hk : s.copyKeys true (fun k => copyCluster k == cl && s.cohAny (copyLine k)) = [] := by
    simp [State.copyKeys, hs, isL1_copyKey hlt hl]
  have hk' : s.copyKeys false (fun k => copyCluster k == cl && s.cohAny (copyLine k)) = [copyKey cl l] := by
    simp [State.copyKeys, hs, isL1_copyKey hlt hl, copyCluster_copyKey hlt hl, copyLine_copyKey hl, hcoh]
  rw [State.retained, State.writeBackAll, hk, List.foldl_nil]
  rw [hk', List.foldl_cons, List.foldl_nil]

/-- The bytes at the homes after a cluster cache's copy is written back. -/
theorem readByte_writeBack {s : State} {cl l : Nat} {c : Copy} (hs : s.specs = []) (hc : cl < 80) (hl : l < 2 ^ 128)
    (hk : s.copies.find? (copyKey cl l) = some c) (a : Nat) :
    (s.writeBack (copyKey cl l)).readByte a =
      if a / 128 = l ∧ c.dirty.getLsbD (a % 128) = true then (c.data >>> (8 * (a % 128))).setWidth 8 else s.readByte a := by
  unfold State.writeBack
  rw [hk]
  dsimp only
  split
  · rename_i hd
    have hd : c.dirty = 0 := by simpa using hd
    simp [hd]
  · rw [isL1_copyKey hc hl, if_neg (by decide), copyLine_copyKey hl, readByte_homeMerge (by exact hs)]
    rfl

theorem execClusterRetention_bytes {s : State} {cl : Nat} (h : cl ≤ 79) (hp : s.clusterPower.getD cl .running = .running)
    (hi : s.slotted cl true = false) (hs : s.specs = []) :
    ∃ t, exec (.clusterRetention cl) s = .next t ∧ t.clusterPower.getD cl .running = .retention ∧ t.cores = s.cores ∧
      (∀ x c, t.copies.find? x = some c → copyCluster x = cl → s.cohAny (copyLine x) = true → c.dirty = 0) ∧
      ∀ l c, l < 2 ^ 128 → s.copies = [(copyKey cl l, c)] → s.cohAny l = true → injEn s.injCtl = false →
        (∀ i, i < 128 → t.readByte (128 * l + i) = if c.dirty.getLsbD i then (c.data >>> (8 * i)).setWidth 8
          else s.readByte (128 * l + i)) ∧ ∀ a, a / 128 ≠ l → t.readByte a = s.readByte a := by
  refine ⟨_, execClusterRetention_of h hp hi, ?_⟩
  dsimp only
  refine ⟨SMap.getD_put_self _ _ _ _, retained_cores hs cl, fun x c hx hc hcoh => ?_, fun l c hl hcs hcoh _ => ?_⟩
  · exact cleanAt_writeBackAll (p := fun k => copyCluster k == cl && s.cohAny (copyLine k)) (by simp [hc, hcoh]) c hx
  · have bytes := fun a => (congrArg (State.readByte · a) (retained_single h hl hcs hcoh)).trans
      (readByte_writeBack (c := c) hs (by omega) hl (by rw [hcs, SMap.find_cons, if_pos rfl]) a)
    refine ⟨fun i hi => (bytes _).trans ?_, fun a ha => (bytes a).trans ?_⟩
    · rw [show (128 * l + i) / 128 = l by omega, show (128 * l + i) % 128 = i by omega]
      simp
    · simp [ha]

/-! ## Off -/

theorem execClusterOff_of {s : State} {cl : Nat} (h : cl ≤ 79) : exec (.clusterOff cl) s = .next (s.turnOff cl) := by
  change execClusterOff cl s = _
  rw [execClusterOff, if_neg (by omega)]

theorem execClusterOff_empty {s : State} {cl : Nat} (h : cl ≤ 79) (hg : s.gangsIn cl = []) (hs : s.specs = []) :
    ∃ t, exec (.clusterOff cl) s = .next t ∧
      (∀ k, t.clusterPower.getD k .running = if k = cl then .off else s.clusterPower.getD k .running) ∧
      (∀ x ∈ t.copies, copyCluster x.1 ≠ cl) ∧ t.gangs = s.gangs ∧ t.team = s.team ∧ t.others = s.others := by
  have hn := State.Merged.narrow (emptied_shut s [cl]) hs
  rw [execClusterOff_of h, turnOff_empty h hg, powerOff_cluster s h]
  refine ⟨_, rfl, ?_⟩
  dsimp only
  refine ⟨fun k => ?_, fun x hx => ?_, ?_, ?_, ?_⟩
  · rw [SMap.getD_put, (emptied_shut s [cl]).clusterPower_eq]
  · simpa using emptied_copyCluster (s := s) (cls := [cl]) (x := x.1) (List.mem_map_of_mem hx)
  all_goals rw [hn]

/-- Gangs that keep a cluster on: one that streams in, one that runs speculatively, and a frozen context's (R258, R269). -/
def State.holdsOn (s : State) (g : Gang) : Bool :=
  g.phase == .entering || g.spec.isSome || (s.ctx? g.ctx).any Ctx.frozen

theorem holdsOn_iff (s : State) (g : Gang) :
    s.holdsOn g = true ↔ g.phase = .entering ∨ g.spec ≠ none ∨ ∃ c, s.ctx? g.ctx = some c ∧ c.frozen = true := by
  cases h : s.ctx? g.ctx <;> simp [State.holdsOn, Option.isSome_iff_ne_none, or_assoc, h]

/-- Gang `g` once the gangs `gs` are asked to leave. -/
def State.outOf (s : State) (gs : List Gang) (g : Gang) : Gang :=
  if gs.any (fun x => x.ticket == g.ticket) && g.phase != .leaving then
    { g with phase := GangPhase.leaving, since := if g.phase = .shadow then g.since else s.nextOrder }
  else g

theorem turnOff_busy {s : State} {cl : Nat} (h : cl ≤ 79) (hg : s.gangsIn cl ≠ []) :
    s.turnOff cl =
      let rest := s.closing.filter fun c => c != cl
      if s.transitStopped then { s with closing := rest ++ [cl] }
      else if (s.gangsIn cl).any s.holdsOn then { s with closing := rest }
      else { s with gangs := s.gangs.map (s.outOf (s.gangsIn cl)), nextOrder := s.nextOrder + 1, closing := rest ++ [cl] } := by
  unfold State.turnOff
  simp only [flatMap_closing s h, List.isEmpty_iff, hg, if_false]
  rfl

theorem outOf_phase (s : State) {gs : List Gang} {g g' : Gang} (hg : g ∈ gs) (ht : (s.outOf gs g').ticket = g.ticket) :
    (s.outOf gs g').phase = .leaving := by
  unfold State.outOf at *
  split at ht
  · rename_i h
    rw [if_pos h]
  · rename_i h
    rw [if_neg h]
    have : gs.any (fun x => x.ticket == g'.ticket) = true := List.any_eq_true.2 ⟨g, hg, by simp [ht]⟩
    simpa [this] using h

theorem outOf_of_not_mem (s : State) {gs : List Gang} {g : Gang} (h : ∀ x ∈ gs, x.ticket ≠ g.ticket) : s.outOf gs g = g := by
  have : gs.any (fun x => x.ticket == g.ticket) = false := by simpa using h
  simp [State.outOf, this]

theorem execClusterOff_busy (s : State) (cl : Nat) :
    let rest := s.closing.filter fun c => c != cl
    let stays (g : Gang) : Prop := g.phase = .entering ∨ g.spec ≠ none ∨ ∃ c, s.ctx? g.ctx = some c ∧ c.frozen = true
    cl ≤ 79 → s.gangsIn cl ≠ [] →
      (s.transitStopped = true → exec (.clusterOff cl) s = .next { s with closing := rest ++ [cl] }) ∧
      (s.transitStopped = false → (∃ g ∈ s.gangsIn cl, stays g) → exec (.clusterOff cl) s = .next { s with closing := rest }) ∧
      (s.transitStopped = false → (∀ g ∈ s.gangsIn cl, ¬ stays g) → ∃ t, exec (.clusterOff cl) s = .next t ∧
        t = { s with gangs := t.gangs, nextOrder := s.nextOrder + 1, closing := rest ++ [cl] } ∧
        (∀ g ∈ s.gangsIn cl, ∀ g' ∈ t.gangs, g'.ticket = g.ticket → g'.phase = .leaving) ∧
        ∀ g ∈ s.gangs, (∀ x ∈ s.gangsIn cl, x.ticket ≠ g.ticket) → g ∈ t.gangs) := by
  intro rest stays h hg
  have iff : ∀ g, s.holdsOn g = true ↔ stays g := holdsOn_iff s
  rw [execClusterOff_of h, turnOff_busy h hg]
  dsimp only
  refine ⟨fun ht => ?_, fun ht hst => ?_, fun ht hst => ?_⟩
  · rw [if_pos ht]
  · rw [if_neg (by simp [ht]), if_pos (List.any_eq_true.2 (hst.imp fun g hg => ⟨hg.1, (iff g).2 hg.2⟩))]
  · have hno : ¬ (s.gangsIn cl).any s.holdsOn = true := fun ha => by
      obtain ⟨g, hg, hh⟩ := List.any_eq_true.1 ha
      exact hst g hg ((iff g).1 hh)
    rw [if_neg (by simp [ht]), if_neg hno]
    refine ⟨_, rfl, rfl, fun g hg g' hg' ht => ?_, fun g hg hne => ?_⟩
    · obtain ⟨g0, -, rfl⟩ := List.mem_map.1 hg'
      exact outOf_phase s hg ht
    · exact List.mem_map.2 ⟨g, hg, outOf_of_not_mem s hne⟩

theorem tickClock_power (s : State) : s.tickClock.clusterPower = s.clusterPower ∧ s.tickClock.closing = s.closing := by
  unfold State.tickClock
  dsimp only
  repeat' split
  all_goals exact ⟨rfl, rfl⟩

/-- A cluster on its way off that its gangs have left goes off in the next cycle. -/
theorem cycle_closing {s : State} {cl : Nat} (h : cl ≤ 79) (hc : s.closing = [cl]) (hg : s.gangsIn cl = []) :
    s.cycle.clusterPower.getD cl .running = .off ∧ s.cycle.closing = [] := by
  have hf : s.finishClosing = s.powerOff cl := by
    rw [State.finishClosing, hc]
    simp only [List.foldl_cons, List.foldl_nil, flatMap_closing s h, hg, List.isEmpty_nil, if_true]
  obtain ⟨hp, hcl⟩ := tickClock_power s.finishClosing
  unfold State.cycle
  dsimp only
  rw [hp, hcl, hf, powerOff_cluster s h]
  dsimp only
  rw [(emptied_shut s [cl]).closing_eq, hc]
  exact ⟨SMap.getD_put_self _ _ _ _, by simp⟩

/-! ## The device and partitions -/

theorem copyNames_foldl_writeBack {s : State} {ks : List Nat} (hks : ∀ k ∈ ks, 80 ≤ copyCluster k)
    (hs : ∀ x ∈ s.copyNames, 80 ≤ copyCluster x) : ∀ x ∈ (ks.foldl State.writeBack s).copyNames, 80 ≤ copyCluster x := by
  induction ks generalizing s with
  | nil => exact hs
  | cons k ks ih =>
    refine ih (fun k hk => hks k (List.mem_cons_of_mem _ hk)) fun x hx => ?_
    rcases mem_copyNames_writeBack hx with h | ⟨-, h, -⟩
    · exact hs x h
    · have := hks k List.mem_cons_self
      omega

/-- A write-back of copies that no cluster holds gives none to a cluster. -/
theorem copyNames_writeBackAll {s : State} (p : Nat → Bool) (hs : ∀ x ∈ s.copyNames, 80 ≤ copyCluster x) :
    ∀ x ∈ (s.writeBackAll p).copyNames, 80 ≤ copyCluster x := by
  have held : ∀ {t : State} {b : Bool}, (∀ x ∈ t.copyNames, 80 ≤ copyCluster x) → ∀ k ∈ t.copyKeys b p, 80 ≤ copyCluster k :=
    fun ht k hk => ht k (mem_copyKeys.1 hk).1
  have h1 := copyNames_foldl_writeBack (held (b := true) hs) hs
  exact copyNames_foldl_writeBack (held (b := false) h1) h1

theorem turnOff_gone {s : State} (hg : s.gangs = []) (cl : Nat) : s.turnOff cl = s.powerOff cl := by
  have : (closingClusters cl).flatMap s.gangsIn = [] := by simp [State.gangsIn, hg]
  unfold State.turnOff
  rw [this]
  rfl

/-- The device with its clusters `cls` off and its shared-coherent lines written back (R307). -/
def State.idled (s : State) (cls : List Nat) : State :=
  let s := s.emptied cls
  let s := { s with closing := s.closing.filter fun c => c != 80,
                    clusterPower := cls.foldl (fun m c => SMap.put .running m c .off) s.clusterPower }
  { (s.writeBackAll fun k => s.cohAny (copyLine k)) with pstate := if s.pstate = 2 then 2 else 1 }

theorem powerOff_device (s : State) : s.powerOff 80 = s.idled (List.range 80) := by
  unfold State.powerOff
  rw [if_pos rfl]
  rfl

theorem idled_clusterPower (s : State) {cls : List Nat} {k : Nat} (h : k ∈ cls) :
    (s.idled cls).clusterPower.getD k .running = .off := by
  unfold State.idled
  dsimp only
  rw [(State.Shut.of_cached (writeBackAll_cached _ _)).clusterPower_eq]
  dsimp only
  rw [getD_foldl_put, if_pos h]
  rfl

theorem idled_pstate (s : State) (cls : List Nat) : (s.idled cls).pstate = if s.pstate = 2 then 2 else 1 := by
  unfold State.idled
  dsimp only
  rw [(emptied_shut s cls).pstate_eq]

theorem idled_copies {s : State} {cls : List Nat} (h : ∀ k, k < 80 → k ∈ cls) :
    ∀ x ∈ (s.idled cls).copies, 80 ≤ copyCluster x.1 := by
  intro x hx
  refine copyNames_writeBackAll _ (fun y hy => ?_) x.1 (List.mem_map_of_mem hx)
  exact Nat.le_of_not_lt (mt (h _) (emptied_copyCluster (s := s) hy))

theorem execDeviceIdle_off {s : State} (hg : s.gangs = []) :
    ∃ t, exec .deviceIdle s = .next t ∧ (∀ k, k < 80 → t.clusterPower.getD k .running = .off) ∧
      t.pstate = (if s.pstate = 2 then 2 else 1) ∧ ∀ x ∈ t.copies, 80 ≤ copyCluster x.1 := by
  have he : exec .deviceIdle s = .next (s.idled (List.range 80)) := by
    change execDeviceIdle s = _
    rw [execDeviceIdle, turnOff_gone hg, powerOff_device]
  exact ⟨_, he, fun k hk => idled_clusterPower s (List.mem_range.2 hk), idled_pstate s _,
    idled_copies fun k => List.mem_range.2⟩

theorem partClusters_of {s : State} {n : Nat} {p : Partition} (h : s.partitions.find? n = some p) :
    s.partClusters n = p.clusters := by
  simp [State.partClusters, h]

theorem getD_filter_not_mem {α : Type} (m : SMap α) (ks : List Nat) (d : α) (k : Nat) :
    SMap.getD (m.filter fun x => !ks.contains x.1) k d = if k ∈ ks then d else m.getD k d := by
  rw [SMap.getD, SMap.find_filter_key m fun k => !ks.contains k]
  by_cases h : k ∈ ks <;> simp [h, SMap.getD]

theorem execWake_part {s : State} {n : Nat} {p : Partition} (h : s.partitions.find? n = some p) :
    ∃ t, exec (.wake n) s = .next t ∧
      t = { s with partitions := t.partitions, clusterPower := t.clusterPower, closing := t.closing,
                   pstate := if s.pstate = 1 then 0 else s.pstate } ∧
      (∀ k, k ∈ t.closing ↔ k ∈ s.closing ∧ k ≠ 80 ∧ k ∉ p.clusters) ∧
      t.partitions.find? n = some { p with power := .running } ∧
      ∀ k, t.clusterPower.getD k .running = if k ∈ p.clusters then .running else s.clusterPower.getD k .running := by
  change ∃ t, execWake n s = _ ∧ _
  unfold execWake
  rw [partClusters_of h]
  refine ⟨_, rfl, rfl, fun k => ?_, ?_, getD_filter_not_mem _ _ _⟩
  · simp
  · simp [h]

theorem execClockGating_part {s : State} {n : Nat} {p : Partition} (h : s.partitions.find? n = some p) :
    ∃ t, exec (.clockGating n) s = .next t ∧ t = { s with partitions := t.partitions } ∧
      (∀ k, k ≠ n → t.partitions.find? k = s.partitions.find? k) ∧
      t.partitions.find? n = some (if p.power = .running then { p with power := .gated } else p) := by
  refine ⟨_, rfl, rfl, ?_⟩
  dsimp only
  refine ⟨fun k hk => ?_, ?_⟩
  · exact SMap.find_modify_of_ne _ _ hk
  · simp [h]

end Sys2Proof.Machine
end

section
/-!
O60: bring-up, warm reset and power states.
-/

namespace Sys2Proof.Machine

/-- Settles O60, by what bring-up, a warm reset and each power event do. -/
theorem powerAndBringUp : Obligations.PowerAndBringUp := by
  intro s
  refine ⟨fun ok failed homes mem h hr => execBringUp_idle h hr ok failed homes mem, fun h failed homes mem => ?_,
    readByte_warmReset s, ⟨rfl, rfl, rfl, rfl, rfl, rfl⟩, fun cl => ?_, fun hg _ => execDeviceIdle_off hg,
    fun n p h => ⟨execWake_part h, execClockGating_part h⟩⟩
  · exact ⟨execBringUp_unsigned h failed homes mem, fun hf => execBringUp_unrepaired h hf homes mem,
      fun fix hf => execBringUp_repaired h hf homes mem⟩
  · refine ⟨execClusterRetention_skip, execClusterRetention_noCopies, execClusterRetention_bytes, fun h => ?_,
      execClusterOff_empty, execClusterOff_busy s cl, cycle_closing⟩
    change execClusterOff cl s = _
    rw [execClusterOff, if_pos h]

end Sys2Proof.Machine
end

section
/-!
The statement about errors (R281, R282) does not hold of every state: it lets two gangs carry one ticket, which R51 excludes.
-/

namespace Sys2Proof.Machine

/-! ## A timing detection in a device where two gangs carry one ticket -/

/-- A gang of speculation 1 under ticket 1, the ticket of the ordinary gang that `placeTeam` puts before it. -/
def twinGang : Gang :=
  ⟨1, 0, 0, 0, 0, 0, 0, 0, 0, 0, ⟨65536, 32, 1, 1, 1, 64, 8, 0⟩, .running, 0, 0, false, some 1, []⟩

/-- Speculation 1, whose read set holds the line of the team's code (R256). -/
def codeReader : Spec := ⟨1, 0, 0, 0, Cap.null, [], [], [], 0, 0, 0, [], [512], [], [], []⟩

/-- A team about to replay after a first detection (R282). A cluster cache holds a written byte of its code, and the injector is
about to make the next use of that line an uncorrectable error (R283): the byte goes home first, and so discards speculation 1 with
every gang and team of ticket 1. -/
def twinTickets : State :=
  { State.reset with
    gangs := [twinGang], specs := [codeReader], injCtl := 0x10003, copies := [(copyKey 0 512, ⟨0, 1, 1, 0, []⟩)],
    timingArmed := [⟨1, 0, 0, 0⟩] }.placeTeam

/-- The program counter of the issuing team after a step that answers a state. -/
def nextPc : Out → Option Dword
  | .next t => some t.team.pc
  | _ => none

/-- The second detection fetches the instruction it stops, and no team of ticket 1 is left to hold the trap. -/
theorem nextPc_timingDetection_twinTickets : nextPc (exec (.timingDetection ⟨1, 0, 0, 0⟩ 0) twinTickets) = some 0 := by
  decide +kernel

/-- Refutes O59: a second timing detection does not leave the program counter as it was where the fetch of the stopped
instruction discards a speculation whose gang shares the team's ticket (R256, R259, R283). -/
theorem not_errorsAreContained : ¬ Obligations.ErrorsAreContained := by
  unfold Obligations.ErrorsAreContained
  intro h
  obtain ⟨-, -, -, -, -, -, -, -, -, -, -, timing, -⟩ := h twinTickets
  obtain ⟨-, second⟩ := timing ⟨1, 0, 0, 0⟩ twinTickets.team 0 (by decide +kernel) (by decide +kernel) (by decide) (by decide)
  obtain ⟨c, hc⟩ : ∃ c, twinTickets.ctx? twinTickets.team.ctx = some c := Option.isSome_iff_exists.1 (by decide +kernel)
  obtain ⟨t, ht, -, -, -, -, -, -, hpc⟩ := second c (by decide +kernel) rfl (by decide +kernel) (by decide +kernel)
    (by decide +kernel) hc (by decide +kernel)
  have hzero := nextPc_timingDetection_twinTickets
  rw [ht, nextPc, hpc] at hzero
  exact absurd hzero (by decide +kernel)

end Sys2Proof.Machine
end

section
/-!
Work the distributor does where nothing runs speculatively (R242 to R254): which operations leave queues and launches alone, and what
dispatching changes of a launch.
-/

namespace Sys2Proof.Machine

/-! ## Operations that leave queues and launches alone -/

/-- Where nothing runs speculatively in `s`, nothing does in `t`, and queues and launches are those of `s`. -/
def State.Calm (s t : State) : Prop :=
  s.specs = [] → t.specs = [] ∧ t.queues = s.queues ∧ t.launches = s.launches ∧ t.nextLaunch = s.nextLaunch

namespace State.Calm
variable {s t u : State}

theorem refl (s : State) : s.Calm s := fun h => ⟨h, rfl, rfl, rfl⟩
theorem trans (h : s.Calm t) (h' : t.Calm u) : s.Calm u := fun hs => by
  obtain ⟨ht, hq, hl, hn⟩ := h hs
  obtain ⟨hu, hq', hl', hn'⟩ := h' ht
  exact ⟨hu, hq'.trans hq, hl'.trans hl, hn'.trans hn⟩
theorem of_fields (hp : t.specs = s.specs) (hq : t.queues = s.queues) (hl : t.launches = s.launches)
    (hn : t.nextLaunch = s.nextLaunch) : s.Calm t := fun hs => ⟨hp.trans hs, hq, hl, hn⟩
theorem of_shut (h : s.Shut t) : s.Calm t := fun hs => by
  have := Merged.narrow h hs
  unfold State.SameButHome at this
  refine ⟨h.specs_nil hs, ?_, ?_, ?_⟩ <;> rw [this]
theorem of_cached (h : s.Cached t) : s.Calm t := of_shut (.of_cached h)
theorem of_merged (h : s.Merged t) : s.Calm t := of_cached (.of_merged h)
theorem foldl {α : Type} {f : State → α → State} (hf : ∀ (s : State) a, s.Calm (f s a)) (xs : List α) (s : State) :
    s.Calm (xs.foldl f s) :=
  foldl_keeps (P := s.Calm) (fun t a ht => ht.trans (hf t a)) xs (refl s)
end State.Calm

theorem modCtx_calm (s : State) (n : Nat) (f : Ctx → Ctx) : s.Calm (s.modCtx n f) := .of_fields rfl rfl rfl rfl
theorem modGang_calm (s : State) (n : Nat) (f : Gang → Gang) : s.Calm (s.modGang n f) := .of_fields rfl rfl rfl rfl
theorem postAll_calm (s : State) (is : List Instr) : s.Calm (s.postAll is) := .of_fields rfl rfl rfl rfl

theorem discardSpecs_calm (s : State) (code : Nat) (f : Spec → Bool) : s.Calm (s.discardSpecs code f) :=
  .of_merged (discardSpecs_merged s code f)

theorem clearSpecs_calm (s : State) (cores : List Nat) : s.Calm (s.clearSpecs cores) := discardSpecs_calm _ _ _

theorem scrubFrame_calm (s : State) (f : Nat) : s.Calm (s.scrubFrame f) := fun hs => by
  rw [State.scrubFrame, frameChanged_of_nil hs]
  exact ⟨hs, rfl, rfl, rfl⟩

theorem freeArea_calm (s : State) (ticket : Nat) : s.Calm (s.freeArea ticket) := by
  unfold State.freeArea
  split
  · exact .refl s
  · exact .of_fields rfl rfl rfl rfl

theorem drainBanks_calm (s : State) (cl : Nat) : s.Calm (s.drainBanks cl) := by
  unfold State.drainBanks
  split
  · exact .of_cached (evictAll_cached _ _)
  · exact (State.Calm.of_cached (evictAll_cached _ _)).trans (.of_fields rfl rfl rfl rfl)

theorem seat_calm (s : State) (g : Gang) : s.Calm (s.seat g) := by
  unfold State.seat
  dsimp only
  split
  · refine State.Calm.foldl (fun s x => ?_) _ s
    exact .of_fields rfl rfl rfl rfl
  · refine State.Calm.trans (State.Calm.foldl (fun s x => ?_) _ s) (.foldl drainBanks_calm _ _)
    exact .of_fields rfl rfl rfl rfl

theorem returnBanks_calm (s : State) (core need : Nat) : s.Calm (s.returnBanks core need) :=
  .of_shut (returnBanks_shut s core need)

theorem freeze_calm (s : State) (ctx : Nat) : s.Calm (s.freeze ctx) := (modCtx_calm s _ _).trans (discardSpecs_calm _ _ _)

theorem areaFails_calm (s : State) (g : Gang) : s.Calm (s.areaFails g) :=
  ((modCtx_calm s _ _).trans (freeze_calm _ _)).trans (postAll_calm _ [_])

theorem allotArea_calm {s t : State} {ticket : Nat} (h : s.allotArea ticket = some t) : s.Calm t := by
  unfold State.allotArea at h
  split at h
  · cases h
  · split at h
    · cases h
      exact .refl s
    · dsimp only at h
      split at h
      · cases h
      · cases h
        exact (State.Calm.foldl scrubFrame_calm _ s).trans (.of_fields rfl rfl rfl rfl)

theorem suspend_calm (s : State) (g : Gang) (shadow : Bool) : s.Calm (s.suspend g shadow) := by
  unfold State.suspend
  split
  · exact areaFails_calm s g
  · rename_i t ht
    refine (allotArea_calm ht).trans ?_
    dsimp only
    split <;> exact .of_fields rfl rfl rfl rfl

theorem preempt_calm (s : State) (c : Candidate) (o : Nat × Nat) : s.Calm (s.preempt c o) := by
  unfold State.preempt
  exact (State.Calm.foldl (f := fun s g => s.suspend g (s.toShadow c o g)) (fun s g => suspend_calm s g _) _ s).trans
    (.of_fields rfl rfl rfl rfl)

/-! ## Dispatching -/

/-- A launch as it was but for the gangs it has dispatched and how it waits. -/
def Launch.Same (l m : Launch) : Prop :=
  m = { l with next := m.next, again := m.again, waiting := m.waiting, holds := m.holds }

theorem Launch.Same.trans {l m n : Launch} (h : l.Same m) (h' : m.Same n) : l.Same n := by
  unfold Launch.Same at *
  calc n = _ := h'
    _ = _ := by rw [h]

/-- Where nothing runs speculatively in `s`, nothing does in `t`; queues are as in `s`, and each launch is still there. -/
def State.Dispatched (s t : State) : Prop :=
  s.specs = [] → t.specs = [] ∧ t.queues = s.queues ∧ ∀ l ∈ s.launches, ∃ m ∈ t.launches, l.Same m

namespace State.Dispatched
variable {s t u : State}

theorem of_calm (h : s.Calm t) : s.Dispatched t := fun hs => by
  obtain ⟨ht, hq, hl, -⟩ := h hs
  exact ⟨ht, hq, fun l h => ⟨l, hl ▸ h, rfl⟩⟩
theorem refl (s : State) : s.Dispatched s := of_calm (.refl s)
theorem trans (h : s.Dispatched t) (h' : t.Dispatched u) : s.Dispatched u := fun hs => by
  obtain ⟨ht, hq, hl⟩ := h hs
  obtain ⟨hu, hq', hl'⟩ := h' ht
  refine ⟨hu, hq'.trans hq, fun l h => ?_⟩
  obtain ⟨m, hm, hlm⟩ := hl l h
  obtain ⟨n, hn, hmn⟩ := hl' m hm
  exact ⟨n, hn, hlm.trans hmn⟩
theorem of_map (f : Launch → Launch) (hp : t.specs = s.specs) (hq : t.queues = s.queues) (hl : t.launches = s.launches.map f)
    (hf : ∀ l : Launch, l.Same (f l)) : s.Dispatched t :=
  fun hs => ⟨hp.trans hs, hq, fun l h => ⟨f l, hl ▸ List.mem_map_of_mem h, hf l⟩⟩
end State.Dispatched

theorem dispatchGang_dispatched (s : State) (l : Launch) (idx : Nat) (o : Nat × Nat) : s.Dispatched (s.dispatchGang l idx o) := by
  unfold State.dispatchGang
  split
  · exact .refl s
  · dsimp only
    refine State.Dispatched.trans ?_ (.of_calm (seat_calm _ _))
    refine .of_map _ rfl rfl rfl fun m => ?_
    split <;> rfl

theorem place_dispatched (s : State) (c : Candidate) (o : Nat × Nat) : s.Dispatched (s.place c o) := by
  have returned : ∀ {α : Type} (f : α → Nat) (g : State → α → Nat) (xs : List α) (s : State),
      s.Calm (xs.foldl (fun s x => s.returnBanks (f x) (g s x)) s) := fun f g xs s =>
    .foldl (fun s x => returnBanks_calm s _ _) xs s
  unfold State.place
  split
  · split
    · exact .of_calm ((((clearSpecs_calm s _).trans (freeArea_calm _ _)).trans (modGang_calm _ _ _)).trans (postAll_calm _ _))
    · dsimp only
      refine .of_calm (State.Calm.trans ?_ (seat_calm _ _))
      refine State.Calm.trans ?_ (modGang_calm _ _ _)
      exact (clearSpecs_calm s _).trans (returned _ _ _ _)
  · dsimp only
    refine State.Dispatched.trans ?_ (dispatchGang_dispatched _ _ _ _)
    exact .of_calm ((clearSpecs_calm s _).trans (returned _ _ _ _))

theorem enact_dispatched (s : State) (d : Decision) : s.Dispatched (s.enact d) := by
  cases d with
  | place c o =>
    have h : s.Calm (if s.promised.any fun p => p.of c then { s with promised := none } else s) := by
      split <;> exact .of_fields rfl rfl rfl rfl
    exact (State.Dispatched.of_calm h).trans (place_dispatched _ _ _)
  | preempt c o => exact .of_calm (preempt_calm s c o)

theorem dispatchAll_dispatched (n : Nat) (s : State) : s.Dispatched (State.dispatchAll n s) := by
  induction n generalizing s with
  | zero => exact .refl s
  | succ n ih =>
    unfold State.dispatchAll
    split
    · exact (enact_dispatched s _).trans (ih _)
    · exact .refl s

theorem noteWaits_dispatched (s : State) : s.Dispatched s.noteWaits := by
  refine .of_map _ rfl rfl rfl fun l => ?_
  split <;> rfl

end Sys2Proof.Machine
end

section
/-!
Reads of the command processor, argument blocks (R87) and the start of a speculation (R252), where nothing runs speculatively yet.
-/

namespace Sys2Proof.Machine

/-! ## Reads -/

theorem injected_calm (s : State) (kind ctx : Nat) : s.Calm (s.injected kind ctx).2 := .of_merged (injected_merged s kind ctx)

theorem injectRead_calm (s : State) (ctx line : Nat) (home : Bool) : s.Calm (s.injectRead ctx line home) := by
  have h := fun kind => injected_calm s kind ctx
  unfold State.injectRead
  split
  · exact .refl s
  · split
    · exact h 0
    · dsimp only
      split
      · exact ((h 1).trans (.of_cached (evictAll_cached _ _))).trans (.of_fields rfl rfl rfl rfl)
      · exact h 1
    · dsimp only
      split
      · exact .refl s
      · split
        · exact (h 2).trans (.of_fields rfl rfl rfl rfl)
        · exact h 2
    · exact .refl s

theorem verify_calm (s : State) (line : Nat) : s.Calm (s.verify line).1 := by
  unfold State.verify
  split
  · exact .of_fields rfl rfl rfl rfl
  · split <;> exact .refl s

theorem homeLine_calm (s : State) (key n : Nat) : s.Calm (s.homeLine key n).2 := by
  have h := verify_calm s (key / 128)
  unfold State.homeLine
  split <;> simp_all

theorem fill_calm (s : State) (cl line : Nat) : s.Calm (s.fill cl line).2 := by
  have h := verify_calm s line
  unfold State.fill
  split
  · simp_all
  · rename_i t hv
    rw [hv] at h
    exact h.trans (.of_fields rfl rfl rfl rfl)

theorem clusterLine_calm (s : State) (cl line lo n : Nat) : s.Calm (s.clusterLine cl line lo n).2 := by
  have h := verify_calm s line
  unfold State.clusterLine
  split
  · split
    · exact .refl s
    · exact fill_calm s cl line
  · split
    · exact fill_calm s cl line
    · split <;> simp_all

theorem loadLine_calm (s : State) (core cl key n : Nat) : s.Calm (s.loadLine core cl key n).2 := by
  unfold State.loadLine
  dsimp only
  split
  · exact homeLine_calm s key n
  · split
    · exact .refl s
    · have h := clusterLine_calm s cl (key / 128) (key % 128) n
      split
      · simp_all
      · rename_i c t hc
        rw [hc] at h
        exact h.trans (.of_fields rfl rfl rfl rfl)

theorem readRun_calm {w : Who} (hw : w.spec = none) (s : State) (key n : Nat) : s.Calm (s.readRun w key n).2 := by
  unfold State.readRun
  refine foldl_keeps (P := fun r : Except Nat (List Byte × List Nat) × State => s.Calm r.2) (fun r p hr => ?_) _ (.refl s)
  obtain ⟨e | ⟨bs, ts⟩, t⟩ := r
  · exact hr
  · have h := (hr.trans (injectRead_calm t w.ctx (p.1 / 128) (w.spec.isSome || !t.holds w.core w.cluster p.1 p.2))).trans
      (loadLine_calm _ w.core w.cluster p.1 p.2)
    simp only [hw, Bool.false_eq_true, if_false] at h ⊢
    split <;> simp_all

theorem readParts_calm {w : Who} (hw : w.spec = none) (s : State) (ps : List Part) : s.Calm (s.readParts w ps).2 := by
  unfold State.readParts
  refine foldl_keeps (P := fun r : Except Nat (List Byte × List Nat) × State => s.Calm r.2) (fun r p hr => ?_) _ (.refl s)
  obtain ⟨e | ⟨bs, ts⟩, t⟩ := r
  · exact hr
  · have h := hr.trans (readRun_calm hw t p.key p.len)
    dsimp only
    split <;> simp_all

/-! ## Argument blocks -/

theorem growTables_calm {s t : State} (h : s.growTables = some t) : s.Calm t := by
  unfold State.growTables at h
  split at h
  · cases h
  · cases h
    exact .of_fields rfl rfl rfl rfl

theorem growTablesIf_calm {s t : State} {p : Prop} [Decidable p] (h : (if p then s.growTables else some s) = some t) : s.Calm t := by
  split at h
  · exact growTables_calm h
  · cases h
    exact .refl s

theorem writeGranules_calm (s : State) (key : Nat) (ks : List Cap) : s.Calm (s.writeGranules key ks) := by
  refine State.Calm.foldl (fun s x => ?_) _ s
  exact (State.Calm.of_merged (homeWrite_merged s _ _)).trans (.of_fields rfl rfl rfl rfl)

theorem argBlock_calm {s t : State} {ctx : Nat} {ks : List Cap} {k : Cap} {src : Nat}
    (h : s.argBlock ctx ks = some (k, src, t)) : s.Calm t := by
  unfold State.argBlock at h
  split at h
  · cases h
  · simp only [Option.bind_eq_some_iff, Option.map_eq_some_iff] at h
    obtain ⟨⟨f, from'⟩, -, g, hg, he⟩ := h
    cases he
    refine State.Calm.trans ?_ (writeGranules_calm _ _ _)
    have owned : ∀ h : Ctx → Ctx,
        s.Calm (({ s.tick.scrubFrame f with owner := SMap.put 0 (s.tick.scrubFrame f).owner f (ctx + 1) } : State).modCtx ctx h) :=
      fun h => (State.Calm.trans (t := s.tick) (.of_fields rfl rfl rfl rfl) (scrubFrame_calm _ f)).trans (.of_fields rfl rfl rfl rfl)
    have grown : s.Calm g := (owned _).trans (growTablesIf_calm hg)
    exact grown.trans (.of_fields rfl rfl rfl rfl)

/-! ## The start of a speculation -/

theorem takeShadow_calm (s : State) : s.Calm s.takeShadow := by
  have lent : ∀ (xs : List Nat), s.Calm ((xs.foldl (fun s n => s.modCore (n / 4) fun c =>
      c.setBank (n % 4) (c.bank (n % 4)).lend) s).tick) := fun xs => by
    have folded : s.Calm (xs.foldl (fun s n => s.modCore (n / 4) fun c => c.setBank (n % 4) (c.bank (n % 4)).lend) s) := by
      refine State.Calm.foldl (fun s x => ?_) xs s
      exact .of_fields rfl rfl rfl rfl
    exact folded.trans (.of_fields rfl rfl rfl rfl)
  unfold State.takeShadow
  dsimp only
  split
  · exact lent _
  · exact (lent _).trans (.of_cached (evictAll_cached _ _))

/-- A speculation that starts adds its launch, and leaves queues and the launches there were alone. -/
theorem speculate_keeps {s : State} (hs : s.specs = []) (slot : Nat) :
    (s.speculate slot).queues = s.queues ∧ ∀ l ∈ s.launches, l ∈ (s.speculate slot).launches := by
  have none' : s.queues = s.queues ∧ ∀ l ∈ s.launches, l ∈ s.launches := ⟨rfl, fun _ => id⟩
  unfold State.speculate
  split
  · exact none'
  rename_i q hq
  dsimp only
  split
  · exact none'
  split
  · exact none'
  rename_i k hk
  split
  · exact none'
  split
  · rename_i d x t hr
    have read : s.Calm t := by
      have := readParts_calm (w := cpWho q.ctx) rfl s (s.descriptorParts q.ctx k)
      rwa [hr] at this
    split
    · exact none'
    split
    · exact none'
    split
    · exact none'
    split
    · exact none'
    · rename_i args src u ha
      have shadow : s.Calm t.takeShadow.tick := (read.trans (takeShadow_calm t)).trans (.of_fields rfl rfl rfl rfl)
      have calm := shadow.trans (argBlock_calm ha)
      obtain ⟨-, hq, hl, -⟩ := calm hs
      exact ⟨hq, fun l h => List.mem_append_left _ (hl ▸ h)⟩
  · exact none'

end Sys2Proof.Machine
end

section
/-!
O54: JOB packets, the end of jobs, and LAUNCH packets.
-/

namespace Sys2Proof.Machine

theorem startPacket_of_starts {s : State} {slot kind : Nat} {q : Queue} {p : Packet} (h : s.Starts slot q p) (hk : p.kind = kind)
    (body : State → Queue → Packet → Out) : startPacket slot kind body s = body s q p := by
  obtain ⟨hq, hs, hh, -, hc, hsp⟩ := h
  unfold startPacket
  simp only [hq, hs, hk, bne_self_eq_false, Bool.false_eq_true, if_false, evictAll_of_nil hc, discardSpecs_of_nil hsp, ite_self, hh,
    Bool.not_true]

/-! ## JOB (R237, R369) -/

/-- Granule `a` of a card gives capability `k`: the one its handle names, or none where the OPER does not use it. -/
def State.takes (ctx : Nat) (img : List Byte) (used : Bool) (a : Nat) (u : State) (k : Cap) (v : State) : Prop :=
  if used = true then u.handleField ctx ((img.drop a).take 16) = (.ok k, v) else k = Cap.null ∧ v = u

/-- One granule of a card: what `State.cardCaps` does in turn. -/
def State.takeGranule (ctx : Nat) (img : List Byte) (r : Except CpStop (List Cap) × State) (x : Nat × Bool) :
    Except CpStop (List Cap) × State :=
  match r with
  | (.error e, s) => (.error e, s)
  | (.ok ks, s) =>
    if !x.2 then (.ok (ks ++ [Cap.null]), s)
    else match s.handleField ctx ((img.drop x.1).take 16) with
      | (.error e, s') => (.error e, s')
      | (.ok k, s') => (.ok (ks ++ [k]), s')

theorem cardCaps_eq (s : State) (ctx : Nat) (o : Oper) (img : List Byte) :
    s.cardCaps ctx o img =
      [(16, true), (32, o.usesSrc), (48, o.usesDst), (64, o.usesAux)].foldl (State.takeGranule ctx img) (.ok [], s) := rfl

theorem takeGranule_of_takes {ctx : Nat} {img : List Byte} {used : Bool} {a : Nat} {u v : State} {k : Cap} {ks : List Cap}
    (h : State.takes ctx img used a u k v) : State.takeGranule ctx img (.ok ks, u) (a, used) = (.ok (ks ++ [k]), v) := by
  unfold State.takes at h
  cases used with
  | true =>
    have h : u.handleField ctx ((img.drop a).take 16) = (.ok k, v) := h
    simp only [State.takeGranule, Bool.not_true, Bool.false_eq_true, if_false, h]
  | false =>
    obtain ⟨rfl, rfl⟩ : k = Cap.null ∧ v = u := h
    rfl

theorem cardCaps_of_takes {ctx : Nat} {o : Oper} {img : List Byte} {s s1 s2 s3 s4 : State} {ctr src dst aux : Cap}
    (h1 : State.takes ctx img true 16 s ctr s1) (h2 : State.takes ctx img o.usesSrc 32 s1 src s2)
    (h3 : State.takes ctx img o.usesDst 48 s2 dst s3) (h4 : State.takes ctx img o.usesAux 64 s3 aux s4) :
    s.cardCaps ctx o img = (.ok [ctr, src, dst, aux], s4) := by
  rw [cardCaps_eq]
  simp only [List.foldl_cons, List.foldl_nil, takeGranule_of_takes h1, takeGranule_of_takes h2, takeGranule_of_takes h3,
    takeGranule_of_takes h4, List.nil_append, List.cons_append]

theorem execJobPacket_malformed {s : State} {slot : Nat} {q : Queue} {p : Packet} (h : s.Starts slot q p) (hk : p.kind = 2)
    (ho : operOf (fieldAt p.image 80 1) = none) : exec (.jobPacket slot) s = .next (s.setWait slot p.num (.done 1 0)) := by
  change execJobPacket slot s = _
  rw [execJobPacket, startPacket_of_starts h hk]
  simp only [ho]
  rfl

section
variable {s s1 s2 s3 s4 : State} {slot : Nat} {q : Queue} {p : Packet} {o : Oper} {ctr src dst aux : Cap}
  (h : s.Starts slot q p) (hk : p.kind = 2) (ho : operOf (fieldAt p.image 80 1) = some o)
  (hc : s.cardCaps q.ctx o p.image = (.ok [ctr, src, dst, aux], s4))
include h hk ho hc

theorem execJobPacket_card : exec (.jobPacket slot) s =
    (let st := s4.cardStatus q.ctx false p.image ctr src dst aux
     if st != stOk then .next (s4.endPacket slot p.num st)
     else (s4.engineFor (fieldAt p.image 2 2)).elim (.next (s4.endPacket slot p.num stHandle)) fun e =>
       .next ((s4.enqueue e (s4.makeJob q.ctx e p.image ctr src dst aux 0 false (some (slot, p.num)) stOk)).setWait slot
          p.num .job)) := by
  change execJobPacket slot s = _
  rw [execJobPacket, startPacket_of_starts h hk]
  simp only [ho, hc]
  cases s4.engineFor (fieldAt p.image 2 2) <;> rfl

theorem execJobPacket_bad (hst : s4.cardStatus q.ctx false p.image ctr src dst aux ≠ 0) :
    exec (.jobPacket slot) s = .next (s4.setWait slot p.num (.done (s4.cardStatus q.ctx false p.image ctr src dst aux) 0)) := by
  rw [execJobPacket_card h hk ho hc]
  dsimp only
  rw [if_pos (by simpa [stOk] using hst)]
  rfl

theorem execJobPacket_noEngine (hst : s4.cardStatus q.ctx false p.image ctr src dst aux = 0)
    (he : s4.engineFor (fieldAt p.image 2 2) = none) :
    exec (.jobPacket slot) s = .next (s4.setWait slot p.num (.done 2 0)) := by
  rw [execJobPacket_card h hk ho hc]
  dsimp only
  rw [if_neg (by simp [stOk, hst]), he]
  rfl

theorem execJobPacket_enqueues (hst : s4.cardStatus q.ctx false p.image ctr src dst aux = 0) {e : Nat}
    (he : s4.engineFor (fieldAt p.image 2 2) = some e) :
    ∃ t x, exec (.jobPacket slot) s = .next t ∧
      t.queues = (s4.setWait slot p.num .job).queues ∧ t.engineQueue e = s4.engineQueue e ++ [x] ∧
      (∀ k, k ≠ e → t.engineQueue k = s4.engineQueue k) ∧ t.mem = s4.mem ∧ t.team = s4.team ∧
      x.ctx = q.ctx ∧ x.oper = o ∧ x.ctr = ctr ∧ x.src = src ∧ x.dst = dst ∧ x.aux = aux ∧
      x.snarrow = fieldAt p.image 88 8 ∧ x.dnarrow = fieldAt p.image 96 8 ∧ x.len = fieldAt p.image 104 8 ∧
      x.p1 = fieldAt p.image 112 8 ∧
      x.p2 = fieldAt p.image 120 8 ∧ x.amount = BitVec.ofNat 64 (fieldAt p.image 8 8) ∧ x.tag = fieldAt p.image 4 4 ∧
      x.packet = some (slot, p.num) ∧ x.started = false ∧ x.ended = none := by
  have hx := execJobPacket_card h hk ho hc
  dsimp only at hx
  rw [if_neg (by simp [stOk, hst]), he] at hx
  refine ⟨_, s4.makeJob q.ctx e p.image ctr src dst aux 0 false (some (slot, p.num)) stOk, hx, rfl,
    SMap.getD_put_self _ _ _ _, fun k hk => SMap.getD_put_of_ne _ _ _ _ hk, rfl, rfl, rfl, ?_, rfl, rfl, rfl, rfl, rfl, rfl, rfl, rfl,
    rfl, rfl, rfl, rfl, rfl, rfl⟩
  simp [State.makeJob, ho]
end

/-! ## The end of jobs (R221, R231, R233, R238) -/

/-- The state without an engine's first job. -/
def State.popJob (s : State) (e : Nat) : State := { s with engines := SMap.put [] s.engines e ((s.engineQueue e).drop 1) }

theorem retireJob_packet (s : State) (e : Nat) {j : Job} {slot num : Nat} (h : j.packet = some (slot, num)) (st c : Nat) :
    s.retireJob e j st c = (s.popJob e).setWait slot num (.done st c) := by
  simp only [State.retireJob, h]
  rfl

theorem retireJob_ok (s : State) (e : Nat) {j : Job} (h : j.packet = none) (c : Nat) : s.retireJob e j 0 c = s.popJob e := by
  simp only [State.retireJob, h]
  rfl

theorem retireJob_failed (s : State) (e : Nat) {j : Job} (h : j.packet = none) {st : Nat} (hst : st ≠ 0) (cause : Nat) :
    s.retireJob e j st cause = (s.popJob e).jobRecord j.ctx e j.index st cause j.tag j.ticket := by
  simp only [State.retireJob, h]
  rw [if_neg (by exact hst)]
  rfl

section
variable {s : State} {e : Nat} {j : Job} (hj : s.headJob e = some j)
include hj

theorem execJobComplete_running (h : j.ended = none) : exec (.jobComplete e) s = .next s := by
  change execJobComplete e s = _
  simp only [execJobComplete, hj, h]

section
variable (hr : s.remotes = []) {st : Nat} (h : j.ended = some st)
include hr h

theorem execJobComplete_retires (hst : st ≠ 0 ∨ j.ctr = Cap.null) :
    exec (.jobComplete e) s = .next (s.retireJob e j st j.cause) := by
  have hrem : ({ s with remotes := [] } : State) = s := by rw [← hr]
  change execJobComplete e s = _
  simp only [execJobComplete, hj, h, State.engRemotes, hr, List.filter_nil, List.any_nil, List.findSome?_nil, hrem,
    Bool.false_eq_true, if_false]
  rw [if_pos (by exact hst)]

/-- A job that has ended well adds to its counter before it leaves its queue (R221). -/
theorem execJobComplete_adds (hn : s.snoops = []) (h0 : st = 0) (hctr : j.ctr ≠ Cap.null) {r : Nat × Nat} {s1 : State}
    (hadd : s.ctrAdd ⟨0, 0, 0, 0⟩ (some e) 0 j.ctx j.ticket j.super j.ctr j.amount = (some r, s1)) :
    exec (.jobComplete e) s = .next (s1.retireJob e j r.1 r.2) := by
  have hrem : ({ s with remotes := [] } : State) = s := by rw [← hr]
  have hst : ¬ (st ≠ stOk ∨ j.ctr = Cap.null) := by simp [h0, hctr, stOk]
  change execJobComplete e s = _
  simp only [execJobComplete, hj, h, State.engRemotes, hr, List.filter_nil, List.any_nil, List.findSome?_nil, hrem, hst,
    Bool.false_eq_true, if_false]
  simp only [hn, List.isEmpty_nil, Bool.not_true, Bool.false_eq_true, if_false, hadd]
end
end

theorem ctx_modCtx_self (s : State) (n : Nat) (f : Ctx → Ctx) : (s.modCtx n f).ctx? n = (s.ctx? n).map f := by
  rw [State.ctx?, State.modCtx, SMap.find_modify_self, State.ctx?]

theorem ctx_owe {s : State} {r : EventRec} {ctx : Nat} (hr : r.ctx = ctx) {c : Ctx} (h : s.ctx? ctx = some c) :
    (s.owe r).ctx? ctx =
      some { c with evtDue := c.evtDue ++ [{ r with flags := r.flags ||| (if c.viral then 8 else 0) }] } := by
  rw [State.owe, hr, ctx_modCtx_self, h]
  rfl

/-- The record of a failed job of an instruction is owed to its context. -/
theorem jobRecord_owed {s : State} {ctx : Nat} {c : Ctx} (h : s.ctx? ctx = some c) (e index st cause tag ticket : Nat) :
    let t := s.jobRecord ctx e index st cause tag ticket
    t = { s with ctxs := t.ctxs } ∧ ∃ c' r, t.ctx? ctx = some c' ∧ c'.evtDue = c.evtDue ++ [r] ∧ r.kind = 3 ∧ r.status = st ∧
      r.cause = cause ∧ r.tag = tag ∧ r.ticket = ticket ∧ r.number = e % 256 * 256 + index % 64 := by
  have hf := ctx_owe (r := { EventRec.plain 3 ctx s.domainClock with
    status := st, cause := cause, tag := tag, ticket := ticket, number := e % 256 * 256 + index % 64 }) rfl h
  exact ⟨rfl, _, _, hf, rfl, rfl, rfl, rfl, rfl, rfl, rfl⟩

end Sys2Proof.Machine
end

section
/-!
O54: LAUNCH packets (R234, R235, R249).
-/

namespace Sys2Proof.Machine

/-! ## Packets of a queue -/

theorem startable_mem {s : State} {slot : Nat} {q : Queue} {p : Packet} (hq : s.queue? slot = some q)
    (h : s.startable slot = some p) : p ∈ q.packets := by
  unfold State.startable at h
  simp only [hq] at h
  split at h
  · cases h
  · split at h
    · cases h
    · rename_i x hx
      have hx := List.mem_of_find?_eq_some hx
      repeat' split at h
      all_goals cases h
      exact hx

/-- A queue in which packet `num` has come to `w`. -/
def Queue.waits (q : Queue) (num : Nat) (w : PacketWait) : Queue :=
  { q with packets := q.packets.map fun p => if p.num = num then { p with wait := w } else p }

theorem queue_setWait {s : State} {slot : Nat} {q : Queue} (h : s.queue? slot = some q) (num : Nat) (w : PacketWait) :
    (s.setWait slot num w).queue? slot = some (q.waits num w) := by
  rw [State.queue?] at h
  simp [State.queue?, State.setWait, State.modPacket, State.modQueue, h, Queue.waits]

theorem queue_modQueue {s : State} {slot : Nat} {q : Queue} (h : s.queue? slot = some q) (f : Queue → Queue) :
    (s.modQueue slot f).queue? slot = some (f q) := by
  rw [State.queue?] at h
  simp [State.queue?, State.modQueue, h]

theorem mem_waits {q : Queue} {p : Packet} (h : p ∈ q.packets) (w : PacketWait) :
    ∃ p' ∈ (q.waits p.num w).packets, p'.num = p.num ∧ p'.wait = w :=
  ⟨_, List.mem_map_of_mem h, by simp⟩

/-! ## The launch -/

/-- A field of a launch's SHAPE is one of the packet's body (R234). -/
theorem fieldAt_bodyShape (img : List Byte) {k n : Nat} (h : k + n ≤ 14) : fieldAt (bodyShape img) k n = fieldAt img (32 + k) n := by
  rw [fieldAt, fieldAt, bodyShape, List.drop_take, List.take_take, List.drop_drop, Nat.min_eq_left (by omega)]

section
variable {s s1 s2 s3 : State} {slot : Nat} {q : Queue} {p : Packet} {k : Cap} {ks : List Cap} {d : List Byte}
  (h : s.Starts slot q p) (hk : p.kind = 1) (hw : bodyWellFormed p.image = true) (hctr : fieldAt p.image 2 2 = 0)
  (hcap : s.handleCap q.ctx (fieldAt p.image 16 2) = (.ok k, s1)) (hks : s1.bodyGranules q.ctx p.image = (.ok ks, s2))
  (hs2 : s2.specs = []) (hker : k.isKernel = true)
include h hk hw hctr hcap hks hs2 hker

/-- A LAUNCH whose handles resolve, with nothing running speculatively, is a plain launch. -/
theorem execLaunchPacket_plain : exec (.launchPacket slot) s = .next (s2.startLaunch slot q p k ks) := by
  change execLaunchPacket slot s = _
  rw [execLaunchPacket, startPacket_of_starts h hk]
  simp only [hw, Bool.not_true, Bool.false_eq_true, if_false, withCtr, hctr, if_true, hcap, hks, hker, hs2, List.find?_nil,
    discardSpecs_of_nil hs2]
end

section
variable {s s3 : State} {slot : Nat} {q : Queue} {p : Packet} {k : Cap} {ks : List Cap} {d : List Byte}
  (hd : s.descriptor q.ctx k = (.ok (some d), s3))
include hd

theorem startLaunch_invalid (hv : validate k d = none) :
    s.startLaunch slot q p k ks =
      (s3.modQueue slot fun q => q.note k (bodyShape p.image) ks).setWait slot p.num (.done 3 0) := by
  simp only [State.startLaunch, hd, hv]
  rfl

theorem startLaunch_waits {kn : Kernel} (hv : validate k d = some kn) (ha : s3.argBlock q.ctx ks = none) :
    s.startLaunch slot q p k ks = s3 := by
  simp only [State.startLaunch, hd, hv, ha]

end

/-- The launch that a LAUNCH packet becomes in the state in which its argument block is made. -/
def State.launchOf (u : State) (slot : Nat) (q : Queue) (p : Packet) (k : Cap) (kn : Kernel) (args : Cap) (src : Nat) : Launch :=
  { id := u.nextLaunch, ctx := q.ctx, queue := slot, number := p.num, tag := p.tag, priority := q.priority,
    gx := fieldAt (bodyShape p.image) 0 4 + 1, gy := fieldAt (bodyShape p.image) 4 4 + 1,
    gz := fieldAt (bodyShape p.image) 8 4 + 1, next := 0, again := [], shape := kn.shape, code := k, args := args,
    started := u.timebase, waiting := none, holds := false, overran := false, spec := none, argFrom := src }

/-- The state with a new launch, whose packet waits for it and is noted in its queue's history. -/
def State.launched (u : State) (slot : Nat) (p : Packet) (l : Launch) (e : Queue → Queue) : State :=
  (({ u with launches := u.launches ++ [l], nextLaunch := u.nextLaunch + 1 } : State).setWait slot p.num
    (.launch l.id)).modQueue slot e

theorem startLaunch_starts {s s3 u : State} {slot : Nat} {q : Queue} {p : Packet} {k : Cap} {ks : List Cap} {d : List Byte}
    {kn : Kernel} {args : Cap} {src : Nat} (hd : s.descriptor q.ctx k = (.ok (some d), s3)) (hv : validate k d = some kn)
    (ha : s3.argBlock q.ctx ks = some (args, src, u)) :
    s.startLaunch slot q p k ks =
      (State.dispatchAll 640 (u.launched slot p (u.launchOf slot q p k kn args src)
        fun q => q.note k (bodyShape p.image) ks)).noteWaits.speculate slot := by
  simp only [State.startLaunch, hd, hv, ha]
  rfl

/-- The device dispatches what it can: the new launch is among its launches, and its queue stands as it was left (R231, R249). -/
theorem dispatched_launched {u : State} (hs : u.specs = []) {slot : Nat} {q : Queue} (hq : u.queue? slot = some q) (p : Packet)
    (l : Launch) (f : Queue → Queue) :
    let t := (State.dispatchAll 640 (u.launched slot p l f)).noteWaits.speculate slot
    (∃ m ∈ t.launches, l.Same m) ∧ t.queue? slot = some (f (q.waits p.num (.launch l.id))) := by
  have hv : (u.launched slot p l f).specs = [] := hs
  obtain ⟨hw, hqs, hl⟩ := (dispatchAll_dispatched 640 (u.launched slot p l f)).trans (noteWaits_dispatched _) hv
  obtain ⟨hqs', hl'⟩ := speculate_keeps hw slot
  refine ⟨?_, ?_⟩
  · obtain ⟨m, hm, hsame⟩ := hl l (List.mem_append_right _ (List.mem_singleton_self l))
    exact ⟨m, hl' m hm, hsame⟩
  · rw [State.queue?, hqs', hqs]
    exact queue_modQueue (queue_setWait (s := { u with launches := _, nextLaunch := _ }) hq _ _) f

end Sys2Proof.Machine
end

section
/-!
O54: JOB packets and the end of jobs; LAUNCH packets and their shapes.
-/

namespace Sys2Proof.Machine

/-- Settles O54, by what each packet's start and each job's end does where nothing runs speculatively. -/
theorem jobAndLaunchPackets : Obligations.JobAndLaunchPackets := by
  intro s
  refine ⟨fun slot q p => execJobPacket_malformed, ?_, ?_, ?_⟩
  · intro slot q p o ctr src dst aux s1 s2 s3 s4 h hk ho img g h1 h2 h3 h4
    have hc := cardCaps_of_takes h1 h2 h3 h4
    exact ⟨execJobPacket_bad h hk ho hc, fun hst => ⟨execJobPacket_noEngine h hk ho hc hst,
      fun e => execJobPacket_enqueues h hk ho hc hst⟩⟩
  · intro e j hj hr hn
    refine ⟨execJobComplete_running hj, fun st hst => ?_⟩
    refine ⟨fun slot num hp => ⟨fun h => ?_, fun r s1 h0 hctr hadd => ?_⟩, fun hp => ⟨fun h0 hctr => ?_, fun c h0 hc => ?_⟩⟩
    · rw [execJobComplete_retires hj hr hst h, retireJob_packet s e hp]
      rfl
    · rw [execJobComplete_adds hj hr hst hn h0 hctr hadd, retireJob_packet s1 e hp]
      rfl
    · rw [execJobComplete_retires hj hr hst (.inr hctr), h0, retireJob_ok s e hp]
      rfl
    · rw [execJobComplete_retires hj hr hst (.inl h0), retireJob_failed s e hp h0]
      have hc : (s.popJob e).ctx? j.ctx = some c := hc
      obtain ⟨ht, c', r, hr⟩ := jobRecord_owed hc e j.index st j.cause j.tag j.ticket
      exact ⟨_, c', r, rfl, ht, hr⟩
  · intro slot q p k ks s1 s2 d s3 h hk hw hctr hcap hks hs2 hker hd hnext hs3 hq hids
    rw [execLaunchPacket_plain h hk hw hctr hcap hks hs2 hker]
    have hp : p ∈ q.packets := startable_mem h.1 h.2.1
    refine ⟨fun hv => ?_, fun kn hv => ⟨fun ha => ?_, fun args src u ha => ?_⟩⟩
    · rw [startLaunch_invalid hd hv]
      exact ⟨_, _, rfl, rfl, rfl, queue_setWait (queue_modQueue hq _) _ _, mem_waits hp _⟩
    · rw [startLaunch_waits hd hv ha]
    · rw [startLaunch_starts hd hv ha]
      obtain ⟨hu, huq, -, hun⟩ := argBlock_calm ha hs3
      have hq : u.queue? slot = some q := by rw [State.queue?, huq]; exact hq
      obtain ⟨⟨l, hl, hsame⟩, hqt⟩ := dispatched_launched hu hq p (u.launchOf slot q p k kn args src)
        fun q => q.note k (bodyShape p.image) ks
      have hid : u.nextLaunch = s.nextLaunch := hun.trans hnext
      rw [Launch.Same] at hsame
      refine ⟨_, (q.waits p.num (.launch u.nextLaunch)).note k (bodyShape p.image) ks, l, rfl, hl, ?_⟩
      rw [hsame, ← hid]
      exact ⟨rfl, rfl, rfl, rfl, rfl, rfl, congrArg (· + 1) (fieldAt_bodyShape _ (by decide)),
        congrArg (· + 1) (fieldAt_bodyShape _ (by decide)), congrArg (· + 1) (fieldAt_bodyShape _ (by decide)), rfl, rfl, rfl, hqt,
        mem_waits hp _, rfl⟩

end Sys2Proof.Machine
end

section
/-!
The frame of a mailbox command (R290, R291), and parameter words within their fields.
-/

namespace Sys2Proof.Machine

/-! ## Parameter words -/

/-- Every bit set in `x` is set in `mask`. -/
def Fits (mask x : Nat) : Prop := ∀ i, x.testBit i = true → mask.testBit i = true

/-- A field of `n` bits at bit `o`. -/
theorem fits_field {mask o n b : Nat} (hb : b < 2 ^ n) (hm : ∀ i, i < n → mask.testBit (o + i) = true) : Fits mask (2 ^ o * b) := by
  intro i hi
  rw [Nat.testBit_two_pow_mul] at hi
  simp only [Bool.and_eq_true, decide_eq_true_eq] at hi
  obtain ⟨ho, hi⟩ := hi
  have hlt : i - o < n := by
    by_contra hn
    rw [Nat.testBit_lt_two_pow (lt_of_lt_of_le hb (Nat.pow_le_pow_right (by decide) (Nat.le_of_not_lt hn)))] at hi
    cases hi
  have := hm (i - o) hlt
  rwa [Nat.add_sub_cancel' ho] at this

/-- Fields that do not meet. -/
theorem fits_add {mask o a b : Nat} (ha : a < 2 ^ o) (hfa : Fits mask a) (hfb : Fits mask (2 ^ o * b)) :
    Fits mask (a + 2 ^ o * b) := by
  intro i hi
  rw [Nat.add_comm, Nat.testBit_two_pow_mul_add _ ha] at hi
  split at hi
  · exact hfa i hi
  · refine hfb i ?_
    rw [Nat.testBit_two_pow_mul]
    rename_i ho
    simp [hi, Nat.le_of_not_lt ho]

theorem fits_low {mask n a : Nat} (ha : a < 2 ^ n) (hm : ∀ i, i < n → mask.testBit i = true) : Fits mask a := by
  have := fits_field (mask := mask) (o := 0) ha (by simpa using hm)
  simpa using this

theorem fits_zero (mask : Nat) : Fits mask 0 := fun i hi => by simp at hi

theorem and_not_of_fits {mask x : Nat} (h : Fits mask x) : BitVec.ofNat 64 x &&& ~~~(BitVec.ofNat 64 mask) = 0 := by
  refine BitVec.eq_of_getLsbD_eq fun i hi => ?_
  simp only [BitVec.getLsbD_and, BitVec.getLsbD_not, BitVec.getLsbD_ofNat, hi, decide_true, Bool.true_and, BitVec.ofNat_eq_ofNat]
  cases hx : x.testBit i with
  | false => simp
  | true => simp [h i hx]

/-- Parameter words within the masks of their fields. -/
def FitsAll : List Nat → List Nat → Prop
  | _, [] => True
  | [], x :: xs => x = 0 ∧ FitsAll [] xs
  | m :: ms, x :: xs => Fits m x ∧ FitsAll ms xs

theorem fits_getD {masks ps : List Nat} (h : FitsAll masks ps) (i : Nat) : Fits (masks.getD i 0) (ps.getD i 0) := by
  induction ps generalizing masks i with
  | nil => simpa using fits_zero _
  | cons x xs ih =>
    cases masks with
    | nil =>
      obtain ⟨rfl, h⟩ := h
      cases i with
      | zero => exact fits_zero _
      | succ i => simpa using ih h i
    | cons m ms =>
      obtain ⟨hx, h⟩ := h
      cases i with
      | zero => exact hx
      | succ i => simpa using ih h i

theorem fits_word {x : Nat} (h : x < 2 ^ 64) : Fits allBits x := fits_low h (by decide)

theorem toNat_word {x : Nat} (h : x < 2 ^ 64) : (BitVec.ofNat 64 x).toNat = x := by
  rw [BitVec.toNat_ofNat, Nat.mod_eq_of_lt h]

theorem mailFits_of {seq : Word} {ps masks : List Nat} (h : FitsAll masks ps) :
    mailFits (mailOf seq ps) masks = true := by
  have hz : (List.range 7).zip (mailParams (mailOf seq ps)) = (List.range 7).map fun i => (i, BitVec.ofNat 64 (ps.getD i 0)) := rfl
  rw [mailFits, hz, List.all_map, List.all_eq_true]
  intro i _
  simp only [Function.comp, beq_iff_eq]
  exact and_not_of_fits (fits_getD h i)

/-! ## Commands -/

/-- The device after a command that came to `e`. -/
def State.mailEnds (s : State) (seq : Word) : MailEnd → Out
  | .no st => .next (s.mailAnswered seq st [])
  | .done q t => .next (t.mailAnswered seq 0 q)
  | .later t => .next { t with mailBusy := some seq }

section
variable {s : State} {seq : Word} {ps masks : List Nat} {body : State → MailEnd} (hs : s.listens)
  (hf : FitsAll masks ps) (reset : Bool)
include hs

theorem not_mailDeaf : s.mailDeaf reset = false := by
  obtain ⟨hb, hr, hu⟩ := hs
  simp [State.mailDeaf, hb, hr, hu]

include hf

/-- What a command comes to is what its own rules come to (R291). -/
theorem mailCommand_eq : mailCommand (mailOf seq ps) masks body s reset = s.mailEnds seq (body s) := by
  have hr : ¬ ((mailOf seq ps).reserved ≠ 0 ∨ (!mailFits (mailOf seq ps) masks) = true) := by
    rw [mailFits_of hf]; simp [mailOf]
  rw [mailCommand, not_mailDeaf hs, if_neg (by decide), if_neg hr]
  cases body s <;> rfl
end

theorem onCtx_none {s : State} {n : Nat} (h : s.ctx? n = none) (body : State → Ctx → MailEnd) : onCtx n body s = .no 10 := by
  rw [onCtx, h]
  rfl

theorem onCtx_some {s : State} {n : Nat} {c : Ctx} (h : s.ctx? n = some c) (body : State → Ctx → MailEnd) :
    onCtx n body s = body s c := by
  rw [onCtx, h]

end Sys2Proof.Machine
end

section
/-!
Mailbox commands about the Orrery, the network, the injector, partitions, debug state and reset (R32, R263, R283, R305, R307).
-/

namespace Sys2Proof.Machine

theorem setWidth_word (x : Nat) : (BitVec.ofNat 64 x).setWidth 32 = BitVec.ofNat 32 x :=
  BitVec.eq_of_toNat_eq (by simp [BitVec.toNat_ofNat])

theorem word_eq_zero {x : Nat} (h : x < 2 ^ 64) : BitVec.ofNat 64 x = 0 ↔ x = 0 := by
  constructor
  · intro e
    have := congrArg BitVec.toNat e
    rwa [toNat_word h] at this
  · rintro rfl; rfl

/-- A number and flags above it. -/
theorem fits_pair {mask o w n b : Nat} (hn : n < 2 ^ o) (hb : b < 2 ^ w) (hm : ∀ i, i < o → mask.testBit i = true)
    (hm' : ∀ i, i < w → mask.testBit (o + i) = true) : Fits mask (n + 2 ^ o * b) :=
  fits_add hn (fits_low hn hm) (fits_field hb hm')

theorem mem_maskClusters {a b k : Nat} : k ∈ maskClusters a b ↔ k < 80 ∧ (a + b * 2 ^ 64) / 2 ^ k % 2 = 1 := by
  simp [maskClusters]

/-- True where a partition holds a confidential context. -/
def State.secretPart (s : State) (n : Nat) : Bool := s.ctxs.any fun x => x.2.partition == n && x.2.confidential

/-- A partition's debug state set (R305). -/
def State.setDebug (s : State) (n : Nat) (d : Debug) : State :=
  { s with partitions := s.partitions.modify n fun p => { p with debug := d } }

theorem setDebug_find {s : State} {n : Nat} {p : Partition} (h : s.partitions.find? n = some p) (d : Debug) :
    (s.setDebug n d).partitions.find? n = some { p with debug := d } := by
  simp [State.setDebug, h]

section
variable {s : State} {seq : Word} {n : Nat} (hs : s.listens) (hn : n < 256)
include hs

/-! ## The Orrery, the network and the injector -/

section
include hn

theorem orrery_parameters {b v k : Nat} (hb : b < 2) (hv : v < 2 ^ 32) (hk : k < 16) :
    exec (.orrery (mailOf seq [n + 256 * b, v, k])) s =
      (let t := if b = 1 then s.writeOrreryCtl n (BitVec.ofNat 32 v) else s
       .next (t.mailAnswered seq 0 [(t.orreryCtl.getD n 4).toNat, (t.orreryStat.getD (16 * n + k) 0).toNat])) := by
  change execOrrery _ s = _
  refine (mailCommand_eq hs ?_ _).trans ?_
  · exact ⟨fits_pair (o := 8) (w := 1) hn hb (by decide) (by decide), fits_low hv (by decide),
    fits_low (n := 4) hk (by decide), trivial⟩
  have h0 := toNat_word (x := n + 256 * b) (by omega)
  have h1 := setWidth_word v
  have h2 := toNat_word (x := k) (by omega)
  have hb' : bitsAt (n + 256 * b) 8 1 = b := by unfold bitsAt; omega
  simp only [mailOf, List.getD_cons_zero, List.getD_cons_succ, h0, h1, h2, hb', show (n + 256 * b) % 256 = n by omega]
  rfl

theorem orrery_write {v k : Nat} (hv : v < 2 ^ 32) (hk : k < 16) :
    s.Obeys .orrery seq [n + 256, v, k] [(orreryAfter (s.orreryCtl.getD n 4) (BitVec.ofNat 32 v)).toNat,
      (s.orreryStat.getD (16 * n + k) 0).toNat] fun t => t = s.writeOrreryCtl n (BitVec.ofNat 32 v) := by
  refine ⟨_, ?_, rfl⟩
  have hc : SMap.getD (s.writeOrreryCtl n (BitVec.ofNat 32 v)).orreryCtl n 4 =
      orreryAfter (s.orreryCtl.getD n 4) (BitVec.ofNat 32 v) := SMap.getD_put_self _ _ _ _
  have := orrery_parameters (seq := seq) hs hn (b := 1) (by decide) hv hk
  dsimp only at this
  rw [if_pos rfl, hc] at this
  exact this

theorem orrery_read {v k : Nat} (hv : v < 2 ^ 32) (hk : k < 16) :
    s.Obeys .orrery seq [n, v, k] [(s.orreryCtl.getD n 4).toNat, (s.orreryStat.getD (16 * n + k) 0).toNat] fun t => t = s :=
  ⟨_, orrery_parameters (seq := seq) hs hn (b := 0) (by decide) hv hk, rfl⟩
end

theorem nocWeight_sets {v : Nat} (hv : v < 4096) :
    s.Obeys .nocWeight seq [v] [] fun t => t = { s with nocWeight := BitVec.ofNat 32 v } := by
  refine ⟨_, ?_, rfl⟩
  change execNocWeight _ s = _
  refine (mailCommand_eq hs ?_ _).trans ?_
  · exact ⟨fits_low (n := 12) hv (by decide), trivial⟩
  rw [← setWidth_word v]
  rfl

theorem inject_parameters {v seed rate : Nat} (hv : v < 2 ^ 32) (hseed : seed < 2 ^ 64) (hrate : rate < 2 ^ 32) :
    exec (.inject (mailOf seq [v, seed, rate])) s =
      if 6 ≤ v / 2 % 8 then .next (s.mailAnswered seq 1 [])
      else if v % 2 = 1 ∧ s.testCtx (v / 256 % 256) = false then .next (s.mailAnswered seq 10 [])
      else .next (({ s with injCtl := BitVec.ofNat 32 v &&& 0xFFFFFF0F, injRate := BitVec.ofNat 32 rate,
                            injSeed := if seed = 0 then s.injSeed else BitVec.ofNat 64 seed } : State).mailAnswered seq 0 []) := by
  change execInject _ s = _
  refine (mailCommand_eq hs ?_ _).trans ?_
  · exact ⟨fits_low hv (by decide), fits_word hseed, fits_low hrate (by decide), trivial⟩
  have h0 := setWidth_word v
  have h2 := setWidth_word rate
  have hkind : injKind (BitVec.ofNat 32 v) = v / 2 % 8 := by
    rw [injKind, BitVec.toNat_ofNat, Nat.mod_eq_of_lt hv]; rfl
  have hctx : injContext (BitVec.ofNat 32 v) = v / 256 % 256 := by
    rw [injContext, BitVec.toNat_ofNat, Nat.mod_eq_of_lt hv]; rfl
  have hen : injEn (BitVec.ofNat 32 v) = decide (v % 2 = 1) := by
    rw [injEn, BitVec.getLsbD_ofNat, Nat.testBit_zero]
    simp
  simp only [mailOf, List.getD_cons_zero, List.getD_cons_succ, h0, h2, hkind, hctx, hen, State.writeInjCtl, word_eq_zero hseed]
  by_cases hk : 6 ≤ v / 2 % 8
  · rw [if_pos hk, if_pos hk]
    rfl
  · rw [if_neg hk, if_neg hk]
    by_cases ht : v % 2 = 1 ∧ s.testCtx (v / 256 % 256) = false
    · rw [if_pos ht, if_pos (by simp [ht])]
      rfl
    · have hno : ¬ ((decide (v % 2 = 1) && !s.testCtx (v / 256 % 256)) = true) := by simpa using ht
      have hno' : ¬ ((decide (6 ≤ v / 2 % 8) || decide (v % 2 = 1) && !s.testCtx (v / 256 % 256)) = true) := by
        simpa [hk] using ht
      rw [if_neg ht, if_neg hno, if_neg hno']
      rfl

section
variable {v seed rate : Nat} (hv : v < 2 ^ 32) (hseed : seed < 2 ^ 64) (hrate : rate < 2 ^ 32)
include hv hseed hrate

theorem inject_badKind (h6 : 6 ≤ v / 2 % 8) : s.Declines .inject seq [v, seed, rate] 1 := by
  have he := inject_parameters (seq := seq) hs hv hseed hrate
  rwa [if_pos h6] at he

variable (h6 : v / 2 % 8 < 6)
include h6

theorem inject_noTest (h1 : v % 2 = 1) (ht : s.testCtx (v / 256 % 256) = false) : s.Declines .inject seq [v, seed, rate] 10 := by
  have he := inject_parameters (seq := seq) hs hv hseed hrate
  rwa [if_neg (Nat.not_le_of_lt h6), if_pos ⟨h1, ht⟩] at he

theorem inject_sets (ht : v % 2 = 1 → s.testCtx (v / 256 % 256) = true) :
    s.Obeys .inject seq [v, seed, rate] [] fun t =>
      t = { s with injCtl := BitVec.ofNat 32 v &&& 0xFFFFFF0F, injRate := BitVec.ofNat 32 rate,
                   injSeed := if seed = 0 then s.injSeed else BitVec.ofNat 64 seed } := by
  have he := inject_parameters (seq := seq) hs hv hseed hrate
  rw [if_neg (Nat.not_le_of_lt h6), if_neg fun h => Bool.noConfusion (h.2.symm.trans (ht h.1))] at he
  exact ⟨_, he, rfl⟩
end

/-! ## Partitions and debug state -/

section
include hn

theorem partition_defines {lo hi test : Nat} (hlo : lo < 2 ^ 64) (hhi : hi < 65536) (ht : test < 2) :
    s.Obeys .partition seq [n + 256 * test, lo, hi] [] fun t => t = { s with partitions := t.partitions } ∧
      (∀ k, k ≠ n → t.partitions.find? k = s.partitions.find? k) ∧ ∃ p, t.partitions.find? n = some p ∧
        p.test = decide (test = 1) ∧ (∀ k, k ∈ p.clusters ↔ k < 80 ∧ (lo + hi * 2 ^ 64) / 2 ^ k % 2 = 1) ∧
        p.debug = s.debugOf n := by
  let old : Partition := (s.partitions.find? n).getD ⟨[], false, .locked, .running⟩
  let new : Partition := { old with clusters := maskClusters lo hi, test := decide (test = 1) }
  refine ⟨{ s with partitions := s.partitions.insert n new }, ?_, rfl, fun k hk => SMap.find_insert_of_ne _ _ hk,
    new, SMap.find_insert_self _ _ _, rfl, fun k => mem_maskClusters, ?_⟩
  · change execPartition _ s = _
    refine (mailCommand_eq hs ?_ _).trans ?_
    · exact ⟨fits_pair (o := 8) (w := 1) hn ht (by decide) (by decide), fits_word hlo,
      fits_low (n := 16) hhi (by decide), trivial⟩
    have h0 := toNat_word (x := n + 256 * test) (by omega)
    have h1 := toNat_word (x := lo) hlo
    have h2 := toNat_word (x := hi) (by omega)
    have hb : bitsAt (n + 256 * test) 8 1 = test := by unfold bitsAt; omega
    simp only [mailOf, List.getD_cons_zero, List.getD_cons_succ, h0, h1, h2, hb, show (n + 256 * test) % 256 = n by omega]
    rfl
  · change old.debug = _
    unfold old State.debugOf
    cases s.partitions.find? n <;> rfl

end

section
include hn

theorem debugState_parameters {d : Nat} (hd : d < 4) :
    exec (.debugState (mailOf seq [n + 256 * d])) s = s.mailEnds seq (
      if d = 0 then .done [] (s.setDebug n .locked)
      else if d = 1 then (if s.secretPart n || (s.partitions.find? n).isNone then .no stRefused else .done [] (s.setDebug n .tenant))
      else if d = 2 then (if s.secretPart n || !((s.partitions.find? n).any Partition.test) then .no stRefused
        else .done [] (s.setDebug n .vendor))
      else .no stMalformed) := by
  change execDebugState _ s = _
  refine (mailCommand_eq hs ?_ _).trans ?_
  · exact ⟨fits_pair (o := 8) (w := 2) hn hd (by decide) (by decide), trivial⟩
  have h0 := toNat_word (x := n + 256 * d) (by omega)
  have hb : bitsAt (n + 256 * d) 8 2 = d := by unfold bitsAt; omega
  simp only [mailOf, List.getD_cons_zero, List.getD_cons_succ, h0, hb, show (n + 256 * d) % 256 = n by omega]
  obtain rfl | rfl | rfl | rfl : d = 0 ∨ d = 1 ∨ d = 2 ∨ d = 3 := by omega
  all_goals rfl

theorem debugState_secret (hsec : s.secretPart n = true) : s.Declines .debugState seq [n + 256] 10 := by
  have := debugState_parameters (seq := seq) (d := 1) hs hn (by decide)
  rw [if_neg (by decide), if_pos rfl, if_pos (by simp [hsec])] at this
  exact this

variable {p : Partition} (hp : s.partitions.find? n = some p)
include hp

theorem debugState_locks : s.Obeys .debugState seq [n] [] fun t => t.partitions.find? n = some { p with debug := .locked } :=
  ⟨_, debugState_parameters (d := 0) hs hn (by decide), setDebug_find hp _⟩

theorem debugState_opens (hsec : s.secretPart n = false) :
    s.Obeys .debugState seq [n + 256] [] fun t => t.partitions.find? n = some { p with debug := .tenant } := by
  refine ⟨s.setDebug n .tenant, ?_, setDebug_find hp _⟩
  have := debugState_parameters (seq := seq) (d := 1) hs hn (by decide)
  simpa [hsec, hp, State.mailEnds] using this

theorem debugState_vendor (hsec : s.secretPart n = false) (ht : p.test = true) :
    s.Obeys .debugState seq [n + 512] [] fun t => t.partitions.find? n = some { p with debug := .vendor } := by
  refine ⟨s.setDebug n .vendor, ?_, setDebug_find hp _⟩
  have := debugState_parameters (seq := seq) (d := 2) hs hn (by decide)
  simpa [hsec, hp, ht, State.mailEnds] using this

theorem debugState_noVendor (h : s.secretPart n = true ∨ p.test = false) : s.Declines .debugState seq [n + 512] 10 := by
  have hc : (s.secretPart n || !((s.partitions.find? n).any Partition.test)) = true := by
    rcases h with h | h <;> simp [h, hp]
  have := debugState_parameters (seq := seq) (d := 2) hs hn (by decide)
  rw [if_neg (by decide), if_neg (by decide), if_pos rfl, if_pos hc] at this
  exact this
end

/-! ## Reset -/

theorem reset_without : s.Obeys .reset seq [0] [] fun t => t = s := by
  refine ⟨_, ?_, rfl⟩
  change execReset _ s = _
  refine (mailCommand_eq hs ?_ _).trans ?_
  · exact ⟨fits_zero _, trivial⟩
  rfl

theorem reset_due : s.Obeys .reset seq [1] [] fun t => t.resetDue = true ∧ t.copies = [] ∧ t.pstate = 2 ∧
    (s.copies = [] → t = { s with resetDue := true, pstate := 2 }) := by
  refine ⟨{ s.preamble with resetDue := true, pstate := 2 }, ?_, rfl, evictAll_true_copies s, rfl, fun hc => ?_⟩
  · change execReset _ s = _
    refine (mailCommand_eq hs ?_ _).trans ?_
    · exact ⟨fits_low (n := 1) (by decide) (by decide), trivial⟩
    rfl
  · rw [State.preamble, evictAll_of_nil hc]
end

end Sys2Proof.Machine
end

section
/-!
Mailbox commands about frames, pages, grants and quotas (R189, R192, R197, R198, R297, R459).
-/

namespace Sys2Proof.Machine

theorem ctx_setCtx {s : State} {n : Nat} {c : Ctx} (h : s.ctx? n = some c) (f : Ctx → Ctx) : (s.modCtx n f).ctx? n = some (f c) := by
  rw [ctx_modCtx_self, h]
  rfl

theorem fits_number {n : Nat} (hn : n < 256) : Fits 0xFF n := fits_low (n := 8) hn (by decide)

/-! ## Frames -/

/-- A context without the first frames of its pool, which a Bilran L puts into its extent reserve (R192, R198). -/
def Ctx.giveUp (fs : List Nat) (l : Bool) (c : Ctx) : Ctx :=
  { c with pool := c.pool.drop fs.length, reserve := if l then c.reserve ++ fs else c.reserve }

theorem mem_freshFrames {s : State} {k f : Nat} (h : f ∈ s.freshFrames k) : f < s.localFrames ∧ s.owner.getD f 0 = 0 := by
  unfold State.freshFrames at h
  split at h
  · cases h
  · have h := List.mem_of_mem_take h
    rw [List.mem_filter] at h
    obtain ⟨hf, ho⟩ := h
    obtain ⟨i, -, rfl⟩ := List.mem_map.1 hf
    refine ⟨Nat.mod_lt _ ?_, by simpa using ho⟩
    unfold State.localFrames
    split <;> decide

section
variable {s : State} {seq : Word} {n : Nat} (hs : s.listens) (hn : n < 256)
include hs hn

section
variable {k : Nat} (hk : k < 2 ^ 64)
include hk

theorem frames_noCtx (h : s.ctx? n = none) :
    s.Declines .frameGrant seq [n, k] 10 ∧ s.Declines .frameReclaim seq [n, k] 10 ∧ s.Declines .quotaSet seq [n, k] 10 := by
  have hm : s.ctx? (BitVec.ofNat 64 n).toNat = none := by rw [toNat_word (by omega)]; exact h
  have refused : ∀ body, mailCommand (mailOf seq [n, k]) [0xFF, allBits] (onCtx (BitVec.ofNat 64 n).toNat body) s =
      .next (s.mailAnswered seq 10 []) := by
    intro body
    rw [mailCommand_eq hs (show FitsAll [0xFF, allBits] [n, k] from ⟨fits_number hn, fits_word hk, trivial⟩), onCtx_none hm]
    rfl
  exact ⟨refused _, refused _, refused _⟩

variable {c : Ctx} (hc : s.ctx? n = some c)
include hc

theorem quotaSet_sets : s.Obeys .quotaSet seq [n, k] [] fun t => t = s.modCtx n fun c => { c with quota := k } := by
  refine ⟨_, ?_, rfl⟩
  change execQuotaSet _ s = _
  refine (mailCommand_eq hs ?_ _).trans ?_
  · exact ⟨fits_number hn, fits_word hk, trivial⟩
  have h0 := toNat_word (x := n) (by omega)
  have h1 := toNat_word (x := k) hk
  simp only [mailOf, List.getD_cons_zero, List.getD_cons_succ, h0, h1]
  rw [onCtx_some hc]
  rfl

theorem frameGrant_parameters :
    exec (.frameGrant (mailOf seq [n, k])) s = s.mailEnds seq (
      if c.quota < s.heldFrames n c + k then .no stRefused
      else if s.isL then
        if c.reserve.length < k then .no stRefused
        else .done [c.pool.length + k] (s.modCtx n fun c =>
          { c with pool := c.pool ++ c.reserve.take k, reserve := c.reserve.drop k })
      else if (s.freshFrames k).length < k then .no stRefused
      else .done [c.pool.length + k] (State.modCtx { s.tick with
          owner := (s.freshFrames k).foldl (fun o f => SMap.put 0 o f (n + 1)) s.owner } n
            fun c => { c with pool := c.pool ++ s.freshFrames k })) := by
  change execFrameGrant _ s = _
  refine (mailCommand_eq hs ?_ _).trans ?_
  · exact ⟨fits_number hn, fits_word hk, trivial⟩
  have h0 := toNat_word (x := n) (by omega)
  have h1 := toNat_word (x := k) hk
  simp only [mailOf, List.getD_cons_zero, List.getD_cons_succ, h0, h1]
  rw [onCtx_some hc]

theorem frameGrant_overQuota (h : c.quota < s.heldFrames n c + k) : s.Declines .frameGrant seq [n, k] 10 := by
  have := frameGrant_parameters (seq := seq) hs hn hk hc
  rw [if_pos h] at this
  exact this

theorem frameGrant_short (h : s.heldFrames n c + k ≤ c.quota) (hl : s.isL = false) (hf : (s.freshFrames k).length < k) :
    s.Declines .frameGrant seq [n, k] 10 := by
  have := frameGrant_parameters (seq := seq) hs hn hk hc
  rw [if_neg (by omega), if_neg (by simp [hl]), if_pos hf] at this
  exact this

theorem frameGrant_fresh (h : s.heldFrames n c + k ≤ c.quota) (hl : s.isL = false) (hf : (s.freshFrames k).length = k) :
    s.Obeys .frameGrant seq [n, k] [c.pool.length + k] fun t => ∃ c' fs, t.ctx? n = some c' ∧ c'.pool = c.pool ++ fs ∧
      fs.length = k ∧ ∀ f ∈ fs, f < hFrames ∧ s.owner.getD f 0 = 0 ∧ t.owner.getD f 0 = n + 1 := by
  have := frameGrant_parameters (seq := seq) hs hn hk hc
  rw [if_neg (by omega), if_neg (by simp [hl]), if_neg (by omega)] at this
  refine ⟨_, this, _, s.freshFrames k, ctx_setCtx hc _, rfl, hf, fun f hm => ?_⟩
  obtain ⟨hlt, ho⟩ := mem_freshFrames hm
  refine ⟨by simpa [State.localFrames, hl] using hlt, ho, ?_⟩
  dsimp only [State.modCtx]
  rw [getD_foldl_put, if_pos hm, if_neg (by omega)]

theorem frameGrant_noReserve (h : s.heldFrames n c + k ≤ c.quota) (hl : s.isL = true) (hr : c.reserve.length < k) :
    s.Declines .frameGrant seq [n, k] 10 := by
  have := frameGrant_parameters (seq := seq) hs hn hk hc
  rw [if_neg (by omega), if_pos hl, if_pos hr] at this
  exact this

theorem frameGrant_reserve (h : s.heldFrames n c + k ≤ c.quota) (hl : s.isL = true) (hr : k ≤ c.reserve.length) :
    s.Obeys .frameGrant seq [n, k] [c.pool.length + k] fun t => t = s.modCtx n fun c =>
      { c with pool := c.pool ++ c.reserve.take k, reserve := c.reserve.drop k } := by
  have := frameGrant_parameters (seq := seq) hs hn hk hc
  rw [if_neg (by omega), if_pos hl, if_neg (by omega)] at this
  exact ⟨_, this, rfl⟩

theorem frameReclaim_returns (hsp : s.specs = []) :
    s.Obeys .frameReclaim seq [n, k] [min k c.pool.length] fun t => ∃ c',
      t.ctx? n = some c' ∧ c'.pool = c.pool.drop k ∧
      (s.isL = false → ∀ f ∈ c.pool.take k, t.owner.getD f 0 = 0) ∧
      (s.isL = true → t.owner = s.owner ∧ c'.reserve = c.reserve ++ c.pool.take k) := by
  obtain ⟨tlbs, he⟩ : ∃ tlbs, exec (.frameReclaim (mailOf seq [n, k])) s = s.mailEnds seq (.done [min k c.pool.length] (
      let t := ({ s with tlbs := tlbs } : State).modCtx n (Ctx.giveUp (c.pool.take k) s.isL)
      if s.isL then t else { t with owner := t.owner.filter fun x => !(c.pool.take k).contains x.1 })) := by
    refine ⟨(s.shootDown n fun page => s.tlbs.any fun x => x.2.any fun e =>
      e.covers n page && pteLoc (e.pte page) == 0 && (c.pool.take k).contains (pteFrame (e.pte page))).tlbs, ?_⟩
    change execFrameReclaim _ s = _
    refine (mailCommand_eq hs ?_ _).trans ?_
    · exact ⟨fits_number hn, fits_word hk, trivial⟩
    have h0 := toNat_word (x := n) (by omega)
    have h1 := toNat_word (x := k) hk
    simp only [mailOf, List.getD_cons_zero, List.getD_cons_succ, h0, h1]
    rw [onCtx_some hc, shootDown_of_nil hsp, ← List.length_take]
    rfl
  have hctx := ctx_setCtx (s := { s with tlbs := tlbs }) hc (Ctx.giveUp (c.pool.take k) s.isL)
  have hpool : (Ctx.giveUp (c.pool.take k) s.isL c).pool = c.pool.drop k := by
    rw [Ctx.giveUp, List.length_take]
    rcases Nat.le_total k c.pool.length with h | h
    · rw [Nat.min_eq_left h]
    · rw [Nat.min_eq_right h, List.drop_length, List.drop_eq_nil_of_le h]
  refine ⟨_, he, Ctx.giveUp (c.pool.take k) s.isL c, ?_, hpool, fun hl f hf => ?_, fun hl => ?_⟩
  · split <;> exact hctx
  · simp only [hl, Bool.false_eq_true, if_false]
    exact (getD_filter_not_mem _ _ _ _).trans (if_pos hf)
  · simp only [hl, if_true]
    exact ⟨rfl, by simp only [Ctx.giveUp, if_true]⟩
end
end

end Sys2Proof.Machine
end

section
/-!
Fields of 128-bit entries, and the bytes of a written copy.
-/

namespace Sys2Proof.Machine

/-! ## Fields -/

theorem testBit_bitsAt (x lo n j : Nat) : (bitsAt x lo n).testBit j = (decide (j < n) && x.testBit (lo + j)) := by
  rw [bitsAt, Nat.testBit_mod_two_pow, Nat.testBit_div_two_pow, Nat.add_comm]

/-- A field replaced: its bits are the value's, every other bit is the entry's. -/
theorem getLsbD_setField (b : BitVec 128) {lo n : Nat} (h : lo + n ≤ 128) (x i : Nat) :
    (setField b lo n x).getLsbD i = if lo ≤ i ∧ i < lo + n then x.testBit (i - lo) else b.getLsbD i := by
  have low := Nat.mod_lt b.toNat (Nat.two_pow_pos lo)
  have hb := b.isLt
  have hx := Nat.mod_lt x (Nat.two_pow_pos n)
  have split1 := Nat.mod_add_div b.toNat (2 ^ lo)
  have split2 := Nat.mod_add_div (b.toNat / 2 ^ lo) (2 ^ n)
  have hv : b.toNat - bitsAt b.toNat lo n * 2 ^ lo + x % 2 ^ n * 2 ^ lo =
      2 ^ lo * (2 ^ n * (b.toNat / 2 ^ lo / 2 ^ n) + x % 2 ^ n) + b.toNat % 2 ^ lo := by
    rw [bitsAt]
    generalize hq : b.toNat / 2 ^ lo / 2 ^ n = q at *
    generalize hf : b.toNat / 2 ^ lo % 2 ^ n = f at *
    rw [← split2] at split1
    generalize b.toNat % 2 ^ lo = l at *
    generalize x % 2 ^ n = y at *
    rw [← split1, Nat.mul_add, Nat.mul_add, Nat.mul_comm f, Nat.mul_comm y]
    omega
  have hbit : ∀ i, (2 ^ lo * (2 ^ n * (b.toNat / 2 ^ lo / 2 ^ n) + x % 2 ^ n) + b.toNat % 2 ^ lo).testBit i =
      if lo ≤ i ∧ i < lo + n then x.testBit (i - lo) else b.getLsbD i := by
    intro i
    rw [Nat.testBit_two_pow_mul_add _ low, Nat.testBit_two_pow_mul_add _ hx, Nat.testBit_mod_two_pow, Nat.testBit_mod_two_pow,
      Nat.testBit_div_two_pow, Nat.testBit_div_two_pow, BitVec.getLsbD]
    by_cases h1 : i < lo
    · simp [h1, Nat.not_le_of_lt h1]
    · have h1' : lo ≤ i := Nat.le_of_not_lt h1
      by_cases h2 : i - lo < n
      · have : i < lo + n := by omega
        simp [h1, h1', h2, this]
      · have : ¬ i < lo + n := by omega
        simp [h1, h2, this, show i - lo - n + n + lo = i by omega]
  rw [setField, BitVec.getLsbD_ofNat, hv, hbit]
  by_cases hi : i < 128
  · simp [hi]
  · have : ¬ (lo ≤ i ∧ i < lo + n) := by omega
    simp [hi, this, BitVec.getLsbD_of_ge b i (by omega)]

theorem bitsAt_setField (b : BitVec 128) {lo n : Nat} (h : lo + n ≤ 128) (x : Nat) :
    bitsAt (setField b lo n x).toNat lo n = x % 2 ^ n := by
  refine Nat.eq_of_testBit_eq fun j => ?_
  have := getLsbD_setField b h x (lo + j)
  rw [BitVec.getLsbD] at this
  rw [testBit_bitsAt, Nat.testBit_mod_two_pow, this]
  by_cases hj : j < n
  · have : lo + j < lo + n := by omega
    simp [hj]
  · simp [hj]

/-- A field that another's replacement does not meet. -/
theorem bitsAt_setField_of_ne (b : BitVec 128) {lo n lo' n' : Nat} (h : lo + n ≤ 128) (x : Nat) (hd : lo' + n' ≤ lo ∨ lo + n ≤ lo') :
    bitsAt (setField b lo n x).toNat lo' n' = bitsAt b.toNat lo' n' := by
  refine Nat.eq_of_testBit_eq fun j => ?_
  have := getLsbD_setField b h x (lo' + j)
  rw [BitVec.getLsbD, BitVec.getLsbD] at this
  rw [testBit_bitsAt, testBit_bitsAt, this]
  by_cases hj : j < n'
  · have : ¬ (lo ≤ lo' + j ∧ lo' + j < lo + n) := by omega
    rw [if_neg this]
  · simp [hj]

theorem setField_and_not (e : BitVec 128) : setField e 10 2 0 = e &&& ~~~0xC00 := by
  refine BitVec.eq_of_getLsbD_eq fun i hi => ?_
  have hm : (0xC00 : BitVec 128).getLsbD i = decide (10 ≤ i ∧ i < 12) := by
    have : ∀ i : Fin 128, (0xC00 : BitVec 128).getLsbD i = decide (10 ≤ i.1 ∧ i.1 < 12) := by decide
    exact this ⟨i, hi⟩
  rw [getLsbD_setField e (by decide), BitVec.getLsbD_and, BitVec.getLsbD_not, hm]
  by_cases h : 10 ≤ i ∧ i < 12
  · simp [h, hi]
  · simp [h, hi]

end Sys2Proof.Machine
end

section
/-!
Mailbox commands about pages and about frames elsewhere (R189, R192, R297, R459).
-/

namespace Sys2Proof.Machine

/-- An entry that PAGE_MAP does not take, or an address beyond the highest (R187). -/
def mapsBad (va : Nat) (e : BitVec 128) : Prop :=
  2 ^ 57 ≤ va ∨ pteType e = 1 ∨ pteType e = 3 ∨ (pteType e = 2 ∧ pteReserved e = true)

theorem mapsBad_iff {va : Nat} (hva : va < 2 ^ 64) (e : BitVec 128) :
    (decide (vaTop ≤ (BitVec.ofNat 64 va).toNat) || pteType e == 1 || pteType e == 3 || (pteType e == 2 && pteReserved e)) = true ↔
      mapsBad va e := by
  simp only [Bool.or_eq_true, Bool.and_eq_true, decide_eq_true_eq, beq_iff_eq, toNat_word hva, mapsBad, or_assoc]
  rfl

section
variable {s : State} {seq : Word} {n : Nat} (hs : s.listens) (hn : n < 256) {c : Ctx} (hc : s.ctx? n = some c)
include hs hn hc

/-! ## Pages -/

section
variable {va lo hi : Nat} (hva : va < 2 ^ 64) (hlo : lo < 2 ^ 64) (hhi : hi < 2 ^ 64)
include hva hlo hhi

omit hc in
theorem pageMap_bad (h : mapsBad va (BitVec.ofNat 64 hi ++ BitVec.ofNat 64 lo)) :
    s.Declines .pageMap seq [n, va, lo, hi] 1 := by
  change execPageMap _ s = _
  refine (mailCommand_eq hs ?_ _).trans ?_
  · exact ⟨fits_number hn, fits_word hva, fits_word hlo, fits_word hhi, trivial⟩
  simp only [mailOf, List.getD_cons_zero, List.getD_cons_succ]
  rw [if_pos ((mapsBad_iff hva _).2 h)]
  rfl

theorem pageMap_good (h : ¬ mapsBad va (BitVec.ofNat 64 hi ++ BitVec.ofNat 64 lo)) {x : MapEnd} {t : State}
    (hx : s.pgmap n (BitVec.ofNat 64 va) (BitVec.ofNat 64 hi ++ BitVec.ofNat 64 lo) = (x, t)) :
    exec (.pageMap (mailOf seq [n, va, lo, hi])) s = s.mailEnds seq (if x = .done then .done [] t else .no stRefused) := by
  change execPageMap _ s = _
  refine (mailCommand_eq hs ?_ _).trans ?_
  · exact ⟨fits_number hn, fits_word hva, fits_word hlo, fits_word hhi, trivial⟩
  have h0 := toNat_word (x := n) (by omega)
  simp only [mailOf, List.getD_cons_zero, List.getD_cons_succ, h0]
  rw [if_neg (mt (mapsBad_iff hva _).1 h), onCtx_some hc, hx]
  cases x <;> rfl

theorem pageMap_fails (h : ¬ mapsBad va (BitVec.ofNat 64 hi ++ BitVec.ofNat 64 lo)) {x : MapEnd} {t : State}
    (hx : s.pgmap n (BitVec.ofNat 64 va) (BitVec.ofNat 64 hi ++ BitVec.ofNat 64 lo) = (x, t)) (hne : x ≠ .done) :
    s.Declines .pageMap seq [n, va, lo, hi] 10 := by
  have he := pageMap_good (seq := seq) hs hn hc hva hlo hhi h hx
  rwa [if_neg hne] at he
end

theorem pageState_parameters {va b : Nat} (hva : va < 2 ^ 64) (hb : b < 2) :
    exec (.pageState (mailOf seq [n, va, b])) s = s.mailEnds seq (
      if 2 ^ 57 ≤ va then .no 1
      else .done [(c.pte (va / 65536)).toNat / 1024 % 4 * 1024] (s.pageState n va (decide (b = 1))).2) := by
  change execPageState _ s = _
  refine (mailCommand_eq hs ?_ _).trans ?_
  · exact ⟨fits_number hn, fits_word hva, fits_low (n := 1) hb (by decide), trivial⟩
  have h0 := toNat_word (x := n) (by omega)
  have hb' : (BitVec.ofNat 64 b == 1) = decide (b = 1) := by
    obtain rfl | rfl : b = 0 ∨ b = 1 := by omega
    all_goals rfl
  simp only [mailOf, List.getD_cons_zero, List.getD_cons_succ, toNat_word hva, h0, hb']
  rw [onCtx_some hc, State.pageState, hc]
  rfl

theorem pageState_high {va : Nat} (hva : va < 2 ^ 64) (h : 2 ^ 57 ≤ va) : s.Declines .pageState seq [n, va] 1 := by
  have he := pageState_parameters (seq := seq) hs hn hc (b := 0) hva (by decide)
  rwa [if_pos h] at he

theorem pageState_shows {va : Nat} (hva : va < 2 ^ 57) :
    s.Obeys .pageState seq [n, va] [(c.pte (va / 65536)).toNat / 1024 % 4 * 1024] fun t => t = s := by
  have he := pageState_parameters (seq := seq) hs hn hc (b := 0) (show va < 2 ^ 64 by omega) (by decide)
  rw [if_neg (by omega)] at he
  exact ⟨_, he, rfl⟩

theorem pageState_clears {va : Nat} (hva : va < 2 ^ 57) (hsp : s.specs = []) :
    s.Obeys .pageState seq [n, va, 1] [(c.pte (va / 65536)).toNat / 1024 % 4 * 1024] fun t =>
      ∃ c', t.ctx? n = some c' ∧ c'.pte (va / 65536) = c.pte (va / 65536) &&& ~~~0xC00 := by
  have he := pageState_parameters (seq := seq) hs hn hc (b := 1) (show va < 2 ^ 64 by omega) (by decide)
  rw [if_neg (by omega), State.pageState, decide_eq_true rfl, if_pos rfl, shootDown_of_nil hsp] at he
  have hcl : (s.ctx? n).elim 0 (fun c => c.pte (pageOf va)) = c.pte (va / 65536) := by rw [hc]; rfl
  rw [hcl] at he
  refine ⟨_, he, _, ctx_setCtx (s := { s with tlbs := _ }) hc _, ?_⟩
  rw [Ctx.pte, pageOf, SMap.getD_put_self, setField_and_not]

/-! ## Frames elsewhere -/

section
variable {loc peer first count : Nat} (hloc : loc < 4) (hpeer : peer < 8192) (hfirst : first < 2 ^ 64) (hcount : count < 2 ^ 64)
include hloc hpeer hfirst hcount

theorem remoteGrant_parameters :
    exec (.remoteGrant (mailOf seq [n + 256 * loc + 65536 * peer, first, count])) s = s.mailEnds seq (
      if loc = 0 ∨ (loc = 1 ∧ peer ≠ 0) ∨ (loc = 2 ∧ 255 < peer) then .no 1
      else if s.secretRange n loc peer first count then .no 10
      else .done [] (s.modCtx n fun c => { c with remote := c.remote ++ [⟨loc, peer, first, count⟩] })) := by
  change execRemoteGrant _ s = _
  refine (mailCommand_eq hs ?_ _).trans ?_
  · refine ⟨fits_add (o := 16) (by omega) (fits_pair (o := 8) (w := 2) hn hloc (by decide) (by decide))
      (fits_field (n := 13) hpeer (by decide)), fits_word hfirst, fits_word hcount, trivial⟩
  have h0 := toNat_word (x := n + 256 * loc + 65536 * peer) (by omega)
  have hl : bitsAt (n + 256 * loc + 65536 * peer) 8 2 = loc := by unfold bitsAt; omega
  have hp : bitsAt (n + 256 * loc + 65536 * peer) 16 13 = peer := by unfold bitsAt; omega
  simp only [mailOf, List.getD_cons_zero, List.getD_cons_succ, toNat_word hfirst, toNat_word hcount, h0, hl, hp,
    show (n + 256 * loc + 65536 * peer) % 256 = n by omega]
  rw [onCtx_some hc]
  rfl

theorem remoteGrant_bad (h : loc = 0 ∨ (loc = 1 ∧ peer ≠ 0) ∨ (loc = 2 ∧ 255 < peer)) :
    s.Declines .remoteGrant seq [n + 256 * loc + 65536 * peer, first, count] 1 := by
  have he := remoteGrant_parameters (seq := seq) hs hn hc hloc hpeer hfirst hcount
  rwa [if_pos h] at he

variable (hgood : ¬ (loc = 0 ∨ (loc = 1 ∧ peer ≠ 0) ∨ (loc = 2 ∧ 255 < peer)))
include hgood

theorem remoteGrant_secret (hsec : s.secretRange n loc peer first count = true) :
    s.Declines .remoteGrant seq [n + 256 * loc + 65536 * peer, first, count] 10 := by
  have he := remoteGrant_parameters (seq := seq) hs hn hc hloc hpeer hfirst hcount
  rwa [if_neg hgood, if_pos hsec] at he

theorem remoteGrant_grants (hsec : s.secretRange n loc peer first count = false) :
    s.Obeys .remoteGrant seq [n + 256 * loc + 65536 * peer, first, count] [] fun t =>
      t = s.modCtx n fun c => { c with remote := c.remote ++ [⟨loc, peer, first, count⟩] } := by
  have he := remoteGrant_parameters (seq := seq) hs hn hc hloc hpeer hfirst hcount
  rw [if_neg hgood, if_neg (Bool.eq_false_iff.1 hsec)] at he
  exact ⟨_, he, rfl⟩
end

section
variable {peer first count sctx : Nat} (hpeer : peer < 8192) (hfirst : first < 2 ^ 64) (hcount : count < 2 ^ 64) (hsctx : sctx < 256)
include hpeer hfirst hcount hsctx

omit hs hc hfirst hcount in
/-- A peer's grant names the context, the peer and the peer's context. -/
theorem peerGrant_word :
    let x := n + 65536 * peer + 2 ^ 32 * sctx
    Fits 0xFF1FFF00FF x ∧ (BitVec.ofNat 64 x).toNat = x ∧ x % 256 = n ∧ bitsAt x 16 13 = peer ∧ bitsAt x 32 8 = sctx := by
  refine ⟨fits_add (o := 32) (by omega) (fits_add (o := 16) (by omega) (fits_low (n := 8) hn (by decide))
    (fits_field (n := 13) hpeer (by decide))) (fits_field (n := 8) hsctx (by decide)), toNat_word (by omega), by omega, ?_, ?_⟩ <;>
    · unfold bitsAt
      omega

theorem peerGrant_parameters {ticket : Nat} (hticket : ticket < 2 ^ 32) :
    exec (.peerGrant (mailOf seq [n + 65536 * peer + 2 ^ 32 * sctx, first, count, ticket])) s = s.mailEnds seq (
      if c.confidential || s.secretFrames first count then .no 10
      else .done [] (s.modCtx n fun c => { c with peers := c.peers ++ [⟨peer, sctx, first, count, ticket⟩] })) := by
  obtain ⟨hfits, hword, hctx, hsrc, hsc⟩ := peerGrant_word hn hpeer hsctx
  generalize n + 65536 * peer + 2 ^ 32 * sctx = x at hfits hword hctx hsrc hsc ⊢
  change execPeerGrant _ s = _
  refine (mailCommand_eq hs ?_ _).trans ?_
  · exact ⟨hfits, fits_word hfirst, fits_word hcount, fits_low hticket (by decide), trivial⟩
  have ht := toNat_word (x := ticket) (by omega)
  simp only [peerGrantOf, mailOf, List.getD_cons_zero, List.getD_cons_succ, toNat_word hfirst, toNat_word hcount, ht, hword, hctx, hsrc,
    hsc]
  rw [onCtx_some hc]
  rfl

theorem peerGrant_secret {ticket : Nat} (hticket : ticket < 2 ^ 32) (h : c.confidential = true ∨ s.secretFrames first count = true) :
    s.Declines .peerGrant seq [n + 65536 * peer + 2 ^ 32 * sctx, first, count, ticket] 10 := by
  have he := peerGrant_parameters (seq := seq) hs hn hc hpeer hfirst hcount hsctx hticket
  rwa [if_pos (Bool.or_eq_true_iff.2 h)] at he

theorem peerGrant_grants {ticket : Nat} (hticket : ticket < 2 ^ 32) (hcc : c.confidential = false)
    (hsec : s.secretFrames first count = false) :
    s.Obeys .peerGrant seq [n + 65536 * peer + 2 ^ 32 * sctx, first, count, ticket] [] fun t =>
      t = s.modCtx n fun c => { c with peers := c.peers ++ [⟨peer, sctx, first, count, ticket⟩] } := by
  have he := peerGrant_parameters (seq := seq) hs hn hc hpeer hfirst hcount hsctx hticket
  rw [if_neg (by simp [hcc, hsec])] at he
  exact ⟨_, he, rfl⟩

theorem peerRevoke_parameters :
    exec (.peerRevoke (mailOf seq [n + 65536 * peer + 2 ^ 32 * sctx, first, count])) s =
      .next ((s.modCtx n fun c => { c with peers := c.peers.filter fun x =>
          !(x.src == peer && x.sctx == sctx && x.first == first && x.count == count) }).mailAnswered seq 0 []) := by
  obtain ⟨hfits, hword, hctx, hsrc, hsc⟩ := peerGrant_word hn hpeer hsctx
  generalize n + 65536 * peer + 2 ^ 32 * sctx = x at hfits hword hctx hsrc hsc ⊢
  change execPeerRevoke _ s = _
  refine (mailCommand_eq hs ?_ _).trans ?_
  · exact ⟨hfits, fits_word hfirst, fits_word hcount, trivial⟩
  simp only [peerGrantOf, mailOf, List.getD_cons_zero, List.getD_cons_succ, toNat_word hfirst, toNat_word hcount, hword, hctx, hsrc, hsc]
  rw [onCtx_some hc]
  rfl
end
end

end Sys2Proof.Machine
end

section
/-!
EXTENT_BIND (R197, R198).
-/

namespace Sys2Proof.Machine

/-! ## The entry of an extent's page -/

section
variable {f : Nat} (hf : f < lFrames)
include hf

theorem toNat_extentEntry : (extentEntry f).toNat = f * 65536 + 14 := by
  unfold lFrames at hf
  rw [extentEntry, BitVec.toNat_ofNat]
  omega

theorem extentEntry_fields :
    pteType (extentEntry f) = 2 ∧ pteReserved (extentEntry f) = false ∧ pteLoc (extentEntry f) = 0 ∧ pteFrame (extentEntry f) = f ∧
      setField (extentEntry f) 12 1 0 = extentEntry f := by
  have h := toNat_extentEntry hf
  unfold lFrames at hf
  have h12 : bitsAt (extentEntry f).toNat 12 1 = 0 := by rw [h, bitsAt]; omega
  have h13 : bitsAt (extentEntry f).toNat 13 3 = 0 := by rw [h, bitsAt]; omega
  have h68 : bitsAt (extentEntry f).toNat 68 12 = 0 := by rw [h, bitsAt]; omega
  have h93 : bitsAt (extentEntry f).toNat 93 3 = 0 := by rw [h, bitsAt]; omega
  refine ⟨by rw [pteType, h]; omega, by simp [pteReserved, h13, h68, h93], by rw [pteLoc, h, bitsAt]; omega,
    by rw [pteFrame, h, bitsAt]; omega, by simp [setField, h12]⟩
end

/-! ## One page -/

/-- A context with a page's entry written. -/
def Ctx.putPage (c : Ctx) (page : Nat) (e : BitVec 128) : Ctx := { c with ptes := c.ptes.put 0 page e }

theorem pte_putPage (c : Ctx) (page : Nat) (e : BitVec 128) (p : Nat) : (c.putPage page e).pte p = if p = page then e else c.pte p :=
  SMap.getD_put _ _ _ _ _

theorem ensureTables_of_nil {s : State} {n va : Nat} {c : Ctx} (hc : s.ctx? n = some c) (hm : c.missing va = []) :
    s.ensureTables n va = (true, s.modCtx n fun c => c) := by
  simp only [State.ensureTables, hc, Option.elim_some, hm, List.zip_nil_left, List.length_nil, List.foldl_nil, List.drop_zero,
    beq_self_eq_true]
  rfl

/-- What an extent's page leaves besides the context it maps the page for. -/
structure State.Apart (s t : State) : Prop where
  specs : t.specs = s.specs
  owner : t.owner = s.owner
  extents : t.extents = s.extents

theorem reserved_of_apart {s t : State} (h : s.Apart t) {n : Nat} {c d : Ctx} (hc : s.ctx? n = some c) (hd : t.ctx? n = some d)
    (hr : d.reserve = c.reserve) (f : Nat) : t.reserved n f = s.reserved n f := by
  simp only [State.reserved, hc, hd, Option.any_some, hr, h.extents]

theorem pgmap_extent {s : State} {n f : Nat} {va : Dword} {c : Ctx} (hc : s.ctx? n = some c) (hsp : s.specs = [])
    (hva : va.toNat < vaTop) (hf : f < lFrames) (h0 : 0 < f) (hm : c.missing va.toNat = [])
    (hmig : pteMig (c.pte (pageOf va.toNat)) = false) (hfw : s.firewall n f = true) (hres : s.reserved n f = false) :
    ∃ t, s.pgmap n va (extentEntry f) = (.done, t) ∧ s.Apart t ∧ t.ctx? n = some (c.putPage (pageOf va.toNat) (extentEntry f)) := by
  obtain ⟨hty, hrsv, hloc, hfr, hset⟩ := extentEntry_fields hf
  have hnv : ¬ vaTop ≤ va.toNat := by omega
  have hg : s.granted n (pteLoc (extentEntry f)) (ptePeer (extentEntry f)) (pteFrame (extentEntry f)) = true := by
    rw [State.granted, if_pos hloc, hfr, hfw, hres]
    rfl
  have hfresh : (pteLoc (extentEntry f) == 0 && pteFrame (extentEntry f) == 0) = false := by
    simp [hfr, Nat.ne_of_gt h0]
  have he : s.pgmap n va (extentEntry f) = (.done, (s.modCtx n fun c => c).setLeaf n (pageOf va.toNat) (extentEntry f)) := by
    simp only [State.pgmap, hc, hnv, hty, hrsv, hm, List.isEmpty_nil, if_true, hmig, hfresh, hg, ensureTables_of_nil hc hm, hset,
      decide_false, Bool.false_or]
    simp
  refine ⟨_, he, ?_⟩
  unfold State.setLeaf
  dsimp only
  rw [discardSpecs_of_nil (by exact hsp)]
  exact ⟨⟨rfl, rfl, rfl⟩, ctx_setCtx (ctx_setCtx hc fun c => c) fun c => c.putPage (pageOf va.toNat) (extentEntry f)⟩

/-! ## The pages of an extent -/

/-- A context with the first `m` pages of an extent mapped. -/
def Ctx.withExtent (c : Ctx) (page first m : Nat) : Ctx :=
  (List.range m).foldl (fun c i => c.putPage (page + i) (extentEntry (first + i))) c

theorem withExtent_succ (c : Ctx) (page first m : Nat) :
    c.withExtent page first (m + 1) = (c.withExtent page first m).putPage (page + m) (extentEntry (first + m)) := by
  rw [Ctx.withExtent, List.range_succ, List.foldl_append]
  rfl

theorem withExtent_frame (c : Ctx) (page first m : Nat) : c.withExtent page first m = { c with ptes := (c.withExtent page first m).ptes } :=
  foldl_keeps (P := fun d : Ctx => d = { c with ptes := d.ptes }) (fun d i h => by rw [Ctx.putPage, h]) _ rfl

theorem pte_withExtent (c : Ctx) (page first m p : Nat) :
    (c.withExtent page first m).pte p = if page ≤ p ∧ p < page + m then extentEntry (first + (p - page)) else c.pte p := by
  induction m with
  | zero =>
    have : ¬ (page ≤ p ∧ p < page + 0) := by omega
    rw [if_neg this]
    rfl
  | succ m ih =>
    rw [withExtent_succ, pte_putPage, ih]
    by_cases h : p = page + m
    · subst h
      simp
    · have : page ≤ p ∧ p < page + (m + 1) ↔ page ≤ p ∧ p < page + m := by omega
      simp only [if_neg h, this]

/-- What binding an extent asks of the context and the device: the context holds its frames, and its tables stand. -/
structure State.CanBind (s : State) (n : Nat) (c : Ctx) (va first : Nat) : Prop where
  ctx : s.ctx? n = some c
  specs : s.specs = []
  aligned : va % 65536 = 0
  top : va + 268435456 ≤ vaTop
  pos : 0 < first
  last : first + 4096 ≤ lFrames
  firewall : ∀ i, i < 4096 → s.firewall n (first + i) = true
  reserved : ∀ i, i < 4096 → s.reserved n (first + i) = false
  missing : ∀ i, i < 4096 → c.missing (va + 65536 * i) = []
  settled : ∀ i, i < 4096 → pteMig (c.pte (va / 65536 + i)) = false

theorem pgmap_next {s t : State} {n va first m : Nat} {c : Ctx} (h : s.CanBind n c va first) (hm : m < 4096) (ha : s.Apart t)
    (ht : t.ctx? n = some (c.withExtent (va / 65536) first m)) :
    ∃ u, t.pgmap n (BitVec.ofNat 64 (va + 65536 * m)) (extentEntry (first + m)) = (.done, u) ∧ s.Apart u ∧
      u.ctx? n = some (c.withExtent (va / 65536) first (m + 1)) := by
  have htop := h.top
  have hlast := h.last
  have hal := h.aligned
  unfold vaTop at htop
  have hva : (BitVec.ofNat 64 (va + 65536 * m)).toNat = va + 65536 * m := toNat_word (by omega)
  have hpage : pageOf (BitVec.ofNat 64 (va + 65536 * m)).toNat = va / 65536 + m := by rw [hva, pageOf]; omega
  have hframe := withExtent_frame c (va / 65536) first m
  have hold : (c.withExtent (va / 65536) first m).pte (va / 65536 + m) = c.pte (va / 65536 + m) := by
    rw [pte_withExtent, if_neg (by omega)]
  obtain ⟨u, hu, hau, hcu⟩ := pgmap_extent (va := BitVec.ofNat 64 (va + 65536 * m)) ht (ha.specs.trans h.specs)
    (by rw [hva]; unfold vaTop; omega) (f := first + m) (by omega) (by have := h.pos; omega)
    (by rw [hva, hframe]; exact h.missing m hm) (by rw [hpage, hold]; exact h.settled m hm)
    (by rw [State.firewall, ha.owner]; exact h.firewall m hm)
    (by rw [reserved_of_apart ha h.ctx ht (by rw [hframe])]; exact h.reserved m hm)
  refine ⟨u, hu, ⟨hau.specs.trans ha.specs, hau.owner.trans ha.owner, hau.extents.trans ha.extents⟩, ?_⟩
  rw [hcu, hpage, withExtent_succ]

/-- One page of an extent mapped: what EXTENT_BIND does in turn. -/
def State.bindPage (n va first : Nat) (r : Bool × State) (i : Nat) : Bool × State :=
  match r.2.pgmap n (BitVec.ofNat 64 (va + 65536 * i)) (extentEntry (first + i)) with
  | (.done, s') => (r.1, s')
  | (_, s') => (false, s')

theorem foldl_bindPage {s : State} {n va first : Nat} {c : Ctx} (h : s.CanBind n c va first) {m : Nat} (hm : m ≤ 4096) :
    ∃ t, (List.range m).foldl (State.bindPage n va first) (true, s) = (true, t) ∧ s.Apart t ∧
      t.ctx? n = some (c.withExtent (va / 65536) first m) := by
  induction m with
  | zero => exact ⟨s, rfl, ⟨rfl, rfl, rfl⟩, h.ctx⟩
  | succ m ih =>
    obtain ⟨t, hfold, ha, ht⟩ := ih (by omega)
    obtain ⟨u, hu, hau, hcu⟩ := pgmap_next h (by omega) ha ht
    refine ⟨u, ?_, hau, hcu⟩
    rw [List.range_succ, List.foldl_append, hfold]
    simp only [List.foldl_cons, List.foldl_nil, State.bindPage, hu]

/-! ## The command -/

section
variable {s : State} {seq : Word} {n : Nat} (hs : s.listens) (hn : n < 256) {k va : Nat} (hk : k < 65536) (hva : va < 2 ^ 64)
include hs hn hk hva

theorem extentBind_bad (h : va % 65536 ≠ 0 ∨ 2 ^ 57 < va + 2 ^ 28) : s.Declines .extentBind seq [n + 256 * k, va] 1 := by
  change execExtentBind _ s = _
  refine (mailCommand_eq hs ?_ _).trans ?_
  · exact ⟨fits_pair (o := 8) (w := 16) hn hk (by decide) (by decide), fits_word hva, trivial⟩
  simp only [mailOf, List.getD_cons_zero, List.getD_cons_succ, toNat_word hva]
  rw [if_pos (by exact h)]
  rfl

section
variable (hgood : ¬ (va % 65536 ≠ 0 ∨ 2 ^ 57 < va + 2 ^ 28))
include hgood

theorem extentBind_other (hl : s.isL = false) : s.Declines .extentBind seq [n + 256 * k, va] 10 := by
  change execExtentBind _ s = _
  refine (mailCommand_eq hs ?_ _).trans ?_
  · exact ⟨fits_pair (o := 8) (w := 16) hn hk (by decide) (by decide), fits_word hva, trivial⟩
  simp only [mailOf, List.getD_cons_zero, List.getD_cons_succ, toNat_word hva]
  rw [if_neg (by exact hgood), hl]
  rfl

variable {c : Ctx} (hc : s.ctx? n = some c) {x : Extent} (hx : s.extents.find? k = some x) (hl : s.isL = true) (hxc : x.ctx = n)
  (hb : x.bound = false) (hr : x.released = false)
include hc hx hl hxc hb hr

omit hb hr in
theorem extentBind_overQuota (h0 : va ≠ 0) (hq : c.quota < s.heldFrames n c + 4096) :
    s.Declines .extentBind seq [n + 256 * k, va] 10 := by
  change execExtentBind _ s = _
  refine (mailCommand_eq hs ?_ _).trans ?_
  · exact ⟨fits_pair (o := 8) (w := 16) hn hk (by decide) (by decide), fits_word hva, trivial⟩
  have hw := toNat_word (x := n + 256 * k) (by omega)
  have hb' : bitsAt (n + 256 * k) 8 16 = k := by unfold bitsAt; omega
  simp only [mailOf, List.getD_cons_zero, List.getD_cons_succ, toNat_word hva, hw, show (n + 256 * k) % 256 = n by omega, hb']
  rw [if_neg (by exact hgood)]
  simp only [hl, hc, hx]
  rw [if_pos (.inr (.inr (.inr ⟨h0, hq⟩)))]
  rfl

/-- The state with an extent bound. -/
def State.boundExtent (s : State) (k : Nat) : State := { s with extents := s.extents.modify k fun t => { t with bound := true } }

omit hs hn hk hva hgood hc hl hxc hb hr in
theorem boundExtent_find : (s.boundExtent k).extents.find? k = some { x with bound := true } := by
  simp [State.boundExtent, hx]

theorem extentBind_reserve (h0 : va = 0) : s.Obeys .extentBind seq [n + 256 * k, va] [] fun t =>
    ∃ c', t.ctx? n = some c' ∧ c'.reserve = c.reserve ++ (List.range 4096).map (fun i => x.first + i) ∧
      t.extents.find? k = some { x with bound := true } := by
  have hctx : (s.boundExtent k).ctx? n = some c := hc
  refine ⟨(s.boundExtent k).modCtx n fun c => { c with reserve := c.reserve ++ (List.range 4096).map fun i => x.first + i }, ?_,
    _, ctx_setCtx hctx _, rfl, boundExtent_find hx⟩
  change execExtentBind _ s = _
  refine (mailCommand_eq hs ?_ _).trans ?_
  · exact ⟨fits_pair (o := 8) (w := 16) hn hk (by decide) (by decide), fits_word hva, trivial⟩
  have hw := toNat_word (x := n + 256 * k) (by omega)
  have hb' : bitsAt (n + 256 * k) 8 16 = k := by unfold bitsAt; omega
  simp only [mailOf, List.getD_cons_zero, List.getD_cons_succ, toNat_word hva, hw, show (n + 256 * k) % 256 = n by omega, hb']
  rw [if_neg (by exact hgood)]
  simp only [hl, hc, hx]
  rw [if_neg (by simp [hxc, hb, hr, h0]), if_pos h0]
  rfl

omit hs hn hk hva hx hl hxc hb hr in
theorem boundExtent_canBind (hsp : s.specs = []) (hpos : 0 < x.first) (hlast : x.first + 4096 ≤ lFrames)
    (hapart : ∀ y ∈ s.extents, y.1 = k ∨ y.2.first + 4096 ≤ x.first ∨ x.first + 4096 ≤ y.2.first)
    (hpages : ∀ i, i < 4096 → s.firewall n (x.first + i) = true ∧ x.first + i ∉ c.reserve ∧ c.missing (va + 65536 * i) = [] ∧
      pteMig (c.pte (va / 65536 + i)) = false) : (s.boundExtent k).CanBind n c va x.first := by
  have hctx : (s.boundExtent k).ctx? n = some c := hc
  suffices hres : ∀ i, i < 4096 → x.first + i ∉ c.reserve → (s.boundExtent k).reserved n (x.first + i) = false by
    refine ⟨hctx, hsp, by omega, by unfold vaTop; omega, hpos, hlast, fun i hi => ?_, fun i hi => ?_, fun i hi => ?_, fun i hi => ?_⟩ <;>
      obtain ⟨hfw, hnot, hmiss, hmig⟩ := hpages i hi
    · exact hfw
    · exact hres i hi hnot
    · exact hmiss
    · exact hmig
  intro i hi hnot
  have hext : ((s.boundExtent k).extents.any fun y => y.2.ctx == n && !y.2.bound && !y.2.released && decide (y.2.first ≤ x.first + i) &&
      decide (x.first + i < y.2.first + 4096)) = false := by
    rw [List.any_eq_false]
    intro y hy
    obtain ⟨z, hz, rfl⟩ := List.mem_map.1 hy
    dsimp only
    by_cases hzk : z.1 = k
    · simp [hzk]
    · have := (hapart z hz).resolve_left hzk
      simp only [hzk, if_false, Bool.and_eq_true, decide_eq_true_eq]
      omega
  rw [State.reserved, hctx, hext]
  simpa using hnot

theorem extentBind_maps (h0 : va ≠ 0) (hq : s.heldFrames n c + 4096 ≤ c.quota) (hcan : (s.boundExtent k).CanBind n c va x.first) :
    s.Obeys .extentBind seq [n + 256 * k, va] [] fun t => t.extents.find? k = some { x with bound := true } ∧ ∃ c', t.ctx? n = some c' ∧
      c'.pool = c.pool ∧ c'.reserve = c.reserve ∧
      (∀ i, i < 4096 → c'.pte (va / 65536 + i) = BitVec.ofNat 128 ((x.first + i) * 65536 + 14)) ∧
      ∀ p, (p < va / 65536 ∨ va / 65536 + 4096 ≤ p) → c'.pte p = c.pte p := by
  have hframe := withExtent_frame c (va / 65536) x.first 4096
  obtain ⟨t, ht, ha, hct⟩ : ∃ t, exec (.extentBind (mailOf seq [n + 256 * k, va])) s = .next (t.mailAnswered seq 0 []) ∧
      (s.boundExtent k).Apart t ∧ t.ctx? n = some (c.withExtent (va / 65536) x.first 4096) := by
    obtain ⟨t, hfold, ha, hct⟩ := foldl_bindPage hcan (Nat.le_refl 4096)
    have he : exec (.extentBind (mailOf seq [n + 256 * k, va])) s = s.mailEnds seq (
        let r := (List.range 4096).foldl (State.bindPage n va x.first) (true, s.boundExtent k)
        if r.1 then .done [] r.2 else .no stRefused) := by
      change execExtentBind _ s = _
      refine (mailCommand_eq hs ?_ _).trans ?_
      · exact ⟨fits_pair (o := 8) (w := 16) hn hk (by decide) (by decide), fits_word hva, trivial⟩
      have hw := toNat_word (x := n + 256 * k) (by omega)
      have hb' : bitsAt (n + 256 * k) 8 16 = k := by unfold bitsAt; omega
      simp only [mailOf, List.getD_cons_zero, List.getD_cons_succ, toNat_word hva, hw, show (n + 256 * k) % 256 = n by omega, hb']
      rw [if_neg (by exact hgood)]
      simp only [hl, hc, hx]
      rw [if_neg (by simp [hxc, hb, hr, Nat.not_lt.2 hq]), if_neg h0]
      rfl
    rw [hfold] at he
    exact ⟨t, he, ha, hct⟩
  refine ⟨t, ht, ha.extents ▸ boundExtent_find hx, _, hct, by rw [hframe], by rw [hframe], fun i hi => ?_, fun p hp => ?_⟩
  · rw [pte_withExtent, if_pos (by omega), Nat.add_sub_cancel_left]
    rfl
  · rw [pte_withExtent, if_neg (by omega)]
end
end

end Sys2Proof.Machine
end

section
/-!
MIGRATE (R199 step 1).
-/

namespace Sys2Proof.Machine

/-- The entry that a page under migration has. -/
def migrating (e : BitVec 128) : BitVec 128 := e ||| 0x1000

/-- The device with a page marked for a move to frame `g`. -/
def State.markPage (s : State) (n page : Nat) (e : BitVec 128) (loc peer g : Nat) : State :=
  { (s.modCtx n fun c => c.putPage page (migrating e)) with migration := some ⟨n, page, loc, peer, g, none⟩ }

theorem markPage_ctx {s : State} {n : Nat} {c : Ctx} (hc : s.ctx? n = some c) (page : Nat) (e : BitVec 128) (loc peer g : Nat) :
    (s.markPage n page e loc peer g).ctx? n = some (c.putPage page (migrating e)) :=
  ctx_setCtx hc fun c => c.putPage page (migrating e)

/-- What MIGRATE refuses (R199, R301). -/
def State.refusesMove (s : State) (n va loc peer f : Nat) (c : Ctx) : Bool :=
  let e := c.pte (va / 65536)
  let old := frameKey (pteLoc e) (ptePeer e) (pteFrame e)
  let fresh := loc == 0 && f == 0
  pteType e ≠ 2 || pteMig e || e.getLsbD 9 || s.heldForReplay n (va / 65536) || (loc == 1 && s.pageTagged old)
    || (loc != 0 && c.confidential) || (loc != 0 && c.viral) || (loc == 2 && s.expLost.contains peer)
    || (fresh && c.pool.isEmpty) || (!fresh && !s.granted n loc peer f)
    || (pteLoc e == 2 && s.expLost.contains (ptePeer e))

/-- What MIGRATE comes to for a command that is well formed. -/
def State.migrateEnd (s : State) (n va loc peer f : Nat) (c : Ctx) : MailEnd :=
  if s.refusesMove n va loc peer f c then .no stRefused
  else
    match if loc == 0 && f == 0 then s.takeFrame n else (some f, s) with
    | (none, _) => .no stRefused
    | (some g, s) => .later (s.markPage n (va / 65536) (c.pte (va / 65536)) loc peer g)

section
variable {s : State} {n va loc peer f : Nat} {c : Ctx}

theorem refusesMove_iff :
    s.refusesMove n va loc peer f c = true ↔
      let e := c.pte (va / 65536)
      let old := frameKey (pteLoc e) (ptePeer e) (pteFrame e)
      let pooled : Prop := loc = 0 ∧ f = 0
      pteType e ≠ 2 ∨ pteMig e = true ∨ e.getLsbD 9 = true ∨ s.heldForReplay n (va / 65536) = true ∨
        (loc = 1 ∧ s.pageTagged old = true) ∨ (loc ≠ 0 ∧ (c.confidential = true ∨ c.viral = true)) ∨
        (loc = 2 ∧ s.expLost.contains peer = true) ∨ (pteLoc e = 2 ∧ s.expLost.contains (ptePeer e) = true) ∨
        (pooled ∧ c.pool = []) ∨ (¬ pooled ∧ s.granted n loc peer f = false) := by
  have hfresh : (!(loc == 0 && f == 0)) = true ↔ ¬ (loc = 0 ∧ f = 0) := by
    simp only [Bool.not_eq_true', Bool.and_eq_false_iff, beq_eq_false_iff_ne]
    tauto
  simp only [State.refusesMove, Bool.or_eq_true, Bool.and_eq_true, decide_eq_true_eq, beq_iff_eq, bne_iff_ne, hfresh,
    List.isEmpty_iff, Bool.not_eq_true']
  generalize frameKey _ _ _ = k
  generalize c.pte (va / 65536) = e
  grind

theorem migrateEnd_refused (h : s.refusesMove n va loc peer f c = true) : s.migrateEnd n va loc peer f c = .no 10 := by
  rw [State.migrateEnd, if_pos h]
  rfl

section
variable (h : ¬ s.refusesMove n va loc peer f c = true)
include h

theorem migrateEnd_granted (hf : ¬ (loc = 0 ∧ f = 0)) :
    s.migrateEnd n va loc peer f c = .later (s.markPage n (va / 65536) (c.pte (va / 65536)) loc peer f) := by
  have hf' : ¬ ((loc == 0 && f == 0) = true) := by simpa using hf
  rw [State.migrateEnd, if_neg h, if_neg hf']

theorem migrateEnd_pooled (hf : loc = 0 ∧ f = 0) {g : Nat} {t : State} (ht : s.takeFrame n = (some g, t)) :
    s.migrateEnd n va loc peer f c = .later (t.markPage n (va / 65536) (c.pte (va / 65536)) loc peer g) := by
  have hf' : (loc == 0 && f == 0) = true := by simpa using hf
  rw [State.migrateEnd, if_neg h, if_pos hf', ht]
end

/-- A frame comes out of a context's pool while there is one (R192). -/
theorem takeFrame_some (hc : s.ctx? n = some c) (hsp : s.specs = []) (hp : c.pool ≠ []) :
    ∃ g t, s.takeFrame n = (some g, t) ∧ g ∈ c.pool ∧ t.ctx? n = some { c with pool := c.pool.filter fun x => x != g } := by
  have hlt : Config.freeNat s.oracle (2 ^ 69) % c.pool.length < c.pool.length := Nat.mod_lt _ (List.length_pos_iff.2 hp)
  have ht : s.takeFrame n = (some c.pool[Config.freeNat s.oracle (2 ^ 69) % c.pool.length],
      ((s.modCtx n fun c' => { c' with pool := c'.pool.filter fun x => x != c.pool[Config.freeNat s.oracle (2 ^ 69) % c.pool.length]
        }).scrubFrame c.pool[Config.freeNat s.oracle (2 ^ 69) % c.pool.length]).tick) := by
    simp only [State.takeFrame, hc, Option.elim_some, List.getElem?_eq_getElem hlt]
  refine ⟨_, _, ht, List.getElem_mem hlt, ?_⟩
  rw [State.scrubFrame, frameChanged_of_nil (by exact hsp)]
  exact ctx_setCtx hc fun c' => { c' with pool := c'.pool.filter _ }
end

section
variable {s : State} {seq : Word} {n va loc peer f : Nat} (hs : s.listens) (hn : n < 256) {c : Ctx} (hc : s.ctx? n = some c)
  (hva : va < 2 ^ 57) (hloc : loc < 4) (hpeer : peer < 8192) (hf : f < 2 ^ 48)
include hs hn hva hloc hpeer hf

theorem migrate_parameters :
    exec (.migrate (mailOf seq [n, va, 64 * loc + 65536 * peer, f])) s =
      if (loc ≤ 1 ∧ peer ≠ 0) ∨ (loc = 2 ∧ 255 < peer) then .next (s.mailAnswered seq 1 [])
      else s.mailEnds seq (onCtx n (fun s c => s.migrateEnd n va loc peer f c) s) := by
  change execMigrate _ s = _
  refine (mailCommand_eq hs ?_ _).trans ?_
  · exact ⟨fits_number hn, fits_word (by omega), fits_add (o := 16) (by omega) (fits_field (o := 6) (n := 2) hloc (by decide))
      (fits_field (n := 13) hpeer (by decide)), fits_word (by omega), trivial⟩
  have h0 := toNat_word (x := n) (by omega)
  have h1 := toNat_word (x := va) (by omega)
  have h2 := toNat_word (x := 64 * loc + 65536 * peer) (by omega)
  have h3 := toNat_word (x := f) (by omega)
  have hl : bitsAt (64 * loc + 65536 * peer) 6 2 = loc := by unfold bitsAt; omega
  have hp : bitsAt (64 * loc + 65536 * peer) 16 13 = peer := by unfold bitsAt; omega
  simp only [mailOf, List.getD_cons_zero, List.getD_cons_succ, h0, h1, h2, h3, hl, hp]
  by_cases hbad : (loc ≤ 1 ∧ peer ≠ 0) ∨ (loc = 2 ∧ 255 < peer)
  · rw [if_pos hbad, if_pos (.inr (hbad.imp_right .inl))]
    rfl
  · have : ¬ (vaTop ≤ va ∨ loc ≤ 1 ∧ peer ≠ 0 ∨ loc = 2 ∧ 255 < peer ∨ 2 ^ 48 ≤ f) := by
      unfold vaTop
      omega
    rw [if_neg this, if_neg hbad]
    rfl

theorem migrate_bad (hbad : (loc ≤ 1 ∧ peer ≠ 0) ∨ (loc = 2 ∧ 255 < peer)) :
    s.Declines .migrate seq [n, va, 64 * loc + 65536 * peer, f] 1 := by
  have he := migrate_parameters (seq := seq) hs hn hva hloc hpeer hf
  rw [if_pos hbad] at he
  exact he

include hc

variable (hgood : ¬ ((loc ≤ 1 ∧ peer ≠ 0) ∨ (loc = 2 ∧ 255 < peer)))
include hgood

theorem migrate_good :
    exec (.migrate (mailOf seq [n, va, 64 * loc + 65536 * peer, f])) s = s.mailEnds seq (s.migrateEnd n va loc peer f c) := by
  have he := migrate_parameters (seq := seq) hs hn hva hloc hpeer hf
  rw [if_neg hgood, onCtx_some hc] at he
  exact he

theorem migrate_refused (h : s.refusesMove n va loc peer f c = true) :
    s.Declines .migrate seq [n, va, 64 * loc + 65536 * peer, f] 10 := by
  have he := migrate_good (seq := seq) hs hn hc hva hloc hpeer hf hgood
  rw [migrateEnd_refused h] at he
  exact he

/-- The command runs on, with the page marked in the context as it stands in `t`. -/
theorem migrate_marks {t : State} {g : Nat} {d : Ctx} (hd : t.ctx? n = some d) (hpte : d.ptes = c.ptes)
    (he : s.migrateEnd n va loc peer f c = .later (t.markPage n (va / 65536) (c.pte (va / 65536)) loc peer g)) :
    ∃ u, exec (.migrate (mailOf seq [n, va, 64 * loc + 65536 * peer, f])) s = .next u ∧ u.mailBusy = some seq ∧
      u.migration = some ⟨n, va / 65536, loc, peer, g, none⟩ ∧ ∃ c', u.ctx? n = some c' ∧
        (∀ p, c'.pte p = if p = va / 65536 then c.pte (va / 65536) ||| 0x1000 else c.pte p) ∧ c'.pool = d.pool := by
  have hx := migrate_good (seq := seq) hs hn hc hva hloc hpeer hf hgood
  rw [he] at hx
  refine ⟨_, hx, rfl, rfl, _, markPage_ctx hd _ _ loc peer g, fun p => ?_, rfl⟩
  rw [pte_putPage, Ctx.pte, Ctx.pte, Ctx.pte, hpte, migrating]

theorem migrate_moves (h : ¬ s.refusesMove n va loc peer f c = true) (hn' : ¬ (loc = 0 ∧ f = 0)) :
    ∃ u, exec (.migrate (mailOf seq [n, va, 64 * loc + 65536 * peer, f])) s = .next u ∧ u.mailBusy = some seq ∧
      u.migration = some ⟨n, va / 65536, loc, peer, f, none⟩ ∧ ∃ c', u.ctx? n = some c' ∧
        (∀ p, c'.pte p = if p = va / 65536 then c.pte (va / 65536) ||| 0x1000 else c.pte p) ∧
        c'.pool = if loc = 0 ∧ f = 0 then c.pool.filter (fun x => x != f) else c.pool := by
  rw [if_neg hn']
  exact migrate_marks hs hn hc hva hloc hpeer hf hgood hc rfl (migrateEnd_granted h hn')

theorem migrate_movesIn (h : ¬ s.refusesMove n va loc peer f c = true) (hp : loc = 0 ∧ f = 0) (hsp : s.specs = []) :
    ∃ g ∈ c.pool, ∃ u, exec (.migrate (mailOf seq [n, va, 64 * loc + 65536 * peer, f])) s = .next u ∧ u.mailBusy = some seq ∧
      u.migration = some ⟨n, va / 65536, loc, peer, g, none⟩ ∧ ∃ c', u.ctx? n = some c' ∧
        (∀ p, c'.pte p = if p = va / 65536 then c.pte (va / 65536) ||| 0x1000 else c.pte p) ∧
        c'.pool = if loc = 0 ∧ f = 0 then c.pool.filter (fun x => x != g) else c.pool := by
  have hne : c.pool ≠ [] := fun e => h (refusesMove_iff.2 (by simp [hp, e]))
  obtain ⟨g, t, ht, hg, hctx⟩ := takeFrame_some hc hsp hne
  refine ⟨g, hg, ?_⟩
  rw [if_pos hp]
  exact migrate_marks hs hn hc hva hloc hpeer hf hgood hctx rfl (migrateEnd_pooled h hp ht)
end

end Sys2Proof.Machine
end

section
/-!
MIGRATION_MOVE (R199 steps 2 to 5), for a page of this device that moves to another place of it.
-/

namespace Sys2Proof.Machine

/-! ## The bytes of a page -/

theorem frameKey_aligned (loc peer frame : Nat) : frameKey loc peer frame % 65536 = 0 := by
  have hr : regionSize % 65536 = 0 := by decide
  unfold frameKey
  generalize (match loc with | 0 => 0 | 1 => 1 | 2 => 2 + peer | _ => 300 + peer) = r
  rw [Nat.add_mod, Nat.mul_mod_left, Nat.mul_mod, hr]
  simp

/-- Entries of a map entered under other keys. -/
theorem find_foldl_insert {α : Type} (f : Nat → Nat) {m : SMap α} (hm : m.Pairwise fun x y => x.1 < y.1) {k : Nat}
    (hf : ∀ x ∈ m, f x.1 = f k → x.1 = k) (r : SMap α) :
    (m.foldl (fun r x => r.insert (f x.1) x.2) r).find? (f k) = (m.find? k).or (r.find? (f k)) := by
  induction m generalizing r with
  | nil => rfl
  | cons x m ih =>
    obtain ⟨j, y⟩ := x
    obtain ⟨hlt, hm⟩ := List.pairwise_cons.1 hm
    rw [List.foldl_cons, ih hm (fun x hx => hf x (List.mem_cons_of_mem _ hx)), SMap.find_cons]
    by_cases hk : k = j
    · subst hk
      have hnone : SMap.find? m k = none := by
        by_contra hs
        obtain ⟨z, hz⟩ := Option.ne_none_iff_exists'.1 hs
        obtain ⟨w, hw, hwk⟩ := List.mem_map.1 (mem_keys_of_find hz)
        have := hlt w hw
        omega
      rw [hnone, SMap.find_insert_self, if_pos rfl]
      rfl
    · have hne : f k ≠ f j := fun e => hk (hf (j, y) List.mem_cons_self e.symm).symm
      rw [SMap.find_insert_of_ne _ _ hne, if_neg hk]

/-- What stands at the new place of a moved page is what stood at the old one. -/
theorem readByte_copyPage {s : State} (hsp : s.specs = []) (hwf : Memory.wf s.mem = true) {old new i : Nat} (ho : old % 65536 = 0)
    (hn : new % 65536 = 0) (hi : i < 65536) : (s.copyPage old new).readByte (new + i) = s.readByte (old + i) := by
  have hchanged : (if new < regionSize then s.frameChanged (new / 65536) else s) = s := by
    rw [frameChanged_of_nil hsp, ite_self]
  have hmem : (s.copyPage old new).mem =
      (s.mem.filter fun x => x.1 / 65536 == old / 65536).foldl (fun r x => SMap.insert r (x.1 - old + new) x.2)
        (s.mem.filter fun x => x.1 / 65536 != new / 65536) := by
    rw [State.copyPage]
    dsimp only
    rw [hchanged, Nat.div_one, Nat.div_one, Nat.div_one]
  have hpw := ((SMap.wf_iff _).1 (SMap.wf_filter (fun x => x.1 / 65536 == old / 65536) hwf)).1
  have hkey : old + i - old + new = new + i := by omega
  have hfind := find_foldl_insert (fun k => k - old + new) (k := old + i) hpw (fun x hx he => by
    have hx := (List.mem_filter.1 hx).2
    simp only [beq_iff_eq] at hx
    omega) (s.mem.filter fun x => x.1 / 65536 != new / 65536)
  rw [hkey, SMap.find_filter_key s.mem fun k => k / 65536 == old / 65536, SMap.find_filter_key s.mem fun k => k / 65536 != new / 65536,
    if_pos (by simp; omega), if_neg (by simp; omega)] at hfind
  rw [State.readByte, SMap.getD, hmem, hfind, Option.or_none, State.readByte, SMap.getD]

theorem copyPage_frame {s : State} (hsp : s.specs = []) (old new : Nat) :
    s.copyPage old new = { s with mem := (s.copyPage old new).mem, tags := (s.copyPage old new).tags,
                                  poison := (s.copyPage old new).poison, checkErr := (s.copyPage old new).checkErr } := by
  have hchanged : (if new < regionSize then s.frameChanged (new / 65536) else s) = s := by
    rw [frameChanged_of_nil hsp, ite_self]
  rw [State.copyPage]
  dsimp only
  rw [hchanged]

/-! ## The end of a move -/

/-- The entry of a page that has moved. -/
def movedEntry (g : Migration) (e : BitVec 128) : BitVec 128 :=
  setField (setField (setField (setField e 16 48 g.frame) 6 2 g.loc) 80 13 g.peer) 12 1 0

theorem movedEntry_fields (g : Migration) (e : BitVec 128) (hf : g.frame < 2 ^ 48) (hl : g.loc < 4) :
    pteFrame (movedEntry g e) = g.frame ∧ pteLoc (movedEntry g e) = g.loc ∧ pteMig (movedEntry g e) = false := by
  unfold movedEntry pteFrame pteLoc pteMig
  refine ⟨?_, ?_, ?_⟩
  · rw [bitsAt_setField_of_ne _ (by decide) _ (by decide), bitsAt_setField_of_ne _ (by decide) _ (by decide),
      bitsAt_setField_of_ne _ (by decide) _ (by decide), bitsAt_setField _ (by decide), Nat.mod_eq_of_lt hf]
  · rw [bitsAt_setField_of_ne _ (by decide) _ (by decide), bitsAt_setField_of_ne _ (by decide) _ (by decide),
      bitsAt_setField _ (by decide), Nat.mod_eq_of_lt (by omega)]
  · rw [getLsbD_setField _ (by decide), if_pos (by decide)]
    rfl

/-- A context once its page has moved: the entry rewritten, an old frame of this device back in the pool. -/
def Ctx.moved (g : Migration) (e : BitVec 128) (c : Ctx) : Ctx :=
  { c with ptes := c.ptes.put 0 g.page (movedEntry g (c.pte g.page)),
           pool := if pteLoc e = 0 then c.pool ++ [pteFrame e] else c.pool }

theorem endMove_answers {s : State} {seq : Word} (hb : s.mailBusy = some seq) {g : Migration} {c : Ctx}
    (hc : s.ctx? g.ctx = some c) (e : BitVec 128) :
    ∃ t : State, s.endMove g e stOk = t.mailAnswered seq 0 [] ∧ t.migration = none ∧ t.mem = s.mem ∧ t.ctx? g.ctx = some (c.moved g e) := by
  unfold State.endMove
  dsimp only
  rw [if_pos rfl]
  split
  · rename_i seq' h
    have h : s.mailBusy = some seq' := h
    obtain rfl : seq = seq' := Option.some.inj (hb.symm.trans h)
    exact ⟨_, rfl, rfl, rfl, ctx_setCtx (s := { s with remotes := _, migration := none }) hc (Ctx.moved g e)⟩
  · rename_i h
    have h : s.mailBusy = none := h
    rw [hb] at h
    cases h

/-! ## The move -/

/-- Nothing is on its way anywhere: no merge, no snoop, no request, no copy and no speculation. -/
structure State.Still (s : State) : Prop where
  merges : s.merges = []
  snoops : s.snoops = []
  specs : s.specs = []
  heldReqs : s.heldReqs = []
  heldHost : s.heldHost = []
  copies : s.copies = []
  remotes : s.remotes = []

theorem pageBusy_of_still {s : State} (h : s.Still) (key : Nat) : s.pageBusy key = false := by
  obtain ⟨hm, hs, -, hq, hh, -, hr⟩ := h
  simp [State.pageBusy, hm, hs, hq, hh, hr]

theorem performMerges_of_still {s : State} (h : s.Still) (p : Merge → Bool) : State.performMerges s.merges.length s p = s := by
  rw [h.merges]
  rfl

/-- A page that moves on this device while nothing is under way is copied, and the move ends. -/
theorem execMigrationMove_copies {s : State} (hst : s.Still) {n page : Nat} {g : Migration} {c : Ctx} (hg : s.migration = some g)
    (hc : s.ctx? n = some c) (hgc : g.ctx = n) (hgp : g.page = page) (htr : s.transferHolds n (fun p => p == page) = false)
    (ho : peerOf (frameKey (pteLoc (c.pte page)) (ptePeer (c.pte page)) (pteFrame (c.pte page))) = none)
    (hnew : peerOf (frameKey g.loc g.peer g.frame) = none)
    (htag : g.loc = 1 → s.pageTagged (frameKey (pteLoc (c.pte page)) (ptePeer (c.pte page)) (pteFrame (c.pte page))) = false) :
    ∃ tlbs m, exec (.migrationMove n page) s =
      .next ((({ s with tlbs := tlbs, migration := m } : State).copyPage
        (frameKey (pteLoc (c.pte page)) (ptePeer (c.pte page)) (pteFrame (c.pte page))) (frameKey g.loc g.peer g.frame)).endMove
          g (c.pte page) stOk) := by
  generalize hold : frameKey (pteLoc (c.pte page)) (ptePeer (c.pte page)) (pteFrame (c.pte page)) = old at ho htag ⊢
  generalize hnk : frameKey g.loc g.peer g.frame = new at hnew ⊢
  refine ⟨(s.shootDown n fun p => p == page).tlbs, some { g with frozen := some old }, ?_⟩
  have hst' : ({ s with tlbs := (s.shootDown n fun p => p == page).tlbs } : State).Still :=
    ⟨hst.merges, hst.snoops, hst.specs, hst.heldReqs, hst.heldHost, hst.copies, hst.remotes⟩
  have hno : ¬ (g.ctx ≠ n ∨ g.page ≠ page) := by simp [hgc, hgp]
  change execMigrationMove n page s = _
  simp only [execMigrationMove, hg, hc, hno, if_false, htr, hold, hnk]
  rw [shootDown_of_nil hst.specs, evictAll_of_nil (by exact hst.copies), performMerges_of_still hst', pageBusy_of_still hst']
  have hsent : ((s.remotes.filter fun r => r.team == moveUnit && r.form == .nothing).isEmpty) = true := by simp [hst.remotes]
  have hnt : ¬ ((decide (g.loc = 1) && s.pageTagged old) = true) := by
    rw [Bool.and_eq_true, decide_eq_true_eq]
    exact fun h => Bool.noConfusion ((htag h.1).symm.trans h.2)
  simp only [hsent, ho, hnew, Option.isSome_none, Bool.not_true, Bool.false_eq_true, if_false]
  rw [if_neg (by exact hnt)]

theorem migrationMove_moves {s : State} (hst : s.Still) {seq : Word} (hb : s.mailBusy = some seq) {n page : Nat} {g : Migration} {c : Ctx}
    (hg : s.migration = some g) (hc : s.ctx? n = some c) (hgc : g.ctx = n) (hgp : g.page = page)
    (htr : s.transferHolds n (fun p => p == page) = false)
    (ho : peerOf (frameKey (pteLoc (c.pte page)) (ptePeer (c.pte page)) (pteFrame (c.pte page))) = none)
    (hnew : peerOf (frameKey g.loc g.peer g.frame) = none) (hf : g.frame < 2 ^ 48) (hl : g.loc < 3) (hwf : Memory.wf s.mem = true)
    (htag : g.loc = 1 → s.pageTagged (frameKey (pteLoc (c.pte page)) (ptePeer (c.pte page)) (pteFrame (c.pte page))) = false) :
    ∃ u : State, exec (.migrationMove n page) s = .next (u.mailAnswered seq 0 []) ∧ u.migration = none ∧
      (∀ i, i < 65536 → u.readByte (frameKey g.loc g.peer g.frame + i) =
        s.readByte (frameKey (pteLoc (c.pte page)) (ptePeer (c.pte page)) (pteFrame (c.pte page)) + i)) ∧
      ∃ c' : Ctx, u.ctx? n = some c' ∧ pteFrame (c'.pte page) = g.frame ∧ pteLoc (c'.pte page) = g.loc ∧
        pteMig (c'.pte page) = false := by
  obtain ⟨tlbs, m, he⟩ := execMigrationMove_copies hst hg hc hgc hgp htr ho hnew htag
  generalize hold : frameKey (pteLoc (c.pte page)) (ptePeer (c.pte page)) (pteFrame (c.pte page)) = old at he ⊢
  generalize hnk : frameKey g.loc g.peer g.frame = new at he ⊢
  have hsp : ({ s with tlbs := tlbs, migration := m } : State).specs = [] := hst.specs
  have hframe := copyPage_frame hsp old new
  subst hgc hgp
  obtain ⟨u, hu, hm, hmem, hctx⟩ := endMove_answers (seq := seq)
    (s := ({ s with tlbs := tlbs, migration := m } : State).copyPage old new)
    (by rw [hframe]; exact hb) (by rw [hframe]; exact hc) (c.pte g.page)
  obtain ⟨hfr, hlo, hmig⟩ := movedEntry_fields g (c.pte g.page) hf (by omega)
  have hpte : (c.moved g (c.pte g.page)).pte g.page = movedEntry g (c.pte g.page) := SMap.getD_put_self _ _ _ _
  refine ⟨u, he.trans (congrArg Host.Outcome.next hu), hm, fun i hi => ?_, _, hctx, by rw [hpte, hfr], by rw [hpte, hlo], by rw [hpte, hmig]⟩
  have hbytes := readByte_copyPage (i := i) hsp hwf (hold ▸ frameKey_aligned _ _ _) (hnk ▸ frameKey_aligned _ _ _) hi
  rw [State.readByte, hmem]
  exact hbytes

end Sys2Proof.Machine
end

section
/-!
CAP_MINT and CAP_CLEAR (R168): what a written copy gives a line's home.
-/

namespace Sys2Proof.Machine

/-! ## Masks -/

theorem foldl_byteBits (m : BitVec 128) (n : Nat) :
    let b := (List.range n).foldl (fun a i => if m.getLsbD i then a + 255 * 2 ^ (8 * i) else a) 0
    b < 2 ^ (8 * n) ∧ ∀ j, b.testBit j = (decide (j < 8 * n) && m.getLsbD (j / 8)) := by
  induction n with
  | zero => simp
  | succ n ih =>
    dsimp only at ih ⊢
    obtain ⟨hlt, hbit⟩ := ih
    rw [List.range_succ, List.foldl_append, List.foldl_cons, List.foldl_nil]
    generalize (List.range n).foldl (fun a i => if m.getLsbD i then a + 255 * 2 ^ (8 * i) else a) 0 = b at hlt hbit ⊢
    have hp : 2 ^ (8 * (n + 1)) = 256 * 2 ^ (8 * n) := by rw [Nat.mul_succ, Nat.pow_add]; omega
    cases hm : m.getLsbD n with
    | false =>
      refine ⟨by simp only [Bool.false_eq_true, if_false]; omega, fun j => ?_⟩
      rw [if_neg (by decide), hbit]
      by_cases hj : j / 8 = n
      · simp [hj, hm]
      · have : j < 8 * (n + 1) ↔ j < 8 * n := by omega
        simp [this]
    | true =>
      refine ⟨by simp only [if_true]; omega, fun j => ?_⟩
      rw [if_pos rfl, Nat.add_comm, Nat.mul_comm, Nat.testBit_two_pow_mul_add _ hlt, hbit, show (255 : Nat) = 2 ^ 8 - 1 from rfl,
        Nat.testBit_two_pow_sub_one]
      by_cases hj : j < 8 * n
      · have : j < 8 * (n + 1) := by omega
        simp [hj, this]
      · by_cases hj' : j < 8 * (n + 1)
        · have h1 : j - 8 * n < 8 := by omega
          have h2 : j / 8 = n := by omega
          simp [hj, hj', h1, h2, hm]
        · have h1 : ¬ j - 8 * n < 8 := by omega
          simp [hj, hj', h1]

theorem getLsbD_byteBits (m : BitVec 128) {j : Nat} (hj : j < 1024) : (byteBits m).getLsbD j = m.getLsbD (j / 8) := by
  rw [byteBits, BitVec.getLsbD_ofNat, (foldl_byteBits m 128).2]
  have : j < 8 * 128 := hj
  simp [hj]

theorem getLsbD_granBits (m : BitVec 128) {g : Nat} (hg : g < 8) :
    (granBits m).getLsbD g = !decide ((m >>> (16 * g)).setWidth 16 = (0 : BitVec 16)) := by
  have h := (foldl_bits (fun g => decide ((m >>> (16 * g)).setWidth 16 = (0 : BitVec 16))) 8).2 g
  simp only [decide_eq_true_eq] at h
  rw [granBits, BitVec.getLsbD_ofNat, h]
  simp [hg]

/-! ## Numbers and bytes -/

theorem length_bytesOfNat (n x : Nat) : (bytesOfNat n x).length = n := by
  induction n generalizing x with
  | zero => rfl
  | succ n ih => rw [bytesOfNat, List.length_cons, ih]

theorem natOfBytes_bytesOfNat (n x : Nat) : natOfBytes (bytesOfNat n x) = x % 256 ^ n := by
  induction n generalizing x with
  | zero => simp [bytesOfNat, natOfBytes, Nat.mod_one]
  | succ n ih =>
    rw [bytesOfNat, natOfBytes, ih, BitVec.toNat_ofNat, show 256 ^ (n + 1) = 256 * 256 ^ n from Nat.pow_succ', Nat.mod_mul]

/-! ## A granule written over an empty copy -/

/-- A copy in which a granule has been written. -/
def granuleCopy (lo : Nat) (k : Cap) : Copy := Copy.empty.write lo (bytesOfNat 16 k.bits.toNat) k.tag

/-- The bytes of a granule in its line. -/
def granuleMask (lo : Nat) : BitVec 128 := BitVec.ofNat 128 ((2 ^ 16 - 1) * 2 ^ lo)

theorem getLsbD_granuleMask (lo i : Nat) : (granuleMask lo).getLsbD i = (decide (i < 128) && decide (lo ≤ i ∧ i < lo + 16)) := by
  rw [granuleMask, BitVec.getLsbD_ofNat, Nat.mul_comm, Nat.testBit_two_pow_mul, Nat.testBit_two_pow_sub_one]
  by_cases h : lo ≤ i
  · have : i - lo < 16 ↔ i < lo + 16 := by omega
    simp [h, this]
  · simp [h]

theorem granuleCopy_eq (lo : Nat) (k : Cap) :
    (granuleCopy lo k).dirty = granuleMask lo ∧
    (granuleCopy lo k).data = BitVec.ofNat 1024 (k.bits.toNat * 2 ^ (8 * lo)) &&& byteBits (granuleMask lo) ∧
    (granuleCopy lo k).tags = (if k.tag then 0xFF else 0) &&& granBits (granuleMask lo) := by
  have hlen := length_bytesOfNat 16 k.bits.toNat
  have hval : natOfBytes (bytesOfNat 16 k.bits.toNat) = k.bits.toNat := by
    rw [natOfBytes_bytesOfNat]
    exact Nat.mod_eq_of_lt k.bits.isLt
  unfold granuleCopy Copy.write Copy.over
  rw [hlen, hval]
  simp only [Copy.empty, granuleMask]
  simp

theorem granuleCopy_dirty (lo i : Nat) (k : Cap) :
    (granuleCopy lo k).dirty.getLsbD i = (decide (i < 128) && decide (lo ≤ i ∧ i < lo + 16)) := by
  rw [(granuleCopy_eq lo k).1, getLsbD_granuleMask]

theorem granuleCopy_byte {lo j : Nat} (hlo : lo + 16 ≤ 128) (hj : j < 16) (k : Cap) :
    ((granuleCopy lo k).data >>> (8 * (lo + j))).setWidth 8 = (k.bits >>> (8 * j)).setWidth 8 := by
  obtain ⟨-, hdata, -⟩ := granuleCopy_eq lo k
  refine BitVec.eq_of_getLsbD_eq fun b hb => ?_
  have hm : (granuleMask lo).getLsbD ((8 * (lo + j) + b) / 8) = true := by
    rw [show (8 * (lo + j) + b) / 8 = lo + j by omega, getLsbD_granuleMask]
    simp
    omega
  rw [BitVec.getLsbD_setWidth, BitVec.getLsbD_setWidth, BitVec.getLsbD_ushiftRight, BitVec.getLsbD_ushiftRight, hdata,
    BitVec.getLsbD_and, getLsbD_byteBits _ (by omega), hm, BitVec.getLsbD_ofNat, Nat.mul_comm k.bits.toNat, Nat.testBit_two_pow_mul,
    show 8 * (lo + j) + b - 8 * lo = 8 * j + b by omega]
  have h1 : 8 * (lo + j) + b < 1024 := by omega
  have h2 : 8 * lo ≤ 8 * (lo + j) + b := by omega
  simp [h1, h2, BitVec.getLsbD]

theorem granuleCopy_tag {g : Nat} (hg : g < 8) (k : Cap) : (granuleCopy (16 * g) k).tags.getLsbD g = k.tag := by
  obtain ⟨-, -, htags⟩ := granuleCopy_eq (16 * g) k
  have hne : ¬ ((granuleMask (16 * g) >>> (16 * g)).setWidth 16 = (0 : BitVec 16)) := by
    intro h
    have := congrArg (fun b => b.getLsbD 0) h
    simp [getLsbD_granuleMask] at this
    omega
  rw [htags, BitVec.getLsbD_and, getLsbD_granBits _ hg, decide_eq_false hne]
  have hff : (0xFF : BitVec 8).getLsbD g = true := by
    have : ∀ g : Fin 8, (0xFF : BitVec 8).getLsbD g = true := by decide
    exact this ⟨g, hg⟩
  cases k.tag
  · simp
  · rw [if_pos rfl, hff]
    rfl

end Sys2Proof.Machine
end

section
/-!
CAP_MINT and CAP_CLEAR (R168, R292): an entry of a context's capability table.
-/

namespace Sys2Proof.Machine

/-! ## The entry at its home -/

/-- The bytes and the tag of a granule written over another state, and nothing else. -/
def State.Granule (s : State) (key : Nat) (k : Cap) (t : State) : Prop :=
  (∀ j, j < 16 → t.readByte (key + j) = (k.bits >>> (8 * j)).setWidth 8) ∧
  t.tagAt key = (k.tag && regionTagged key) ∧
  ∀ a, (a < key ∨ key + 16 ≤ a) → t.readByte a = s.readByte a

theorem homeMerge_granule {s : State} (hsp : s.specs = []) {key : Nat} (hk : key % 16 = 0) (k : Cap) :
    s.Granule key k (s.homeMerge (key / 128) (granuleCopy (key % 128) k)) := by
  have hlo : key % 128 + 16 ≤ 128 := by omega
  have hg : key % 128 / 16 < 8 := by omega
  have hdirty : ∀ i, (granuleCopy (key % 128) k).dirty.getLsbD i = true ↔ i < 128 ∧ key % 128 ≤ i ∧ i < key % 128 + 16 := fun i => by
    rw [granuleCopy_dirty, Bool.and_eq_true, decide_eq_true_eq, decide_eq_true_eq]
  refine ⟨fun j hj => ?_, ?_, fun a ha => ?_⟩
  · rw [readByte_homeMerge hsp, if_pos ⟨by omega, (hdirty _).2 (by omega)⟩, show (key + j) % 128 = key % 128 + j by omega,
      granuleCopy_byte hlo hj]
  · rw [tagAt_homeMerge hsp, if_pos ⟨rfl, mem_granules.2 ⟨hg, key % 128, mem_offsets.2 ⟨by omega, (hdirty _).2 (by omega)⟩, rfl⟩⟩,
      show key / 16 * 16 = key by omega]
    have ht := granuleCopy_tag hg k
    rw [show 16 * (key % 128 / 16) = key % 128 by omega] at ht
    rw [ht]
  · rw [readByte_homeMerge hsp, if_neg]
    rintro ⟨hl, hd⟩
    have := (hdirty _).1 hd
    omega

/-- Firmware's translation of one part marks the entry and fills TLBs. -/
theorem touch_cpWho (s : State) (n : Nat) (a : Access) (p : Part) :
    ∃ ctxs tlbs, s.touch (cpWho n) a [p] = { s with ctxs := ctxs, tlbs := tlbs } := by
  unfold State.touch
  rw [List.filter_cons]
  split
  · exact ⟨_, _, rfl⟩
  · exact ⟨_, _, rfl⟩

/-! ## The entry -/

section
variable {s : State} {n h : Nat} {c : Ctx}

theorem setEntry_handle (hh : 2 ^ c.capLog2 ≤ h) (k : Cap) : s.setEntry n h c k = .no stHandle := by
  rw [State.setEntry, if_pos hh]

theorem setEntry_writes (hh : h < 2 ^ c.capLog2) {p : Part} (hp : s.cpPlace n (c.supBase + 16 * h) 16 .write = .ok p)
    (hcoh : p.coh = false) (hkey : p.key % 16 = 0) (hsp : s.specs = []) (k : Cap) :
    ∃ t, s.setEntry n h c k = .done [k.bits.toNat % 2 ^ 64, k.bits.toNat / 2 ^ 64] t ∧ s.Granule p.key k t := by
  obtain ⟨ctxs, tlbs, htouch⟩ := touch_cpWho s n .write p
  refine ⟨({ s with ctxs := ctxs, tlbs := tlbs } : State).homeMerge (p.key / 128) (granuleCopy (p.key % 128) k), ?_,
    homeMerge_granule (s := { s with ctxs := ctxs, tlbs := tlbs }) hsp hkey k⟩
  rw [State.setEntry, if_neg (Nat.not_le_of_lt hh), hp]
  simp only [htouch, hcoh]
  rfl
end

/-! ## The commands -/

/-- The first word: a context and an entry. -/
theorem entryWord {n h : Nat} (hn : n < 256) (hh : h < 65536) :
    FitsAll [0xFFFF00FF] [n + 65536 * h] ∧ (BitVec.ofNat 64 (n + 65536 * h)).toNat % 256 = n ∧
      bitsAt (BitVec.ofNat 64 (n + 65536 * h)).toNat 16 16 = h := by
  rw [toNat_word (by omega)]
  exact ⟨⟨fits_add (o := 16) (by omega) (fits_low (n := 8) hn (by decide)) (fits_field (n := 16) hh (by decide)), trivial⟩,
    by omega, by rw [bitsAt]; omega⟩

section
variable {s : State} {seq : Word} {n h : Nat} (hs : s.listens) (hn : n < 256) (hh : h < 65536)
include hs hn hh

section
variable {base len perm gen : Nat} (hbase : base < 2 ^ 64) (hlen : len < 2 ^ 64) (hperm : perm < 1024) (hgen : gen < 16)
include hbase hlen hperm hgen

theorem capMint_inexact (hk : capExact base len perm gen = none) :
    s.Declines .capMint seq [n + 65536 * h, base, len, perm, gen] 1 := by
  obtain ⟨⟨hf, -⟩, -, -⟩ := entryWord hn hh
  change execCapMint _ s = _
  refine (mailCommand_eq hs ?_ _).trans ?_
  · exact ⟨hf, fits_word hbase, fits_word hlen, fits_low (n := 10) hperm (by decide), fits_low (n := 4) hgen (by decide), trivial⟩
  simp only [mailOf, List.getD_cons_zero, List.getD_cons_succ, toNat_word hbase, toNat_word hlen,
    toNat_word (show perm < 2 ^ 64 by omega), toNat_word (show gen < 2 ^ 64 by omega)]
  rw [hk]
  rfl

theorem capMint_exact {c : Ctx} (hc : s.ctx? n = some c) {k : Cap} (hk : capExact base len perm gen = some k) :
    exec (.capMint (mailOf seq [n + 65536 * h, base, len, perm, gen])) s =
      s.mailEnds seq (if c.genIs base len gen = true then s.setEntry n h c k else .no stRefused) := by
  obtain ⟨⟨hf, -⟩, h0, h16⟩ := entryWord hn hh
  change execCapMint _ s = _
  refine (mailCommand_eq hs ?_ _).trans ?_
  · exact ⟨hf, fits_word hbase, fits_word hlen, fits_low (n := 10) hperm (by decide), fits_low (n := 4) hgen (by decide), trivial⟩
  simp only [mailOf, List.getD_cons_zero, List.getD_cons_succ, toNat_word hbase, toNat_word hlen,
    toNat_word (show perm < 2 ^ 64 by omega), toNat_word (show gen < 2 ^ 64 by omega), h0, h16]
  rw [hk]
  exact congrArg _ (onCtx_some hc _)

section
variable {c : Ctx} (hc : s.ctx? n = some c) {k : Cap} (hk : capExact base len perm gen = some k)
include hc hk

theorem capMint_wrongGen (hg : c.genIs base len gen = false) : s.Declines .capMint seq [n + 65536 * h, base, len, perm, gen] 10 := by
  have he := capMint_exact (seq := seq) hs hn hh hbase hlen hperm hgen hc hk
  rw [if_neg (Bool.eq_false_iff.1 hg)] at he
  exact he

theorem capMint_handle (hg : c.genIs base len gen = true) (hlast : 2 ^ c.capLog2 ≤ h) :
    s.Declines .capMint seq [n + 65536 * h, base, len, perm, gen] 2 := by
  have he := capMint_exact (seq := seq) hs hn hh hbase hlen hperm hgen hc hk
  rw [if_pos hg, setEntry_handle hlast] at he
  exact he

theorem capMint_writes (hsp : s.specs = []) (hlast : h < 2 ^ c.capLog2) {p : Part}
    (hp : s.cpPlace n (c.supBase + 16 * h) 16 .write = .ok p) (hcoh : p.coh = false) (hkey : p.key % 16 = 0)
    (hg : c.genIs base len gen = true) :
    s.Obeys .capMint seq [n + 65536 * h, base, len, perm, gen] [k.bits.toNat % 2 ^ 64, k.bits.toNat / 2 ^ 64] (s.Granule p.key k) := by
  have he := capMint_exact (seq := seq) hs hn hh hbase hlen hperm hgen hc hk
  obtain ⟨t, ht, hw⟩ := setEntry_writes hlast hp hcoh hkey hsp k
  rw [if_pos hg, ht] at he
  exact ⟨t, he, hw⟩
end
end

/-- An entry cleared holds the null capability. -/
theorem capClear_writes {c : Ctx} (hc : s.ctx? n = some c) (hsp : s.specs = []) (hlast : h < 2 ^ c.capLog2) {p : Part}
    (hp : s.cpPlace n (c.supBase + 16 * h) 16 .write = .ok p) (hcoh : p.coh = false) (hkey : p.key % 16 = 0) :
    s.Obeys .capClear seq [n + 65536 * h] [] (s.Granule p.key Cap.null) := by
  obtain ⟨t, ht, hw⟩ := setEntry_writes hlast hp hcoh hkey hsp Cap.null
  refine ⟨t, ?_, hw⟩
  obtain ⟨hf, h0, h16⟩ := entryWord hn hh
  change execCapClear _ s = _
  refine (mailCommand_eq hs hf _).trans ?_
  simp only [mailOf, List.getD_cons_zero, h0, h16]
  rw [onCtx_some hc, ht]
  rfl

end

end Sys2Proof.Machine
end

section
/-!
DEBUG_ACCESS (R292, R305): a gang's save area.
-/

namespace Sys2Proof.Machine

theorem still_iff (c : Ctx) (g : Gang) : c.still g = true ↔ g.phase = .streamed ∨ g.phase = .shadow ∨ c.frozen = true := by
  simp only [Ctx.still, Bool.or_eq_true, beq_iff_eq]
  tauto

section
variable {s : State} {seq : Word} {n k o : Nat} (hs : s.listens) (hn : n < 256) {c : Ctx} (hc : s.ctx? n = some c) (hk : 0 < k)
  (hk' : k < 2 ^ 32) {g : Gang} (hg : s.gang? k = some g) (hgn : g.ctx = n) (hcc : c.confidential = false)
  (hstill : g.phase = .streamed ∨ g.phase = .shadow ∨ c.frozen = true) (ho : o < areaSize g.shape) (ho8 : o % 8 = 0)
  (ho' : o < 2 ^ 64)
include hs hn hc hk hk' hg hgn hcc hstill ho ho8 ho'

/-- An access to eight bytes of a gang's save area: the area is that of a gang that stands still. -/
theorem debugAccess_area {w x : Nat} (hw : w < 2) (hx : x < 2 ^ 64) :
    exec (.debugAccess (mailOf seq [n + 256 * w, k, o, x])) s = s.mailEnds seq (
      if s.debugOf c.partition = .locked then .no stRefused
      else if w = 1 then .done [] ((s.debugWake c.partition g).areaWrite g o x)
      else .done [s.areaRead g o] (s.debugWake c.partition g).tick) := by
  change execDebugAccess _ s = _
  refine (mailCommand_eq hs ?_ _).trans ?_
  · exact ⟨fits_add (o := 8) (by omega) (fits_low (n := 8) hn (by decide)) (fits_field (n := 1) hw (by decide)),
      fits_low hk' (by decide), fits_word ho', fits_word hx, trivial⟩
  have h0 : (n + 256 * w) % 256 = n := by omega
  have hb : bitsAt (n + 256 * w) 8 1 = w := by rw [bitsAt]; omega
  have hk0 : BitVec.ofNat 64 k ≠ 0 := fun h => by
    have := congrArg BitVec.toNat h
    rw [toNat_word (by omega)] at this
    exact hk.ne' this
  simp only [mailOf, List.getD_cons_zero, List.getD_cons_succ, toNat_word ho', toNat_word hx, toNat_word (show k < 2 ^ 64 by omega),
    toNat_word (show n + 256 * w < 2 ^ 64 by omega), h0, hb]
  rw [if_neg (not_not.2 ho8), onCtx_some hc, if_neg fun h => hk0 h.1, hg]
  have hst : c.still g = true := (still_iff c g).2 hstill
  by_cases hl : s.debugOf c.partition = .locked
  · rw [if_pos hl]
    simp only [hl, true_or, or_true, if_true]
  · rw [if_neg hl]
    simp only [hgn, hcc, hl, hst, Nat.not_le_of_lt ho, ne_eq, not_true, Bool.not_true, Bool.false_eq_true, or_false, if_false]

theorem debugAccess_locked (hl : s.debugOf c.partition = .locked) : s.Declines .debugAccess seq [n, k, o] 10 := by
  have h := debugAccess_area (seq := seq) hs hn hc hk hk' hg hgn hcc hstill ho ho8 ho' (w := 0) (x := 0) (by decide) (by decide)
  rw [if_pos hl] at h
  exact h

theorem debugAccess_reads (hl : s.debugOf c.partition ≠ .locked) :
    s.Obeys .debugAccess seq [n, k, o] [s.areaRead g o] fun t => t = (s.debugWake c.partition g).tick := by
  have h := debugAccess_area (seq := seq) hs hn hc hk hk' hg hgn hcc hstill ho ho8 ho' (w := 0) (x := 0) (by decide) (by decide)
  rw [if_neg hl, if_neg (by decide)] at h
  exact ⟨_, h, rfl⟩

theorem debugAccess_writes {x : Nat} (hx : x < 2 ^ 64) (hl : s.debugOf c.partition ≠ .locked) :
    s.Obeys .debugAccess seq [n + 256, k, o, x] [] fun t => t = (s.debugWake c.partition g).areaWrite g o x := by
  have h := debugAccess_area (seq := seq) hs hn hc hk hk' hg hgn hcc hstill ho ho8 ho' (w := 1) (by decide) hx
  rw [if_neg hl, if_pos rfl] at h
  exact ⟨_, h, rfl⟩

end

end Sys2Proof.Machine
end

section
/-!
O46: mailbox commands about memory, capabilities, partitions, debug, the injector, the network and reset.
-/

namespace Sys2Proof.Machine

/-- Settles O46, by what each command's own rules come to once its parameters stand within their fields. -/
theorem mailboxCommandsOfMemory : Obligations.MailboxCommandsOfMemory := by
  intro s seq n hs hn
  refine ⟨?inexact, ?noContext, ?network, ?injector, ?partition, ?debug, reset_without hs, fun _ => reset_due hs, fun c hc => ?_⟩
  case inexact =>
    intro h base len perm gen hh hbase hlen hperm hgen hk
    exact capMint_inexact hs hn hh hbase hlen hperm hgen hk
  case noContext => exact fun hc k hk => frames_noCtx hs hn hk hc
  case network => exact fun v k hv hk => ⟨orrery_write hs hn hv hk, orrery_read hs hn hv hk, nocWeight_sets hs⟩
  case injector =>
    intro v seed rate hv hseed hrate
    exact ⟨inject_badKind hs hv hseed hrate, inject_noTest hs hv hseed hrate, inject_sets hs hv hseed hrate⟩
  case partition => exact fun lo hi test hlo hhi ht => partition_defines hs hn hlo hhi ht
  case debug =>
    exact fun p hp => ⟨debugState_locks hs hn hp, debugState_opens hs hn hp, debugState_secret hs hn, debugState_vendor hs hn hp,
      debugState_noVendor hs hn hp⟩
  refine ⟨?entries, ?frames, ?pages, ?elsewhere, ?extents, ?migrate, ?moves, ?area⟩
  case entries =>
    intro h base len perm gen k hh hbase hlen hperm hgen hk hsp
    exact ⟨capMint_wrongGen hs hn hh hbase hlen hperm hgen hc hk, capMint_handle hs hn hh hbase hlen hperm hgen hc hk,
      fun p hlast hp hcoh hkey => ⟨capMint_writes hs hn hh hbase hlen hperm hgen hc hk hsp hlast hp hcoh hkey,
        capClear_writes hs hn hh hc hsp hlast hp hcoh hkey⟩⟩
  case frames =>
    intro k hk
    exact ⟨frameGrant_overQuota hs hn hk hc,
      fun hq hl => ⟨frameGrant_short hs hn hk hc hq hl, frameGrant_fresh hs hn hk hc hq hl⟩,
      fun hq hl => ⟨frameGrant_noReserve hs hn hk hc hq hl, frameGrant_reserve hs hn hk hc hq hl⟩,
      frameReclaim_returns hs hn hk hc, quotaSet_sets hs hn hk hc⟩
  case pages =>
    intro va lo hi hva hlo hhi
    exact ⟨pageMap_bad hs hn hva hlo hhi, fun hgood t ht => ⟨t, pageMap_good hs hn hc hva hlo hhi hgood ht, rfl⟩,
      fun hgood _ _ => pageMap_fails hs hn hc hva hlo hhi hgood, pageState_high hs hn hc hva, pageState_shows hs hn hc,
      pageState_clears hs hn hc⟩
  case elsewhere =>
    intro loc peer first count hloc hpeer hfirst hcount
    refine ⟨remoteGrant_bad hs hn hc hloc hpeer hfirst hcount, remoteGrant_secret hs hn hc hloc hpeer hfirst hcount,
      remoteGrant_grants hs hn hc hloc hpeer hfirst hcount, fun sctx ticket hsctx hticket => ?_⟩
    exact ⟨peerGrant_secret hs hn hc hpeer hfirst hcount hsctx hticket, peerGrant_grants hs hn hc hpeer hfirst hcount hsctx hticket,
      _, peerRevoke_parameters hs hn hc hpeer hfirst hcount hsctx, rfl⟩
  case extents =>
    intro k x va hk hva hx hxc hb hr
    refine ⟨extentBind_bad hs hn hk hva, fun hgood hl => extentBind_other hs hn hk hva hgood hl,
      fun hgood hl h0 hq => extentBind_overQuota hs hn hk hva hgood hc hx hl hxc h0 hq, fun hl h0 => ?_,
      fun hgood hl h0 hq hsp hpos hlast hapart hpages => ?_⟩
    · exact extentBind_reserve hs hn hk hva (by simp [h0]) hc hx hl hxc hb hr h0
    · exact extentBind_maps hs hn hk hva hgood hc hx hl hxc hb hr h0 hq (boundExtent_canBind hgood hc hsp hpos hlast hapart hpages)
  case migrate =>
    intro va loc peer f hva hloc hpeer hf
    refine ⟨migrate_bad hs hn hva hloc hpeer hf, fun hgood href => ?_, fun hgood href hfresh => ?_, fun hgood href hpool hsp => ?_⟩
    · exact migrate_refused hs hn hc hva hloc hpeer hf hgood (refusesMove_iff.2 href)
    · exact migrate_moves hs hn hc hva hloc hpeer hf hgood (mt refusesMove_iff.1 href) hfresh
    · exact migrate_movesIn hs hn hc hva hloc hpeer hf hgood (mt refusesMove_iff.1 href) hpool hsp
  case moves =>
    intro g page hg hgc hgp _ _ _ _ _ _ _ htr hm hsn hsp hq hh hcp hr ho hnew _ hf hl _ hwf htag
    have hst : State.Still { s with mailBusy := some seq } := ⟨hm, hsn, hsp, hq, hh, hcp, hr⟩
    exact migrationMove_moves hst rfl hg hc hgc hgp htr ho hnew hf hl hwf htag
  case area =>
    intro k g o x hk hk' hg hgn hcc hstill ho ho8 ho' hx
    exact ⟨debugAccess_locked hs hn hc hk hk' hg hgn hcc hstill ho ho8 ho', debugAccess_reads hs hn hc hk hk' hg hgn hcc hstill ho ho8 ho',
      debugAccess_writes hs hn hc hk hk' hg hgn hcc hstill ho ho8 ho' hx⟩

end Sys2Proof.Machine
end

section
/-!
Steps and cycles (R44, R58, R283): what a cycle leaves of the device, and what a step takes up.
-/

namespace Sys2Proof.Machine

/-! ## The cycle -/

theorem powerOff_timebase (s : State) (cl : Nat) : (s.powerOff cl).timebase = s.timebase := by
  have h : (s.emptied (closingClusters cl)).timebase = s.timebase := by rw [(emptied_shut s _).wide]
  unfold State.powerOff
  dsimp only
  split
  · dsimp only
    rw [(State.Shut.of_cached (writeBackAll_cached _ _)).wide]
    exact h
  · exact h

theorem finishClosing_timebase (s : State) : s.finishClosing.timebase = s.timebase := by
  unfold State.finishClosing
  split
  · rfl
  · refine foldl_keeps (P := fun t : State => t.timebase = s.timebase) (fun t cl ht => ?_) _ rfl
    split
    · exact (powerOff_timebase t cl).trans ht
    · exact ht

theorem finishClosing_of_nil {s : State} (h : s.closing = []) : s.finishClosing = s := by
  rw [State.finishClosing, h]

/-- Time passes: no register, no byte and no due event changes. -/
theorem tickClock_fields (s : State) :
    s.tickClock.timebase = s.timebase ∧ s.tickClock.team = s.team ∧ s.tickClock.mem = s.mem ∧ s.tickClock.agenda = s.agenda := by
  unfold State.tickClock
  dsimp only
  repeat' split
  all_goals exact ⟨rfl, rfl, rfl, rfl⟩

theorem cycle_timebase (s : State) : s.cycle.timebase = s.timebase + 1 := by
  unfold State.cycle
  dsimp only
  rw [finishClosing_timebase]

theorem cycle_of_nil {s : State} (h : s.closing = []) :
    s.cycle.team = s.team ∧ s.cycle.mem = s.mem ∧ s.cycle.agenda = s.agenda := by
  obtain ⟨-, hteam, hmem, hagenda⟩ := tickClock_fields s
  rw [State.cycle, finishClosing_of_nil h]
  exact ⟨hteam, hmem, hagenda⟩

/-! ## The step -/

theorem step_owed {s : State} {i : Instr} {rest : List Instr} (h : s.cycle.agenda = i :: rest) (hi : i.encoded = false) :
    step s = exec i { s.cycle with agenda := rest } := by
  rw [step, h]
  dsimp only
  rw [hi]
  rfl

theorem step_event {s t : State} {i : Instr} (h : s.cycle.agenda = []) (he : s.cycle.nextEvent = (some i, t)) :
    step s = exec i t := by
  rw [step, h]
  dsimp only
  rw [he]

theorem step_turn {s t : State} (h : s.cycle.agenda = []) (he : s.cycle.nextEvent = (none, t)) : step s = turn t := by
  rw [step, h]
  dsimp only
  rw [he]

theorem turn_blocked {t : State} (h : t.canIssue t.team = false) : turn t = .next t.rotate := by
  simp [turn, h]

theorem turn_empty {t : State} (h : t.canIssue t.team = true) (ha : t.ready.team.active = 0) (hs : t.ready.team.saved = none) :
    turn t = popEmpty .exit t.ready := by
  simp [turn, h, ha, hs]

theorem turn_injected {t u : State} (h : t.canIssue t.team = true) (ha : ¬ (t.ready.team.active = 0 ∧ t.ready.team.saved = none))
    (hu : t.ready.injectTiming = (true, u)) : turn t = .next u.rotate := by
  rw [turn, if_pos h]
  dsimp only
  rw [if_neg ha, hu]

/-- Settles O3, by what a step takes up first. -/
theorem stepOrder : Obligations.StepOrder := by
  intro s
  refine ⟨fun i rest => step_owed, fun h => ⟨fun i t => step_event h, fun t he => ?_⟩, cycle_timebase s, cycle_of_nil⟩
  rw [step_turn h he]
  exact ⟨turn_blocked, turn_empty, fun hc ha u => turn_injected hc ha⟩

end Sys2Proof.Machine
end

section
/-!
The divergence stack (R59 to R61, R321, R328, R371, R394): the team that a control instruction reads, the pop of an entry, and what
MARK, BRD, JOIN and EXIT make of the stack.
-/

namespace Sys2Proof.Machine

/-! ## The team that a control instruction reads -/

/-- No lookahead window is open in the team, and its prefixes take nothing from results outstanding (R73). -/
def Team.Closed (t : Team) : Prop :=
  (t.pending.map fun p => p.passed t.latch.drops) = t.pending ∧ t.past = []

theorem closed_closeWindows {t : Team} (h : t.latch.drops = []) : t.closeWindows.Closed := by
  refine ⟨?_, rfl⟩
  simp only [Team.closeWindows, List.map_map]
  refine List.map_congr_left fun p _ => ?_
  simp [Pending.passed, h]

/-- A control instruction closes every window before it acts (R73). -/
theorem entering_closed (s : State) {i : Instr} (h : closesWindows i = true) : (s.entering i).team.Closed := by
  unfold State.entering
  split
  · rename_i hp hpast
    exact ⟨by simp [hp], hpast⟩
  · have inside : ∀ ps : List Pending, ∀ f : Pending → Bool, (ps.filter fun p => f p && p.inside i) = [] := fun ps f => by
      simp [Pending.inside, h]
    dsimp only
    rw [Team.settle]
    simp only [h, if_true, inside]
    exact closed_closeWindows rfl

/-- With its windows closed, a team that goes elsewhere differs from one that goes on in its pc alone. -/
theorem goto_of_closed {t : Team} (h : t.Closed) (a : Dword) : t.goto a = { t.advance with pc := a } := by
  obtain ⟨hp, hpast⟩ := h
  rw [Team.goto, Team.advance]
  simp [hp, hpast]

theorem pop_of_closed {t : Team} (h : t.Closed) (e : StackEntry) (rest : List StackEntry) :
    t.pop e rest = { t.advance with stack := rest, active := e.mask &&& ~~~t.exited, mode := e.mode, fmt := e.fmt, pc := e.addr } :=
  goto_of_closed (t := { t with stack := rest, active := e.mask &&& ~~~t.exited, mode := e.mode, fmt := e.fmt }) h e.addr

/-- An instruction that issues and finishes with one team changed. -/
theorem ends_of_exec {s : State} {i : Instr} {u : Team} {post : Team → Team → Prop}
    (hx : s.issues i = true → exec i s = .next { s.entering i with team := u }) (hp : post (s.entering i).team u) : s.Ends i post :=
  fun h => ⟨u, hx h, hp, readByte_entering s i u⟩

/-! ## Live entries -/

theorem findLive_of_liveAt {t : Team} {x : Mask} {e : StackEntry} {rest : List StackEntry} (h : t.LiveAt x e rest) :
    findLive x t.stack = some (e, rest) := by
  obtain ⟨dead, hs, hd, he⟩ := h
  rw [hs]
  clear hs
  induction dead with
  | nil => exact if_neg he
  | cons d ds ih =>
    rw [List.cons_append, findLive, if_pos (hd d List.mem_cons_self)]
    exact ih fun d h => hd d (List.mem_cons_of_mem _ h)

theorem findLive_of_noneLive {x : Mask} {es : List StackEntry} (h : ∀ d ∈ es, d.mask &&& ~~~x = 0) : findLive x es = none := by
  induction es with
  | nil => rfl
  | cons e es ih =>
    rw [findLive, if_pos (h e List.mem_cons_self)]
    exact ih fun d hd => h d (List.mem_cons_of_mem _ hd)

/-- Lanes that are out already are not live without them either. -/
theorem strip_live (m a x : Mask) : m &&& ~~~a &&& ~~~(x ||| a) = m &&& ~~~(x ||| a) := by
  apply BitVec.eq_of_getLsbD_eq
  intro i hi
  simp only [BitVec.getLsbD_and, BitVec.getLsbD_not, BitVec.getLsbD_or]
  cases m.getLsbD i <;> cases a.getLsbD i <;> simp

/-- Taking lanes out of every entry leaves the first live entry where it is. -/
theorem findLive_stripLanes (x a : Mask) (es : List StackEntry) :
    findLive (x ||| a) (stripLanes a es) =
      (findLive (x ||| a) es).map fun r => ({ r.1 with mask := r.1.mask &&& ~~~a }, stripLanes a r.2) := by
  induction es with
  | nil => rfl
  | cons e es ih =>
    simp only [stripLanes, List.map_cons, findLive, strip_live]
    split
    · exact ih
    · rfl

/-! ## MARK and BRD -/

section
variable {s : State}

theorem exec_mark (off : Int) (h : s.issues (.mark off) = true)
    (hin : inCode (s.entering (.mark off)).team.codeCap ((s.entering (.mark off)).team.target off) 4 = true) :
    exec (.mark off) s =
      let t := (s.entering (.mark off)).team
      if 32 ≤ t.stack.length then trapStack 1 (.mark off) (s.entering (.mark off))
      else .next { s.entering (.mark off) with team :=
        { t.advance with stack := ⟨.join, t.target off, t.active, t.mode, t.fmt⟩ :: t.stack,
                         deep := max t.deep (t.stack.length + 1) } } := by
  change execMark off s = _
  rw [execMark, issue_of_issues h]
  simp only [hin, Bool.not_true, Bool.false_eq_true, if_false]

theorem eq_maskOf {t : Team} {m : Mask} {f : Nat → Bool} (h : t.IsSet m f) : maskOf t.width f = m := by
  apply BitVec.eq_of_getLsbD_eq
  intro l hl
  rw [maskOf_getLsbD _ _ hl, h l hl]

theorem exec_brd (neg : Bool) (p : Nat) (off : Int) {m : Mask} (h : s.issues (.brd neg p off) = true)
    (hin : inCode (s.entering (.brd neg p off)).team.codeCap ((s.entering (.brd neg p off)).team.target off) 4 = true)
    (hm : (s.entering (.brd neg p off)).team.IsSet m fun l => (s.entering (.brd neg p off)).team.selected l &&
      ((s.entering (.brd neg p off)).team.getP p l != neg)) :
    exec (.brd neg p off) s =
      let t := (s.entering (.brd neg p off)).team
      if m = 0 then .next { s.entering (.brd neg p off) with team := t.advance }
      else if t.active &&& ~~~m = 0 then .next { s.entering (.brd neg p off) with team := t.goto (t.target off) }
      else if 32 ≤ t.stack.length then trapStack 1 (.brd neg p off) (s.entering (.brd neg p off))
      else .next { s.entering (.brd neg p off) with team :=
        { t.advance with stack := ⟨.path, t.target off, m, t.mode, t.fmt⟩ :: t.stack, deep := max t.deep (t.stack.length + 1),
                         active := t.active &&& ~~~m } } := by
  change execBrd neg p off s = _
  rw [execBrd, issue_of_issues h]
  simp only [hin, eq_maskOf hm, Bool.not_true, Bool.false_eq_true, if_false]

/-! ## JOIN and EXIT -/

theorem exec_join_live (h : s.issues .join = true) {e : StackEntry} {rest : List StackEntry}
    (hl : (s.entering .join).team.LiveAt (s.entering .join).team.exited e rest) :
    exec .join s = .next { s.entering .join with team := (s.entering .join).team.pop e rest } := by
  change execJoin s = _
  rw [execJoin, issue_of_issues h]
  dsimp only
  rw [findLive_of_liveAt hl]

theorem exec_join_dead (h : s.issues .join = true) (hn : (s.entering .join).team.NoneLive (s.entering .join).team.exited) :
    exec .join s =
      if (s.entering .join).team.spilled != 0 then trapStack 2 .join (s.entering .join)
      else if (s.entering .join).team.active = 0 then .next (retireTeam (s.entering .join))
      else trapStack 3 .join (s.entering .join) := by
  change execJoin s = _
  rw [execJoin, issue_of_issues h]
  dsimp only
  rw [findLive_of_noneLive hn]

/-- The team after its active lanes have left for good (R60). -/
def Team.departed (t : Team) : Team :=
  { t with exited := t.exited ||| t.active, stack := stripLanes t.active t.stack, active := 0 }

theorem closed_departed {t : Team} (h : t.Closed) : t.departed.Closed := h

theorem findLive_departed (t : Team) :
    findLive t.departed.exited t.departed.stack = (findLive (t.exited ||| t.active) t.stack).map fun r =>
      ({ r.1 with mask := r.1.mask &&& ~~~t.active }, stripLanes t.active r.2) :=
  findLive_stripLanes t.exited t.active t.stack

/-- A departed team's pop gives the entry's lanes less every lane that has exited. -/
theorem pop_departed {t : Team} (h : t.Closed) (e : StackEntry) (rest : List StackEntry) :
    t.departed.pop { e with mask := e.mask &&& ~~~t.active } rest =
      { t.advance with stack := rest, exited := t.exited ||| t.active, active := e.mask &&& ~~~(t.exited ||| t.active),
                       mode := e.mode, fmt := e.fmt, pc := e.addr } := by
  rw [pop_of_closed (closed_departed h)]
  simp only [Team.departed, strip_live]
  rfl

theorem exec_exit (h : s.issues .exit = true) (hsv : (s.entering .exit).team.saved = none) :
    exec .exit s =
      if (findLive ((s.entering .exit).team.exited ||| (s.entering .exit).team.active) (s.entering .exit).team.stack).isNone &&
          (s.entering .exit).team.spilled != 0 then trapStack 2 .exit (s.entering .exit)
      else popEmpty .exit { s.entering .exit with team := (s.entering .exit).team.departed } := by
  change execExit s = _
  rw [execExit, issue_of_issues h]
  dsimp only
  rw [hsv]
  rfl

theorem exec_exit_live (h : s.issues .exit = true) (hsv : (s.entering .exit).team.saved = none) {e : StackEntry}
    {rest : List StackEntry}
    (hl : (s.entering .exit).team.LiveAt ((s.entering .exit).team.exited ||| (s.entering .exit).team.active) e rest) :
    exec .exit s = .next { s.entering .exit with
      team := (s.entering .exit).team.departed.pop { e with mask := e.mask &&& ~~~(s.entering .exit).team.active }
        (stripLanes (s.entering .exit).team.active rest) } := by
  have hf := findLive_of_liveAt hl
  rw [exec_exit h hsv, hf, if_neg (by simp), popEmpty]
  dsimp only
  rw [findLive_departed, hf]
  rfl

theorem exec_exit_spilled (h : s.issues .exit = true) (hsv : (s.entering .exit).team.saved = none)
    (hn : (s.entering .exit).team.NoneLive ((s.entering .exit).team.exited ||| (s.entering .exit).team.active))
    (hsp : (s.entering .exit).team.spilled ≠ 0) : exec .exit s = trapStack 2 .exit (s.entering .exit) := by
  rw [exec_exit h hsv, findLive_of_noneLive hn, if_pos (by simpa using hsp)]

theorem exec_exit_retires (h : s.issues .exit = true) (hsv : (s.entering .exit).team.saved = none)
    (hn : (s.entering .exit).team.NoneLive ((s.entering .exit).team.exited ||| (s.entering .exit).team.active))
    (hsp : (s.entering .exit).team.spilled = 0) :
    exec .exit s = .next (retireTeam { s.entering .exit with team := (s.entering .exit).team.departed }) := by
  have hf := findLive_of_noneLive hn
  rw [exec_exit h hsv, hf, hsp, if_neg (by simp), popEmpty]
  dsimp only
  rw [findLive_departed, hf]
  exact if_neg (by simpa [Team.departed] using hsp)

/-- The state in which a team has ended, written out. -/
theorem retireTeam_eq {i : Instr} (u : Team) :
    retireTeam { s.entering i with team := u } = { s.entering i with
      team := { u with run := .retired, latch := Latch.empty, replay := none },
      agenda := s.agenda ++ [Instr.gangRetire u.id.ticket] } := by
  simp only [retireTeam, State.setTeam, State.post, entering_agenda]
end

end Sys2Proof.Machine
end

section
/-!
O15: the divergence stack.
-/

namespace Sys2Proof.Machine

/-- Settles O15, by what a push, a pop and an empty stack come to. -/
theorem divergenceStack : Obligations.DivergenceStack := by
  refine ⟨fun s neg p off m => ?_, fun s e rest => ?_⟩
  · dsimp only
    refine ⟨fun ⟨hin, hlen⟩ => ends_of_exec (fun h => ?_) rfl, fun ⟨hin, hm, h0⟩ => ends_of_exec (fun h => ?_) rfl,
      fun ⟨hin, hm, h0, hr⟩ => ends_of_exec (fun h => ?_) (goto_of_closed (entering_closed s rfl) _),
      fun ⟨hin, hm, h0, hr, hlen⟩ => ends_of_exec (fun h => ?_) rfl, fun h hin hlen => ?_, fun h hin hm h0 hr hlen => ?_⟩
    · rw [exec_mark off h hin]
      exact if_neg (by omega)
    · rw [exec_brd neg p off h hin hm]
      exact if_pos h0
    · rw [exec_brd neg p off h hin hm]
      exact (if_neg h0).trans (if_pos hr)
    · rw [exec_brd neg p off h hin hm]
      exact (if_neg h0).trans ((if_neg hr).trans (if_neg (Nat.not_le.2 hlen)))
    · rw [exec_mark off h hin]
      exact if_pos hlen
    · rw [exec_brd neg p off h hin hm]
      exact (if_neg h0).trans ((if_neg hr).trans (if_pos hlen))
  · dsimp only
    refine ⟨fun hl => ends_of_exec (fun h => exec_join_live h hl) (pop_of_closed (entering_closed s rfl) e rest),
      fun h ⟨hn, hsp⟩ => ?_,
      fun h ⟨hn, hsp, ha⟩ => ?_, fun h ⟨hn, hsp, ha⟩ => ?_,
      fun ⟨hsv, hl⟩ => ends_of_exec (fun h => exec_exit_live h hsv hl) (pop_departed (entering_closed s (i := .exit) rfl) e _),
      fun h ⟨hsv, hn, hsp⟩ => exec_exit_spilled h hsv hn hsp, fun h ⟨hsv, hn, hsp⟩ => ?_⟩
    · rw [exec_join_dead h hn]
      exact if_pos (by simpa using hsp)
    · rw [exec_join_dead h hn]
      exact (if_neg (by simpa using hsp)).trans (if_neg ha)
    · rw [exec_join_dead h hn]
      refine (if_neg (by simpa using hsp)).trans ((if_pos ha).trans ?_)
      exact congrArg _ (retireTeam_eq (s.entering .join).team)
    · rw [exec_exit_retires h hsv hn hsp, retireTeam_eq]
      rfl

end Sys2Proof.Machine
end

section
/-!
Gangs, workgroups, cores and contexts: what a look-up gives after each change of one of them.
-/

namespace Sys2Proof.Machine

theorem core_modCore (s : State) (n k : Nat) (f : CoreState → CoreState) :
    (s.modCore n f).core k = if k = n then f (s.core n) else s.core k :=
  SMap.getD_put _ _ _ _ _

theorem gang_ticket {s : State} {k : Nat} {g : Gang} (h : s.gang? k = some g) : g.ticket = k := by
  simpa using List.find?_some h

theorem wg_id {s : State} {i : WgId} {w : Workgroup} (h : s.wg? i = some w) : w.id = i := by
  simpa using List.find?_some h

/-- A change that keeps the tickets of gangs is seen by a look-up at the ticket it was made for. -/
theorem gang_modGang (s : State) (k n : Nat) {f : Gang → Gang} (hf : ∀ g, (f g).ticket = g.ticket) :
    (s.modGang k f).gang? n = (s.gang? n).map fun g => if n = k then f g else g := by
  have hp : (fun g : Gang => (if g.ticket = k then f g else g).ticket == n) = fun g => g.ticket == n := by
    funext g
    split <;> simp [hf]
  rw [State.gang?, State.modGang, List.find?_map, Function.comp_def, hp]
  cases h : s.gang? n with
  | none => rw [State.gang?] at h; rw [h]; rfl
  | some g =>
    have ht := gang_ticket h
    rw [State.gang?] at h
    rw [h, Option.map_some, Option.map_some, ht]

theorem gang_modGang_self {s : State} {k : Nat} {g : Gang} (h : s.gang? k = some g) {f : Gang → Gang}
    (hf : ∀ g, (f g).ticket = g.ticket) : (s.modGang k f).gang? k = some (f g) := by
  rw [gang_modGang s k k hf, h, Option.map_some, if_pos rfl]

theorem gang_modGang_of_ne (s : State) {k n : Nat} (h : n ≠ k) {f : Gang → Gang} (hf : ∀ g, (f g).ticket = g.ticket) :
    (s.modGang k f).gang? n = s.gang? n := by
  rw [gang_modGang s k n hf]
  simp [h]

theorem mem_modGang_of_ne {s : State} {k : Nat} {g : Gang} (hg : g ∈ s.gangs) (h : g.ticket ≠ k) (f : Gang → Gang) :
    g ∈ (s.modGang k f).gangs :=
  List.mem_map.2 ⟨g, hg, if_neg h⟩

/-- A change of one workgroup is seen by a look-up at its place. -/
theorem wg_modWg (s : State) (i j : WgId) {f : Workgroup → Workgroup} (hf : ∀ w, (f w).id = w.id) :
    (s.modWg i f).wg? j = (s.wg? j).map fun w => if j = i then f w else w := by
  have hp : (fun w : Workgroup => (if w.id = i then f w else w).id == j) = fun w => w.id == j := by
    funext w
    split <;> simp [hf]
  rw [State.wg?, State.modWg, List.find?_map, Function.comp_def, hp]
  cases h : s.wg? j with
  | none => rw [State.wg?] at h; rw [h]; rfl
  | some w =>
    have ht := wg_id h
    rw [State.wg?] at h
    rw [h, Option.map_some, Option.map_some, ht]

theorem ctx_modCtx (s : State) (n k : Nat) (f : Ctx → Ctx) :
    (s.modCtx n f).ctx? k = if k = n then (s.ctx? k).map f else s.ctx? k :=
  SMap.find_modify _ _ _ _

theorem core_modCore_of_ne {s : State} {n k : Nat} (h : k ≠ n) (f : CoreState → CoreState) : (s.modCore n f).core k = s.core k := by
  rw [core_modCore, if_neg h]

/-! ## Rectangles -/

/-- The places of a gang's workgroups in its rectangle, in the order of its cores. -/
def places (w h : Nat) : List (Nat × Nat) := (List.range h).flatMap fun y => (List.range w).map fun x => (x, y)

theorem mem_places {w h : Nat} {p : Nat × Nat} : p ∈ places w h ↔ p.1 < w ∧ p.2 < h := by
  obtain ⟨x, y⟩ := p
  simp [places, and_comm]

theorem wgIds_eq (g : Gang) : g.wgIds = (places g.shape.w g.shape.h).map fun p => ⟨g.ticket, p.1, p.2⟩ := by
  simp [Gang.wgIds, places, List.map_flatMap, Function.comp_def]

theorem rectCores_eq (ox oy w h : Nat) : rectCores ox oy w h = (places w h).map fun p => (ox + p.1) + 16 * (oy + p.2) := by
  simp [rectCores, places, List.map_flatMap, Function.comp_def]

/-- A gang's workgroups with their cores. -/
theorem zip_wgIds_cores (g : Gang) :
    g.wgIds.zip g.cores =
      (places g.shape.w g.shape.h).map fun p => (⟨g.ticket, p.1, p.2⟩, (g.ox + p.1) + 16 * (g.oy + p.2)) := by
  rw [wgIds_eq, Gang.cores, rectCores_eq, List.zip_map']

theorem mem_origins {w h : Nat} {o : Nat × Nat} : o ∈ origins w h ↔ o.1 < 17 - w ∧ o.2 < 21 - h := by
  obtain ⟨x, y⟩ := o
  simp [origins, and_comm]

end Sys2Proof.Machine
end

section
/-!
What the distributor decides (R242 to R244), and the ticket of a new gang (R51).
-/

namespace Sys2Proof.Machine

theorem decide_place {s : State} {c : Candidate} {o : Nat × Nat} (h : s.decide = some (.place c o)) : s.placeFor c = some o := by
  unfold State.decide at h
  split at h
  · cases h
  · obtain ⟨d, -, hd⟩ := List.exists_of_findSome?_eq_some h
    split at hd
    · rename_i p hp
      cases hd
      exact hp
    · split at hd
      · cases hd
      · obtain ⟨p, -, he⟩ := Option.map_eq_some_iff.1 hd
        cases he

theorem decide_preempt {s : State} {c : Candidate} {o : Nat × Nat} (h : s.decide = some (.preempt c o)) :
    s.withoutSpecs.victimRect c = some o := by
  unfold State.decide at h
  split at h
  · cases h
  · obtain ⟨d, -, hd⟩ := List.exists_of_findSome?_eq_some h
    split at hd
    · cases hd
    · split at hd
      · cases hd
      · obtain ⟨p, hp, he⟩ := Option.map_eq_some_iff.1 hd
        cases he
        exact hp

/-- A launch is placed within the device. -/
theorem placeFor_launch {s : State} {l : Launch} {o : Nat × Nat} (h : s.placeFor (.launch l) = some o) :
    o ∈ origins l.shape.w l.shape.h :=
  List.mem_of_find?_eq_some h

/-- A fold that at each element takes it or keeps what it had ends with one of the elements, or with what it began with. -/
theorem foldl_pick {α : Type} {f : Option α → α → Option α} (hf : ∀ b x, f b x = some x ∨ f b x = b) (xs : List α) {b : Option α}
    {o : α} (h : xs.foldl f b = some o) : o ∈ xs ∨ b = some o := by
  induction xs generalizing b with
  | nil => exact .inr h
  | cons x xs ih =>
    rcases ih h with h | h
    · exact .inl (List.mem_cons_of_mem _ h)
    · rcases hf b x with e | e <;> rw [e] at h
      · cases h
        exact .inl List.mem_cons_self
      · exact .inr h

theorem victimRect_eligible {s : State} {c : Candidate} {o : Nat × Nat} (h : s.victimRect c = some o) : s.eligible c o = true := by
  unfold State.victimRect at h
  dsimp only at h
  refine (foldl_pick (fun b x => ?_) _ h).elim (fun h => (List.mem_filter.1 h).2) (fun h => by cases h)
  cases b with
  | none => exact .inl rfl
  | some b =>
    dsimp only
    split
    · exact .inl rfl
    · exact .inr rfl

theorem eligible_priority {s : State} {c : Candidate} {o : Nat × Nat} (h : s.eligible c o = true) {v : Gang}
    (hv : v ∈ s.victims c o) : v.priority < c.priority := by
  simp only [State.eligible, Bool.and_eq_true, List.all_eq_true, decide_eq_true_eq] at h
  obtain ⟨⟨-, h⟩, -⟩ := h
  exact (h v hv).1.1.2

/-- Gangs looked up at tickets, no two the same, carry those tickets. -/
theorem filterMap_gang_tickets (s : State) (ks : List Nat) : ((ks.filterMap s.gang?).map Gang.ticket).Sublist ks := by
  induction ks with
  | nil => exact .slnil
  | cons k ks ih =>
    cases h : s.gang? k with
    | none => rw [List.filterMap_cons_none h]; exact ih.cons k
    | some g =>
      rw [List.filterMap_cons_some h, List.map_cons, gang_ticket h]
      exact ih.cons_cons k

theorem mem_filterMap_gang {s : State} {ks : List Nat} {g : Gang} (h : g ∈ ks.filterMap s.gang?) : s.gang? g.ticket = some g := by
  obtain ⟨k, -, hk⟩ := List.mem_filterMap.1 h
  rwa [gang_ticket hk]

/-- Victims are gangs of the device, each named once. -/
theorem victims_gangs (s : State) (c : Candidate) (o : Nat × Nat) :
    (∀ v ∈ s.victims c o, s.gang? v.ticket = some v) ∧ ((s.victims c o).map Gang.ticket).Nodup := by
  have hh : ∀ cores, ((s.holders cores).map Gang.ticket).Nodup := fun cores =>
    (List.nodup_dedup _).sublist (filterMap_gang_tickets s _)
  have hc : ((s.crowding c o).map Gang.ticket).Nodup := (List.nodup_dedup _).sublist (filterMap_gang_tickets s _)
  unfold State.victims
  dsimp only
  refine ⟨fun v hv => ?_, ?_⟩
  · rcases List.mem_append.1 hv with hv | hv
    · exact mem_filterMap_gang hv
    · exact mem_filterMap_gang (List.mem_of_mem_filter hv)
  · rw [List.map_append]
    refine (hh _).append (hc.sublist (List.filter_sublist.map _)) fun k hk hk' => ?_
    obtain ⟨g, hg, rfl⟩ := List.mem_map.1 hk
    obtain ⟨g', hg', he⟩ := List.mem_map.1 hk'
    have := (List.mem_filter.1 hg').2
    simp only [Bool.not_eq_true', List.any_eq_false, beq_iff_eq] at this
    exact this g hg he.symm

/-- A new gang's ticket has 32 bits, is not 0 and is in no use (R51). -/
theorem newTicket_fresh {s : State} (h : s.gangs.length < 2 ^ 32 - 1) :
    0 < s.newTicket ∧ s.newTicket < 2 ^ 32 ∧ ∀ x ∈ s.gangs, x.ticket ≠ s.newTicket := by
  unfold State.newTicket
  dsimp only
  generalize Config.freeNat s.oracle (2 ^ 70) % 4294967295 = base
  cases hf : ((List.range (s.gangs.length + 1)).map fun k => (base + k) % 4294967295 + 1).find?
      fun n => !s.gangs.any fun g => g.ticket == n with
  | some n =>
    obtain ⟨k, -, rfl⟩ := List.mem_map.1 (List.mem_of_find?_eq_some hf)
    have hn := List.find?_some hf
    simp only [Bool.not_eq_true', List.any_eq_false, beq_iff_eq] at hn
    rw [Option.getD_some]
    have hlt := Nat.mod_lt (base + k) (show 0 < 4294967295 by decide)
    exact ⟨by omega, by omega, hn⟩
  | none =>
    have hall : ((List.range (s.gangs.length + 1)).map fun k => (base + k) % 4294967295 + 1) ⊆ s.gangs.map Gang.ticket := by
      intro n hn
      simpa using List.find?_eq_none.1 hf n hn
    have hnd : ((List.range (s.gangs.length + 1)).map fun k => (base + k) % 4294967295 + 1).Nodup := by
      refine List.Nodup.map_on (fun x hx y hy he => ?_) List.nodup_range
      rw [List.mem_range] at hx hy
      omega
    have := (hnd.subperm hall).length_le
    simp at this

end Sys2Proof.Machine
end

section
/-!
Gangs take their places (R45, R48, R50, R53, R181, R243): the state around, and the slots of the cores.
-/

namespace Sys2Proof.Machine

/-! ## The state around -/

/-- `t` is `s` but for what cores, workgroups and cached copies hold, the oracle, and what merges at homes change. -/
def State.Housed (s t : State) : Prop :=
  t = { s with agenda := t.agenda, mem := t.mem, tags := t.tags, poison := t.poison, checkErr := t.checkErr, ctxs := t.ctxs,
               injCtl := t.injCtl, injSeed := t.injSeed, copies := t.copies, oracle := t.oracle, cores := t.cores, wgs := t.wgs }

namespace State.Housed
variable {s t u : State}

theorem refl (s : State) : s.Housed s := rfl
theorem trans (h : s.Housed t) (h' : t.Housed u) : s.Housed u := by
  unfold State.Housed at *
  calc u = _ := h'
    _ = _ := by rw [h]
theorem of_shut (h : s.Shut t) (hs : s.specs = []) : s.Housed t := by
  have := State.Merged.narrow h hs
  unfold State.SameButHome at this
  unfold State.Housed
  rw [this]
theorem specs_nil (h : s.Housed t) (hs : s.specs = []) : t.specs = [] := by
  rw [h]
  exact hs
/-- Steps that keep the state around, where nothing runs speculatively, keep it one after another. -/
theorem foldl {α : Type} {f : State → α → State} (hf : ∀ (s : State) a, s.specs = [] → s.Housed (f s a)) (xs : List α) {s : State}
    (hs : s.specs = []) : s.Housed (xs.foldl f s) :=
  foldl_keeps (P := s.Housed) (fun t a ht => ht.trans (hf t a (ht.specs_nil hs))) xs (refl s)
end State.Housed

theorem drainBanks_housed {s : State} (hs : s.specs = []) (cl : Nat) : s.Housed (s.drainBanks cl) := by
  have evicted := fun p => State.Housed.of_shut (.of_cached (evictAll_cached s p)) hs
  unfold State.drainBanks
  split
  · exact evicted _
  · exact (evicted _).trans rfl

theorem drainBanks_cores {s : State} (hs : s.specs = []) (cl : Nat) : (s.drainBanks cl).cores = s.cores := by
  have evicted : ∀ p, (s.evictAll p).cores = s.cores := fun p => by rw [State.Cached.narrow (evictAll_cached s p) hs]
  unfold State.drainBanks
  split
  · exact evicted _
  · exact evicted _

/-- With no cached copies, closing banks has nothing to write home. -/
theorem drainBanks_still {s : State} (h : s.copies = []) (cl : Nat) :
    (s.drainBanks cl).mem = s.mem ∧ (s.drainBanks cl).copies = [] := by
  unfold State.drainBanks
  split
  · rw [evictAll_of_nil h]
    exact ⟨rfl, h⟩
  · rw [evictAll_of_nil h]
    exact ⟨rfl, h⟩

/-- `t` is `s` but for cores and the oracle. -/
def State.Banked (s t : State) : Prop := t = { s with cores := t.cores, oracle := t.oracle }

theorem State.Banked.trans {s t u : State} (h : s.Banked t) (h' : t.Banked u) : s.Banked u := by
  unfold State.Banked at *
  calc u = _ := h'
    _ = _ := by rw [h]

theorem foldl_returnBanks_banked {α : Type} (core : α → Nat) (need : State → α → Nat) (xs : List α) {s : State} (hs : s.specs = []) :
    s.Banked (xs.foldl (fun s x => s.returnBanks (core x) (need s x)) s) := by
  refine foldl_keeps (P := s.Banked) (fun t x ht => ?_) xs rfl
  have hn : t.specs = [] := by
    rw [ht]
    exact hs
  exact ht.trans (returnBanks_of_nil hn _ _)

theorem foldl_drainBanks_cores {s : State} (hs : s.specs = []) (cls : List Nat) : (cls.foldl State.drainBanks s).cores = s.cores := by
  induction cls generalizing s with
  | nil => rfl
  | cons cl cls ih => exact (ih ((drainBanks_housed hs cl).specs_nil hs)).trans (drainBanks_cores hs cl)

theorem foldl_drainBanks_still {s : State} (h : s.copies = []) (cls : List Nat) : (cls.foldl State.drainBanks s).mem = s.mem := by
  induction cls generalizing s with
  | nil => rfl
  | cons cl cls ih =>
    obtain ⟨hm, hc⟩ := drainBanks_still h cl
    exact (ih hc).trans hm

/-! ## Seats -/

/-- One workgroup takes the issuing slot of its core, with `n` banks and its FIFOs. -/
def State.seatOne (n : Nat) (s : State) (x : WgId × Nat) : State :=
  (s.modCore x.2 fun c =>
    { (c.giveBanks x.1 n ((s.wg? x.1).elim [] Workgroup.fifos)) with issuing := some x.1 }).modWg x.1 fun w =>
      { w with core := x.2, fifos := [] }

/-- A gang that is seated: its workgroups in their slots, and the banks they took drained (R182). -/
def State.seated (s : State) (g : Gang) : State := (g.wgIds.zip g.cores).foldl (State.seatOne g.shape.banks) s

theorem seat_cases (s : State) (g : Gang) :
    s.seat g = s.seated g ∨ s.seat g = (g.cores.map clusterOf).dedup.foldl State.drainBanks (s.seated g) := by
  unfold State.seat
  dsimp only
  split
  · exact .inl rfl
  · exact .inr rfl

/-- `t` is `s` but for cores and workgroups. -/
def State.Slotted (s t : State) : Prop := t = { s with cores := t.cores, wgs := t.wgs }

theorem State.Slotted.trans {s t u : State} (h : s.Slotted t) (h' : t.Slotted u) : s.Slotted u := by
  unfold State.Slotted at *
  calc u = _ := h'
    _ = _ := by rw [h]

theorem seatOne_slotted (n : Nat) (s : State) (x : WgId × Nat) : s.Slotted (s.seatOne n x) := rfl

theorem seated_slotted (s : State) (g : Gang) : s.Slotted (s.seated g) :=
  foldl_keeps (P := s.Slotted) (fun t x ht => ht.trans (seatOne_slotted _ t x)) _ rfl

theorem State.Slotted.fields {s t : State} (h : s.Slotted t) : t.specs = s.specs ∧ t.mem = s.mem ∧ t.copies = s.copies := by
  rw [h]
  exact ⟨rfl, rfl, rfl⟩

theorem State.Slotted.housed {s t : State} (h : s.Slotted t) : s.Housed t := by
  unfold State.Slotted at h
  unfold State.Housed
  rw [h]

/-- The core of a workgroup that is seated; no other changes. -/
theorem core_seatOne (n : Nat) (s : State) (x : WgId × Nat) (k : Nat) :
    (s.seatOne n x).core k =
      if k = x.2 then { ((s.core x.2).giveBanks x.1 n ((s.wg? x.1).elim [] Workgroup.fifos)) with issuing := some x.1 }
      else s.core k := by
  rw [State.seatOne, State.core, State.modWg_cores]
  exact core_modCore s x.2 k _

theorem core_foldl_seatOne {n k : Nat} {xs : List (WgId × Nat)} (h : k ∉ xs.map Prod.snd) (s : State) :
    (xs.foldl (State.seatOne n) s).core k = s.core k := by
  induction xs generalizing s with
  | nil => rfl
  | cons x xs ih =>
    rw [List.map_cons, List.mem_cons, not_or] at h
    rw [List.foldl_cons, ih h.2, core_seatOne, if_neg h.1]

/-- On cores of their own, workgroups end up in the issuing slots. -/
theorem issuing_foldl_seatOne {n : Nat} {xs : List (WgId × Nat)} (hnd : (xs.map Prod.snd).Nodup) {x : WgId × Nat} (hx : x ∈ xs)
    (s : State) : ((xs.foldl (State.seatOne n) s).core x.2).issuing = some x.1 := by
  induction xs generalizing s with
  | nil => cases hx
  | cons y xs ih =>
    rw [List.map_cons, List.nodup_cons] at hnd
    obtain ⟨hy, hnd⟩ := hnd
    rcases List.mem_cons.1 hx with rfl | hx
    · rw [List.foldl_cons, core_foldl_seatOne hy, core_seatOne, if_pos rfl]
    · exact ih hnd hx _

theorem seat_housed {s : State} (hs : s.specs = []) (g : Gang) : s.Housed (s.seat g) := by
  have seated := (seated_slotted s g).housed
  rcases seat_cases s g with h | h <;> rw [h]
  · exact seated
  · exact seated.trans (.foldl (fun s cl h => drainBanks_housed h cl) _ (seated.specs_nil hs))

theorem seat_cores {s : State} (hs : s.specs = []) (g : Gang) : (s.seat g).cores = (s.seated g).cores := by
  obtain ⟨hp, -, -⟩ := (seated_slotted s g).fields
  rcases seat_cases s g with h | h <;> rw [h]
  exact foldl_drainBanks_cores (hp.trans hs) _

theorem seat_still {s : State} (h : s.copies = []) (g : Gang) : (s.seat g).mem = s.mem := by
  obtain ⟨-, hm, hc⟩ := (seated_slotted s g).fields
  rcases seat_cases s g with he | he <;> rw [he]
  · exact hm
  · exact (foldl_drainBanks_still (hc.trans h) _).trans hm

theorem places_nodup (w h : Nat) : (places w h).Nodup := by
  have hp : places w h = (List.range h ×ˢ List.range w).map Prod.swap := by
    simp [places, SProd.sprod, List.product, List.map_flatMap, Function.comp_def]
  rw [hp]
  exact (List.nodup_range.product List.nodup_range).map Prod.swap_injective

/-- Within the device's 16 columns, a gang's cores are cores of their own. -/
theorem cores_nodup {g : Gang} (h : g.ox + g.shape.w ≤ 16) : ((g.wgIds.zip g.cores).map Prod.snd).Nodup := by
  rw [zip_wgIds_cores, List.map_map]
  refine (places_nodup _ _).map_on fun p hp q hq he => ?_
  have hp := (mem_places.1 hp).1
  have hq := (mem_places.1 hq).1
  simp only [Function.comp] at he
  exact Prod.ext (by omega) (by omega)

theorem seat_issuing {s : State} (hs : s.specs = []) {g : Gang} (h : g.ox + g.shape.w ≤ 16) {x y : Nat} (hx : x < g.shape.w)
    (hy : y < g.shape.h) : ((s.seat g).core (g.ox + x + 16 * (g.oy + y))).issuing = some ⟨g.ticket, x, y⟩ := by
  have hm : ((⟨g.ticket, x, y⟩ : WgId), g.ox + x + 16 * (g.oy + y)) ∈ g.wgIds.zip g.cores := by
    rw [zip_wgIds_cores]
    exact List.mem_map.2 ⟨(x, y), mem_places.2 ⟨hx, hy⟩, rfl⟩
  rw [State.core, seat_cores hs]
  exact issuing_foldl_seatOne (cores_nodup h) hm s

end Sys2Proof.Machine
end

section
/-!
Dispatch (R45, R51, R53, R242, R243), the wait that holds launches back (R242) and slot switches (R64).
-/

namespace Sys2Proof.Machine

/-! ## Waiting -/

theorem execDispatch_waits {s : State} (hd : s.decide = none) (hp : s.specPlacement = none) : exec .dispatch s = .next s.noteWaits := by
  change execDispatch s = _
  rw [execDispatch, hd]
  dsimp only
  rw [hp]

theorem execDispatch_enacts {s : State} {d : Decision} (hd : s.decide = some d) : exec .dispatch s = .next (s.enact d).noteWaits := by
  change execDispatch s = _
  rw [execDispatch, hd]

theorem execDispatchHold_eq (s : State) (k : Nat) :
    exec (.dispatchHold k) s = .next { s with launches := s.launches.map fun l =>
      if l.id == k && l.offer.isSome && l.waiting.any fun w => 2100000 ≤ s.timebase - w then { l with holds := true } else l } := by
  refine congrArg (fun ls => Host.Outcome.next { s with launches := ls }) (List.map_congr_left fun l _ => ?_)
  refine if_congr ?_ rfl rfl
  change _ ↔ (l.id == k && l.offer.isSome && l.waiting.any fun w => decide (cyclesPerMs ≤ s.timebase - w)) = true
  simp [and_assoc]

/-! ## A new gang -/

/-- Gang `idx` of a launch, with a ticket, at an origin. -/
def Launch.gangAt (l : Launch) (ticket idx : Nat) (o : Nat × Nat) : Gang :=
  { ticket := ticket, ctx := l.ctx, launch := l.id, index := idx, x := idx % l.gx, y := idx / l.gx % l.gy,
    z := idx / (l.gx * l.gy), ox := o.1, oy := o.2, priority := l.priority, shape := l.shape, phase := .running,
    since := 0, outAt := 0, saved := false, spec := l.spec, area := [] }

/-- A launch once its next gang has been dispatched. -/
def Launch.sent (m : Launch) : Launch :=
  { m with next := if m.again.isEmpty then m.next + 1 else m.next, again := m.again.drop 1, waiting := none, holds := false }

/-- The device with a new gang of a launch, before it has its slots and banks. -/
def State.enrol (s : State) (c : Ctx) (l : Launch) (g : Gang) : State :=
  { s.tick with
    gangs := s.gangs ++ [g],
    wgs := s.wgs ++ (g.wgIds.zip g.cores).map fun x => Workgroup.fresh x.1 l.ctx x.2 s.sweepClock.toNat,
    others := s.others ++ g.wgIds.flatMap fun w =>
      (List.range l.shape.nteam).map fun i => Team.start g c l.code l.args w.gx w.gy i,
    launches := s.launches.map fun m => if m.id = l.id then m.sent else m }

theorem dispatchGang_eq {s : State} {l : Launch} {c : Ctx} (hc : s.ctx? l.ctx = some c) (idx : Nat) (o : Nat × Nat) :
    s.dispatchGang l idx o = (s.enrol c l (l.gangAt s.newTicket idx o)).seat (l.gangAt s.newTicket idx o) := by
  rw [State.dispatchGang, hc]
  rfl

/-- The device in which a candidate is placed: no cores are kept for it any more. -/
def State.released (s : State) (c : Candidate) : State :=
  if s.promised.any fun p => p.of c then { s with promised := none } else s

theorem clearSpecs_of_nil {s : State} (h : s.specs = []) (cores : List Nat) : s.clearSpecs cores = s := discardSpecs_of_nil h _ _

/-- `t` is `s` but for cores, the oracle and the cores kept for a candidate. -/
def State.Vacated (s t : State) : Prop := t = { s with promised := t.promised, cores := t.cores, oracle := t.oracle }

theorem State.Vacated.trans {s t u : State} (h : s.Vacated t) (h' : t.Vacated u) : s.Vacated u := by
  unfold State.Vacated at *
  calc u = _ := h'
    _ = _ := by rw [h]

theorem State.Banked.vacated {s t : State} (h : s.Banked t) : s.Vacated t := by
  unfold State.Banked at h
  unfold State.Vacated
  rw [h]

theorem released_vacated (s : State) (c : Candidate) : s.Vacated (s.released c) := by
  unfold State.released
  split <;> rfl

theorem State.Vacated.specs_nil {s t : State} (h : s.Vacated t) (hs : s.specs = []) : t.specs = [] := by
  rw [h]
  exact hs

/-- The cores that a candidate's launch is about to enter, their shadow banks withdrawn. -/
def State.opened (s : State) (l : Launch) (o : Nat × Nat) : State :=
  (rectCores o.1 o.2 l.shape.w l.shape.h).foldl (fun s k => s.returnBanks k l.shape.banks) (s.released (.launch l))

theorem opened_vacated {s : State} (hs : s.specs = []) (l : Launch) (o : Nat × Nat) : s.Vacated (s.opened l o) :=
  have hv := released_vacated s (.launch l)
  hv.trans (foldl_returnBanks_banked (fun k => k) (fun _ _ => l.shape.banks) _ (hv.specs_nil hs)).vacated

theorem enact_launch {s : State} (hs : s.specs = []) {l : Launch} {c : Ctx} (hc : s.ctx? l.ctx = some c) (o : Nat × Nat) :
    let u := s.opened l o
    let g := l.gangAt u.newTicket (l.offer.getD 0) o
    s.enact (.place (.launch l) o) = (u.enrol c l g).seat g := by
  have hn := (released_vacated s (.launch l)).specs_nil hs
  have hu : (s.opened l o).ctx? l.ctx = some c := by
    rw [State.ctx?, opened_vacated hs]
    exact hc
  dsimp only
  rw [← dispatchGang_eq hu]
  change State.dispatchGang (List.foldl _ ((s.released (.launch l)).clearSpecs _) _) _ _ _ = _
  rw [clearSpecs_of_nil hn]
  rfl

section
variable {s : State} {l : Launch} {o : Nat × Nat} {c : Ctx}

/-- DISPATCH of a launch's next gang. -/
theorem dispatch_launch (hd : s.decide = some (.place (.launch l) o)) (hc : s.ctx? l.ctx = some c) (hs : s.specs = [])
    (hlen : s.gangs.length < 2 ^ 32 - 1) :
    ∃ (u : State) (k : Nat), s.Vacated u ∧ (0 < k ∧ k < 2 ^ 32 ∧ ∀ x ∈ s.gangs, x.ticket ≠ k) ∧
      exec .dispatch s = .next ((u.enrol c l (l.gangAt k (l.offer.getD 0) o)).seat (l.gangAt k (l.offer.getD 0) o)).noteWaits := by
  have hv := opened_vacated hs l o
  have hg : (s.opened l o).gangs = s.gangs := by rw [hv]
  have fresh := newTicket_fresh (s := s.opened l o) (by rw [hg]; exact hlen)
  rw [hg] at fresh
  exact ⟨_, _, hv, fresh, by rw [execDispatch_enacts hd, enact_launch hs hc]⟩

end

/-- What a gang's dispatch leaves: the gang and its teams added, its workgroups in the issuing slots of its rectangle. -/
theorem seat_enrol {s : State} (hs : s.specs = []) (c : Ctx) (l : Launch) {g : Gang} (hw : g.ox + g.shape.w ≤ 16)
    (hsh : g.shape = l.shape) {t : State} (ht : t = (s.enrol c l g).seat g) :
    t.gangs = s.gangs ++ [g] ∧ t.team = s.team ∧ t.launches = (s.launches.map fun m => if m.id = l.id then m.sent else m) ∧
      (∀ x y, x < l.shape.w → y < l.shape.h →
        (t.core (g.ox + x + 16 * (g.oy + y))).issuing = some ⟨g.ticket, x, y⟩ ∧
        ∀ k, k < l.shape.nteam → Team.start g c l.code l.args x y k ∈ t.others) ∧
      (s.copies = [] → t.mem = s.mem) := by
  have hn : (s.enrol c l g).specs = [] := hs
  have hh := seat_housed hn g
  subst ht
  refine ⟨by rw [hh]; rfl, by rw [hh]; rfl, by rw [hh]; rfl, fun x y hx hy => ⟨?_, fun k hk => ?_⟩, fun hc => ?_⟩
  · exact seat_issuing hn hw (hsh ▸ hx) (hsh ▸ hy)
  · have ho : ((s.enrol c l g).seat g).others = (s.enrol c l g).others := by rw [hh]
    rw [ho]
    refine List.mem_append_right _ (List.mem_flatMap.2 ⟨⟨g.ticket, x, y⟩, ?_, ?_⟩)
    · rw [wgIds_eq]
      exact List.mem_map.2 ⟨(x, y), mem_places.2 ⟨hsh ▸ hx, hsh ▸ hy⟩, rfl⟩
    · exact List.mem_map.2 ⟨k, List.mem_range.2 hk, rfl⟩
  · exact seat_still (s := s.enrol c l g) hc g

/-- A gang whose rectangle is one that R243 looks at lies within the device's columns. -/
theorem width_of_origins {w h : Nat} {o : Nat × Nat} (ho : o ∈ origins w h) : o.1 + w ≤ 16 := by
  have := (mem_origins.1 ho).1
  omega

/-! ## A suspended gang -/

section
variable {s : State} {g : Gang} {o : Nat × Nat}

/-- A gang in shadow is told to run again: its save area goes back, and its cores switch their slots. -/
def State.recalled (s : State) (g : Gang) : State :=
  (((s.released (.gang g)).freeArea g.ticket).modGang g.ticket fun g => { g with phase := .running }).postAll
    (g.cores.map Instr.slotSwitch)

theorem enact_shadow (hs : s.specs = []) (hp : g.phase = .shadow) : s.enact (.place (.gang g) o) = s.recalled g := by
  have hn := (released_vacated s (.gang g)).specs_nil hs
  change State.place (s.released (.gang g)) (.gang g) o = _
  unfold State.place
  dsimp only
  rw [if_pos hp, clearSpecs_of_nil hn]
  rfl

/-- A gang that is to enter a rectangle. -/
def Gang.entersAt (g : Gang) (o : Nat × Nat) : Gang := { g with ox := o.1, oy := o.2, phase := .entering }

theorem enact_streamed (hs : s.specs = []) (hp : g.phase ≠ .shadow) :
    ∃ u : State, s.Vacated u ∧
      s.enact (.place (.gang g) o) = (u.modGang g.ticket fun _ => g.entersAt o).seat (g.entersAt o) := by
  have hv := released_vacated s (.gang g)
  have hn := hv.specs_nil hs
  refine ⟨_, hv.trans (foldl_returnBanks_banked (fun x : WgId × Nat => x.2)
    (fun u x => g.shape.banks + u.fifoNeed x.1) ((g.entersAt o).wgIds.zip (g.entersAt o).cores) hn).vacated, ?_⟩
  change State.place (s.released (.gang g)) (.gang g) o = _
  unfold State.place
  dsimp only
  rw [if_neg hp, clearSpecs_of_nil hn]
  rfl

/-- A phase given to every gang of a ticket. -/
theorem phase_modGang {u : State} {k : Nat} {f : Gang → Gang} {p : GangPhase} (hf : ∀ x : Gang, (f x).phase = p) {h : Gang}
    (hm : h ∈ (u.modGang k f).gangs) (ht : h.ticket = k) : h.phase = p := by
  obtain ⟨x, -, rfl⟩ := List.mem_map.1 hm
  by_cases hx : x.ticket = k
  · rw [if_pos hx]
    exact hf x
  · rw [if_neg hx] at ht
    exact absurd ht hx

theorem freeArea_teams (u : State) (k : Nat) : (u.freeArea k).team = u.team ∧ (u.freeArea k).others = u.others := by
  unfold State.freeArea
  split <;> exact ⟨rfl, rfl⟩

theorem State.Vacated.teams {s t : State} (h : s.Vacated t) : t.team = s.team ∧ t.others = s.others := by
  unfold State.Vacated at h
  exact ⟨by rw [h], by rw [h]⟩

theorem State.Housed.actors {s t : State} (h : s.Housed t) : t.team = s.team ∧ t.others = s.others ∧ t.gangs = s.gangs := by
  unfold State.Housed at h
  exact ⟨by rw [h], by rw [h], by rw [h]⟩

theorem noteWaits_actors (u : State) :
    u.noteWaits.team = u.team ∧ u.noteWaits.others = u.others ∧ u.noteWaits.gangs = u.gangs := ⟨rfl, rfl, rfl⟩

/-- DISPATCH of a gang in shadow: it runs again. -/
theorem dispatch_shadow (hd : s.decide = some (.place (.gang g) o)) (hs : s.specs = []) (hp : g.phase = .shadow) :
    ∃ t, exec .dispatch s = .next t ∧ t.team = s.team ∧ t.others = s.others ∧
      ∀ h ∈ t.gangs, h.ticket = g.ticket → h.phase = .running := by
  have hv := (released_vacated s (.gang g)).teams
  have hf := freeArea_teams (s.released (.gang g)) g.ticket
  exact ⟨(s.recalled g).noteWaits, by rw [execDispatch_enacts hd, enact_shadow hs hp], hf.1.trans hv.1, hf.2.trans hv.2,
    fun _ hm ht => phase_modGang (f := fun g => { g with phase := .running }) (fun _ => rfl) hm ht⟩

/-- DISPATCH of a gang in its save area: it enters its rectangle. -/
theorem dispatch_streamed (hd : s.decide = some (.place (.gang g) o)) (hs : s.specs = []) (hp : g.phase ≠ .shadow) :
    ∃ t, exec .dispatch s = .next t ∧ t.team = s.team ∧ t.others = s.others ∧
      ∀ h ∈ t.gangs, h.ticket = g.ticket → h.phase = .entering := by
  obtain ⟨u, hu, he⟩ := enact_streamed hs hp (o := o)
  obtain ⟨ht, ho, hg⟩ := (seat_housed (s := u.modGang g.ticket fun _ => g.entersAt o) (hu.specs_nil hs) (g.entersAt o)).actors
  obtain ⟨nt, no, ng⟩ := noteWaits_actors ((u.modGang g.ticket fun _ => g.entersAt o).seat (g.entersAt o))
  refine ⟨(State.seat _ _).noteWaits, by rw [execDispatch_enacts hd, he], nt.trans (ht.trans hu.teams.1),
    no.trans (ho.trans hu.teams.2), fun h hm hk => ?_⟩
  rw [ng, hg] at hm
  exact phase_modGang (u := u) (f := fun _ => g.entersAt o) (fun _ => rfl) hm hk

end

/-! ## Slot switches -/

/-- The two slots of a core as they change places. -/
def CoreState.swapped (c : CoreState) : CoreState := { c with issuing := c.shadow, shadow := c.issuing }

/-- The workgroup of a slot, if there is one, changes. -/
def State.modSlot (s : State) (w : Option WgId) (f : Workgroup → Workgroup) : State := w.elim s fun i => s.modWg i f

/-- What a core's slots hold stops, or goes on, as they change places (R145, R148). -/
def State.turnsOver (s : State) (k : Nat) : State :=
  let u := s.modSlot (s.core k).issuing (Workgroup.pairStop s.timebase)
  u.modSlot (s.core k).shadow (Workgroup.pairGo u.timebase)

/-- True when one of a core's slots has been told to change (R64). -/
def State.switches (s : State) (k : Nat) : Bool :=
  (s.slotGang (s.core k).issuing).any (fun g => g.phase == .shadow) ||
    ((s.slotGang (s.core k).shadow).any (fun g => g.phase == .running) && (s.core k).issuing.isNone)

theorem execSlotSwitch_eq (s : State) (k : Nat) :
    exec (.slotSwitch k) s = .next (if s.switches k then (s.turnsOver k).modCore k CoreState.swapped else s) := rfl

theorem slotGang_any (s : State) (w : Option WgId) (p : GangPhase) :
    (s.slotGang w).any (fun g => g.phase == p) = true ↔ ∃ i g, w = some i ∧ s.gang? i.ticket = some g ∧ g.phase = p := by
  cases w with
  | none => simp [State.slotGang]
  | some i =>
    cases h : s.gang? i.ticket <;> simp [State.slotGang, h]

theorem switches_iff (s : State) (k : Nat) : s.switches k = true ↔
    (∃ w g, (s.core k).issuing = some w ∧ s.gang? w.ticket = some g ∧ g.phase = .shadow) ∨
      ((s.core k).issuing = none ∧ ∃ w g, (s.core k).shadow = some w ∧ s.gang? w.ticket = some g ∧ g.phase = .running) := by
  rw [State.switches, Bool.or_eq_true, Bool.and_eq_true, slotGang_any, slotGang_any, Option.isNone_iff_eq_none, and_comm (b := _ = none)]

theorem modSlot_slotted (s : State) (w : Option WgId) (f : Workgroup → Workgroup) :
    s.Slotted (s.modSlot w f) ∧ (s.modSlot w f).cores = s.cores := by
  cases w <;> exact ⟨rfl, rfl⟩

theorem turnsOver_slotted (s : State) (k : Nat) : s.Slotted (s.turnsOver k) ∧ (s.turnsOver k).cores = s.cores := by
  obtain ⟨h1, c1⟩ := modSlot_slotted s (s.core k).issuing (Workgroup.pairStop s.timebase)
  obtain ⟨h2, c2⟩ := modSlot_slotted (s.modSlot (s.core k).issuing (Workgroup.pairStop s.timebase)) (s.core k).shadow
    (Workgroup.pairGo (s.modSlot (s.core k).issuing (Workgroup.pairStop s.timebase)).timebase)
  exact ⟨h1.trans h2, c2.trans c1⟩

/-- A change that empties the REUSE latch leaves it empty in the slot's workgroup, and empty where it was. -/
theorem reuse_modSlot {s : State} {w : Option WgId} {f : Workgroup → Workgroup}
    (hf : ∀ x, (f x).reuse = none) {x : Workgroup} (hx : x ∈ (s.modSlot w f).wgs) :
    (w = some x.id → x.reuse = none) ∧ ((∀ y ∈ s.wgs, y.id = x.id → y.reuse = none) → x.reuse = none) := by
  cases w with
  | none => exact ⟨nofun, fun h => h x hx rfl⟩
  | some i =>
    obtain ⟨y, hy, rfl⟩ := List.mem_map.1 hx
    by_cases hi : y.id = i
    · simp only [if_pos hi]
      exact ⟨fun _ => hf y, fun _ => hf y⟩
    · simp only [if_neg hi]
      exact ⟨fun h => absurd (Option.some.inj h).symm hi, fun h => h y hy rfl⟩

theorem reuse_turnsOver {s : State} {k : Nat} {w : Workgroup} (hw : w ∈ (s.turnsOver k).wgs)
    (h : (s.core k).issuing = some w.id ∨ (s.core k).shadow = some w.id) : w.reuse = none := by
  obtain ⟨hgo, hkeep⟩ := reuse_modSlot (f := Workgroup.pairGo _) (fun _ => rfl) hw
  rcases h with h | h
  · exact hkeep fun y hy hid =>
      (reuse_modSlot (f := Workgroup.pairStop _) (fun _ => rfl) hy).1 (hid ▸ h)
  · exact hgo h

/-- SLOT_SWITCH of a core one of whose slots has been told to. -/
theorem slotSwitch_switches {s : State} {k : Nat} (h : s.switches k = true) :
    ∃ t, exec (.slotSwitch k) s = .next t ∧ t = { s with cores := t.cores, wgs := t.wgs } ∧
      (t.core k).issuing = (s.core k).shadow ∧ (t.core k).shadow = (s.core k).issuing ∧ (t.core k).banks = (s.core k).banks ∧
      (∀ w ∈ t.wgs, (s.core k).issuing = some w.id ∨ (s.core k).shadow = some w.id → w.reuse = none) ∧
      ∀ j, j ≠ k → t.core j = s.core j := by
  obtain ⟨hs, hc⟩ := turnsOver_slotted s k
  have hcore : ∀ j, (s.turnsOver k).core j = s.core j := fun j => by rw [State.core, hc, State.core]
  have hself : ((s.turnsOver k).modCore k CoreState.swapped).core k = (s.core k).swapped := by
    rw [core_modCore, if_pos rfl, hcore]
  have hm : (s.turnsOver k).Slotted ((s.turnsOver k).modCore k CoreState.swapped) := rfl
  refine ⟨(s.turnsOver k).modCore k CoreState.swapped, by rw [execSlotSwitch_eq, if_pos h], hs.trans hm,
    by rw [hself]; rfl, by rw [hself]; rfl, by rw [hself]; rfl,
    fun w hw => reuse_turnsOver hw, fun j hj => ?_⟩
  rw [core_modCore_of_ne hj, hcore]

theorem slotSwitch_stays {s : State} {k : Nat} (h : s.switches k = false) : exec (.slotSwitch k) s = .next s := by
  rw [execSlotSwitch_eq, h]
  rfl

end Sys2Proof.Machine
end

section
/-!
Save areas (R246), and the gangs a pre-emption suspends (R65, R244).
-/

namespace Sys2Proof.Machine

/-! ## Dispatch of a launch's next gang, its effects together -/

theorem noteWaits_readByte (u : State) (a : Nat) : u.noteWaits.readByte a = u.readByte a := rfl

/-- A launch is still there, its next index as it was, once waits have been noted. -/
theorem mem_noteWaits {u : State} {m : Launch} (h : m ∈ u.launches) :
    ∃ m' ∈ u.noteWaits.launches, m'.id = m.id ∧ m'.next = m.next ∧ m'.again = m.again := by
  refine ⟨_, List.mem_map.2 ⟨m, h, rfl⟩, ?_⟩
  split <;> exact ⟨rfl, rfl, rfl⟩

theorem readByte_of_mem {s t : State} (h : t.mem = s.mem) (a : Nat) : t.readByte a = s.readByte a := by
  rw [State.readByte, State.readByte, h]

theorem State.Vacated.fields {s t : State} (h : s.Vacated t) :
    t.gangs = s.gangs ∧ t.launches = s.launches ∧ t.copies = s.copies ∧ t.mem = s.mem := by
  unfold State.Vacated at h
  exact ⟨by rw [h], by rw [h], by rw [h], by rw [h]⟩

/-- DISPATCH of a launch's next gang (R242, R243): what it leaves. -/
theorem dispatch_next {s : State} {l : Launch} {o : Nat × Nat} {c : Ctx} (hd : s.decide = some (.place (.launch l) o))
    (hc : s.ctx? l.ctx = some c) (hs : s.specs = []) (hlen : s.gangs.length < 2 ^ 32 - 1) :
    ∃ k, (0 < k ∧ k < 2 ^ 32 ∧ ∀ x ∈ s.gangs, x.ticket ≠ k) ∧ ∃ t, exec .dispatch s = .next t ∧
      t.gangs = s.gangs ++ [l.gangAt k (l.offer.getD 0) o] ∧ t.team = s.team ∧
      (∀ x y, x < l.shape.w → y < l.shape.h →
        (t.core (o.1 + x + 16 * (o.2 + y))).issuing = some ⟨k, x, y⟩ ∧
        ∀ i, i < l.shape.nteam → Team.start (l.gangAt k (l.offer.getD 0) o) c l.code l.args x y i ∈ t.others) ∧
      (∀ m ∈ s.launches, m.id = l.id → ∃ m' ∈ t.launches, m'.id = m.id ∧
        m'.next = (if m.again.isEmpty then m.next + 1 else m.next) ∧ m'.again = m.again.drop 1) ∧
      (s.copies = [] → ∀ a, t.readByte a = s.readByte a) := by
  obtain ⟨u, k, hv, hk, he⟩ := dispatch_launch hd hc hs hlen
  obtain ⟨hgangs, hls, hcopies, hmem⟩ := hv.fields
  obtain ⟨v, hvd⟩ : ∃ v, v = (u.enrol c l (l.gangAt k (l.offer.getD 0) o)).seat (l.gangAt k (l.offer.getD 0) o) := ⟨_, rfl⟩
  rw [← hvd] at he
  obtain ⟨ag, at', al, slots, still⟩ := seat_enrol (hv.specs_nil hs) c l (g := l.gangAt k (l.offer.getD 0) o)
    (width_of_origins (placeFor_launch (decide_place hd))) rfl hvd
  obtain ⟨nt, no, ng⟩ := noteWaits_actors v
  refine ⟨k, hk, v.noteWaits, he, by rw [ng, ag, hgangs], by rw [nt, at', hv.teams.1], ?_, fun m hm hid => ?_, fun hcs a => ?_⟩
  · rw [no]
    exact slots
  · have hv : m.sent ∈ v.launches := by
      rw [al, hls]
      exact List.mem_map.2 ⟨m, hm, if_pos hid⟩
    exact mem_noteWaits hv
  · rw [noteWaits_readByte, readByte_of_mem (still (hcopies.trans hcs)), readByte_of_mem hmem]

/-! ## Save areas -/

/-- The frames in a context's pool. -/
def State.poolOf (s : State) (n : Nat) : List Nat := (s.ctx? n).elim [] Ctx.pool

/-- The frames of a new save area: scrubbed, and firmware's (R246). -/
def State.wiped (s : State) (frames : List Nat) : State :=
  { frames.foldl State.scrubFrame s with owner := frames.foldl (fun m f => SMap.put 0 m f 257) (frames.foldl State.scrubFrame s).owner }

/-- The device once a gang has its save area. -/
def State.allotted (s : State) (g : Gang) : State :=
  ((s.wiped ((s.poolOf g.ctx).take g.areaFrames)).modCtx g.ctx fun c =>
    { c with pool := (s.poolOf g.ctx).drop g.areaFrames }).modGang g.ticket fun x =>
      { x with area := (s.poolOf g.ctx).take g.areaFrames }

section
variable {s : State} {g : Gang}

theorem allotArea_kept {k : Nat} (h : s.gang? k = some g) (ha : g.area ≠ []) : s.allotArea k = some s := by
  rw [State.allotArea, h]
  dsimp only
  rw [if_pos (by simpa using ha)]

theorem allotArea_short {k : Nat} (h : s.gang? k = some g) (ha : g.area = []) (hp : (s.poolOf g.ctx).length < g.areaFrames) :
    s.allotArea k = none := by
  rw [State.allotArea, h]
  dsimp only
  rw [ha, if_neg (by simp)]
  exact if_pos hp

theorem allotArea_new {k : Nat} (h : s.gang? k = some g) (ha : g.area = []) (hp : g.areaFrames ≤ (s.poolOf g.ctx).length) :
    s.allotArea k = some (s.allotted g) := by
  obtain rfl := gang_ticket h
  rw [State.allotArea, h]
  dsimp only
  rw [ha, if_neg (by simp)]
  exact if_neg (by simpa [State.poolOf] using hp)

end

/-- `t` is `s` but for memory, its marks and the copies of its lines. -/
def State.Wiped (s t : State) : Prop :=
  t = { s with mem := t.mem, tags := t.tags, poison := t.poison, checkErr := t.checkErr, copies := t.copies }

theorem State.Wiped.trans {s t u : State} (h : s.Wiped t) (h' : t.Wiped u) : s.Wiped u := by
  unfold State.Wiped at *
  calc u = _ := h'
    _ = _ := by rw [h]

theorem State.Wiped.specs_nil {s t : State} (h : s.Wiped t) (hs : s.specs = []) : t.specs = [] := by
  unfold State.Wiped at h
  rw [h]
  exact hs

theorem scrubFrame_wiped {s : State} (hs : s.specs = []) (f : Nat) : s.Wiped (s.scrubFrame f) := by
  unfold State.scrubFrame
  rw [frameChanged_of_nil hs]
  rfl

theorem foldl_scrubFrame_wiped (frames : List Nat) {s : State} (hs : s.specs = []) : s.Wiped (frames.foldl State.scrubFrame s) :=
  foldl_keeps (P := s.Wiped) (fun _ f h => h.trans (scrubFrame_wiped (h.specs_nil hs) f)) frames rfl

/-- Scrubbed frames read as zero, and every other byte stays. -/
theorem readByte_foldl_scrubFrame (frames : List Nat) {s : State} (hs : s.specs = []) (a : Nat) :
    (frames.foldl State.scrubFrame s).readByte a = if a / 65536 ∈ frames then 0 else s.readByte a := by
  induction frames generalizing s with
  | nil => rw [if_neg List.not_mem_nil, List.foldl_nil]
  | cons f frames ih =>
    rw [List.foldl_cons, ih ((scrubFrame_wiped hs f).specs_nil hs), readByte_scrubFrame, frameChanged_of_nil hs]
    by_cases hf : a / 65536 = f <;> simp [hf]

/-- No copy of a line in a scrubbed frame is left. -/
theorem copies_foldl_scrubFrame (frames : List Nat) {s : State} (hs : s.specs = []) :
    (frames.foldl State.scrubFrame s).copies = s.copies.filter fun y => !frames.contains (copyLine y.1 / 512) := by
  induction frames generalizing s with
  | nil => simp
  | cons f frames ih =>
    rw [List.foldl_cons, ih ((scrubFrame_wiped hs f).specs_nil hs)]
    have hc : (s.scrubFrame f).copies = s.copies.filter fun y => copyLine y.1 / 512 != f := by
      unfold State.scrubFrame
      rw [frameChanged_of_nil hs]
    rw [hc, List.filter_filter]
    refine List.filter_congr fun y _ => ?_
    rw [List.contains_cons, Bool.not_or, Bool.and_comm]
    rfl

/-- `t` is `s` but for memory, its marks, the copies of its lines, who owns frames, the contexts' pools and the gangs. -/
def State.Allotted (s t : State) : Prop :=
  t = { s with mem := t.mem, tags := t.tags, poison := t.poison, checkErr := t.checkErr, copies := t.copies,
               owner := t.owner, ctxs := t.ctxs, gangs := t.gangs }

theorem State.Wiped.allotted {s t : State} (h : s.Wiped t) : s.Allotted t := by
  unfold State.Wiped at h
  unfold State.Allotted
  rw [h]

theorem State.Allotted.trans {s t u : State} (h : s.Allotted t) (h' : t.Allotted u) : s.Allotted u := by
  unfold State.Allotted at *
  calc u = _ := h'
    _ = _ := by rw [h]

theorem wiped_allotted {s : State} (hs : s.specs = []) (frames : List Nat) : s.Allotted (s.wiped frames) :=
  (foldl_scrubFrame_wiped frames hs).allotted.trans rfl

theorem allotted_allotted {s : State} (hs : s.specs = []) (g : Gang) : s.Allotted (s.allotted g) := by
  have h := wiped_allotted hs ((s.poolOf g.ctx).take g.areaFrames)
  unfold State.allotted
  generalize s.wiped _ = u at *
  exact h.trans rfl

theorem wiped_ctxs {s : State} (hs : s.specs = []) (frames : List Nat) :
    (s.wiped frames).ctxs = s.ctxs ∧ (s.wiped frames).gangs = s.gangs := by
  have h := foldl_scrubFrame_wiped frames hs
  unfold State.wiped
  generalize frames.foldl State.scrubFrame s = u at *
  unfold State.Wiped at h
  rw [h]
  exact ⟨rfl, rfl⟩

theorem readByte_allotted {s : State} (hs : s.specs = []) (g : Gang) (a : Nat) :
    (s.allotted g).readByte a = if a / 65536 ∈ (s.poolOf g.ctx).take g.areaFrames then 0 else s.readByte a :=
  readByte_foldl_scrubFrame _ hs a

end Sys2Proof.Machine
end

section
/-!
Pre-emption (R65, R244): what suspending one gang does, and then all victims.
-/

namespace Sys2Proof.Machine

/-! ## A new save area -/

theorem State.Allotted.fields {s t : State} (h : s.Allotted t) :
    t.specs = s.specs ∧ t.team = s.team ∧ t.others = s.others ∧ t.timebase = s.timebase := by
  unfold State.Allotted at h
  exact ⟨by rw [h], by rw [h], by rw [h], by rw [h]⟩

theorem wiped_ctx {s : State} (hs : s.specs = []) (frames : List Nat) (n : Nat) : (s.wiped frames).ctx? n = s.ctx? n := by
  rw [State.ctx?, (wiped_ctxs hs frames).1, State.ctx?]

theorem ctx_allotted {s : State} (hs : s.specs = []) (g : Gang) (n : Nat) :
    (s.allotted g).ctx? n = if n = g.ctx then (s.ctx? n).map fun c => { c with pool := (s.poolOf g.ctx).drop g.areaFrames }
      else s.ctx? n := by
  rw [← wiped_ctx hs ((s.poolOf g.ctx).take g.areaFrames), ← ctx_modCtx]
  rfl

/-- A new save area takes its frames off the front of its context's pool. -/
theorem poolOf_allotted {s : State} (hs : s.specs = []) (g : Gang) (n : Nat) :
    (s.allotted g).poolOf n = if n = g.ctx then (s.poolOf n).drop g.areaFrames else s.poolOf n := by
  rw [State.poolOf, ctx_allotted hs]
  by_cases hn : n = g.ctx
  · subst hn
    rw [if_pos rfl, if_pos rfl, State.poolOf]
    cases s.ctx? g.ctx <;> simp
  · rw [if_neg hn, if_neg hn, State.poolOf]

theorem gang_allotted {s : State} (hs : s.specs = []) (g : Gang) (n : Nat) :
    (s.allotted g).gang? n =
      (s.gang? n).map fun x => if n = g.ticket then { x with area := (s.poolOf g.ctx).take g.areaFrames } else x := by
  have hg : ∀ n, (s.wiped ((s.poolOf g.ctx).take g.areaFrames)).gang? n = s.gang? n := fun n => by
    rw [State.gang?, (wiped_ctxs hs _).2, State.gang?]
  rw [← hg]
  exact gang_modGang _ _ _ fun _ => rfl

theorem mem_allotted {s : State} (hs : s.specs = []) {g x : Gang} (h : x ∈ s.gangs) (hx : x.ticket ≠ g.ticket) :
    x ∈ (s.allotted g).gangs := by
  rw [← (wiped_ctxs hs ((s.poolOf g.ctx).take g.areaFrames)).2] at h
  exact mem_modGang_of_ne (s := State.modCtx _ g.ctx fun c => { c with pool := (s.poolOf g.ctx).drop g.areaFrames }) h hx _

/-! ## One victim -/

/-- What suspending a gang changes, and what it keeps. -/
structure State.Suspends (s : State) (v : Gang) (t : State) : Prop where
  specs : t.specs = s.specs
  team : t.team = s.team
  others : t.others = s.others
  bytes : ∀ a, a / 65536 ∉ s.poolOf v.ctx → t.readByte a = s.readByte a
  pools : ∃ d ≤ v.areaFrames, ∀ n, t.poolOf n = if n = v.ctx then (s.poolOf n).drop d else s.poolOf n
  look : ∀ n, n ≠ v.ticket → t.gang? n = s.gang? n
  keep : ∀ g ∈ s.gangs, g.ticket ≠ v.ticket → g ∈ t.gangs
  goes : ∃ g, t.gang? v.ticket = some g ∧ (g.phase = .shadow ∨ g.phase = .leaving)

/-- A gang with its save area is told to leave its slots. -/
def State.putOut (s : State) (v : Gang) (shadow : Bool) : State :=
  let u := { s.modGang v.ticket (fun g =>
    { g with phase := if shadow then GangPhase.shadow else GangPhase.leaving,
             since := if g.phase = .shadow then g.since else s.nextOrder }) with nextOrder := s.nextOrder + 1 }
  if shadow then u.postAll (v.cores.map Instr.slotSwitch) else u

theorem suspend_eq {s u : State} {v : Gang} (h : s.allotArea v.ticket = some u) (shadow : Bool) :
    s.suspend v shadow = u.putOut v shadow := by
  rw [State.suspend, h]
  rfl

theorem putOut_suspends {s : State} {v g : Gang} (h : s.gang? v.ticket = some g) (shadow : Bool) :
    s.Suspends v (s.putOut v shadow) := by
  have hgangs : (s.putOut v shadow).gangs = (s.modGang v.ticket fun g =>
      { g with phase := if shadow then GangPhase.shadow else GangPhase.leaving,
               since := if g.phase = .shadow then g.since else s.nextOrder }).gangs := by cases shadow <;> rfl
  have hlook : ∀ n, (s.putOut v shadow).gang? n = (s.modGang v.ticket fun g =>
      { g with phase := if shadow then GangPhase.shadow else GangPhase.leaving,
               since := if g.phase = .shadow then g.since else s.nextOrder }).gang? n := fun n => by
    rw [State.gang?, hgangs, State.gang?]
  constructor
  case specs | team | others => cases shadow <;> rfl
  case bytes => cases shadow <;> exact fun _ _ => rfl
  case pools => exact ⟨0, Nat.zero_le _, fun n => by cases shadow <;> exact (ite_self _).symm⟩
  case look => exact fun n hn => (hlook n).trans (gang_modGang_of_ne s hn fun _ => rfl)
  case keep =>
    intro x hx ht
    rw [hgangs]
    exact mem_modGang_of_ne hx ht _
  case goes =>
    refine ⟨_, (hlook _).trans (gang_modGang_self h fun _ => rfl), ?_⟩
    cases shadow
    · exact .inr rfl
    · exact .inl rfl

theorem poolOf_putOut (s : State) (v : Gang) (shadow : Bool) (n : Nat) : (s.putOut v shadow).poolOf n = s.poolOf n := by
  cases shadow <;> rfl

theorem allotted_suspends {s : State} {v : Gang} (hs : s.specs = []) (h : s.gang? v.ticket = some v) (shadow : Bool) :
    s.Suspends v ((s.allotted v).putOut v shadow) := by
  have hp : ((s.allotted v).gang? v.ticket) = some { v with area := (s.poolOf v.ctx).take v.areaFrames } := by
    rw [gang_allotted hs, h, Option.map_some, if_pos rfl]
  have hq := putOut_suspends hp shadow
  obtain ⟨specs, team, others, -⟩ := (allotted_allotted hs v).fields
  exact {
    specs := hq.specs.trans specs
    team := hq.team.trans team
    others := hq.others.trans others
    bytes := fun a ha => by
      have hd : a / 65536 ∉ (s.allotted v).poolOf v.ctx := by
        rw [poolOf_allotted hs, if_pos rfl]
        exact fun hm => ha (List.mem_of_mem_drop hm)
      rw [hq.bytes a hd, readByte_allotted hs, if_neg fun hm => ha (List.mem_of_mem_take hm)]
    pools := ⟨v.areaFrames, le_rfl, fun n => by rw [poolOf_putOut, poolOf_allotted hs]⟩
    look := fun n hn => by
      rw [hq.look n hn, gang_allotted hs]
      simp [hn]
    keep := fun g hg hk => hq.keep g (mem_allotted hs hg hk) hk
    goes := hq.goes }

/-- Suspending a gang whose save area is there, or can be had. -/
theorem suspend_suspends {s : State} {v : Gang} (hs : s.specs = []) (h : s.gang? v.ticket = some v)
    (hfit : v.areaFrames ≤ (s.poolOf v.ctx).length) (shadow : Bool) : s.Suspends v (s.suspend v shadow) := by
  by_cases ha : v.area = []
  · rw [suspend_eq (allotArea_new h ha hfit)]
    exact allotted_suspends hs h shadow
  · rw [suspend_eq (allotArea_kept h ha)]
    exact putOut_suspends h shadow

/-! ## All victims -/

/-- The frames that the gangs of a list which belong to a context need for their save areas. -/
def areaNeed (vs : List Gang) (n : Nat) : Nat := ((vs.filter fun u => u.ctx = n).map Gang.areaFrames).sum

theorem areaNeed_cons (v : Gang) (vs : List Gang) (n : Nat) :
    areaNeed (v :: vs) n = if v.ctx = n then v.areaFrames + areaNeed vs n else areaNeed vs n := by
  unfold areaNeed
  rw [List.filter_cons]
  by_cases h : v.ctx = n <;> simp [h]

/-- What suspending several gangs changes, and what it keeps. -/
structure State.SuspendsAll (s : State) (vs : List Gang) (t : State) : Prop where
  team : t.team = s.team
  others : t.others = s.others
  bytes : ∀ a, (∀ v ∈ vs, a / 65536 ∉ s.poolOf v.ctx) → t.readByte a = s.readByte a
  look : ∀ n, (∀ v ∈ vs, v.ticket ≠ n) → t.gang? n = s.gang? n
  keep : ∀ g ∈ s.gangs, (∀ v ∈ vs, v.ticket ≠ g.ticket) → g ∈ t.gangs
  goes : ∀ v ∈ vs, ∃ g, t.gang? v.ticket = some g ∧ (g.phase = .shadow ∨ g.phase = .leaving)

theorem State.SuspendsAll.nil (s : State) : s.SuspendsAll [] s :=
  ⟨rfl, rfl, fun _ _ => rfl, fun _ _ => rfl, fun _ h _ => h, fun _ h => absurd h List.not_mem_nil⟩

theorem State.Suspends.cons {s t u : State} {v : Gang} {vs : List Gang} (h : s.Suspends v t) (hs : t.SuspendsAll vs u)
    (hv : v.ticket ∉ vs.map Gang.ticket) : s.SuspendsAll (v :: vs) u where
  team := hs.team.trans h.team
  others := hs.others.trans h.others
  bytes a ha := by
    obtain ⟨d, -, hp⟩ := h.pools
    rw [hs.bytes a fun w hw hm => ha w (.tail _ hw) ?_, h.bytes a (ha v (.head _))]
    rw [hp] at hm
    split at hm
    · exact List.mem_of_mem_drop hm
    · exact hm
  look n hn := by rw [hs.look n fun w hw => hn w (.tail _ hw), h.look n (hn v (.head _)).symm]
  keep g hg hn := hs.keep g (h.keep g hg (hn v (.head _)).symm) fun w hw => hn w (.tail _ hw)
  goes w hw := by
    rcases List.mem_cons.1 hw with rfl | hw
    · rw [hs.look w.ticket fun x hx he => hv (he ▸ List.mem_map_of_mem hx)]
      exact h.goes
    · exact hs.goes w hw

theorem foldl_suspends (shadow : State → Gang → Bool) {vs : List Gang} {s : State} (hs : s.specs = [])
    (hv : ∀ v ∈ vs, s.gang? v.ticket = some v) (hnd : (vs.map Gang.ticket).Nodup)
    (hfit : ∀ v ∈ vs, areaNeed vs v.ctx ≤ (s.poolOf v.ctx).length) :
    s.SuspendsAll vs (vs.foldl (fun s v => s.suspend v (shadow s v)) s) := by
  induction vs generalizing s with
  | nil => exact .nil s
  | cons v vs ih =>
    obtain ⟨hnew, hnd⟩ := List.nodup_cons.1 hnd
    have need := hfit v (.head _)
    rw [areaNeed_cons, if_pos rfl] at need
    have h := suspend_suspends hs (hv v (.head _)) (by omega) (shadow s v)
    refine h.cons (ih (h.specs.trans hs) (fun w hw => ?_) hnd fun w hw => ?_) hnew
    · rw [h.look _ fun he => hnew (he ▸ List.mem_map_of_mem hw)]
      exact hv w (.tail _ hw)
    · have fit := hfit w (.tail _ hw)
      obtain ⟨d, hd, hp⟩ := h.pools
      rw [areaNeed_cons] at fit
      rw [hp]
      by_cases hc : w.ctx = v.ctx
      · rw [if_pos hc.symm] at fit
        rw [if_pos hc, List.length_drop]
        omega
      · rw [if_neg (Ne.symm hc)] at fit
        rwa [if_neg hc]

/-! ## PREEMPT -/

theorem execPreempt_stays {s : State} (h : ∀ c o, s.decide ≠ some (.preempt c o)) : exec .preempt s = .next s := by
  change execPreempt s = _
  unfold execPreempt
  split
  · exact absurd ‹_› (h _ _)
  · rfl

/-- Who a pre-emption's cores are kept for. -/
def Candidate.promise (c : Candidate) (cores : List Nat) : Promise :=
  ⟨c.ticket, (match c with | .gang _ => 0 | .launch l => l.id), cores⟩

theorem promise_of (c : Candidate) (cores : List Nat) : (c.promise cores).of c = true := by
  cases c <;> simp [Candidate.promise, Promise.of, Candidate.ticket]

/-- PREEMPT where victims have been chosen. -/
theorem execPreempt_suspends {s : State} {c : Candidate} {o : Nat × Nat} (hd : s.decide = some (.preempt c o)) (hs : s.specs = [])
    (hfit : ∀ v ∈ s.withoutSpecs.victims c o, areaNeed (s.withoutSpecs.victims c o) v.ctx ≤ (s.poolOf v.ctx).length) :
    ∃ t, s.SuspendsAll (s.withoutSpecs.victims c o) t ∧
      exec .preempt s = .next { t with promised := some (c.promise (rectCores o.1 o.2 c.shape.w c.shape.h)) } := by
  obtain ⟨hg, hnd⟩ := victims_gangs s.withoutSpecs c o
  refine ⟨_, foldl_suspends (fun s v => s.toShadow c o v) hs (fun v hv => hg v hv) hnd hfit, ?_⟩
  change execPreempt s = _
  rw [execPreempt, hd]
  rfl

end Sys2Proof.Machine
end

section
/-!
Retirement of gangs and of launches (R54, R231).
-/

namespace Sys2Proof.Machine

/-! ## A save area goes back -/

theorem freeArea_eq {s : State} {k : Nat} {g : Gang} (h : s.gang? k = some g) :
    s.freeArea k = (s.freeFrames g.ctx g.area).modGang k fun g => { g with area := [] } := by
  rw [State.freeArea, h]

theorem ctx_freeArea {s : State} {k : Nat} {g : Gang} (h : s.gang? k = some g) {c : Ctx} (hc : s.ctx? g.ctx = some c) :
    (s.freeArea k).ctx? g.ctx = some { c with pool := c.pool ++ g.area } := by
  rw [freeArea_eq h]
  exact ctx_setCtx (s := { s with owner := g.area.foldl (fun m f => SMap.put 0 m f (g.ctx + 1)) s.owner }) hc
    fun c => { c with pool := c.pool ++ g.area }

theorem gang_freeArea {s : State} {k : Nat} {g : Gang} (h : s.gang? k = some g) :
    (s.freeArea k).gang? k = some { g with area := [] } := by
  rw [freeArea_eq h]
  exact gang_modGang_self (s := s.freeFrames g.ctx g.area) h fun _ => rfl

/-- `t` is `s` but for who owns frames, the contexts and the gangs. -/
def State.AreaFreed (s t : State) : Prop := t = { s with owner := t.owner, ctxs := t.ctxs, gangs := t.gangs }

theorem freeArea_areaFreed (s : State) (k : Nat) : s.AreaFreed (s.freeArea k) := by
  unfold State.freeArea
  split <;> rfl

/-! ## A gang is dropped -/

theorem gang_dropGang (s : State) (k : Nat) : (s.dropGang k).gang? k = none := by
  refine List.find?_eq_none.2 fun g hg => ?_
  have hk := (List.mem_filter.1 hg).2
  simpa using hk

theorem teams_dropGang {s : State} {k : Nat} (hk : k ≠ 0) : ∀ x ∈ (s.dropGang k).teams, x.id.ticket ≠ k := by
  intro x hx
  rcases List.mem_cons.1 hx with rfl | hx
  · change (if s.team.id.ticket = k then { Team.idle with id := ⟨0, 0, 0, 0⟩ } else s.team).id.ticket ≠ k
    split
    · exact hk.symm
    · assumption
  · simpa using (List.mem_filter.1 hx).2

theorem wgs_dropGang (s : State) (k : Nat) : ∀ w ∈ (s.dropGang k).wgs, w.id.ticket ≠ k := fun w hw => by
  simpa using (List.mem_filter.1 hw).2

theorem readByte_dropGang (s : State) (k a : Nat) :
    (s.dropGang k).readByte a = if a / regionSize = winRegion k then 0 else s.readByte a := by
  change SMap.getD (s.mem.filter fun c => c.1 / regionSize != winRegion k) a 0 = _
  rw [SMap.getD, SMap.find_filter_key s.mem fun n => n / regionSize != winRegion k]
  by_cases h : a / regionSize = winRegion k <;> simp [h, State.readByte, SMap.getD]

/-! ## The argument block of a launch that is over -/

/-- `t` is `s` but for who owns frames, the contexts and their translations. -/
def State.ArgsFreed (s t : State) : Prop := t = { s with owner := t.owner, ctxs := t.ctxs, tlbs := t.tlbs }

theorem freeArgs_argsFreed (s : State) (l : Launch) : s.ArgsFreed (s.freeArgs l) := by
  unfold State.freeArgs
  dsimp only
  split
  · rfl
  · split
    · rfl
    · split <;> rfl

/-- The page of a launch's argument block. -/
def Launch.argPage (l : Launch) : Nat := l.args.cur / 65536

/-- A change of one context that does something to its pool, seen at any context. -/
theorem pool_modCtx {s : State} {n : Nat} {c : Ctx} (h : s.ctx? n = some c) (m : Nat) {f : Ctx → Ctx} {p : List Nat}
    (hf : n = m → (f c).pool = p) (hn : n ≠ m → c.pool = p) : ∃ c', (s.modCtx m f).ctx? n = some c' ∧ c'.pool = p := by
  rw [ctx_modCtx, h]
  by_cases hm : n = m
  · exact ⟨f c, if_pos hm, hf hm⟩
  · exact ⟨c, if_neg hm, hn hm⟩

theorem pool_unmapPage {s : State} {n : Nat} {c : Ctx} (h : s.ctx? n = some c) (m page : Nat) :
    ∃ c', (s.unmapPage m page).ctx? n = some c' ∧ c'.pool = c.pool :=
  pool_modCtx h m (f := fun c => { c with ptes := c.ptes.put 0 page 0 }) (fun _ => rfl) fun _ => rfl

/-- A pool keeps its frames when an argument block goes, and takes the block's frame up where it came from there. -/
theorem pool_freeArgs {s : State} {n : Nat} {c : Ctx} (h : s.ctx? n = some c) (l : Launch) :
    ∃ c', (s.freeArgs l).ctx? n = some c' ∧
      (c'.pool = c.pool ∨ l.argFrom = 1 ∧ c'.pool = c.pool ++ [pteFrame (c.pte l.argPage)]) := by
  obtain ⟨c1, hc1, hp1⟩ := pool_unmapPage h l.ctx l.argPage
  unfold State.freeArgs
  dsimp only
  split
  · exact ⟨c, h, .inl rfl⟩
  · split
    · exact ⟨c1, hc1, .inl hp1⟩
    · split
      · exact ⟨c1, hc1, .inl hp1⟩
      next hfrom =>
        by_cases hn : n = l.ctx
        · subst hn
          refine ⟨_, ctx_setCtx hc1 _, .inr ⟨hfrom, ?_⟩⟩
          rw [h, ← hp1]
          rfl
        · exact ⟨c1, (ctx_modCtx _ _ _ _).trans ((if_neg hn).trans hc1), .inl hp1⟩
      · obtain ⟨c2, hc2, hp2⟩ := pool_modCtx hc1 l.ctx
          (f := fun c => { c with
            reserve := c.reserve ++ [bitsAt ((s.ctx? l.ctx).elim 0 fun c => c.ptes.getD (l.args.cur / 65536) 0).toNat 16 48] })
          (fun _ => hp1) fun _ => hp1
        exact ⟨c2, hc2, .inl hp2⟩

/-! ## The end of a launch -/

/-- A packet that waits for a launch is done. -/
def Packet.over (id : Nat) (p : Packet) : Packet := if p.wait = .launch id then { p with wait := .done stOk 0 } else p

/-- The device once a launch is over: its packet is done. -/
def State.launchOver (s : State) (l : Launch) (id : Nat) : State :=
  let u := State.freeArgs { s with launches := s.launches.filter fun m => m.id != id } l
  { u with queues := u.queues.map fun x => (x.1, { x.2 with packets := x.2.packets.map (Packet.over id) }) }

theorem endLaunch_cases (s : State) (id : Nat) :
    s.endLaunch id = s ∨ ∃ l, (s.launches.find? fun l => l.id == id) = some l ∧ s.endLaunch id = s.launchOver l id := by
  unfold State.endLaunch
  split
  · exact .inl rfl
  · split
    · exact .inl rfl
    · exact .inr ⟨_, ‹_›, rfl⟩

theorem endLaunch_over {s : State} {id : Nat} {l : Launch} (h : (s.launches.find? fun l => l.id == id) = some l)
    (ho : l.offer = none) (hp : l.spec = none) (hg : ∀ g ∈ s.gangs, g.launch ≠ id) : s.endLaunch id = s.launchOver l id := by
  have hany : (s.gangs.any fun g => g.launch == id) = false := by simpa using hg
  rw [State.endLaunch, h]
  dsimp only
  rw [ho, hp, hany]
  exact if_neg (by simp)

/-- `t` is `s` but for who owns frames, the contexts and their translations, the launches and the queues. -/
def State.LaunchEnds (s t : State) : Prop :=
  t = { s with owner := t.owner, ctxs := t.ctxs, tlbs := t.tlbs, launches := t.launches, queues := t.queues }

theorem launchOver_fields (s : State) (l : Launch) (id : Nat) :
    s.LaunchEnds (s.launchOver l id) ∧ (s.launchOver l id).launches = (s.launches.filter fun m => m.id != id) ∧
      (s.launchOver l id).queues = s.queues.map fun x => (x.1, { x.2 with packets := x.2.packets.map (Packet.over id) }) := by
  have h := freeArgs_argsFreed { s with launches := s.launches.filter fun m => m.id != id } l
  unfold State.launchOver
  generalize State.freeArgs { s with launches := s.launches.filter fun m => m.id != id } l = u at *
  unfold State.ArgsFreed at h
  refine ⟨?_, by rw [h], by rw [h]⟩
  unfold State.LaunchEnds
  rw [h]

theorem endLaunch_launchEnds (s : State) (id : Nat) : s.LaunchEnds (s.endLaunch id) := by
  rcases endLaunch_cases s id with h | ⟨l, -, h⟩ <;> rw [h]
  · rfl
  · exact (launchOver_fields s l id).1

/-- The end of a launch leaves the frames of pools, and may add one. -/
theorem pool_endLaunch {s : State} {n id : Nat} {c : Ctx} (h : s.ctx? n = some c) :
    ∃ c', (s.endLaunch id).ctx? n = some c' ∧ (c'.pool = c.pool ∨
      ∃ l ∈ s.launches, l.id = id ∧ l.argFrom = 1 ∧ c'.pool = c.pool ++ [pteFrame (c.pte l.argPage)]) := by
  rcases endLaunch_cases s id with he | ⟨l, hl, he⟩ <;> rw [he]
  · exact ⟨c, h, .inl rfl⟩
  · obtain ⟨c', hc', hp⟩ := pool_freeArgs (s := { s with launches := s.launches.filter fun m => m.id != id }) h l
    exact ⟨c', hc', hp.imp_right fun ⟨ha, hp⟩ => ⟨l, List.mem_of_find?_eq_some hl, by simpa using List.find?_some hl, ha, hp⟩⟩

/-- Values mapped one by one are found mapped. -/
theorem find_map_value {α : Type} (m : SMap α) (f : α → α) (n : Nat) :
    SMap.find? (m.map fun x => (x.1, f x.2)) n = (m.find? n).map f := by
  induction m with
  | nil => rfl
  | cons x m ih =>
    rw [List.map_cons, SMap.find_cons, SMap.find_cons, ih]
    split <;> rfl

theorem queue_launchOver {s : State} {slot : Nat} {q : Queue} (h : s.queue? slot = some q) (l : Launch) (id : Nat) :
    (s.launchOver l id).queue? slot = some { q with packets := q.packets.map (Packet.over id) } := by
  rw [State.queue?, (launchOver_fields s l id).2.2]
  refine (find_map_value s.queues (fun q => { q with packets := q.packets.map (Packet.over id) }) slot).trans ?_
  rw [← State.queue?, h]
  rfl

/-! ## GANG_RETIRE -/

/-- A change that leaves every team it is made to as it was leaves the device as it was. -/
theorem modTeams_of_fixed {s : State} {p : Team → Bool} {f : Team → Team} (h : ∀ t ∈ s.teams, p t = true → f t = t) :
    s.modTeams p f = s := by
  have ht : (if p s.team then f s.team else s.team) = s.team := by
    split
    · exact h _ (.head _) ‹_›
    · rfl
  have ho : (s.others.map fun t => if p t then f t else t) = s.others := by
    refine (List.map_congr_left fun t ht => ?_).trans (List.map_id _)
    split
    · exact h _ (.tail _ ht) ‹_›
    · rfl
  rw [State.modTeams, ht, ho]

theorem landed_of_empty {t : Team} (h : t.pending = []) : t.landed = t := by
  unfold Team.landed Team.finishAll
  rw [h]
  exact ite_self _

/-- A gang that is done (R54): all of its teams have retired, and nothing of its is on the way. -/
theorem gangDone_of_retired {s : State} {k : Nat}
    (ht : ∀ t ∈ s.teams, t.id.ticket = k → t.run = .retired ∧ t.pending = []) (hm : s.merges = []) (hr : s.remotes = [])
    (hn : s.snoops = []) (hw : ∀ w ∈ s.wgs, w.id.ticket = k → w.queue = []) : s.gangDone k = true := by
  have teams : (s.teams.all fun t => t.id.ticket != k || (t.run == .retired && t.pending.isEmpty)) = true := by
    refine List.all_eq_true.2 fun t hmem => ?_
    by_cases hk : t.id.ticket = k
    · obtain ⟨hr, hp⟩ := ht t hmem hk
      simp [hr, hp]
    · simp [hk]
  have queues : (s.wgs.any fun w => w.id.ticket == k && !w.queue.isEmpty) = false := by
    refine List.any_eq_false.2 fun w hmem => ?_
    by_cases hk : w.id.ticket = k
    · simp [hw w hmem hk]
    · simp [hk]
  rw [State.gangDone, teams, hm, hr, hn, queues]
  cases s.gang? k <;> rfl

section
variable {s : State} {k : Nat} {g : Gang}

/-- The device once a gang has been dropped, its save area given back. -/
def State.gangGone (s : State) (k : Nat) : State := (s.freeArea k).dropGang k

theorem execGangRetire_eq (h : s.gang? k = some g) (ht : ∀ t ∈ s.teams, t.id.ticket = k → t.run = .retired ∧ t.pending = [])
    (hd : s.gangDone k = true) : exec (.gangRetire k) s = .next ((s.gangGone k).endLaunch g.launch) := by
  have hl : s.modTeams (fun t => t.id.ticket = k) Team.landed = s :=
    modTeams_of_fixed fun t hm hk => landed_of_empty (ht t hm (of_decide_eq_true hk)).2
  change execGangRetire k s = _
  rw [execGangRetire, h]
  dsimp only
  rw [hl, if_pos hd]
  rfl

/-- Dropping a gang keeps launches, queues and contexts as giving its save area back left them. -/
theorem dropGang_fields (s : State) (k : Nat) :
    (s.dropGang k).launches = s.launches ∧ (s.dropGang k).queues = s.queues ∧ (s.dropGang k).ctxs = s.ctxs ∧
      (s.dropGang k).gangs = s.gangs.filter fun g => g.ticket != k := ⟨rfl, rfl, rfl, rfl⟩

theorem freeArea_fields (s : State) (k : Nat) :
    (s.freeArea k).launches = s.launches ∧ (s.freeArea k).queues = s.queues ∧ (s.freeArea k).mem = s.mem := by
  have h := freeArea_areaFreed s k
  unfold State.AreaFreed at h
  exact ⟨by rw [h], by rw [h], by rw [h]⟩

/-- The gangs are those there were, with their tickets and launches, once a save area has been given back. -/
theorem mem_freeArea {x : Gang} (h : x ∈ (s.freeArea k).gangs) : ∃ y ∈ s.gangs, y.ticket = x.ticket ∧ y.launch = x.launch := by
  unfold State.freeArea at h
  split at h
  · exact ⟨x, h, rfl, rfl⟩
  · obtain ⟨y, hy, rfl⟩ := List.mem_map.1 h
    refine ⟨y, hy, ?_⟩
    split <;> exact ⟨rfl, rfl⟩

theorem gangGone_fields (s : State) (k : Nat) :
    (s.gangGone k).launches = s.launches ∧ (s.gangGone k).queues = s.queues ∧ (s.gangGone k).ctxs = (s.freeArea k).ctxs := by
  obtain ⟨hl, hq, hc, -⟩ := dropGang_fields (s.freeArea k) k
  obtain ⟨fl, fq, -⟩ := freeArea_fields s k
  exact ⟨hl.trans fl, hq.trans fq, hc⟩

theorem State.LaunchEnds.fields {s t : State} (h : s.LaunchEnds t) :
    t.gangs = s.gangs ∧ t.team = s.team ∧ t.others = s.others ∧ t.wgs = s.wgs ∧ t.mem = s.mem := by
  unfold State.LaunchEnds at h
  exact ⟨by rw [h], by rw [h], by rw [h], by rw [h], by rw [h]⟩

/-- What GANG_RETIRE takes away: the gang, its teams, its workgroups and the bytes of its window. -/
theorem gangRetire_gone (s : State) (hk : k ≠ 0) (id : Nat) :
    let t := (s.gangGone k).endLaunch id
    t.gang? k = none ∧ (∀ x ∈ t.teams, x.id.ticket ≠ k) ∧ (∀ w ∈ t.wgs, w.id.ticket ≠ k) ∧
      ∀ a, t.readByte a = if a / regionSize = winRegion k then 0 else s.readByte a := by
  obtain ⟨hg, ht, ho, hw, hm⟩ := (endLaunch_launchEnds (s.gangGone k) id).fields
  dsimp only
  refine ⟨?_, ?_, ?_, fun a => ?_⟩
  · rw [State.gang?, hg]
    exact gang_dropGang (s.freeArea k) k
  · rw [State.teams, ht, ho]
    exact teams_dropGang hk
  · rw [hw]
    exact wgs_dropGang (s.freeArea k) k
  · rw [readByte_of_mem hm, State.gangGone, readByte_dropGang, readByte_of_mem (freeArea_fields s k).2.2]

/-- GANG_RETIRE gives the save area back, and with the last gang the argument block of the launch. -/
theorem gangRetire_pool (h : s.gang? k = some g) {c : Ctx} (hc : s.ctx? g.ctx = some c) :
    ∃ c', ((s.gangGone k).endLaunch g.launch).ctx? g.ctx = some c' ∧ (c'.pool = c.pool ++ g.area ∨
      ∃ l ∈ s.launches, l.id = g.launch ∧ l.argFrom = 1 ∧ c'.pool = c.pool ++ g.area ++ [pteFrame (c.pte l.argPage)]) := by
  obtain ⟨hl, -, hx⟩ := gangGone_fields s k
  have hgone : (s.gangGone k).ctx? g.ctx = some { c with pool := c.pool ++ g.area } := by
    rw [State.ctx?, hx]
    exact ctx_freeArea h hc
  have := pool_endLaunch hgone (id := g.launch)
  rwa [hl] at this

/-- With the last gang of a launch the launch is over, and its packet done (R231). -/
theorem gangRetire_last {l : Launch} (hl : (s.launches.find? fun l => l.id == g.launch) = some l) (ho : l.offer = none)
    (hp : l.spec = none) (hlast : ∀ x ∈ s.gangs, x.launch = g.launch → x.ticket = k) :
    let t := (s.gangGone k).endLaunch g.launch
    (∀ m ∈ t.launches, m.id ≠ g.launch) ∧ ∀ slot q, s.queue? slot = some q →
      t.queue? slot = some { q with packets := q.packets.map (Packet.over g.launch) } := by
  obtain ⟨hls, hq, -⟩ := gangGone_fields s k
  have hgangs : ∀ x ∈ (s.gangGone k).gangs, x.launch ≠ g.launch := fun x hx he => by
    obtain ⟨hx, hk⟩ := List.mem_filter.1 hx
    obtain ⟨y, hy, ht, hl⟩ := mem_freeArea hx
    simp [← ht, hlast y hy (hl.trans he)] at hk
  dsimp only
  rw [endLaunch_over (by rw [hls]; exact hl) ho hp hgangs]
  refine ⟨fun m hm => ?_, fun slot q h => ?_⟩
  · rw [(launchOver_fields _ _ _).2.1] at hm
    simpa using (List.mem_filter.1 hm).2
  · rw [State.queue?, ← hq] at h
    exact queue_launchOver h l g.launch

end

end Sys2Proof.Machine
end

section
/-!
Streaming (R66, R246, R247): where nothing moves, where no save area can be had, and where a gang runs again.
-/

namespace Sys2Proof.Machine

section
variable {s : State} {k : Nat} {g : Gang}

/-! ## STREAM_OUT -/

theorem streamOut_stays (h : s.gang? k = some g) (hp : g.phase ≠ .leaving ∨ s.settled k = false) :
    exec (.streamOut k) s = .next s := by
  have hc : (g.phase != .leaving || !s.settled k) = true := by
    rcases hp with hp | hp <;> simp [hp]
  change execStreamOut k s = _
  rw [execStreamOut, h]
  exact if_pos hc

theorem streamOut_moves (hp : g.phase = .leaving) (hset : s.settled k = true) :
    (g.phase != .leaving || !s.settled k) = false := by
  rw [hp, hset]
  rfl

/-- The record of a save area that cannot be had (R246, R271). -/
def State.noFrameRec (s : State) (g : Gang) : EventRec :=
  { EventRec.plain 1 g.ctx s.domainClock with
    cause := cNoframe, ticket := g.ticket, queue := (s.packetOf g.ticket).1, tag := (s.packetOf g.ticket).2.1,
    number := (s.packetOf g.ticket).2.2 }

theorem areaFails_eq (hs : s.specs = []) :
    s.areaFails g = (((s.owe (s.noFrameRec g)).modCtx g.ctx fun c => { c with frozen := true })).post (.containmentFreeze g.ctx) :=
  congrArg (State.post · (.containmentFreeze g.ctx))
    (discardSpecs_of_nil (s := (s.owe (s.noFrameRec g)).modCtx g.ctx fun c => { c with frozen := true }) hs 10 _)

/-- The device where a gang goes on for want of a save area: its clusters stay on. -/
def State.staysIn (s : State) (g : Gang) : State :=
  { s.modGang g.ticket (fun g => { g with phase := .running }) with
    closing := s.closing.filter fun cl => cl != 80 && !g.clusters.contains cl }

theorem streamOut_short (h : s.gang? k = some g) (hp : g.phase = .leaving) (hset : s.settled k = true) (ha : g.area = [])
    (hshort : (s.poolOf g.ctx).length < g.areaFrames) : exec (.streamOut k) s = .next ((s.staysIn g).areaFails g) := by
  have hk := gang_ticket h
  change execStreamOut k s = _
  rw [execStreamOut, h]
  dsimp only
  rw [streamOut_moves hp hset, allotArea_short h ha hshort]
  subst hk
  rfl

/-- A gang that only changes its phase keeps the packet it belongs to. -/
theorem packetOf_staysIn (h : s.gang? g.ticket = some g) : (s.staysIn g).packetOf g.ticket = s.packetOf g.ticket := by
  have hg : (s.staysIn g).gang? g.ticket = some { g with phase := .running } := gang_modGang_self h fun _ => rfl
  rw [State.packetOf, hg, State.packetOf, h]
  rfl

/-- The context that takes NOFRAME for want of a save area: it freezes, and owes the record (R246, R271). -/
theorem ctx_areaFails (hs : s.specs = []) {c : Ctx} (hc : s.ctx? g.ctx = some c) :
    ∃ c' r, (s.areaFails g).ctx? g.ctx = some c' ∧ c'.frozen = true ∧ c'.evtDue = c.evtDue ++ [r] ∧
      r.kind = 1 ∧ r.cause = cNoframe ∧ r.ticket = g.ticket ∧ (r.queue, r.tag, r.number) = s.packetOf g.ticket := by
  have owes := ctx_setCtx (ctx_owe (s := s) (r := s.noFrameRec g) rfl hc) fun c => { c with frozen := true }
  rw [areaFails_eq hs]
  exact ⟨_, _, owes, rfl, rfl, rfl, rfl, rfl, rfl⟩

theorem areaFails_fields (hs : s.specs = []) :
    s.areaFails g = { s with ctxs := (s.areaFails g).ctxs, agenda := s.agenda ++ [.containmentFreeze g.ctx] } := by
  rw [areaFails_eq hs]
  rfl

theorem gangs_areaFails (hs : s.specs = []) : (s.areaFails g).gangs = s.gangs := by
  rw [areaFails_eq hs]
  rfl

theorem staysIn_fields (s : State) (g : Gang) :
    s.staysIn g = { s with gangs := (s.staysIn g).gangs,
                           closing := s.closing.filter fun cl => cl != 80 && !g.clusters.contains cl } := rfl

/-- STREAM_OUT without frames for the save area. -/
theorem streamOut_fails (h : s.gang? k = some g) {c : Ctx} (hc : s.ctx? g.ctx = some c) (hp : g.phase = .leaving)
    (hset : s.settled k = true) (hs : s.specs = []) (ha : g.area = []) (hshort : c.pool.length < g.areaFrames) :
    ∃ t, exec (.streamOut k) s = .next t ∧
      t = { s with gangs := t.gangs, ctxs := t.ctxs, agenda := s.agenda ++ [.containmentFreeze g.ctx],
                   closing := s.closing.filter fun cl => cl != 80 && !g.clusters.contains cl } ∧
      (∃ g', t.gang? k = some g' ∧ g'.phase = .running) ∧
      ∃ c' r, t.ctx? g.ctx = some c' ∧ c'.frozen = true ∧ c'.evtDue = c.evtDue ++ [r] ∧ r.kind = 1 ∧
        r.cause = cNoframe ∧ r.ticket = k ∧ (r.queue, r.tag, r.number) = s.packetOf k := by
  have hk := gang_ticket h
  subst hk
  have hpool : (s.poolOf g.ctx).length < g.areaFrames := by
    rw [State.poolOf, hc]
    exact hshort
  have hn : (s.staysIn g).specs = [] := hs
  have fails := ctx_areaFails (s := s.staysIn g) (g := g) hn hc
  rw [packetOf_staysIn h] at fails
  refine ⟨_, streamOut_short h hp hset ha hpool, ?_, ?_, fails⟩
  · calc (s.staysIn g).areaFails g = _ := areaFails_fields hn
      _ = _ := by rw [gangs_areaFails hn]; rw [staysIn_fields s g]
  · rw [State.gang?, gangs_areaFails hn]
    exact ⟨_, gang_modGang_self h fun _ => rfl, rfl⟩

/-! ## STREAM_IN -/

theorem streamIn_stays (h : s.gang? k = some g) (hp : g.phase ≠ .entering ∨ s.transitStopped = true) :
    exec (.streamIn k) s = .next s := by
  have hc : (g.phase != .entering || s.transitStopped) = true := by
    rcases hp with hp | hp <;> simp [hp]
  change execStreamIn k s = _
  rw [execStreamIn, h]
  exact if_pos hc

/-- STREAM_IN of a gang that has been restored: it runs once every re-read has been made. -/
theorem streamIn_runs (h : s.gang? k = some g) (hp : g.phase = .entering) (ht : s.transitStopped = false) (ha : g.area = []) :
    exec (.streamIn k) s =
      .next (if s.rereading k then s else s.modGang k fun g => { g with phase := .running }) := by
  change execStreamIn k s = _
  rw [execStreamIn, h]
  dsimp only
  rw [hp, ht, Gang.stored, ha]
  exact (apply_ite Host.Outcome.next _ _ _).symm

end

end Sys2Proof.Machine
end

section
/-!
Write-backs (R25, R28): the frames in pools, and the frames that no cached copy has a line of.
-/

namespace Sys2Proof.Machine

/-! ## Frames in pools -/

/-- Every context has in its pool what it had. -/
def State.SamePools (s t : State) : Prop := ∀ n, (t.ctx? n).map Ctx.pool = (s.ctx? n).map Ctx.pool

namespace State.SamePools
variable {s t u : State}

theorem of_ctxs (h : t.ctxs = s.ctxs) : s.SamePools t := fun n => by rw [State.ctx?, h, State.ctx?]
theorem trans (h : s.SamePools t) (h' : t.SamePools u) : s.SamePools u := fun n => (h' n).trans (h n)
theorem foldl {α : Type} {f : State → α → State} (hf : ∀ (s : State) a, s.SamePools (f s a)) (xs : List α) (s : State) :
    s.SamePools (xs.foldl f s) :=
  foldl_keeps (P := s.SamePools) (fun t a ht => ht.trans (hf t a)) xs fun _ => rfl
theorem modCtx (s : State) (n : Nat) {f : Ctx → Ctx} (hf : ∀ c, (f c).pool = c.pool) : s.SamePools (s.modCtx n f) := fun m => by
  rw [ctx_modCtx]
  split
  · rw [Option.map_map]
    exact congrArg (Option.map · _) (funext hf)
  · rfl
/-- A context is still there, with its pool. -/
theorem ctx (h : s.SamePools t) {n : Nat} {c : Ctx} (hc : s.ctx? n = some c) : ∃ c', t.ctx? n = some c' ∧ c'.pool = c.pool := by
  have := h n
  rw [hc, Option.map_some, Option.map_eq_some_iff] at this
  exact this
end State.SamePools

theorem failNotice_samePools (s : State) (line : Nat) : s.SamePools (s.failNotice line) := by
  unfold State.failNotice State.notice
  dsimp only
  split
  · exact State.SamePools.modCtx (s.failLine line) _ fun _ => rfl
  · exact .of_ctxs rfl

theorem injected_ctxs (s : State) (kind ctx : Nat) : (s.injected kind ctx).2.ctxs = s.ctxs := by
  unfold State.injected
  dsimp only
  repeat' split
  all_goals rfl

theorem injectMerge_ctxs (s : State) (ctx line : Nat) : (s.injectMerge ctx line).ctxs = s.ctxs := by
  unfold State.injectMerge
  split
  · exact injected_ctxs s 0 ctx
  · dsimp only
    split <;> exact injected_ctxs s 1 ctx
  · dsimp only
    split <;> exact injected_ctxs s 2 ctx
  · rfl

theorem admitted_samePools (s : State) (line : Nat) (c : Copy) (made : Bool) : s.SamePools (s.admitted line c made) := by
  have events : s.SamePools (s.eventsOf line c) := by
    unfold State.eventsOf
    split
    · exact .foldl (f := fun s (x : Nat × BitVec 128) => s.injectMerge x.1 line) (fun s x => .of_ctxs (injectMerge_ctxs s x.1 line)) _ s
    · exact .of_ctxs rfl
  unfold State.admitted
  dsimp only
  split
  · exact events.trans (failNotice_samePools _ _)
  · exact events

/-- A merge at a home takes no frame out of a pool and puts none in. -/
theorem homeMerge_samePools {s : State} (hs : s.specs = []) (line : Nat) (c : Copy) (made : Bool) :
    s.SamePools (s.homeMerge line c made) := by
  have bytes : (s.admitted line c made).SamePools ((s.admitted line c made).layBytes line c) :=
    .foldl (f := fun s i => s.writeByte (line * 128 + i) ((c.data >>> (8 * i)).setWidth 8)) (fun _ _ => .of_ctxs rfl) _ _
  have tags : ((s.admitted line c made).layBytes line c).SamePools (((s.admitted line c made).layBytes line c).layTags line c) :=
    .foldl (f := fun s g => s.setTag (line * 128 + 16 * g) (c.tags.getLsbD g)) (fun _ _ => .of_ctxs rfl) _ _
  have hl := (((admitted_merged s line c made).trans (layBytes_merged _ line c)).trans (layTags_merged _ line c)).trans
    ((unpoisoned_merged _ line c).trans (makeCheck_merged _ line))
  rw [homeMerge_eq, homeChanged_of_nil (hl.specs_nil hs)]
  refine (((admitted_samePools s line c made).trans bytes).trans tags).trans (.of_ctxs ?_)
  unfold State.unpoisoned
  split <;> rfl

/-! ## Frames without copies -/

/-- No cached copy is of a line of frame `f`. -/
def State.uncopied (s : State) (f : Nat) : Prop := ∀ k ∈ s.copyNames, copyLine k / 512 ≠ f

/-- What a write-back keeps: the pools, and the bytes of frames that no copy has a line of. -/
structure State.WritesBack (s t : State) : Prop where
  specs : t.specs = s.specs
  pools : s.SamePools t
  bytes : ∀ f, s.uncopied f → t.uncopied f ∧ ∀ a, a / 65536 = f → t.readByte a = s.readByte a

namespace State.WritesBack
variable {s t u : State}

theorem refl (s : State) : s.WritesBack s := ⟨rfl, fun _ => rfl, fun _ h => ⟨h, fun _ _ => rfl⟩⟩
theorem trans (h : s.WritesBack t) (h' : t.WritesBack u) : s.WritesBack u where
  specs := h'.specs.trans h.specs
  pools := h.pools.trans h'.pools
  bytes f hf :=
    have ht := h.bytes f hf
    have hu := h'.bytes f ht.1
    ⟨hu.1, fun a ha => (hu.2 a ha).trans (ht.2 a ha)⟩
theorem foldl {f : State → Nat → State} (hf : ∀ (s : State) k, s.specs = [] → s.WritesBack (f s k)) (ks : List Nat)
    (hs : s.specs = []) : s.WritesBack (ks.foldl f s) :=
  foldl_keeps (P := s.WritesBack) (fun t k ht => ht.trans (hf t k (ht.specs.trans hs))) ks (refl s)
end State.WritesBack

/-- The device with other cached copies. -/
def State.withCopies (s : State) (m : SMap Copy) : State := { s with copies := m }

/-- Copies may change, a copy of a line of which there was one being added. -/
theorem withCopies_writesBack {s : State} {m : SMap Copy} (h : ∀ k ∈ m.map Prod.fst, ∃ j ∈ s.copyNames, copyLine k = copyLine j) :
    s.WritesBack (s.withCopies m) where
  specs := rfl
  pools := .of_ctxs rfl
  bytes f hf := ⟨fun k hk => by
    obtain ⟨j, hj, he⟩ := h k hk
    rw [he]
    exact hf j hj, fun _ _ => rfl⟩

theorem homeMerge_writesBack {s : State} (hs : s.specs = []) {k : Nat} (hk : k ∈ s.copyNames) (c : Copy) :
    s.WritesBack (s.homeMerge (copyLine k) c) where
  specs := ((homeMerge_merged s (copyLine k) c false).specs_nil hs).trans hs.symm
  pools := homeMerge_samePools hs _ _ _
  bytes f hf := by
    refine ⟨fun j hj => hf j ?_, fun a ha => ?_⟩
    · rwa [State.copyNames, (homeMerge_merged s (copyLine k) c false).copies_eq] at hj
    · rw [readByte_homeMerge hs, if_neg]
      rintro ⟨hl, -⟩
      refine hf k hk ?_
      rw [← hl, ← ha]
      omega

theorem toCluster_writesBack {s : State} (hs : s.specs = []) {k : Nat} (hk : k ∈ s.copyNames) (cl : Nat) (c : Copy) :
    s.WritesBack (s.toCluster cl (copyLine k) k c) := by
  have heard : s.WritesBack (s.withCopies (s.heard cl (copyLine k) k c.dirty)) :=
    withCopies_writesBack fun j hj => ⟨j, by rwa [keys_heard] at hj, rfl⟩
  have hn : k ∈ (s.withCopies (s.heard cl (copyLine k) k c.dirty)).copyNames := by
    rwa [State.copyNames, State.withCopies, keys_heard]
  unfold State.toCluster
  dsimp only
  split
  · refine heard.trans (withCopies_writesBack fun j hj => ?_)
    rcases mem_keys_insert hj with rfl | hj
    · exact ⟨k, hn, copyLine_copyKey (copyLine_lt k)⟩
    · exact ⟨j, hj, rfl⟩
  · exact heard.trans (homeMerge_writesBack (s := s.withCopies (s.heard cl (copyLine k) k c.dirty)) hs hn c)

theorem writeBack_writesBack (s : State) (k : Nat) (hs : s.specs = []) : s.WritesBack (s.writeBack k) := by
  unfold State.writeBack
  split
  · exact .refl s
  next c hc =>
    let m := s.copies.insert k { c with dirty := 0, writers := [] }
    have passed : s.WritesBack (s.withCopies m) := withCopies_writesBack fun j hj =>
      ⟨j, (mem_keys_insert hj).elim (fun e => e ▸ mem_keys_of_find hc) id, rfl⟩
    have kept : k ∈ (s.withCopies m).copyNames := mem_keys_of_find (SMap.find_insert_self _ _ _)
    split
    · exact .refl s
    · dsimp only
      split
      · exact passed.trans (toCluster_writesBack (s := s.withCopies m) hs kept _ _)
      · exact passed.trans (homeMerge_writesBack (s := s.withCopies m) hs kept _)

theorem evict_writesBack (s : State) (k : Nat) (hs : s.specs = []) : s.WritesBack (s.evict k) := by
  refine (writeBack_writesBack s k hs).trans (withCopies_writesBack fun j hj => ⟨j, ?_, rfl⟩)
  obtain ⟨y, hy, rfl⟩ := List.mem_map.1 hj
  exact List.mem_map_of_mem (List.mem_filter.1 hy).1

theorem writeBackAll_writesBack {s : State} (hs : s.specs = []) (p : Nat → Bool) : s.WritesBack (s.writeBackAll p) :=
  have first := State.WritesBack.foldl writeBack_writesBack (s.copyKeys true p) hs
  first.trans (.foldl writeBack_writesBack _ (first.specs.trans hs))

theorem evictAll_writesBack {s : State} (hs : s.specs = []) (p : Nat → Bool) : s.WritesBack (s.evictAll p) :=
  have first := State.WritesBack.foldl evict_writesBack (s.copyKeys true p) hs
  first.trans (.foldl evict_writesBack _ (first.specs.trans hs))

end Sys2Proof.Machine
end

section
/-!
A workgroup is swept (R173, R175): the state around it, its teams and its stamp.
-/

namespace Sys2Proof.Machine

/-- `t` is `s` but for the tags and the events that become due. -/
def State.Retagged (s t : State) : Prop := t = { s with agenda := t.agenda, tags := t.tags }

theorem State.Retagged.trans {s t u : State} (h : s.Retagged t) (h' : t.Retagged u) : s.Retagged u := by
  unfold State.Retagged at *
  calc u = _ := h'
    _ = _ := by rw [h]

theorem State.Retagged.specs {s t : State} (h : s.Retagged t) : t.specs = s.specs := by
  unfold State.Retagged at h
  rw [h]

theorem sweepTags_retagged {s : State} (hs : s.specs = []) (f : Nat → Option Ctx) : s.Retagged (s.sweepTags f) := by
  refine foldl_keeps (P := s.Retagged) (f := fun s g => (s.setTag (16 * g) false).homeChanged (g / 8)) (fun t g ht => ?_) _ rfl
  rw [homeChanged_of_nil (s := t.setTag (16 * g) false) (ht.specs.trans hs)]
  exact ht.trans rfl

theorem sweepBanks_retagged {s : State} (hs : s.specs = []) (w : WgId) (c : Ctx) : s.Retagged (s.sweepBanks w c) := by
  unfold State.sweepBanks
  split
  · rfl
  · exact sweepTags_retagged hs _

/-- A change of teams that leaves what they are, whether they run and what they sleep on. -/
structure KeepsPace (f : Ctx → Team → Team) : Prop where
  id : ∀ c t, (f c t).id = t.id
  run : ∀ c t, (f c t).run = t.run
  sleep : ∀ c t, (f c t).sleep = t.sleep

theorem swept_keepsPace : KeepsPace Team.swept := ⟨fun _ _ => rfl, fun _ _ => rfl, fun _ _ => rfl⟩
theorem sweptSaved_keepsPace : KeepsPace Team.sweptSaved := ⟨fun _ _ => rfl, fun _ _ => rfl, fun _ _ => rfl⟩

/-- What a sweep changes, and what it keeps of the teams. -/
structure State.Sweeps (s t : State) : Prop where
  frame : t = { s with agenda := t.agenda, team := t.team, others := t.others, tags := t.tags, wgs := t.wgs }
  id : t.team.id = s.team.id
  sleep : t.team.sleep = s.team.sleep
  teams : ∀ x ∈ s.teams, ∃ y ∈ t.teams, y.id = x.id ∧ y.run = x.run

namespace State.Sweeps
variable {s t u : State}

theorem refl (s : State) : s.Sweeps s := ⟨rfl, rfl, rfl, fun x hx => ⟨x, hx, rfl, rfl⟩⟩
theorem trans (h : s.Sweeps t) (h' : t.Sweeps u) : s.Sweeps u where
  frame := by
    calc u = _ := h'.frame
      _ = _ := by rw [h.frame]
  id := h'.id.trans h.id
  sleep := h'.sleep.trans h.sleep
  teams x hx := by
    obtain ⟨y, hy, hid, hrun⟩ := h.teams x hx
    obtain ⟨z, hz, hid', hrun'⟩ := h'.teams y hy
    exact ⟨z, hz, hid'.trans hid, hrun'.trans hrun⟩
theorem specs (h : s.Sweeps t) : t.specs = s.specs := by rw [h.frame]
theorem ctx (h : s.Sweeps t) (n : Nat) : t.ctx? n = s.ctx? n := by rw [h.frame]; rfl
theorem gangs (h : s.Sweeps t) : t.gangs = s.gangs := by rw [h.frame]
theorem memory (h : s.Sweeps t) : t.mem = s.mem ∧ t.copies = s.copies ∧ t.owner = s.owner := by
  rw [h.frame]; exact ⟨rfl, rfl, rfl⟩
theorem clocks (h : s.Sweeps t) : t.timebase = s.timebase ∧ t.sweepClock = s.sweepClock := by
  rw [h.frame]; exact ⟨rfl, rfl⟩
end State.Sweeps

theorem State.Retagged.sweeps {s t : State} (h : s.Retagged t) : s.Sweeps t := by
  unfold State.Retagged at h
  rw [h]
  exact ⟨rfl, rfl, rfl, fun x hx => ⟨x, hx, rfl, rfl⟩⟩

theorem modTeams_sweeps (s : State) (p : Team → Bool) {f : Team → Team}
    (hf : ∀ t, (f t).id = t.id ∧ (f t).run = t.run ∧ (f t).sleep = t.sleep) : s.Sweeps (s.modTeams p f) where
  frame := rfl
  id := by
    change (if p s.team then f s.team else s.team).id = _
    split
    · exact (hf _).1
    · rfl
  sleep := by
    change (if p s.team then f s.team else s.team).sleep = _
    split
    · exact (hf _).2.2
    · rfl
  teams x hx := by
    refine ⟨if p x then f x else x, ?_, ?_⟩
    · rcases List.mem_cons.1 hx with rfl | hx
      · exact .head _
      · exact .tail _ (List.mem_map_of_mem (f := fun t => if p t then f t else t) hx)
    · split
      · exact ⟨(hf x).1, (hf x).2.1⟩
      · exact ⟨rfl, rfl⟩

theorem modWg_sweeps (s : State) (w : WgId) (f : Workgroup → Workgroup) : s.Sweeps (s.modWg w f) :=
  ⟨rfl, rfl, rfl, fun x hx => ⟨x, hx, rfl, rfl⟩⟩

/-- A workgroup that has been swept, at a sweep clock. -/
def Workgroup.sweptAt (clock : Nat) (w : Workgroup) : Workgroup :=
  { w with stamp := clock, sweepPending := false, banksSwept := true }

theorem sweepWg_eq {s : State} {w : WgId} {g : Workgroup} {c : Ctx} (h : s.wg? w = some g) (hc : s.ctx? g.ctx = some c)
    (f : Ctx → Team → Team) :
    s.sweepWg w f = ((s.modTeams (fun t => t.wg = w) (f c)).sweepBanks w c).modWg w (Workgroup.sweptAt s.sweepClock.toNat) := by
  rw [State.sweepWg, h]
  dsimp only
  rw [hc]
  rfl

theorem sweepWg_sweeps {s : State} (hs : s.specs = []) (w : WgId) {f : Ctx → Team → Team} (hf : KeepsPace f) :
    s.Sweeps (s.sweepWg w f) := by
  cases h : s.wg? w with
  | none =>
    rw [State.sweepWg, h]
    exact .refl s
  | some g =>
    cases hc : s.ctx? g.ctx with
    | none =>
      rw [State.sweepWg, h]
      dsimp only
      rw [hc]
      exact .refl s
    | some c =>
      rw [sweepWg_eq h hc]
      exact ((modTeams_sweeps s _ fun t => ⟨hf.id c t, hf.run c t, hf.sleep c t⟩).trans
        (sweepBanks_retagged (s := s.modTeams _ _) hs w c).sweeps).trans (modWg_sweeps _ _ _)

theorem foldl_sweepWg_sweeps {s : State} (hs : s.specs = []) (ws : List WgId) {f : Ctx → Team → Team} (hf : KeepsPace f) :
    s.Sweeps (ws.foldl (fun s w => s.sweepWg w f) s) :=
  foldl_keeps (P := s.Sweeps) (fun _ w ht => ht.trans (sweepWg_sweeps (ht.specs.trans hs) w hf)) ws (.refl s)

/-! ## Stamps -/

theorem State.Retagged.wg {s t : State} (h : s.Retagged t) (w : WgId) : t.wg? w = s.wg? w := by
  unfold State.Retagged at h
  rw [h]
  rfl

/-- The sweep of a workgroup gives it the clock as its stamp, and leaves other workgroups as they were. -/
theorem wg_sweepWg {s : State} (hs : s.specs = []) {w : WgId} {g : Workgroup} (h : s.wg? w = some g)
    (hc : (s.ctx? g.ctx).isSome) (f : Ctx → Team → Team) (v : WgId) :
    (s.sweepWg w f).wg? v = (s.wg? v).map fun x => if v = w then x.sweptAt s.sweepClock.toNat else x := by
  obtain ⟨c, hc⟩ := Option.isSome_iff_exists.1 hc
  have hr := sweepBanks_retagged (s := s.modTeams (fun t => t.wg = w) (f c)) hs w c
  rw [sweepWg_eq h hc, wg_modWg _ _ _ (f := Workgroup.sweptAt s.sweepClock.toNat) fun _ => rfl, hr.wg]
  rfl

end Sys2Proof.Machine
end

section
/-!
STREAM_OUT (R66, R246): teams as their control blocks record them, and slots and banks given up.
-/

namespace Sys2Proof.Machine

/-! ## Teams -/

theorem writeDest_sleep (t : Team) (d : Dest) : (t.writeDest d).sleep = t.sleep := by
  cases d with
  | v r vals => rfl
  | q r vals => rfl
  | s r x => cases x <;> rfl
  | c r x => cases x <;> rfl

/-- Results that land wake no team. -/
theorem finishAll_sleep (t : Team) : t.finishAll.sleep = t.sleep := by
  refine foldl_keeps (P := fun u : Team => u.sleep = t.sleep) (fun u p hu => ?_) _ rfl
  exact foldl_keeps (P := fun v : Team => v.sleep = t.sleep) (fun v d hv => (writeDest_sleep v d).trans hv) _ hu

/-- A sleep as a control block records it (R58). -/
def Sleep.stowed (now : Nat) (z : Sleep) : Sleep :=
  { z with limit := z.limit.map fun l => l - (now - z.since), since := now, monitor := false, again := false, asked := false }

theorem streamed_sleep (now : Nat) (t : Team) : (t.streamed now).sleep = t.sleep.map (Sleep.stowed now) :=
  congrArg (Option.map (Sleep.stowed now)) (finishAll_sleep t)

/-! ## Slots -/

/-- A workgroup stands in no slot of a core, and has none of its banks. -/
def CoreState.without (c : CoreState) (w : WgId) : Prop :=
  c.issuing ≠ some w ∧ c.shadow ≠ some w ∧ ∀ b ∈ c.banks, b.owner ≠ some w

theorem without_drop (c : CoreState) (w : WgId) : (c.drop w).without w := by
  refine ⟨?_, ?_, fun b hb => ?_⟩
  · change (if _ then _ else _) ≠ _
    split
    · nofun
    · assumption
  · change (if _ then _ else _) ≠ _
    split
    · nofun
    · assumption
  · obtain ⟨x, -, rfl⟩ := List.mem_map.1 hb
    unfold Bank.freeFrom
    split
    · nofun
    · assumption

theorem without_drop_of {c : CoreState} {w : WgId} (h : c.without w) (v : WgId) : (c.drop v).without w := by
  obtain ⟨hi, hs, hb⟩ := h
  refine ⟨?_, ?_, fun b hm => ?_⟩
  · change (if _ then _ else _) ≠ _
    split
    · nofun
    · exact hi
  · change (if _ then _ else _) ≠ _
    split
    · nofun
    · exact hs
  · obtain ⟨x, hx, rfl⟩ := List.mem_map.1 hm
    unfold Bank.freeFrom
    split
    · nofun
    · exact hb x hx

/-- A workgroup's count of a waiting request stops as it leaves the issuing slot (R148). -/
def State.stopsPair (s : State) (x : WgId × Nat) : State :=
  if (s.core x.2).issuing = some x.1 then s.modWg x.1 (Workgroup.pairStop s.timebase) else s

/-- A workgroup takes the sweep stamp and its FIFO banks along, and gives its slot and banks up. -/
def State.stows (s : State) (x : WgId × Nat) : State :=
  (s.modWg x.1 fun w => { w with stamp := s.sweepClock.toNat, fifos := (s.core x.2).savedFifos x.1 }).modCore x.2 fun c => c.drop x.1

def State.leaveOne (s : State) (x : WgId × Nat) : State := (s.stopsPair x).stows x

def State.leaveSlots (s : State) (xs : List (WgId × Nat)) : State := xs.foldl State.leaveOne s

theorem stopsPair_slotted (s : State) (x : WgId × Nat) : s.Slotted (s.stopsPair x) ∧ (s.stopsPair x).cores = s.cores := by
  unfold State.stopsPair
  split <;> exact ⟨rfl, rfl⟩

theorem stows_slotted (s : State) (x : WgId × Nat) : s.Slotted (s.stows x) := rfl

theorem leaveOne_slotted (s : State) (x : WgId × Nat) : s.Slotted (s.leaveOne x) :=
  (stopsPair_slotted s x).1.trans (stows_slotted _ x)

theorem leaveSlots_slotted (s : State) (xs : List (WgId × Nat)) : s.Slotted (s.leaveSlots xs) :=
  foldl_keeps (P := s.Slotted) (fun t x ht => ht.trans (leaveOne_slotted t x)) xs rfl

theorem core_stows (s : State) (x : WgId × Nat) (n : Nat) :
    (s.stows x).core n = if n = x.2 then (s.core x.2).drop x.1 else s.core n :=
  core_modCore (s.modWg _ _) _ _ _

theorem core_leaveOne (s : State) (x : WgId × Nat) (n : Nat) :
    (s.leaveOne x).core n = if n = x.2 then (s.core x.2).drop x.1 else s.core n := by
  have hc : ∀ m, (s.stopsPair x).core m = s.core m := fun m => by rw [State.core, (stopsPair_slotted s x).2, State.core]
  rw [State.leaveOne, core_stows, hc, hc]

theorem without_leaveOne {s : State} {n : Nat} {w : WgId} (h : (s.core n).without w) (x : WgId × Nat) :
    ((s.leaveOne x).core n).without w := by
  rw [core_leaveOne]
  split
  next hn => exact without_drop_of (hn ▸ h) x.1
  · exact h

theorem without_foldl_leaveOne {s : State} {n : Nat} {w : WgId} (h : (s.core n).without w) (xs : List (WgId × Nat)) :
    ((xs.foldl State.leaveOne s).core n).without w :=
  foldl_keeps (P := fun t : State => (t.core n).without w) (fun _ x ht => without_leaveOne ht x) xs h

/-- Workgroups that leave stand in no slot of their cores, and have none of their banks. -/
theorem without_leaveSlots {xs : List (WgId × Nat)} {x : WgId × Nat} (hx : x ∈ xs) (s : State) :
    ((s.leaveSlots xs).core x.2).without x.1 := by
  unfold State.leaveSlots
  induction xs generalizing s with
  | nil => cases hx
  | cons y xs ih =>
    rcases List.mem_cons.1 hx with rfl | hx
    · refine without_foldl_leaveOne ?_ xs
      rw [core_leaveOne, if_pos rfl]
      exact without_drop _ _
    · exact ih hx _

end Sys2Proof.Machine
end

section
/-!
STREAM_OUT as a whole (R66, R173, R175, R246).
-/

namespace Sys2Proof.Machine

/-! ## Before the slots are given up -/

/-- What a gang's workgroups hold has been swept where a sweep is due, and what its clusters hold written back. -/
def State.cleared (s : State) (g : Gang) : State :=
  ((g.wgIds.filter fun w => (s.wg? w).any Workgroup.sweepPending).foldl (fun s w => s.sweepWg w Team.swept) s).writeBackAll
    fun k => g.clusters.contains (copyCluster k)

/-- The teams of a gang as their control blocks record them. -/
def State.storeTeams (s : State) (k : Nat) : State :=
  (s.dropAsks fun i => i.ticket == k).modTeams (fun t => t.id.ticket = k) (Team.streamed s.timebase)

/-- A gang that lies in its save area. -/
def Gang.stowed (now : Nat) (g : Gang) : Gang := { g with phase := .streamed, outAt := now }

/-- The device once a gang has been streamed out. -/
def State.streamedOut (s : State) (k : Nat) (g : Gang) : State :=
  let u := ((s.cleared g).storeTeams k).leaveSlots (g.wgIds.zip g.cores)
  u.modGang k (Gang.stowed u.timebase)

theorem streamOut_eq {s u : State} {k : Nat} {g : Gang} (h : s.gang? k = some g) (hp : g.phase = .leaving)
    (hset : s.settled k = true) (ha : s.allotArea k = some u) : exec (.streamOut k) s = .next (u.streamedOut k g) := by
  change execStreamOut k s = _
  rw [execStreamOut, h]
  dsimp only
  rw [streamOut_moves hp hset, ha]
  rfl

/-- What write-backs keep of the state around. -/
structure State.KeepsAround (s t : State) : Prop where
  gangs : t.gangs = s.gangs
  owner : t.owner = s.owner
  timebase : t.timebase = s.timebase
  sweepClock : t.sweepClock = s.sweepClock
  wgs : t.wgs = s.wgs
  team : t.team = s.team
  others : t.others = s.others

theorem State.Cached.around {s t : State} (h : s.Cached t) (hs : s.specs = []) : s.KeepsAround t := by
  have h := h.narrow hs
  unfold State.SameButHome at h
  constructor <;> rw [h]

section
variable {s : State} {g : Gang} {k : Nat}

theorem sweepsDue_sweeps (hs : s.specs = []) (g : Gang) :
    s.Sweeps ((g.wgIds.filter fun w => (s.wg? w).any Workgroup.sweepPending).foldl (fun s w => s.sweepWg w Team.swept) s) :=
  foldl_sweepWg_sweeps hs _ swept_keepsPace

/-- What is kept up to where a gang gives its slots up. -/
structure State.Clears (s : State) (g : Gang) (t : State) : Prop where
  gangs : t.gangs = s.gangs
  owner : t.owner = s.owner
  timebase : t.timebase = s.timebase
  id : t.team.id = s.team.id
  sleep : t.team.sleep = s.team.sleep
  pools : s.SamePools t
  bytes : ∀ f, s.uncopied f → ∀ a, a / 65536 = f → t.readByte a = s.readByte a
  clean : ∀ key, copyCluster key ∈ g.clusters → t.cleanAt key

theorem cleared_clears (hs : s.specs = []) (g : Gang) : s.Clears g (s.cleared g) := by
  have hw := sweepsDue_sweeps hs g
  unfold State.cleared
  generalize (g.wgIds.filter fun w => (s.wg? w).any Workgroup.sweepPending).foldl (fun s w => s.sweepWg w Team.swept) s = u at *
  have hn := hw.specs.trans hs
  have hb := writeBackAll_writesBack hn fun k => g.clusters.contains (copyCluster k)
  have ha := (writeBackAll_cached u fun k => g.clusters.contains (copyCluster k)).around hn
  obtain ⟨hmem, hcopies, howner⟩ := hw.memory
  exact {
    gangs := ha.gangs.trans hw.gangs
    owner := ha.owner.trans howner
    timebase := ha.timebase.trans hw.clocks.1
    id := (congrArg Team.id ha.team).trans hw.id
    sleep := (congrArg Team.sleep ha.team).trans hw.sleep
    pools := fun n => (hb.pools n).trans (congrArg (Option.map Ctx.pool) (hw.ctx n))
    bytes := fun f hf a haf => by
      have hu : u.uncopied f := fun j hj => hf j (by rwa [State.copyNames, hcopies] at hj)
      rw [(hb.bytes f hu).2 a haf, readByte_of_mem hmem]
    clean := fun key hk => cleanAt_writeBackAll (by simpa using hk) }

/-! ## The slots are given up -/

theorem storeTeams_fields (s : State) (k : Nat) :
    (s.storeTeams k).gangs = s.gangs ∧ (s.storeTeams k).owner = s.owner ∧ (s.storeTeams k).timebase = s.timebase ∧
      (s.storeTeams k).ctxs = s.ctxs ∧ (s.storeTeams k).mem = s.mem ∧ (s.storeTeams k).copies = s.copies ∧
      (s.storeTeams k).team = if s.team.id.ticket = k then s.team.streamed s.timebase else s.team := by
  refine ⟨rfl, rfl, rfl, rfl, rfl, rfl, ?_⟩
  exact if_congr decide_eq_true_iff rfl rfl

theorem State.Slotted.rest {s t : State} (h : s.Slotted t) :
    t.gangs = s.gangs ∧ t.owner = s.owner ∧ t.timebase = s.timebase ∧ t.ctxs = s.ctxs ∧ t.mem = s.mem ∧ t.copies = s.copies ∧
      t.team = s.team := by
  unfold State.Slotted at h
  refine ⟨?_, ?_, ?_, ?_, ?_, ?_, ?_⟩ <;> rw [h]

theorem modGang_rest (s : State) (k : Nat) (f : Gang → Gang) :
    (s.modGang k f).owner = s.owner ∧ (s.modGang k f).ctxs = s.ctxs ∧ (s.modGang k f).mem = s.mem ∧
      (s.modGang k f).copies = s.copies ∧ (s.modGang k f).team = s.team ∧ (s.modGang k f).cores = s.cores :=
  ⟨rfl, rfl, rfl, rfl, rfl, rfl⟩

/-- What STREAM_OUT leaves, seen from where the gang has its save area. -/
structure State.StreamsOut (s : State) (k : Nat) (g : Gang) (t : State) : Prop where
  gang : ∀ h, s.gang? k = some h → t.gang? k = some (h.stowed s.timebase)
  owner : t.owner = s.owner
  pools : s.SamePools t
  bytes : ∀ f, s.uncopied f → ∀ a, a / 65536 = f → t.readByte a = s.readByte a
  clean : ∀ key, copyCluster key ∈ g.clusters → t.cleanAt key
  gone : ∀ x ∈ g.wgIds.zip g.cores, (t.core x.2).without x.1
  sleep : s.team.id.ticket = k → t.team.sleep = s.team.sleep.map (Sleep.stowed s.timebase)

theorem streamedOut_streamsOut (hs : s.specs = []) (k : Nat) (g : Gang) : s.StreamsOut k g (s.streamedOut k g) := by
  have hc := cleared_clears hs g
  unfold State.streamedOut
  generalize s.cleared g = u at *
  obtain ⟨sg, so, sb, sx, sm, sc, st⟩ := storeTeams_fields u k
  generalize u.storeTeams k = v at *
  obtain ⟨lg, lo, lb, lx, lm, lc, lt⟩ := (leaveSlots_slotted v (g.wgIds.zip g.cores)).rest
  have gone := fun x hx => without_leaveSlots (xs := g.wgIds.zip g.cores) (x := x) hx v
  generalize v.leaveSlots (g.wgIds.zip g.cores) = w at *
  obtain ⟨mo, mx, mm, mc, mt, mk⟩ := modGang_rest w k (Gang.stowed w.timebase)
  have now : w.timebase = s.timebase := lb.trans (sb.trans hc.timebase)
  dsimp only
  exact {
    gang := fun h hg => by
      rw [now]
      refine gang_modGang_self ?_ fun _ => rfl
      rw [State.gang?, lg, sg, hc.gangs]
      exact hg
    owner := mo.trans (lo.trans (so.trans hc.owner))
    pools := hc.pools.trans (.of_ctxs (mx.trans (lx.trans sx)))
    bytes := fun f hf a ha => (readByte_of_mem (mm.trans (lm.trans sm)) a).trans (hc.bytes f hf a ha)
    clean := fun key hk x hx => hc.clean key hk x (by rwa [mc, lc, sc] at hx)
    gone := fun x hx => by
      rw [State.core, mk]
      exact gone x hx
    sleep := fun hk => by
      rw [mt, lt, st, if_pos (hc.id ▸ hk), streamed_sleep, hc.sleep, hc.timebase] }

end

end Sys2Proof.Machine
end

section
/-!
STREAM_OUT of a gang that has its save area, or finds the frames for it (R246).
-/

namespace Sys2Proof.Machine

/-- A frame that belongs to firmware, holds no byte but 0, and has no line in a cache. -/
structure State.BlankFrame (s : State) (f : Nat) : Prop where
  owner : s.owner.getD f 0 = 257
  zero : ∀ a, a / 65536 = f → s.readByte a = 0
  uncopied : s.uncopied f

/-- Where a gang's save area comes from, and what is left of its context's pool. -/
structure State.HasArea (s : State) (g : Gang) (c : Ctx) (u : State) : Prop where
  specs : u.specs = s.specs
  timebase : u.timebase = s.timebase
  team : u.team = s.team
  gang : u.gang? g.ticket = some { g with area := if g.area = [] then c.pool.take g.areaFrames else g.area }
  pool : ∃ c', u.ctx? g.ctx = some c' ∧ c'.pool = if g.area = [] then c.pool.drop g.areaFrames else c.pool
  blank : g.area = [] → ∀ f ∈ c.pool.take g.areaFrames, u.BlankFrame f

section
variable {s : State} {g : Gang} {c : Ctx}

theorem hasArea_kept (h : s.gang? g.ticket = some g) (hc : s.ctx? g.ctx = some c) (ha : g.area ≠ []) : s.HasArea g c s where
  specs := rfl
  timebase := rfl
  team := rfl
  gang := by rw [if_neg ha, h]
  pool := ⟨c, hc, by rw [if_neg ha]⟩
  blank he := absurd he ha

theorem wiped_blank (hs : s.specs = []) {frames : List Nat} {f : Nat} (hf : f ∈ frames) : (s.wiped frames).BlankFrame f where
  owner := by
    change SMap.getD (frames.foldl _ _) f 0 = 257
    rw [getD_foldl_put, if_pos hf]
    exact if_neg (by decide)
  zero a ha := (readByte_foldl_scrubFrame frames hs a).trans (if_pos (ha ▸ hf))
  uncopied k hk := by
    change k ∈ (frames.foldl State.scrubFrame s).copies.map Prod.fst at hk
    rw [copies_foldl_scrubFrame frames hs] at hk
    obtain ⟨y, hy, rfl⟩ := List.mem_map.1 hk
    rintro rfl
    simpa [hf] using (List.mem_filter.1 hy).2

theorem allotted_blank (hs : s.specs = []) {f : Nat} (hf : f ∈ (s.poolOf g.ctx).take g.areaFrames) : (s.allotted g).BlankFrame f :=
  have h := wiped_blank hs hf
  ⟨h.owner, h.zero, h.uncopied⟩

theorem hasArea_new (h : s.gang? g.ticket = some g) (hc : s.ctx? g.ctx = some c) (hs : s.specs = []) (ha : g.area = []) :
    s.HasArea g c (s.allotted g) := by
  have hpool : s.poolOf g.ctx = c.pool := by
    rw [State.poolOf, hc]
    rfl
  obtain ⟨specs, team, -, timebase⟩ := (allotted_allotted hs g).fields
  exact {
    specs := specs
    timebase := timebase
    team := team
    gang := by
      rw [gang_allotted hs, h, if_pos ha, hpool, Option.map_some, if_pos rfl]
    pool := by
      rw [ctx_allotted hs, if_pos rfl, hc, if_pos ha, hpool]
      exact ⟨_, rfl, rfl⟩
    blank := fun _ f hf => allotted_blank hs (hpool ▸ hf) }

/-- A gang that has a save area, or whose context has the frames, gets it. -/
theorem allotArea_has (h : s.gang? g.ticket = some g) (hc : s.ctx? g.ctx = some c) (hs : s.specs = [])
    (hfit : g.area ≠ [] ∨ g.areaFrames ≤ c.pool.length) : ∃ u, s.allotArea g.ticket = some u ∧ s.HasArea g c u := by
  by_cases ha : g.area = []
  · have hpool : g.areaFrames ≤ (s.poolOf g.ctx).length := by
      rw [State.poolOf, hc]
      exact hfit.resolve_left (not_not_intro ha)
    exact ⟨_, allotArea_new h ha hpool, hasArea_new h hc hs ha⟩
  · exact ⟨_, allotArea_kept h ha, hasArea_kept h hc ha⟩

/-- STREAM_OUT where the gang has its save area or can have it. -/
theorem streamOut_saves {k : Nat} (h : s.gang? k = some g) (hc : s.ctx? g.ctx = some c) (hp : g.phase = .leaving)
    (hset : s.settled k = true) (hs : s.specs = []) (hfit : g.area ≠ [] ∨ g.areaFrames ≤ c.pool.length) :
    ∃ t, exec (.streamOut k) s = .next t ∧
      (∃ g', t.gang? k = some g' ∧ g'.phase = .streamed ∧ g'.outAt = s.timebase ∧
        g'.area = if g.area = [] then c.pool.take g.areaFrames else g.area) ∧
      (∃ c', t.ctx? g.ctx = some c' ∧ c'.pool = if g.area = [] then c.pool.drop g.areaFrames else c.pool) ∧
      (g.area = [] → ∀ f ∈ c.pool.take g.areaFrames,
        t.owner.getD f 0 = 257 ∧ ∀ i, i < 65536 → t.readByte (65536 * f + i) = 0) ∧
      (∀ key x, t.copies.find? key = some x → copyCluster key ∈ g.clusters → x.dirty = 0) ∧
      (∀ x ∈ g.wgIds.zip g.cores, (t.core x.2).without x.1) ∧
      ∀ z, s.team.id.ticket = k → s.team.sleep = some z → t.team.sleep = some (z.stowed s.timebase) := by
  have hk := gang_ticket h
  subst hk
  obtain ⟨u, ha, hu⟩ := allotArea_has h hc hs hfit
  have ho := streamedOut_streamsOut (hu.specs.trans hs) g.ticket g
  obtain ⟨c1, hc1, hp1⟩ := hu.pool
  obtain ⟨c2, hc2, hp2⟩ := ho.pools.ctx hc1
  refine ⟨_, streamOut_eq h hp hset ha, ⟨_, ho.gang _ hu.gang, rfl, hu.timebase, rfl⟩, ⟨c2, hc2, hp2.trans hp1⟩,
    fun he f hf => ?_, fun key x hx hk => ho.clean key hk x hx, ho.gone, fun z hid hz => ?_⟩
  · have blank := hu.blank he f hf
    have place : ∀ i, i < 65536 → (65536 * f + i) / 65536 = f := fun i hi => by omega
    exact ⟨by rw [ho.owner, blank.owner], fun i hi => by
      rw [ho.bytes f blank.uncopied _ (place i hi), blank.zero _ (place i hi)]⟩
  · rw [ho.sleep (by rw [hu.team]; exact hid), hu.team, hu.timebase, hz]
    rfl

end

end Sys2Proof.Machine
end

section
/-!
STREAM_IN of a gang that has not been restored (R175, R203, R247).
-/

namespace Sys2Proof.Machine

/-! ## Stamps -/

/-- A workgroup is there, and its stamp is the sweep clock. -/
def State.stampedAt (s : State) (w : WgId) : Prop := ∃ x, s.wg? w = some x ∧ x.stamp = s.sweepClock.toNat

theorem sweepWg_cases (s : State) (w : WgId) (f : Ctx → Team → Team) :
    s.sweepWg w f = s ∨ ∃ g, s.wg? w = some g ∧ (s.ctx? g.ctx).isSome := by
  cases hw : s.wg? w with
  | none =>
    left
    rw [State.sweepWg, hw]
  | some g =>
    cases hc : s.ctx? g.ctx with
    | none =>
      left
      rw [State.sweepWg, hw]
      dsimp only
      rw [hc]
    | some c => exact .inr ⟨g, rfl, by rw [hc]; rfl⟩

/-- The sweep of any workgroup keeps one there, its context, and its stamp unless that becomes the clock. -/
theorem sweepWg_keeps {s : State} (hs : s.specs = []) (w : WgId) (f : Ctx → Team → Team) {v : WgId} {x : Workgroup}
    (hx : s.wg? v = some x) :
    ∃ y, (s.sweepWg w f).wg? v = some y ∧ y.ctx = x.ctx ∧ (y.stamp = s.sweepClock.toNat ∨ y.stamp = x.stamp) := by
  rcases sweepWg_cases s w f with he | ⟨g, hg, hc⟩
  · rw [he]
    exact ⟨x, hx, rfl, .inr rfl⟩
  · rw [wg_sweepWg hs hg hc, hx, Option.map_some]
    refine ⟨_, rfl, ?_⟩
    split
    · exact ⟨rfl, .inl rfl⟩
    · exact ⟨rfl, .inr rfl⟩

theorem stampedAt_foldl_sweepWg {f : Ctx → Team → Team} (hf : KeepsPace f) {v : WgId} (ws : List WgId) {s : State} (hs : s.specs = [])
    (h : s.stampedAt v) : (ws.foldl (fun s w => s.sweepWg w f) s).stampedAt v := by
  induction ws generalizing s with
  | nil => exact h
  | cons w ws ih =>
    obtain ⟨x, hx, hst⟩ := h
    have hsw := sweepWg_sweeps hs w hf
    obtain ⟨y, hy, -, hyst⟩ := sweepWg_keeps hs w f hx
    exact ih (hsw.specs.trans hs) ⟨y, hy, by rw [hsw.clocks.2]; exact hyst.elim id fun e => e.trans hst⟩

/-- A workgroup of a list of which each is swept ends with the clock as its stamp. -/
theorem stampedAt_of_mem {f : Ctx → Team → Team} (hf : KeepsPace f) {v : WgId} {ws : List WgId} (hv : v ∈ ws) {s : State}
    (hs : s.specs = []) {x : Workgroup} (hx : s.wg? v = some x) (hc : (s.ctx? x.ctx).isSome) :
    (ws.foldl (fun s w => s.sweepWg w f) s).stampedAt v := by
  induction ws generalizing s x with
  | nil => cases hv
  | cons w ws ih =>
    have hsw := sweepWg_sweeps hs w hf
    have hn := hsw.specs.trans hs
    by_cases hw : v = w
    · subst hw
      refine stampedAt_foldl_sweepWg hf ws hn ⟨x.sweptAt s.sweepClock.toNat, ?_, ?_⟩
      · rw [wg_sweepWg hs hx hc, hx, Option.map_some, if_pos rfl]
      · rw [hsw.clocks.2]
        rfl
    · obtain ⟨y, hy, hyc, -⟩ := sweepWg_keeps hs w f hx
      refine ih ((List.mem_cons.1 hv).resolve_left hw) hn hy ?_
      rw [hsw.ctx, hyc]
      exact hc

/-- The workgroups whose stamp a sweep has passed by, of a list. -/
def State.outdated (s : State) (ws : List WgId) : List WgId :=
  ws.filter fun w => (s.wg? w).any fun x => x.stamp != s.sweepClock.toNat

/-- The sweep of those whose stamp is not the clock leaves each with the clock as its stamp (R175). -/
theorem stampedAt_outdated {s : State} (hs : s.specs = []) {ws : List WgId} {w : WgId} (hw : w ∈ ws) {x : Workgroup}
    (hx : s.wg? w = some x) (hc : (s.ctx? x.ctx).isSome) :
    ((s.outdated ws).foldl (fun s w => s.sweepWg w Team.sweptSaved) s).stampedAt w := by
  by_cases hst : x.stamp = s.sweepClock.toNat
  · exact stampedAt_foldl_sweepWg sweptSaved_keepsPace _ hs ⟨x, hx, hst⟩
  · exact stampedAt_of_mem sweptSaved_keepsPace (List.mem_filter.2 ⟨hw, by simpa [hx] using hst⟩) hs hx hc

/-! ## Monitors -/

/-- `t` is `s` but for its teams and the events that become due, of which none is lost. -/
structure State.Rearms (s t : State) : Prop where
  frame : t = { s with team := t.team, others := t.others, agenda := t.agenda }
  due : ∀ i ∈ s.agenda, i ∈ t.agenda

theorem State.Rearms.trans {s t u : State} (h : s.Rearms t) (h' : t.Rearms u) : s.Rearms u where
  frame := by
    calc u = _ := h'.frame
      _ = _ := by rw [h.frame]
  due i hi := h'.due i (h.due i hi)

theorem rearm_rearms (s : State) (x : Team) : s.Rearms (s.rearm x) := ⟨rfl, fun _ hi => List.mem_append_left _ hi⟩

theorem rearm_due (s : State) (x : Team) : Instr.monitorWake x.id ∈ (s.rearm x).agenda :=
  List.mem_append_right _ (List.mem_singleton.2 rfl)

theorem foldl_rearm_rearms (xs : List Team) (s : State) : s.Rearms (xs.foldl State.rearm s) :=
  foldl_keeps (P := s.Rearms) (fun t x ht => ht.trans (rearm_rearms t x)) xs ⟨rfl, fun _ h => h⟩

/-- Each of the teams has the re-read of its counter owed (R247). -/
theorem foldl_rearm_due {xs : List Team} {x : Team} (hx : x ∈ xs) (s : State) :
    Instr.monitorWake x.id ∈ (xs.foldl State.rearm s).agenda := by
  induction xs generalizing s with
  | nil => cases hx
  | cons y xs ih =>
    rcases List.mem_cons.1 hx with rfl | hx
    · exact (foldl_rearm_rearms xs _).due _ (rearm_due s x)
    · exact ih hx _

end Sys2Proof.Machine
end

section
/-!
STREAM_IN of a gang that has not been restored, as a whole (R175, R203, R247).
-/

namespace Sys2Proof.Machine

/-- What a gang's clusters hold is written back and dropped, and what a sweep has passed by is swept. -/
def State.evened (s : State) (g : Gang) : State :=
  let u := s.evictAll fun k => g.clusters.contains (copyCluster k)
  (u.outdated g.wgIds).foldl (fun s w => s.sweepWg w Team.sweptSaved) u

/-- The counts of a gang's waiting requests go on (R148). -/
def State.goesOn (s : State) (k : Nat) : State :=
  { s with wgs := s.wgs.map fun w => if w.id.ticket = k then w.pairGo s.timebase else w }

/-- The teams of a gang that sleep. -/
def State.gangSleepers (s : State) (k : Nat) : List Team := s.teams.filter fun t => t.id.ticket == k && t.run == .asleep

/-- The device once a gang has been restored from its save area. -/
def State.restored (s : State) (k : Nat) (g : Gang) : State :=
  let v := ((s.evened g).freeArea k).goesOn k
  (v.gangSleepers k).foldl State.rearm v

section
variable {s : State} {k : Nat} {g : Gang}

theorem streamIn_eq (h : s.gang? k = some g) (hp : g.phase = .entering) (ht : s.transitStopped = false) (ha : g.area ≠ []) :
    exec (.streamIn k) s = .next (s.restored k g) := by
  have hst : g.stored = true := by simpa [Gang.stored] using ha
  change execStreamIn k s = _
  rw [execStreamIn, h]
  dsimp only
  rw [hp, ht, hst]
  rfl

/-! ## Up to where the save area goes back -/

/-- What is kept, and what is gone, up to where a gang's save area goes back. -/
structure State.Evens (s : State) (g : Gang) (t : State) : Prop where
  gangs : t.gangs = s.gangs
  sweepClock : t.sweepClock = s.sweepClock
  teams : ∀ x ∈ s.teams, ∃ y ∈ t.teams, y.id = x.id ∧ y.run = x.run
  pools : s.SamePools t
  copies : ∀ y ∈ t.copies, copyCluster y.1 ∉ g.clusters
  stamps : ∀ w ∈ g.wgIds, ∀ x, s.wg? w = some x → (s.ctx? x.ctx).isSome → t.stampedAt w

theorem evened_evens (hs : s.specs = []) (g : Gang) : s.Evens g (s.evened g) := by
  have hb := evictAll_writesBack hs fun k => g.clusters.contains (copyCluster k)
  have ha := (evictAll_cached s fun k => g.clusters.contains (copyCluster k)).around hs
  have hnames : ∀ n ∈ (s.evictAll fun k => g.clusters.contains (copyCluster k)).copyNames, copyCluster n ∉ g.clusters :=
    fun n hn => by simpa using evictAll_copyNames hn
  unfold State.evened
  generalize s.evictAll (fun k => g.clusters.contains (copyCluster k)) = u at *
  have hn := hb.specs.trans hs
  have hw := foldl_sweepWg_sweeps hn (u.outdated g.wgIds) sweptSaved_keepsPace
  have stamps := fun w hm x hx hc => stampedAt_outdated hn (ws := g.wgIds) (w := w) hm (x := x) hx hc
  dsimp only
  generalize (u.outdated g.wgIds).foldl (fun s w => s.sweepWg w Team.sweptSaved) u = v at *
  exact {
    gangs := hw.gangs.trans ha.gangs
    sweepClock := hw.clocks.2.trans ha.sweepClock
    teams := fun x hx => hw.teams x (by rwa [State.teams, ha.team, ha.others])
    pools := fun n => (congrArg (Option.map Ctx.pool) (hw.ctx n)).trans (hb.pools n)
    copies := fun y hy => hnames y.1 (by
      rw [hw.memory.2.1] at hy
      exact List.mem_map_of_mem hy)
    stamps := fun w hm x hx hc => by
      obtain ⟨c, hc⟩ := Option.isSome_iff_exists.1 hc
      obtain ⟨c', hc', -⟩ := hb.pools.ctx hc
      refine stamps w hm x ?_ (by rw [hc']; rfl)
      rw [State.wg?, ha.wgs]
      exact hx }

/-! ## From there on -/

theorem goesOn_fields (s : State) (k : Nat) :
    (s.goesOn k).gangs = s.gangs ∧ (s.goesOn k).ctxs = s.ctxs ∧ (s.goesOn k).copies = s.copies ∧
      (s.goesOn k).sweepClock = s.sweepClock ∧ (s.goesOn k).team = s.team ∧ (s.goesOn k).others = s.others :=
  ⟨rfl, rfl, rfl, rfl, rfl, rfl⟩

theorem reuse_goesOn (s : State) (k : Nat) : ∀ w ∈ (s.goesOn k).wgs, w.id.ticket = k → w.reuse = none := by
  intro w hw hk
  obtain ⟨x, -, rfl⟩ := List.mem_map.1 hw
  by_cases hx : x.id.ticket = k
  · rw [if_pos hx]
    rfl
  · rw [if_neg hx] at hk
    exact absurd hk hx

theorem stampedAt_goesOn {w : WgId} (h : s.stampedAt w) : (s.goesOn k).stampedAt w := by
  obtain ⟨x, hx, hst⟩ := h
  have hp : ((fun y : Workgroup => y.id == w) ∘ fun y => if y.id.ticket = k then y.pairGo s.timebase else y) =
      fun y => y.id == w := by
    funext y
    dsimp only [Function.comp]
    split <;> rfl
  refine ⟨if x.id.ticket = k then x.pairGo s.timebase else x, ?_, ?_⟩
  · change (s.wgs.map _).find? _ = _
    rw [List.find?_map, hp]
    exact congrArg (Option.map _) hx
  · change _ = s.sweepClock.toNat
    split <;> exact hst

theorem State.AreaFreed.rest {s t : State} (h : s.AreaFreed t) :
    t.wgs = s.wgs ∧ t.copies = s.copies ∧ t.sweepClock = s.sweepClock ∧ t.team = s.team ∧ t.others = s.others := by
  unfold State.AreaFreed at h
  refine ⟨?_, ?_, ?_, ?_, ?_⟩ <;> rw [h]

theorem State.Rearms.rest {s t : State} (h : s.Rearms t) :
    t.gangs = s.gangs ∧ t.ctxs = s.ctxs ∧ t.copies = s.copies ∧ t.sweepClock = s.sweepClock ∧ t.wgs = s.wgs := by
  refine ⟨?_, ?_, ?_, ?_, ?_⟩ <;> rw [h.frame]

theorem stampedAt_of_wgs {t : State} (hw : t.wgs = s.wgs) (hc : t.sweepClock = s.sweepClock) {w : WgId} (h : s.stampedAt w) :
    t.stampedAt w := by
  unfold State.stampedAt State.wg?
  rw [hw, hc]
  exact h

/-- STREAM_IN of a gang that has not been restored. -/
theorem streamIn_restores (h : s.gang? k = some g) {c : Ctx} (hc : s.ctx? g.ctx = some c) (hp : g.phase = .entering)
    (ht : s.transitStopped = false) (ha : g.area ≠ []) (hs : s.specs = []) :
    ∃ t, exec (.streamIn k) s = .next t ∧ (∃ g', t.gang? k = some g' ∧ g'.phase = .entering ∧ g'.area = []) ∧
      (∀ y ∈ t.copies, copyCluster y.1 ∉ g.clusters) ∧ (∃ c', t.ctx? g.ctx = some c' ∧ c'.pool = c.pool ++ g.area) ∧
      (∀ w ∈ t.wgs, w.id.ticket = k → w.reuse = none) ∧
      (∀ w ∈ g.wgIds, ∀ x, s.wg? w = some x → (s.ctx? x.ctx).isSome → ∃ y, t.wg? w = some y ∧ y.stamp = s.sweepClock.toNat) ∧
      ∀ x ∈ s.teams, x.id.ticket = k → x.run = .asleep → Instr.monitorWake x.id ∈ t.agenda := by
  have he := evened_evens hs g
  refine ⟨_, streamIn_eq h hp ht ha, ?_⟩
  unfold State.restored
  generalize s.evened g = u at *
  obtain ⟨c1, hc1, hp1⟩ := he.pools.ctx hc
  have hg : u.gang? k = some g := by
    rw [State.gang?, he.gangs]
    exact h
  have free := gang_freeArea hg
  have pool : ∃ c', (u.freeArea k).ctx? g.ctx = some c' ∧ c'.pool = c.pool ++ g.area :=
    ⟨_, ctx_freeArea hg hc1, congrArg (· ++ g.area) hp1⟩
  obtain ⟨fw, fc, fs, ft, fo⟩ := (freeArea_areaFreed u k).rest
  generalize u.freeArea k = v at *
  obtain ⟨gg, gx, gc, gs, gt, go⟩ := goesOn_fields v k
  have reuse := reuse_goesOn v k
  have stamps : ∀ w, u.stampedAt w → (v.goesOn k).stampedAt w := fun w hw => stampedAt_goesOn (stampedAt_of_wgs fw fs hw)
  dsimp only
  generalize v.goesOn k = x at *
  obtain ⟨rg, rx, rc, rs, rw'⟩ := (foldl_rearm_rearms (x.gangSleepers k) x).rest
  have due := fun y hy => foldl_rearm_due (xs := x.gangSleepers k) (x := y) hy x
  generalize (x.gangSleepers k).foldl State.rearm x = t at *
  refine ⟨⟨{ g with area := [] }, ?_, hp, rfl⟩, fun y hy => he.copies y ?_, ?_, ?_, fun w hw y hy hyc => ?_,
    fun y hy hk hr => ?_⟩
  · rw [State.gang?, rg, gg]
    exact free
  · rwa [rc, gc, fc] at hy
  · rw [State.ctx?, rx, gx]
    exact pool
  · rw [rw']
    exact reuse
  · obtain ⟨z, hz, hst⟩ := stampedAt_of_wgs rw' rs (stamps w (he.stamps w hw y hy hyc))
    exact ⟨z, hz, by rw [hst, rs, gs, fs, he.sweepClock]⟩
  · obtain ⟨z, hz, hid, hrun⟩ := he.teams y hy
    rw [← hid]
    refine due z (List.mem_filter.2 ⟨?_, by simp [hid, hrun, hk, hr]⟩)
    rwa [State.teams, gt, go, ft, fo]

end

end Sys2Proof.Machine
end

section
/-!
Gangs move through their phases (R53 to R55, R63 to R67, R242 to R247).
-/

namespace Sys2Proof.Machine

section
variable {s : State}

/-- PREEMPT where victims have been chosen: every one of lower priority, each told to leave. -/
theorem preempt_victims {c : Candidate} {o : Nat × Nat} (hd : s.decide = some (.preempt c o)) (hs : s.specs = [])
    (hfit : ∀ v ∈ s.withoutSpecs.victims c o, areaNeed (s.withoutSpecs.victims c o) v.ctx ≤ (s.poolOf v.ctx).length) :
    ∃ t, exec .preempt s = .next t ∧ t.team = s.team ∧ t.others = s.others ∧
      (∀ a, (∀ v ∈ s.withoutSpecs.victims c o, a / 65536 ∉ s.poolOf v.ctx) → t.readByte a = s.readByte a) ∧
      (∃ p, t.promised = some p ∧ p.of c = true ∧ p.cores = rectCores o.1 o.2 c.shape.w c.shape.h) ∧
      (∀ v ∈ s.withoutSpecs.victims c o, v.priority < c.priority ∧
        ∃ g ∈ t.gangs, g.ticket = v.ticket ∧ (g.phase = .shadow ∨ g.phase = .leaving)) ∧
      ∀ g ∈ s.gangs, (∀ v ∈ s.withoutSpecs.victims c o, v.ticket ≠ g.ticket) → g ∈ t.gangs := by
  obtain ⟨t, ht, he⟩ := execPreempt_suspends hd hs hfit
  have low := fun v hv => eligible_priority (victimRect_eligible (decide_preempt hd)) (v := v) hv
  refine ⟨_, he, ht.team, ht.others, ht.bytes, ⟨_, rfl, promise_of c _, rfl⟩, fun v hv => ⟨low v hv, ?_⟩, ht.keep⟩
  obtain ⟨g, hg, hphase⟩ := ht.goes v hv
  exact ⟨g, List.mem_of_find?_eq_some hg, gang_ticket hg, hphase⟩

/-- DISPATCH of a suspended gang: it runs again, or enters. -/
theorem dispatch_gang {g : Gang} {o : Nat × Nat} (hd : s.decide = some (.place (.gang g) o)) (hs : s.specs = []) :
    ∃ t, exec .dispatch s = .next t ∧ t.team = s.team ∧ t.others = s.others ∧
      ∀ h ∈ t.gangs, h.ticket = g.ticket → h.phase = if g.phase = .shadow then .running else .entering := by
  by_cases hp : g.phase = .shadow
  · rw [if_pos hp]
    exact dispatch_shadow hd hs hp
  · rw [if_neg hp]
    exact dispatch_streamed hd hs hp

theorem switches_false_iff (k : Nat) : s.switches k = false ↔
    ¬ (∃ w g, (s.core k).issuing = some w ∧ s.gang? w.ticket = some g ∧ g.phase = .shadow) ∧
      ¬ ((s.core k).issuing = none ∧ ∃ w g, (s.core k).shadow = some w ∧ s.gang? w.ticket = some g ∧ g.phase = .running) := by
  rw [← not_or, ← switches_iff, Bool.not_eq_true]

/-- GANG_RETIRE of a gang whose teams are done. -/
theorem gangRetire_retires {k : Nat} {g : Gang} {c : Ctx} (h : s.gang? k = some g) (hc : s.ctx? g.ctx = some c)
    (ht : ∀ t ∈ s.teams, t.id.ticket = k → t.run = .retired ∧ t.pending = []) (hm : s.merges = []) (hr : s.remotes = [])
    (hn : s.snoops = []) (hw : ∀ w ∈ s.wgs, w.id.ticket = k → w.queue = []) (hk : k ≠ 0) :
    ∃ t, exec (.gangRetire k) s = .next t ∧
      t.gang? k = none ∧ (∀ x ∈ t.teams, x.id.ticket ≠ k) ∧ (∀ w ∈ t.wgs, w.id.ticket ≠ k) ∧
      (∀ a, t.readByte a = if a / regionSize = winRegion k then 0 else s.readByte a) ∧
      (∃ c', t.ctx? g.ctx = some c' ∧ (c'.pool = c.pool ++ g.area ∨ ∃ l ∈ s.launches, l.id = g.launch ∧ l.argFrom = 1 ∧
        c'.pool = c.pool ++ g.area ++ [pteFrame (c.pte l.argPage)])) ∧
      ∀ l, (s.launches.find? fun l => l.id == g.launch) = some l → l.offer = none → l.spec = none →
        (∀ x ∈ s.gangs, x.launch = g.launch → x.ticket = k) → (∀ m ∈ t.launches, m.id ≠ g.launch) ∧
        ∀ slot q, s.queue? slot = some q → ∃ q', t.queue? slot = some q' ∧ q'.packets = q.packets.map (Packet.over g.launch) := by
  obtain ⟨gone, teams, wgs, bytes⟩ := gangRetire_gone s hk g.launch
  refine ⟨_, execGangRetire_eq h ht (gangDone_of_retired ht hm hr hn hw), gone, teams, wgs, bytes, gangRetire_pool h hc,
    fun l hl ho hp hlast => ?_⟩
  obtain ⟨launches, queues⟩ := gangRetire_last hl ho hp hlast
  exact ⟨launches, fun slot q hq => ⟨_, queues slot q hq, rfl⟩⟩

end

/-- Settles O49: each event of a gang's phases by its own lemma. -/
theorem gangsMoveThroughTheirPhases : Obligations.GangsMoveThroughTheirPhases := by
  intro s
  refine ⟨execDispatch_waits, fun l o c hd hc hs hlen => ?_, fun g o => dispatch_gang, execPreempt_stays,
    fun c o hd hs hfit => preempt_victims hd hs hfit, execDispatchHold_eq s,
    fun k => ⟨fun h => slotSwitch_switches ((switches_iff s k).2 h),
      fun ho hb => slotSwitch_stays ((switches_false_iff k).2 ⟨ho, hb⟩)⟩,
    fun k g c h hc => ⟨streamOut_stays h, streamOut_fails h hc, streamOut_saves h hc, streamIn_stays h, streamIn_runs h,
      streamIn_restores h hc, gangRetire_retires h hc⟩⟩
  obtain ⟨k, ⟨hpos, hlt, fresh⟩, t, he, hgangs, hteam, slots, launches, bytes⟩ := dispatch_next hd hc hs hlen
  exact ⟨t, _, he, hgangs, hpos, hlt, fresh, rfl, rfl, rfl, rfl, rfl, rfl, rfl, rfl, rfl, rfl, hteam, slots, launches, bytes⟩

end Sys2Proof.Machine
end

section
/-!
Instruction words: the fields of a word (R68), the formats, and the codes of the tables (R103 to R109).
-/

namespace Sys2Proof

/-! ## Field arithmetic -/

/-- The fields a 32-bit word is cut into stand within their widths (R68). -/
structure Fields.Fit (f : Fields) : Prop where
  op : f.op < 256
  d : f.d < 64
  a : f.a < 64
  b : f.b < 64
  fn : f.fn < 64

theorem Fields.fit_iff (f : Fields) : f.Fit ↔ f.op < 256 ∧ f.d < 64 ∧ f.a < 64 ∧ f.b < 64 ∧ f.fn < 64 :=
  ⟨fun ⟨hop, hd, ha, hb, hfn⟩ => ⟨hop, hd, ha, hb, hfn⟩, fun ⟨hop, hd, ha, hb, hfn⟩ => ⟨hop, hd, ha, hb, hfn⟩⟩

theorem Fields.fit_ofWord (w : Nat) : (Fields.ofWord w).Fit := by
  constructor <;> exact Nat.mod_lt _ (by decide)

theorem Fields.toWord_lt {f : Fields} (h : f.Fit) : f.toWord < 2 ^ 32 := by
  obtain ⟨op, d, a, b, fn⟩ := h
  simp only [toWord]
  omega

theorem Fields.ofWord_toWord {f : Fields} (h : f.Fit) : Fields.ofWord f.toWord = f := by
  obtain ⟨op, d, a, b, fn⟩ := h
  obtain ⟨fop, fd, fa, fb, ffn⟩ := f
  simp only [ofWord, toWord, Fields.mk.injEq] at *
  omega

theorem Fields.toWord_ofWord {w : Nat} (h : w < 2 ^ 32) : (Fields.ofWord w).toWord = w := by
  simp only [ofWord, toWord]
  omega

theorem fieldOf_lt (n : Nat) (x : Int) : fieldOf n x < 2 ^ n := by
  have h : (0 : Int) < 2 ^ n := by positivity
  have := Int.emod_lt_of_pos x h
  have := Int.emod_nonneg x h.ne'
  zify [fieldOf]
  omega

theorem signOf_fieldOf_12 {i : Int} (h : okI i = true) : signOf 12 (fieldOf 12 i) = i := by
  simp only [okI, Bool.and_eq_true, decide_eq_true_eq] at h
  simp only [signOf, fieldOf]
  split_ifs <;> omega

theorem fieldOf_signOf_12 {x : Nat} (h : x < 4096) : okI (signOf 12 x) = true ∧ fieldOf 12 (signOf 12 x) = x := by
  simp only [signOf, fieldOf, okI]
  split <;> simp <;> omega

theorem signOf_fieldOf_20 {o : Int} (h : okOff o = true) : signOf 20 (fieldOf 20 o) = o := by
  simp only [okOff, Bool.and_eq_true, decide_eq_true_eq] at h
  simp only [signOf, fieldOf]
  split_ifs <;> omega

theorem fieldOf_signOf_20 {x : Nat} (h : x < 1048576) : okOff (signOf 20 x) = true ∧ fieldOf 20 (signOf 20 x) = x := by
  simp only [signOf, fieldOf, okOff]
  split <;> simp <;> omega

/-! ## The formats of R68 -/

@[simp] theorem nat1_lt (b : Bool) : nat1 b < 2 := by cases b <;> decide
@[simp] theorem bit1_nat1 (b : Bool) : bit1 (nat1 b) = b := by cases b <;> rfl
theorem nat1_bit1 {n : Nat} (h : n < 2) : nat1 (bit1 n) = n := by
  interval_cases n <;> rfl

section
variable {op d a b fn sub la : Nat}

@[simp] theorem enc3_op : (enc3 op d a b fn).op = op := (rfl)
@[simp] theorem enc3_d : (enc3 op d a b fn).d = d := (rfl)
@[simp] theorem enc3_a : (enc3 op d a b fn).a = a := (rfl)
@[simp] theorem enc3_b : (enc3 op d a b fn).b = b := (rfl)
@[simp] theorem enc3_fn : (enc3 op d a b fn).fn = fn := (rfl)

@[simp] theorem encL_op : (encL op d a b sub la).op = op := (rfl)
@[simp] theorem encL_d : (encL op d a b sub la).d = d := (rfl)
@[simp] theorem encL_a : (encL op d a b sub la).a = a := (rfl)
@[simp] theorem encL_b : (encL op d a b sub la).b = b := (rfl)
@[simp] theorem encL_sub (h : okLa la = true) : (encL op d a b sub la).sub = sub := by
  simp only [okLa, decide_eq_true_eq] at h
  simp only [encL, Fields.sub]; omega
@[simp] theorem encL_la (h : okLa la = true) : (encL op d a b sub la).la = la := by
  simp only [okLa, decide_eq_true_eq] at h
  simp only [encL, Fields.la]; omega

@[simp] theorem encI_op (i : Int) : (encI op d a i).op = op := (rfl)
@[simp] theorem encI_d (i : Int) : (encI op d a i).d = d := (rfl)
@[simp] theorem encI_a (i : Int) : (encI op d a i).a = a := (rfl)
@[simp] theorem encI_imm12 {i : Int} (h : okI i = true) : (encI op d a i).imm12 = i := by
  have e : fieldOf 12 i / 64 * 64 + fieldOf 12 i % 64 = fieldOf 12 i := by omega
  rw [Fields.imm12, encI, e, signOf_fieldOf_12 h]

@[simp] theorem encB_op (cond : Nat) (o : Int) : (encB op cond o).op = op := (rfl)
@[simp] theorem encB_cond (cond : Nat) (o : Int) : (encB op cond o).cond = cond := by
  have := fieldOf_lt 20 o
  simp only [encB, Fields.cond]; omega
@[simp] theorem encB_off20 {cond : Nat} {o : Int} (h : okOff o = true) : (encB op cond o).off20 = o := by
  have hlt := fieldOf_lt 20 o
  simp only [encB, Fields.off20]
  rw [show (cond * 4 + fieldOf 20 o / 262144) % 4 * 262144 + fieldOf 20 o / 4096 % 64 * 4096 + fieldOf 20 o / 64 % 64 * 64
    + fieldOf 20 o % 64 = fieldOf 20 o by omega, signOf_fieldOf_20 h]

theorem fit_enc3 : (enc3 op d a b fn).Fit ↔ op < 256 ∧ d < 64 ∧ a < 64 ∧ b < 64 ∧ fn < 64 := Fields.fit_iff _
theorem fit_encL : (encL op d a b sub la).Fit ↔ op < 256 ∧ d < 64 ∧ a < 64 ∧ b < 64 ∧ sub * 16 + la < 64 :=
  Fields.fit_iff _
theorem fit_encI (i : Int) : (encI op d a i).Fit ↔ op < 256 ∧ d < 64 ∧ a < 64 := by
  have := fieldOf_lt 12 i
  simp only [Fields.fit_iff, encI]
  omega
theorem fit_mk : (⟨op, d, a, b, fn⟩ : Fields).Fit ↔ op < 256 ∧ d < 64 ∧ a < 64 ∧ b < 64 ∧ fn < 64 := Fields.fit_iff _
theorem fit_encB (cond : Nat) (o : Int) : (encB op cond o).Fit ↔ op < 256 ∧ cond < 16 := by
  have := fieldOf_lt 20 o
  simp only [Fields.fit_iff, encB]
  omega
end

/-! ## The codes of R103 to R109: each is read back, and stands for one name -/

@[simp] theorem Cond.ofCode_code (c : Cond) : Cond.ofCode c.code = some c := by cases c <;> rfl
@[simp] theorem FCond.ofCode_code (c : FCond) : FCond.ofCode c.code = some c := by cases c <;> rfl
@[simp] theorem FTy.ofCode_code (c : FTy) : FTy.ofCode c.code = some c := by cases c <;> rfl
@[simp] theorem ITy.ofCode_code (c : ITy) : ITy.ofCode c.code = some c := by cases c <;> rfl
@[simp] theorem Scope.ofCode_code (c : Scope) : Scope.ofCode c.code = some c := by cases c <;> rfl
@[simp] theorem Index.ofCode_code (c : Index) : Index.ofCode c.code = some c := by cases c <;> rfl
@[simp] theorem FenceKind.ofCode_code (c : FenceKind) : FenceKind.ofCode c.code = some c := by cases c <;> rfl
@[simp] theorem LineSel.ofCode_code (c : LineSel) : LineSel.ofCode c.code = some c := by cases c <;> rfl
@[simp] theorem KField.ofCode_code (c : KField) : KField.ofCode c.code = some c := by cases c <;> rfl
@[simp] theorem AtomOp.ofCode_code (c : AtomOp) : AtomOp.ofCode c.group c.sub = some c := by cases c <;> rfl
@[simp] theorem LdW.ofCode_code (c : LdW) : LdW.ofCode c.code = some c := by cases c <;> rfl
@[simp] theorem StW.ofCode_code (c : StW) : StW.ofCode c.code = some c := by cases c <;> rfl

theorem Cond.code_ofCode {n : Nat} {c : Cond} (h : Cond.ofCode n = some c) : c.code = n := by
  unfold Cond.ofCode at h; split at h <;> cases h <;> rfl
theorem FCond.code_ofCode {n : Nat} {c : FCond} (h : FCond.ofCode n = some c) : c.code = n := by
  unfold FCond.ofCode at h; split at h <;> cases h <;> rfl
theorem FTy.code_ofCode {n : Nat} {c : FTy} (h : FTy.ofCode n = some c) : c.code = n := by
  unfold FTy.ofCode at h; split at h <;> cases h <;> rfl
theorem ITy.code_ofCode {n : Nat} {c : ITy} (h : ITy.ofCode n = some c) : c.code = n := by
  unfold ITy.ofCode at h; split at h <;> cases h <;> rfl
theorem Scope.code_ofCode {n : Nat} {c : Scope} (h : Scope.ofCode n = some c) : c.code = n := by
  unfold Scope.ofCode at h; split at h <;> cases h <;> rfl
theorem Index.code_ofCode {n : Nat} {c : Index} (h : Index.ofCode n = some c) : c.code = n := by
  unfold Index.ofCode at h; split at h <;> cases h <;> rfl
theorem FenceKind.code_ofCode {n : Nat} {c : FenceKind} (h : FenceKind.ofCode n = some c) : c.code = n := by
  unfold FenceKind.ofCode at h; split at h <;> cases h <;> rfl
theorem LineSel.code_ofCode {n : Nat} {c : LineSel} (h : LineSel.ofCode n = some c) : c.code = n := by
  unfold LineSel.ofCode at h; split at h <;> cases h <;> rfl
theorem KField.code_ofCode {n : Nat} {c : KField} (h : KField.ofCode n = some c) : c.code = n := by
  unfold KField.ofCode at h; split at h <;> cases h <;> rfl
theorem LdW.code_ofCode {n : Nat} {c : LdW} (h : LdW.ofCode n = some c) : c.code = n := by
  unfold LdW.ofCode at h; split at h <;> cases h <;> rfl
theorem StW.code_ofCode {n : Nat} {c : StW} (h : StW.ofCode n = some c) : c.code = n := by
  unfold StW.ofCode at h; split at h <;> cases h <;> rfl

theorem Cond.code_lt (c : Cond) : c.code < 10 := by cases c <;> decide
theorem FCond.code_lt (c : FCond) : c.code < 8 := by cases c <;> decide
theorem FTy.code_lt (c : FTy) : c.code < 5 := by cases c <;> decide
theorem ITy.code_lt (c : ITy) : c.code < 8 := by cases c <;> decide
theorem Scope.code_lt (c : Scope) : c.code < 7 := by cases c <;> decide
theorem Index.code_lt (c : Index) : c.code < 3 := by cases c <;> decide
theorem FenceKind.code_lt (c : FenceKind) : c.code < 3 := by cases c <;> decide
theorem LineSel.code_lt (c : LineSel) : c.code < 3 := by cases c <;> decide
theorem KField.code_lt (c : KField) : c.code < 8 := by cases c <;> decide
theorem LdW.code_lt (c : LdW) : c.code < 7 := by cases c <;> decide
theorem StW.code_lt (c : StW) : c.code < 5 := by cases c <;> decide

theorem AtomOp.code_ofCode {m n : Nat} {c : AtomOp} (h : AtomOp.ofCode m n = some c) : c.group = m ∧ c.sub = n := by
  unfold AtomOp.ofCode at h; split at h <;> cases h <;> exact ⟨rfl, rfl⟩
theorem AtomOp.group_lt (c : AtomOp) : c.group < 3 := by cases c <;> decide
theorem AtomOp.sub_lt (c : AtomOp) : c.sub < 4 := by cases c <;> decide

end Sys2Proof
end

section
/-!
Encode, then decode: the word of a well-formed instruction is read as it (R92 to R110).
-/

namespace Sys2Proof

/-! ## The map of the opcodes (R92) -/

theorem decodeFields_control {f : Fields} (h : f.op / 16 = 0) : decodeFields f = decodeControl f := by
  simp [decodeFields, h]
theorem decodeFields_mode {f : Fields} (h : f.op / 16 = 1) : decodeFields f = decodeMode f := by
  simp [decodeFields, h]
theorem decodeFields_vec {f : Fields} (h : f.op / 16 = 2) : decodeFields f = decodeVec f := by
  simp [decodeFields, h]
theorem decodeFields_uni {f : Fields} (h : f.op / 16 = 3) : decodeFields f = decodeUni f := by
  simp [decodeFields, h]
theorem decodeFields_float {f : Fields} (h : f.op / 16 = 4) : decodeFields f = decodeFloat f := by
  simp [decodeFields, h]
theorem decodeFields_caps {f : Fields} (h : f.op / 16 = 5) : decodeFields f = decodeCaps f := by
  simp [decodeFields, h]
theorem decodeFields_mem {f : Fields} (h : f.op / 16 = 6) : decodeFields f = decodeMem f := by
  simp [decodeFields, h]
theorem decodeFields_order {f : Fields} (h : f.op / 16 = 7) : decodeFields f = decodeOrder f := by
  simp [decodeFields, h]
theorem decodeFields_atom {f : Fields} (h : f.op / 16 = 8) : decodeFields f = decodeAtom f := by
  simp [decodeFields, h]
theorem decodeFields_submit {f : Fields} (h : f.op / 16 = 9) : decodeFields f = decodeSubmit f := by
  simp [decodeFields, h]
theorem decodeFields_matrix {f : Fields} (h : f.op / 16 = 10) : decodeFields f = decodeMatrix f := by
  simp [decodeFields, h]
theorem decodeFields_system {f : Fields} (h : f.op / 16 = 14) : decodeFields f = decodeSystem f := by
  simp [decodeFields, h]
theorem decodeFields_prefix {f : Fields} (h : f.op / 16 = 15) : decodeFields f = decodePrefix f := by
  simp [decodeFields, h]

@[simp] theorem Scope.code_mod (c : Scope) : c.code % 8 = c.code := by cases c <;> rfl

theorem memRow_encL {op d a b la : Nat} {ix : Index} (hix : okIx ix b = true) (hla : okLa la = true) (k : Index → Instr) :
    memRow (encL op d a b ix.code la) true k = .ok (k ix) := by
  simp only [okIx, Bool.and_eq_true] at hix
  simp [memRow, check, hix, hla]

/-! ## Every instruction's fields -/

theorem opVec_lt (w : Bool) : opVec w < 256 := by cases w <;> decide
theorem opUni_lt (w : Bool) : opUni w < 256 := by cases w <;> decide

theorem fit_encodeFields {i : Instr} {f : Fields} (hf : encodeFields i = some f) (hwf : i.wf = true) : f.Fit := by
  cases i
  all_goals cases hf
  all_goals dsimp only [Instr.wf] at hwf
  all_goals try simp only [ok3, ok2, ok2i, okIx, okSel, okV, okP, okK, okC, okQ, okKd, okKa, okLa, Bool.and_eq_true,
    decide_eq_true_eq] at hwf
  all_goals simp only [fit_enc3, fit_encL, fit_encI, fit_encB, fit_mk]
  case brc k p o | brd k p o =>
    have := nat1_lt k
    omega
  case iadd w d a b | isub w d a b | imul w d a b | imulh w d a b | imulhUnsigned w d a b | imad w d a b | iabs w d a
      | and w d a b | andn w d a b | or w d a b | xor w d a b | shl w d a b | shr w d a b | sar w d a b | bfi w d a b
      | popc w d a | clz w d a | mov w d b =>
    have := opVec_lt w
    omega
  case imin w d a b u | imax w d a b u | bfx w d a b u =>
    have := opVec_lt w
    have := nat1_lt u
    omega
  case sadd w d a b | ssub w d a b | smul w d a b | smulh w d a b | smulhUnsigned w d a b | smad w d a b | sand w d a b
      | sor w d a b | sxor w d a b | sshl w d a b | sshr w d a b | ssar w d a b | smov w d b =>
    have := opUni_lt w
    omega
  case smin w d a b u | smax w d a b u | sbfx w d a b u =>
    have := opUni_lt w
    have := nat1_lt u
    omega
  case icmp w d a b c =>
    have := nat1_lt w
    have := c.code_lt
    omega
  case sel d a b w n p =>
    have := nat1_lt w
    have := nat1_lt n
    omega
  case rflLane d a w =>
    have := nat1_lt w
    omega
  case scmp64 d a b c | scmp32 d a b c | fcmp d a b c | f2i d a c | i2f d a c =>
    have := c.code_lt
    omega
  case ssel d a b k p =>
    have := nat1_lt k
    omega
  case fcvt d a s t =>
    have := s.code_lt
    have := t.code_lt
    omega
  case kget l d a g =>
    have := g.code_lt
    cases l <;> simp [opCap] at hwf ⊢ <;> omega
  case kinc l d a b | kset l d a b | kbnd l d a b | kprm l d a b | kseal l d a b | kopen l d a b | ksub l d a b
      | kmov l d a | kclr l d | kincI l d a i | ksweep l d a la => cases l <;> simp [nat1, opCap] at hwf ⊢ <;> omega
  case ld w d a b ix la | st w d a b ix la =>
    have := w.code_lt
    have := ix.code_lt
    omega
  case ldc d a b ix la | stc d a b ix la | ldcu d a b ix la | stcu d a b ix la =>
    have := ix.code_lt
    omega
  case ldu w d a b ix la | stu w d a b ix la =>
    have := nat1_lt w
    have := ix.code_lt
    omega
  case flush c a sel la | inval c a sel la | fence c sel la =>
    have := c.code_lt
    have := sel.code_lt
    omega
  case atom w op d a b la | red w op d a b la =>
    have := nat1_lt w
    have := op.group_lt
    have := op.sub_lt
    omega
  case pref a b w la | cas w d a b la | cadd d a b w la | cwait d a b w la | mldt d a b w la | msta d a b w la =>
    have := nat1_lt w
    omega
  case mma c t m r p v la =>
    have := nat1_lt r
    have := nat1_lt p
    have := nat1_lt v
    omega
  all_goals omega

theorem decodeFields_encodeFields {i : Instr} {f : Fields} (hf : encodeFields i = some f) (hwf : i.wf = true) :
    decodeFields f = .ok i := by
  cases i
  all_goals cases hf
  all_goals dsimp only [Instr.wf] at hwf
  all_goals try simp only [ok3, ok2, ok2i, Bool.and_eq_true, Bool.or_eq_true, decide_eq_true_eq] at hwf
  -- control (R101)
  case bra | call | mark => simp [decodeFields_control, decodeControl, need, hwf]
  case brc k p o =>
    have hp : p < 8 := by simp_all [okP]
    have e : (nat1 k * 8 + p) / 8 = nat1 k ∧ (nat1 k * 8 + p) % 8 = p := by omega
    simp_all [decodeFields_control, decodeControl]
  case brd n p o =>
    have hp : p < 8 := by simp_all [okP]
    have e : (nat1 n * 8 + p) / 8 = nat1 n ∧ (nat1 n * 8 + p) % 8 = p := by omega
    have hne : nat1 n * 8 + p ≠ 8 := by cases n <;> simp_all [nat1]; omega
    simp_all [decodeFields_control, decodeControl, need]
  case nop | ret | join | exit | yield | rte | bkpt => simp [decodeFields_control, decodeControl, check]
  case trap c => rw [decodeFields_control (by simp)]; simp [decodeControl, check, Nat.div_add_mod']
  -- mode, predicate and lane (R102)
  case setmode | setfmt | shflIdx | shflUp | shflDown | shflXor => simp [decodeFields_mode, decodeMode, check]
  case pand | por | pxor | pnot | voteAny | voteAll | voteCount => simp [decodeFields_mode, decodeMode, check, hwf]
  case rflLane d a w => cases w <;> simp [decodeFields_mode, decodeMode, check, nat1]
  -- vector integers (R103, R104)
  case iadd w d a b | isub w d a b | imul w d a b | imulh w d a b | imulhUnsigned w d a b | imad w d a b | iabs w d a
      | and w d a b | andn w d a b | or w d a b | xor w d a b | shl w d a b | shr w d a b | sar w d a b | bfi w d a b
      | popc w d a | clz w d a | mov w d b =>
    cases w <;> simp [decodeFields_vec, decodeVec, decodeVecInt, opVec, check]
  case imin w d a b u | imax w d a b u | bfx w d a b u =>
    cases w <;> cases u <;> simp [decodeFields_vec, decodeVec, decodeVecInt, opVec, nat1]
  case iaddI | imulI | andI | orI | xorI | shlI | shrI | sarI | movi => simp [decodeFields_vec, decodeVec, check, hwf]
  case icmp w d a b c => cases w <;> simp [decodeFields_vec, decodeVec, check, hwf, nat1]
  case sel d a b w n p =>
    have hp : p < 8 := by simp_all [okP]
    have hw := nat1_lt w
    have hn := nat1_lt n
    have e : (nat1 w * 16 + nat1 n * 8 + p) / 32 = 0 ∧ (nat1 w * 16 + nat1 n * 8 + p) / 16 % 2 = nat1 w ∧
      (nat1 w * 16 + nat1 n * 8 + p) / 8 % 2 = nat1 n ∧ (nat1 w * 16 + nat1 n * 8 + p) % 8 = p := by omega
    simp only [decodeFields_vec, decodeVec, enc3_op, enc3_fn, e]
    simp_all [need]
  -- uniform integers (R103, R104)
  case sadd w d a b | ssub w d a b | smul w d a b | smulh w d a b | smulhUnsigned w d a b | smad w d a b | sand w d a b
      | sor w d a b | sxor w d a b | sshl w d a b | sshr w d a b | ssar w d a b | smov w d b =>
    cases w <;> simp [decodeFields_uni, decodeUni, decodeUniInt, opUni, check]
  case smin w d a b u | smax w d a b u | sbfx w d a b u =>
    cases w <;> cases u <;> simp [decodeFields_uni, decodeUni, decodeUniInt, opUni, nat1]
  case saddI | smulI | sandI | sorI | sxorI | sshlI | sshrI | ssarI | smovi => simp [decodeFields_uni, decodeUni, check, hwf]
  case scmp64 | scmp32 => simp [decodeFields_uni, decodeUni, check, hwf]
  case ssel d a b k p =>
    have hp : p < 8 := by simp_all [okP]
    have hk := nat1_lt k
    have e : (nat1 k * 8 + p) / 16 = 0 ∧ (nat1 k * 8 + p) / 8 % 2 = nat1 k ∧ (nat1 k * 8 + p) % 8 = p := by omega
    simp only [decodeFields_uni, decodeUni, enc3_op, enc3_fn, e]
    simp [need]
  -- floats (R105)
  case fadd | fsub | fmul | fma | fmin | fmax | fabs | fneg | frint | fclass => simp [decodeFields_float, decodeFloat, check]
  case fcmp | f2i | i2f => simp [decodeFields_float, decodeFloat, check, hwf]
  case fcvt d a s t => cases s <;> cases t <;> simp_all [decodeFields_float, decodeFloat, check, FTy.ofCode, FTy.code]
  case frcp | frsq | fsqrt | fdiv | fexp2 | flog2 | fsin | fcos => simp [decodeFields_float, decodeFloat, check, hwf]
  -- capabilities (R106)
  case kinc l d a b | kset l d a b | kbnd l d a b | kprm l d a b | kseal l d a b | kopen l d a b | kget l d a b | ksub l d a b
      | kmov l d a | kclr l d => cases l <;> simp [decodeFields_caps, decodeCaps, decodeCap, opCap, check, hwf]
  case kincI l d a i | ksweep l d a la => cases l <;> simp [decodeFields_caps, decodeCaps, nat1, check, hwf]
  -- memory and ordering (R107, R108)
  case ld w d a b ix la => cases w <;> simp [decodeFields_mem, decodeMem, memRow_encL, LdW.code, LdW.ofCode, hwf]
  case st w d a b ix la => cases w <;> simp [decodeFields_mem, decodeMem, memRow_encL, StW.code, StW.ofCode, hwf]
  case ldc | stc => simp [decodeFields_mem, decodeMem, memRow_encL, hwf]
  case ldu w d a b ix la | stu w d a b ix la => cases w <;> simp [decodeFields_order, decodeOrder, memRow_encL, nat1, hwf]
  case ldcu | stcu => simp [decodeFields_order, decodeOrder, memRow_encL, hwf]
  case pref a b ixd la => cases ixd <;> simp_all [decodeFields_order, decodeOrder, nat1, check, okIx]
  case flush c a sel la | inval c a sel la | fence c a la =>
    have := c.code_lt
    simp_all [decodeFields_order, decodeOrder, check, okSel]
    omega
  case drain => simp [decodeFields_order, decodeOrder, check, hwf]
  -- atomics and submission
  case atom w op d a b la | red w op d a b la =>
    cases w <;> cases op <;>
      simp_all [decodeFields_atom, decodeAtom, AtomOp.group, AtomOp.sub, AtomOp.ofCode, nat1, bit1, check]
  case cas w d a b la => cases w <;> simp [decodeFields_atom, decodeAtom, nat1, bit1, check, hwf]
  case cadd d a b r la | cwait d a b r la => cases r <;> simp_all [decodeFields_submit, decodeSubmit, nat1, check]
  case job | task | launch => simp [decodeFields_submit, decodeSubmit, check, hwf]
  -- matrix
  case mma c t m r p v la =>
    obtain ⟨⟨⟨hc, ht⟩, hm⟩, hla⟩ := hwf
    have hr := nat1_lt r
    have hv := nat1_lt v
    have hp := nat1_lt p
    have hl : la < 16 := by simpa [okLa] using hla
    have e : (nat1 p * 32 + nat1 v * 4) % 4 * 4 + la / 16 = 0 ∧ (nat1 p * 32 + nat1 v * 4) / 4 % 8 = nat1 v ∧
      (c * 8 + t / 2) / 8 = c ∧ (c * 8 + t / 2) % 8 * 2 + (t % 2 * 32 + m * 2 + nat1 r) / 32 = t ∧
      (t % 2 * 32 + m * 2 + nat1 r) / 2 % 16 = m ∧ (t % 2 * 32 + m * 2 + nat1 r) % 2 = nat1 r ∧
      (nat1 p * 32 + nat1 v * 4) / 32 = nat1 p ∧ la % 16 = la := by omega
    rw [decodeFields_matrix (by simp)]
    simp only [decodeMatrix, Fields.la, e, need]
    simp [hv]
  case mza c la =>
    have hl : la < 16 := by simpa [okLa] using hwf.2
    rw [decodeFields_matrix (by simp)]
    simp [decodeMatrix, check, Fields.la, Fields.sub, hl, Nat.mod_eq_of_lt]
  case mlda | mmap | mchk => simp [decodeFields_matrix, decodeMatrix, check, hwf]
  case mldt d a b u la | msta d a b u la => cases u <;> simp [decodeFields_matrix, decodeMatrix, nat1, bit1, check, hwf]
  -- system
  case sysr | sysw | tlbinv | tlbinvAll | pgmap => simp [decodeFields_system, decodeSystem, check]
  case imm p =>
    rw [decodeFields_prefix (by simp)]
    simp only [decodePrefix, Except.ok.injEq, Instr.imm.injEq]
    omega
  case uni => simp [decodeFields_prefix, decodePrefix, need]

end Sys2Proof
end

section
/-!
Decode, then encode: a field group that the decoder reads is the encoding of what it is read as (R92 to R110).
-/

namespace Sys2Proof

theorem check_eq_ok {z r : Bool} {i j : Instr} : check z r i = .ok j ↔ z = true ∧ r = true ∧ j = i := by
  cases z <;> cases r <;> simp [check, eq_comm]
theorem need_eq_ok {c : Bool} {e : DecodeError} {i j : Instr} : need c e i = .ok j ↔ c = true ∧ c = true ∧ j = i := by
  cases c <;> simp [need, eq_comm]
theorem ok_eq_ok {i j : Instr} : (.ok i : Except DecodeError Instr) = .ok j ↔ true = true ∧ true = true ∧ j = i := by
  simp [eq_comm]

section
variable {f : Fields} {op d a b fn : Nat}
theorem enc3_eq : enc3 op d a b fn = f ↔ f.op = op ∧ f.d = d ∧ f.a = a ∧ f.b = b ∧ f.fn = fn := by
  obtain ⟨fop, fd, fa, fb, ffn⟩ := f
  simp [enc3, eq_comm]
theorem mk_eq : (⟨op, d, a, b, fn⟩ : Fields) = f ↔ f.op = op ∧ f.d = d ∧ f.a = a ∧ f.b = b ∧ f.fn = fn := enc3_eq
theorem encL_eq {sub : Nat} : encL op d a b sub f.la = f ↔ f.op = op ∧ f.d = d ∧ f.a = a ∧ f.b = b ∧ f.sub = sub := by
  obtain ⟨fop, fd, fa, fb, ffn⟩ := f
  simp only [encL, Fields.mk.injEq, Fields.la, Fields.sub]
  omega

theorem Fields.Fit.encI_eq (hf : f.Fit) : encI op d a f.imm12 = f ↔ f.op = op ∧ f.d = d ∧ f.a = a := by
  obtain ⟨fop, fd, fa, fb, ffn⟩ := f
  rw [fit_mk] at hf
  have e := (fieldOf_signOf_12 (x := fb * 64 + ffn) (by omega)).2
  simp only [encI, Fields.imm12, e, Fields.mk.injEq]
  omega

theorem Fields.Fit.encB_eq {cond : Nat} (hf : f.Fit) : encB op cond f.off20 = f ↔ f.op = op ∧ f.cond = cond := by
  obtain ⟨fop, fd, fa, fb, ffn⟩ := f
  rw [fit_mk] at hf
  have e := (fieldOf_signOf_20 (x := fd % 4 * 262144 + fa * 4096 + fb * 64 + ffn) (by omega)).2
  simp only [encB, Fields.off20, e, Fields.mk.injEq, Fields.cond]
  omega

theorem Fields.Fit.imm12 (hf : f.Fit) : okI f.imm12 = true :=
  (fieldOf_signOf_12 (by have := hf.b; have := hf.fn; omega)).1

theorem Fields.Fit.off20 (hf : f.Fit) : okOff f.off20 = true :=
  (fieldOf_signOf_20 (by have := hf.a; have := hf.b; have := hf.fn; omega)).1

theorem Fields.Fit.ok (hf : f.Fit) : okV f.d = true ∧ okV f.a = true ∧ okV f.b = true ∧ okLa f.la = true ∧
    okI f.imm12 = true ∧ okOff f.off20 = true :=
  ⟨decide_eq_true hf.d, decide_eq_true hf.a, decide_eq_true hf.b, decide_eq_true (Nat.mod_lt _ (by decide)), hf.imm12,
    hf.off20⟩

/-- A field group spells an instruction: it is its encoding, and the encoding admits the instruction. -/
def Fields.Spells (f : Fields) (i : Instr) : Prop := encodeFields i = some f ∧ i.wf = true

variable {i : Instr}

theorem spells_of_decodeVecInt {w : Bool} (hf : f.Fit) (hop : f.op = opVec w) (h : decodeVecInt w f = .ok i) :
    f.Spells i := by
  have hok := hf.ok
  unfold decodeVecInt at h
  split at h
  all_goals simp only [check_eq_ok, ok_eq_ok, reduceCtorEq] at h
  all_goals obtain ⟨hz, -, rfl⟩ := h
  all_goals dsimp only [Fields.Spells, encodeFields, Instr.wf]
  all_goals simp_all [enc3_eq, ok3, ok2, nat1]

theorem spells_of_decodeUniInt {w : Bool} (hf : f.Fit) (hop : f.op = opUni w) (h : decodeUniInt w f = .ok i) :
    f.Spells i := by
  have hok := hf.ok
  unfold decodeUniInt at h
  split at h
  all_goals simp only [check_eq_ok, ok_eq_ok, reduceCtorEq] at h
  all_goals obtain ⟨hz, -, rfl⟩ := h
  all_goals dsimp only [Fields.Spells, encodeFields, Instr.wf]
  all_goals simp_all [enc3_eq, ok3, ok2, nat1]

theorem spells_of_decodeCap {l : Bool} (hf : f.Fit) (hop : f.op = opCap l) (h : decodeCap l f = .ok i) : f.Spells i := by
  have hok := hf.ok
  unfold decodeCap at h
  split at h
  case h_7 =>
    split at h
    next g hg =>
      simp only [check_eq_ok] at h
      obtain ⟨-, hr, rfl⟩ := h
      have := KField.code_ofCode hg
      dsimp only [Fields.Spells, encodeFields, Instr.wf]
      simp_all [enc3_eq]
    next => cases h
  all_goals simp only [check_eq_ok, reduceCtorEq] at h
  all_goals obtain ⟨hz, hr, rfl⟩ := h
  all_goals dsimp only [Fields.Spells, encodeFields, Instr.wf]
  all_goals simp_all [enc3_eq]

theorem spells_of_decodeControl (hf : f.Fit) (h : decodeControl f = .ok i) : f.Spells i := by
  have hok := hf.ok
  have hfn := hf.fn
  have hc : f.cond < 16 := by have := hf.d; simp only [Fields.cond]; omega
  have hn := nat1_bit1 (n := f.cond / 8) (by omega)
  unfold decodeControl at h
  split at h
  case h_6 =>
    split at h
    all_goals simp only [check_eq_ok, reduceCtorEq] at h
    all_goals obtain ⟨hz, hr, rfl⟩ := h
    all_goals dsimp only [Fields.Spells, encodeFields, Instr.wf]
    all_goals simp_all [enc3_eq]
  all_goals simp only [check_eq_ok, need_eq_ok, ok_eq_ok, reduceCtorEq] at h
  all_goals obtain ⟨hz, hr, rfl⟩ := h
  all_goals dsimp only [Fields.Spells, encodeFields, Instr.wf]
  all_goals simp_all [hf.encB_eq, mk_eq, okP, bit1]
  all_goals have := hf.b; omega

theorem spells_of_decodeMode (hf : f.Fit) (h : decodeMode f = .ok i) : f.Spells i := by
  have hok := hf.ok
  unfold decodeMode at h
  split at h
  case h_4 => cases h
  all_goals split at h
  all_goals simp only [check_eq_ok, ok_eq_ok, reduceCtorEq] at h
  all_goals obtain ⟨hz, hr, rfl⟩ := h
  all_goals dsimp only [Fields.Spells, encodeFields, Instr.wf]
  all_goals simp_all [enc3_eq, ok2, ok3, nat1]

theorem spells_of_decodeVec (hf : f.Fit) (h : decodeVec f = .ok i) : f.Spells i := by
  have hok := hf.ok
  unfold decodeVec at h
  split at h
  case h_1 hop => exact spells_of_decodeVecInt (w := false) hf hop h
  case h_2 hop => exact spells_of_decodeVecInt (w := true) hf hop h
  case h_3 | h_4 =>
    split at h
    next c hc =>
      simp only [check_eq_ok] at h
      obtain ⟨-, hr, rfl⟩ := h
      have := Cond.code_ofCode hc
      dsimp only [Fields.Spells, encodeFields, Instr.wf]
      simp_all [enc3_eq, nat1]
    next => cases h
  case h_5 =>
    split at h
    next hfn =>
      simp only [need_eq_ok] at h
      obtain ⟨hz, hr, rfl⟩ := h
      have e1 := nat1_bit1 (n := f.fn / 8 % 2) (Nat.mod_lt _ (by decide))
      have e2 := nat1_bit1 (n := f.fn / 16 % 2) (Nat.mod_lt _ (by decide))
      dsimp only [Fields.Spells, encodeFields, Instr.wf]
      simp_all [enc3_eq, okP, ok3]
      omega
    next => cases h
  all_goals simp only [check_eq_ok, ok_eq_ok, reduceCtorEq] at h
  all_goals obtain ⟨hz, hr, rfl⟩ := h
  all_goals dsimp only [Fields.Spells, encodeFields, Instr.wf]
  all_goals simp_all [hf.encI_eq, ok2i]

theorem spells_of_decodeUni (hf : f.Fit) (h : decodeUni f = .ok i) : f.Spells i := by
  have hok := hf.ok
  unfold decodeUni at h
  split at h
  case h_1 hop => exact spells_of_decodeUniInt (w := true) hf hop h
  case h_4 hop => exact spells_of_decodeUniInt (w := false) hf hop h
  case h_2 | h_5 =>
    split at h
    next c hc =>
      simp only [check_eq_ok] at h
      obtain ⟨-, hr, rfl⟩ := h
      have := Cond.code_ofCode hc
      dsimp only [Fields.Spells, encodeFields, Instr.wf]
      simp_all [enc3_eq]
    next => cases h
  case h_3 =>
    simp only [need_eq_ok] at h
    obtain ⟨hz, hr, rfl⟩ := h
    have e1 := nat1_bit1 (n := f.fn / 8 % 2) (Nat.mod_lt _ (by decide))
    dsimp only [Fields.Spells, encodeFields, Instr.wf]
    simp_all [enc3_eq, okP, ok3]
    omega
  all_goals simp only [check_eq_ok, ok_eq_ok, reduceCtorEq] at h
  all_goals obtain ⟨hz, hr, rfl⟩ := h
  all_goals dsimp only [Fields.Spells, encodeFields, Instr.wf]
  all_goals simp_all [hf.encI_eq, ok2i]

theorem spells_of_decodeFloat (hf : f.Fit) (h : decodeFloat f = .ok i) : f.Spells i := by
  have hok := hf.ok
  unfold decodeFloat at h
  split at h
  case h_1 =>
    split at h
    all_goals simp only [check_eq_ok, ok_eq_ok, reduceCtorEq] at h
    all_goals obtain ⟨hz, hr, rfl⟩ := h
    all_goals dsimp only [Fields.Spells, encodeFields, Instr.wf]
    all_goals simp_all [enc3_eq, ok2, ok3]
  case h_2 =>
    split at h
    next c hc =>
      simp only [check_eq_ok] at h
      obtain ⟨-, hr, rfl⟩ := h
      have := FCond.code_ofCode hc
      dsimp only [Fields.Spells, encodeFields, Instr.wf]
      simp_all [enc3_eq]
    next => cases h
  case h_3 =>
    split at h
    next c c' hc hc' =>
      split at h
      next => cases h
      next hne =>
        simp only [check_eq_ok] at h
        obtain ⟨hz, hr, rfl⟩ := h
        have := FTy.code_ofCode hc
        have := FTy.code_ofCode hc'
        dsimp only [Fields.Spells, encodeFields, Instr.wf]
        simp_all [enc3_eq, ok2]
        omega
    next => cases h
  case h_4 | h_5 =>
    split at h
    next c hc =>
      simp only [check_eq_ok] at h
      obtain ⟨hz, -, rfl⟩ := h
      have := ITy.code_ofCode hc
      dsimp only [Fields.Spells, encodeFields, Instr.wf]
      simp_all [enc3_eq, ok2]
    next => cases h
  case h_6 | h_7 =>
    split at h
    all_goals simp only [check_eq_ok, ok_eq_ok, reduceCtorEq] at h
    all_goals obtain ⟨hz, hr, rfl⟩ := h
    all_goals dsimp only [Fields.Spells, encodeFields, Instr.wf]
    all_goals simp_all [encL_eq, ok2, ok3]
  case h_8 => cases h

theorem spells_of_decodeCaps (hf : f.Fit) (h : decodeCaps f = .ok i) : f.Spells i := by
  have hok := hf.ok
  unfold decodeCaps at h
  split at h
  case h_1 hop => exact spells_of_decodeCap (l := false) hf hop h
  case h_2 hop => exact spells_of_decodeCap (l := true) hf hop h
  all_goals simp only [check_eq_ok, reduceCtorEq] at h
  all_goals obtain ⟨hz, hr, rfl⟩ := h
  all_goals dsimp only [Fields.Spells, encodeFields, Instr.wf]
  all_goals simp_all [hf.encI_eq, encL_eq, nat1]

theorem of_memRow {r : Bool} {k : Index → Instr} (h : memRow f r k = .ok i) :
    ∃ ix : Index, ix.code = f.sub ∧ (ix != .absent || f.b == 0) = true ∧ r = true ∧ i = k ix := by
  unfold memRow at h
  split at h
  next ix hix =>
    obtain ⟨hz, hr, rfl⟩ := check_eq_ok.1 h
    exact ⟨ix, Index.code_ofCode hix, hz, hr, rfl⟩
  next => cases h

theorem spells_of_decodeMem (hf : f.Fit) (hop : f.op / 16 = 6) (h : decodeMem f = .ok i) : f.Spells i := by
  have hok := hf.ok
  unfold decodeMem at h
  split_ifs at h
  case pos | pos =>
    obtain ⟨ix, hix, hz, hr, rfl⟩ := of_memRow h
    dsimp only [Fields.Spells, encodeFields, Instr.wf]
    simp_all [encL_eq, okIx]
  case pos =>
    split at h
    next w hw =>
      obtain ⟨ix, hix, hz, hr, rfl⟩ := of_memRow h
      have := LdW.code_ofCode hw
      dsimp only [Fields.Spells, encodeFields, Instr.wf]
      simp_all [encL_eq, okIx]
      omega
    next => cases h
  case neg =>
    split at h
    next w hw =>
      obtain ⟨ix, hix, hz, hr, rfl⟩ := of_memRow h
      have := StW.code_ofCode hw
      dsimp only [Fields.Spells, encodeFields, Instr.wf]
      simp_all [encL_eq, okIx]
    next => cases h

theorem spells_of_decodeOrder (hf : f.Fit) (h : decodeOrder f = .ok i) : f.Spells i := by
  have hok := hf.ok
  unfold decodeOrder at h
  split at h
  case h_1 | h_2 | h_3 | h_4 | h_5 | h_6 =>
    obtain ⟨ix, hix, hz, hr, rfl⟩ := of_memRow h
    dsimp only [Fields.Spells, encodeFields, Instr.wf]
    simp_all [encL_eq, okIx, nat1]
  case h_7 =>
    split at h
    all_goals simp only [check_eq_ok, reduceCtorEq] at h
    all_goals obtain ⟨hz, hr, rfl⟩ := h
    all_goals dsimp only [Fields.Spells, encodeFields, Instr.wf]
    all_goals simp_all [encL_eq, okIx, nat1]
  case h_8 | h_9 =>
    split at h
    next c sel hc hsel =>
      simp only [check_eq_ok] at h
      obtain ⟨hz, hr, rfl⟩ := h
      have := Scope.code_ofCode hc
      have := LineSel.code_ofCode hsel
      dsimp only [Fields.Spells, encodeFields, Instr.wf]
      simp_all [encL_eq, okSel]
      omega
    next => cases h
  case h_10 =>
    split at h
    next c k hc hk =>
      simp only [check_eq_ok] at h
      obtain ⟨hz, hr, rfl⟩ := h
      have := Scope.code_ofCode hc
      have := FenceKind.code_ofCode hk
      dsimp only [Fields.Spells, encodeFields, Instr.wf]
      simp_all [encL_eq]
      omega
    next => cases h
  case h_11 =>
    split at h
    next =>
      simp only [check_eq_ok] at h
      obtain ⟨hz, hr, rfl⟩ := h
      dsimp only [Fields.Spells, encodeFields, Instr.wf]
      simp_all [encL_eq]
    next => cases h
  case h_12 => cases h

theorem spells_of_decodeAtom (hf : f.Fit) (hop : f.op / 16 = 8) (h : decodeAtom f = .ok i) : f.Spells i := by
  have hok := hf.ok
  have e1 := nat1_bit1 (n := f.op / 4 % 2) (Nat.mod_lt _ (by decide))
  unfold decodeAtom at h
  simp only at h
  split_ifs at h
  · simp only [check_eq_ok] at h
    obtain ⟨hz, hr, rfl⟩ := h
    dsimp only [Fields.Spells, encodeFields, Instr.wf]
    simp_all [encL_eq]
    omega
  · split at h
    next o ho =>
      simp only [check_eq_ok] at h
      obtain ⟨hz, hr, rfl⟩ := h
      have := AtomOp.code_ofCode ho
      dsimp only [Fields.Spells, encodeFields, Instr.wf]
      simp_all [encL_eq]
      omega
    next => cases h
  · split at h
    next o ho =>
      split at h
      next => cases h
      next hne =>
        simp only [check_eq_ok] at h
        obtain ⟨hz, hr, rfl⟩ := h
        have := AtomOp.code_ofCode ho
        dsimp only [Fields.Spells, encodeFields, Instr.wf]
        simp_all [encL_eq]
        omega
    next => cases h

theorem spells_of_decodeSubmit (hf : f.Fit) (h : decodeSubmit f = .ok i) : f.Spells i := by
  have hok := hf.ok
  unfold decodeSubmit at h
  split at h
  case h_6 => cases h
  all_goals split at h
  all_goals simp only [check_eq_ok, reduceCtorEq] at h
  all_goals obtain ⟨hz, hr, rfl⟩ := h
  all_goals dsimp only [Fields.Spells, encodeFields, Instr.wf]
  all_goals simp_all [encL_eq, nat1]

theorem spells_of_decodeMatrix (hf : f.Fit) (h : decodeMatrix f = .ok i) : f.Spells i := by
  have hok := hf.ok
  unfold decodeMatrix at h
  split at h
  case h_1 =>
    split at h
    next hz =>
      simp only [need_eq_ok, decide_eq_true_eq] at h
      obtain ⟨hv, -, rfl⟩ := h
      have ⟨_, _, _, _, _⟩ := hf
      dsimp only [Fields.Spells, encodeFields, Instr.wf]
      rw [nat1_bit1 hv, nat1_bit1 (Nat.mod_lt _ (by decide)), nat1_bit1 (by omega)]
      have hla : okLa (f.fn % 16) = true := decide_eq_true (by omega)
      simp only [Option.some.injEq, mk_eq, Bool.and_eq_true, decide_eq_true_eq, Fields.la, hla, and_true]
      omega
    next => cases h
  case h_2 =>
    simp only [check_eq_ok] at h
    obtain ⟨hz, -, rfl⟩ := h
    have ⟨_, _, _, _, _⟩ := hf
    dsimp only [Fields.Spells, encodeFields, Instr.wf]
    simp only [Bool.and_eq_true, beq_iff_eq, Fields.sub] at hz
    have hla : okLa (f.fn % 16) = true := decide_eq_true (by omega)
    simp only [Option.some.injEq, mk_eq, Bool.and_eq_true, decide_eq_true_eq, Fields.la, hla, and_true]
    omega
  case h_8 => cases h
  all_goals split at h
  all_goals simp only [check_eq_ok, reduceCtorEq] at h
  all_goals obtain ⟨hz, hr, rfl⟩ := h
  all_goals dsimp only [Fields.Spells, encodeFields, Instr.wf]
  all_goals simp_all [encL_eq, nat1_bit1]

theorem spells_of_decodeSystem (hf : f.Fit) (h : decodeSystem f = .ok i) : f.Spells i := by
  have hok := hf.ok
  unfold decodeSystem at h
  split at h
  case h_4 => cases h
  all_goals split at h
  all_goals simp only [check_eq_ok, reduceCtorEq] at h
  all_goals obtain ⟨hz, hr, rfl⟩ := h
  all_goals dsimp only [Fields.Spells, encodeFields, Instr.wf]
  all_goals simp_all [enc3_eq, ok2]

theorem spells_of_decodePrefix (hf : f.Fit) (h : decodePrefix f = .ok i) : f.Spells i := by
  unfold decodePrefix at h
  split at h
  case h_1 hop =>
    obtain ⟨-, -, rfl⟩ := ok_eq_ok.1 h
    obtain ⟨op, d, a, b, fn⟩ := f
    rw [fit_mk] at hf
    dsimp only [Fields.Spells, encodeFields, Instr.wf] at hop ⊢
    simp
    omega
  case h_2 =>
    simp only [need_eq_ok] at h
    obtain ⟨hz, hr, rfl⟩ := h
    dsimp only [Fields.Spells, encodeFields, Instr.wf]
    simp_all [enc3_eq, hf.ok]
  case h_3 => cases h

theorem spells_of_decodeFields (hf : f.Fit) (h : decodeFields f = .ok i) : f.Spells i := by
  unfold decodeFields at h
  split at h
  case h_1 => exact spells_of_decodeControl hf h
  case h_2 => exact spells_of_decodeMode hf h
  case h_3 => exact spells_of_decodeVec hf h
  case h_4 => exact spells_of_decodeUni hf h
  case h_5 => exact spells_of_decodeFloat hf h
  case h_6 => exact spells_of_decodeCaps hf h
  case h_7 hop => exact spells_of_decodeMem hf hop h
  case h_8 => exact spells_of_decodeOrder hf h
  case h_9 hop => exact spells_of_decodeAtom hf hop h
  case h_10 => exact spells_of_decodeSubmit hf h
  case h_11 => exact spells_of_decodeMatrix hf h
  case h_12 => exact spells_of_decodeSystem hf h
  case h_13 => exact spells_of_decodePrefix hf h
  case h_14 => cases h

end

/-! ## Words and bytes (R11, R68) -/

theorem decodeWord_toWord {f : Fields} {i : Instr} (hf : f.Fit) (h : decodeFields f = .ok i) :
    decodeWord f.toWord = .ok i := by
  rw [decodeWord, Fields.ofWord_toWord hf, h]

theorem wordOfBytes_ofNat {w : Nat} (h : w < 2 ^ 32) : wordOfBytes (BitVec.ofNat 8 w) (BitVec.ofNat 8 (w / 256))
    (BitVec.ofNat 8 (w / 65536)) (BitVec.ofNat 8 (w / 16777216)) = w := by
  simp only [wordOfBytes, BitVec.toNat_ofNat]
  omega

theorem decodeTableWord_eq {w : Nat} {i : Instr} (hw : w < 2 ^ 32) (h : decodeWord w = .ok i) :
    decodeTableWord 32 w = some i := by
  simp only [decodeTableWord, decodeBytes, wordOfBytes_ofNat hw, h]

theorem decodeBytes_bytesOfNat {w : Nat} {i : Instr} (hw : w < 2 ^ 32) (h : decodeWord w = .ok i) (rest : List Byte) :
    decodeBytes (Machine.bytesOfNat 4 w ++ rest) = .ok (i, rest) := by
  simp only [Machine.bytesOfNat, List.cons_append, List.nil_append, decodeBytes, Nat.div_div_eq_div_mul, Nat.reduceMul,
    wordOfBytes_ofNat hw, h]

/-- Settles O2: the fields of what is encoded stand in a word and are read back group by group of the opcode map, and a group
that is read is the encoding of what it is read as. -/
theorem decodeEncodeAgree : Obligations.DecodeEncodeAgree := by
  refine ⟨fun i he hwf => ?_, fun w i h => ?_⟩
  · obtain ⟨f, hf⟩ := Option.isSome_iff_exists.1 he
    have hfit := fit_encodeFields hf hwf
    have hlt := Fields.toWord_lt hfit
    have hw := decodeWord_toWord hfit (decodeFields_encodeFields hf hwf)
    have e : (BitVec.ofNat 32 f.toWord).toNat = f.toWord := by rw [BitVec.toNat_ofNat, Nat.mod_eq_of_lt hlt]
    refine ⟨BitVec.ofNat 32 f.toWord, by simp only [encode, hf], ?_⟩
    rw [e]
    exact ⟨hw, decodeTableWord_eq hlt hw, decodeBytes_bytesOfNat hlt hw⟩
  · obtain ⟨he, hwf⟩ := spells_of_decodeFields (Fields.fit_ofWord w.toNat) h
    refine ⟨by simp [Instr.encoded, he], hwf, ?_⟩
    simp only [encode, he, Fields.toWord_ofWord w.isLt, BitVec.ofNat_toNat, BitVec.setWidth_eq]

end Sys2Proof
end

section
/-!
Uniform integer instructions (R83, R103, R387): each operation on words as the integers it stands for, in every width.
-/

namespace Sys2Proof.Machine

/-! ## Operations on words as integers -/

section
variable {n : Nat} (x y : BitVec n)

theorem add_eq_ofInt : x + y = BitVec.ofInt n (x.toInt + y.toInt) := by simp [BitVec.ofInt_add]

theorem mul_eq_ofInt : x * y = BitVec.ofInt n (x.toInt * y.toInt) := by simp [BitVec.ofInt_mul]

theorem sub_eq_ofInt : x - y = BitVec.ofInt n (x.toInt - y.toInt) := by
  apply BitVec.eq_of_toInt_eq
  rw [BitVec.toInt_sub, BitVec.toInt_ofInt]

theorem minS_eq_ofInt : minS x y = BitVec.ofInt n (min x.toInt y.toInt) := by
  unfold minS; split <;> simp [*, le_of_not_ge]

theorem minU_eq_ofNat : minU x y = BitVec.ofNat n (min x.toNat y.toNat) := by
  unfold minU; split <;> simp [*, le_of_not_ge]

theorem maxS_eq_ofInt : maxS x y = BitVec.ofInt n (max x.toInt y.toInt) := by
  unfold maxS; split <;> simp [*, le_of_not_ge]

theorem maxU_eq_ofNat : maxU x y = BitVec.ofNat n (max x.toNat y.toNat) := by
  unfold maxU; split <;> simp [*, le_of_not_ge]

/-- A shift by `n` or more leaves a multiple of `2 ^ n`, which is 0 in `n` bits. -/
theorem shlI_eq_ofNat : shlI x y = BitVec.ofNat n (x.toNat * 2 ^ (y.toNat % 256)) := by
  apply BitVec.eq_of_toNat_eq
  unfold shlI shiftCount
  split
  · have : 2 ^ n ∣ x.toNat * 2 ^ (y.toNat % 256) := Dvd.dvd.mul_left (pow_dvd_pow 2 ‹_›) _
    simp [Nat.mod_eq_zero_of_dvd this]
  · simp [Nat.shiftLeft_eq]

theorem shrI_eq_ofNat : shrI x y = BitVec.ofNat n (x.toNat / 2 ^ (y.toNat % 256)) := by
  apply BitVec.eq_of_toNat_eq
  have hlt : x.toNat / 2 ^ (y.toNat % 256) < 2 ^ n := (Nat.div_le_self _ _).trans_lt x.isLt
  unfold shrI shiftCount
  split
  · have : x.toNat < 2 ^ (y.toNat % 256) := x.isLt.trans_le (Nat.pow_le_pow_right (by decide) ‹_›)
    simp [Nat.div_eq_of_lt this]
  · simp [Nat.mod_eq_of_lt hlt, Nat.shiftRight_eq_div_pow]

/-- A shift by `n` or more leaves the sign in every bit. -/
theorem sarI_eq_sshiftRight : sarI x y = x.sshiftRight (y.toNat % 256) := by
  unfold sarI shiftCount
  split
  · apply BitVec.eq_of_getLsbD_eq
    intro i hi
    have hout : ¬ y.toNat % 256 + i < n := by omega
    rw [BitVec.getLsbD_sshiftRight, if_neg hout]
    cases x.msb <;> simp [hi]
  · rfl

theorem sarI_eq_ofInt : sarI x y = BitVec.ofInt n (x.toInt / 2 ^ (y.toNat % 256)) := by
  have hs : (x.sshiftRight (y.toNat % 256)).toInt = x.toInt / 2 ^ (y.toNat % 256) := by
    simp [Int.shiftRight_eq_div_pow]
  rw [sarI_eq_sshiftRight, ← hs, BitVec.ofInt_toInt]

/-- The top bit of a field says whether the field is at least half its range. -/
theorem testBit_top {len field : Nat} (hpos : 0 < len) (hlt : field < 2 ^ len) :
    field.testBit (len - 1) = decide (2 ^ (len - 1) ≤ field) := by
  obtain ⟨k, rfl⟩ : ∃ k, len = k + 1 := ⟨len - 1, by omega⟩
  rw [Nat.add_sub_cancel]
  by_cases h : 2 ^ k ≤ field
  · simp [h, Nat.testBit_of_two_pow_le_and_two_pow_add_one_gt h hlt]
  · simp [h, Nat.testBit_lt_two_pow (not_le.1 h)]

theorem bfxI_unsigned_eq_ofNat : bfxI false x y =
    BitVec.ofNat n (x.toNat / 2 ^ (y.toNat % 256) % 2 ^ min (y.toNat / 256 % 256) n) := by
  simp [bfxI, fieldLen, fieldPos]

/-- A field as a signed number, in `n` bits (R317). -/
theorem signed_field_eq_ofInt {len field : Nat} (hlt : field < 2 ^ len) :
    (if true && 0 < len && 2 ^ (len - 1) ≤ field then BitVec.ofInt n ((field : Int) - 2 ^ len) else BitVec.ofNat n field) =
      BitVec.ofInt n (if 0 < len ∧ field.testBit (len - 1) then (field : Int) - 2 ^ len else field) := by
  by_cases hpos : 0 < len
  · rw [testBit_top hpos hlt]
    by_cases h : 2 ^ (len - 1) ≤ field <;> simp [hpos, h]
  · simp [hpos]

theorem bfxI_signed_eq_ofInt : bfxI true x y =
    let len := min (y.toNat / 256 % 256) n
    let field := x.toNat / 2 ^ (y.toNat % 256) % 2 ^ len
    BitVec.ofInt n (if 0 < len ∧ field.testBit (len - 1) then (field : Int) - 2 ^ len else field) :=
  signed_field_eq_ofInt (Nat.mod_lt _ (by positivity))

end

/-- The low 32 bits of a 64-bit result are the result in 32 bits (R387). -/
theorem setWidth_32_ofInt (v : Int) : (BitVec.ofInt 64 v).setWidth 32 = BitVec.ofInt 32 v := by
  apply BitVec.eq_of_toNat_eq
  simp
  omega

theorem mad_eq_ofInt (x y z : Dword) : x * y + z = BitVec.ofInt 64 (x.toInt * y.toInt + z.toInt) := by
  simp [BitVec.ofInt_add, BitVec.ofInt_mul]

/-! ## The instructions -/

theorem writesS_smad (s : State) (d a b : Nat) :
    s.WritesS (.smad true d a b) d (fun t => BitVec.ofInt 64 ((t.getS a).toInt * (t.sB b).toInt + (t.getS d).toInt)) ∧
      s.WritesS (.smad false d a b) d
        (fun t => (BitVec.ofInt 32 ((t.getS a).toInt * (t.sB b).toInt + (t.getS d).toInt)).signExtend 64) := by
  simp only [← setWidth_32_ofInt, ← mad_eq_ofInt]
  exact ⟨writesS_of rfl, writesS_of rfl⟩

/-- Settles O16: each instruction by its form, with its operation as integers. -/
theorem uniformIntegers : Obligations.UniformIntegers := by
  refine ⟨⟨fun t sel f l => ⟨getP_zero t l, by simp [Team.setP]⟩, fun s d a b => writesS_of rfl⟩, fun s => ?_, fun s => ?_⟩
  · exact ⟨uBinary_ok (g := fun x y => x + y) (fun _ _ _ _ => rfl) fun _ _ => add_eq_ofInt,
      uBinary_ok (g := fun x y => x - y) (fun _ _ _ _ => rfl) fun _ _ => sub_eq_ofInt,
      uBinary_ok (g := fun x y => x * y) (fun _ _ _ _ => rfl) fun _ _ => mul_eq_ofInt,
      uBinary_ok (g := mulhS) (fun _ _ _ _ => rfl) fun _ _ _ _ => rfl,
      uBinary_ok (g := mulhU) (fun _ _ _ _ => rfl) fun _ _ _ _ => rfl,
      writesS_smad s,
      uBinary_ok (g := minS) (fun _ _ _ _ => rfl) fun _ _ => minS_eq_ofInt,
      uBinary_ok (g := minU) (fun _ _ _ _ => rfl) fun _ _ => minU_eq_ofNat,
      uBinary_ok (g := maxS) (fun _ _ _ _ => rfl) fun _ _ => maxS_eq_ofInt,
      uBinary_ok (g := maxU) (fun _ _ _ _ => rfl) fun _ _ => maxU_eq_ofNat,
      fun _ _ => ⟨writesS_of rfl, writesS_of rfl⟩, fun _ _ => writesS_of rfl,
      uShort_ok (g := fun x y => x + y) (fun _ _ _ => rfl) add_eq_ofInt,
      uShort_ok (g := fun x y => x * y) (fun _ _ _ => rfl) mul_eq_ofInt⟩
  · exact ⟨uBinary_ok (g := fun x y => x &&& y) (fun _ _ _ _ => rfl) fun _ _ _ _ => rfl,
      uBinary_ok (g := fun x y => x ||| y) (fun _ _ _ _ => rfl) fun _ _ _ _ => rfl,
      uBinary_ok (g := fun x y => x ^^^ y) (fun _ _ _ _ => rfl) fun _ _ _ _ => rfl,
      uBinary_ok (g := shlI) (fun _ _ _ _ => rfl) fun _ _ => shlI_eq_ofNat,
      uBinary_ok (g := shrI) (fun _ _ _ _ => rfl) fun _ _ => shrI_eq_ofNat,
      uBinary_ok (g := sarI) (fun _ _ _ _ => rfl) fun _ _ => sarI_eq_ofInt,
      uBinary_ok (g := bfxI false) (fun _ _ _ _ => rfl) fun _ _ => bfxI_unsigned_eq_ofNat,
      uBinary_ok (g := bfxI true) (fun _ _ _ _ => rfl) fun _ _ => bfxI_signed_eq_ofInt,
      uShort_ok (g := fun x y => x &&& y) (fun _ _ _ => rfl) fun _ _ => rfl,
      uShort_ok (g := fun x y => x ||| y) (fun _ _ _ => rfl) fun _ _ => rfl,
      uShort_ok (g := fun x y => x ^^^ y) (fun _ _ _ => rfl) fun _ _ => rfl,
      uShort_ok (g := shlI) (fun _ _ _ => rfl) shlI_eq_ofNat,
      uShort_ok (g := shrI) (fun _ _ _ => rfl) shrI_eq_ofNat,
      uShort_ok (g := sarI) (fun _ _ _ => rfl) sarI_eq_ofInt⟩

end Sys2Proof.Machine
end

section
/-!
The turn of the issuing team (R78, R98, R160): what the words of a group decode to, and what the turn makes of them.
-/

namespace Sys2Proof.Machine

/-! ## Prefixes -/

theorem isPrefix_iff {i : Instr} : isPrefix i = true ↔ (∃ p, i = .imm p) ∨ ∃ r, i = .uni r := by
  cases i <;> simp [isPrefix]

theorem sameKind_iff {i j : Instr} :
    sameKind i j = true ↔ (∃ p q, i = .imm p ∧ j = .imm q) ∨ ∃ q r, i = .uni q ∧ j = .uni r := by
  unfold sameKind
  split
  · simp
  · simp
  · rename_i himm huni
    simp only [Bool.false_eq_true, false_iff, not_or, not_exists]
    exact ⟨fun p q h => himm p q h.1 h.2, fun q r h => huni q r h.1 h.2⟩

/-- No kind is repeated in a group exactly where no two are of one kind (R78). -/
theorem repeats_eq_false_iff {pre : List Instr} : repeats pre = false ↔ pre.Pairwise fun p q => ¬ sameKind p q = true := by
  induction pre with
  | nil => simp [repeats]
  | cons p ps ih => simp [repeats, ih]

/-! ## The group that is fetched -/

/-- Past the prefixes that decode, a fetch stands at the next word, with those prefixes taken. -/
theorem fetchGroup_prefixes {ws : List Nat} {pre acc : List Instr} {s v : State} {pc : Dword} {m : Nat}
    (hf : Fetches s pc acc.length ws v) (hd : ws.map decodeWord = pre.map Except.ok) (hp : ∀ p ∈ pre, isPrefix p = true) :
    s.fetchGroup (m + pre.length) pc acc = v.fetchGroup m (pc + BitVec.ofNat 64 (4 * pre.length)) (acc ++ pre) := by
  induction ws generalizing pre acc s pc with
  | nil =>
    obtain rfl : pre = [] := by simpa using hd.symm
    cases hf
    simp
  | cons w ws ih =>
    obtain ⟨u, hw, hrest⟩ := hf
    obtain - | ⟨p, ps⟩ := pre
    · simp at hd
    simp only [List.map_cons, List.cons.injEq] at hd
    have hrest' : Fetches u (pc + 4) (acc ++ [p]).length ws v := by simpa using hrest
    have e : pc + BitVec.ofNat 64 (4 * (p :: ps).length) = pc + 4 + BitVec.ofNat 64 (4 * ps.length) := by
      rw [List.length_cons, Nat.mul_succ, Nat.add_comm, BitVec.ofNat_add, ← BitVec.add_assoc]
      rfl
    rw [e, List.length_cons, ← Nat.add_assoc, State.fetchGroup, hw]
    dsimp only
    rw [hd.1]
    dsimp only
    rw [if_pos (hp p List.mem_cons_self), ih hrest' hd.2 fun q hq => hp q (List.mem_cons_of_mem _ hq), List.append_assoc]
    rfl

section
variable {v x : State} {pc : Dword} {pre : List Instr} {m w : Nat}

theorem fetchGroup_stops {e : FetchStop} (h : v.fetchWord pc pre.length = (.error e, x)) :
    v.fetchGroup (m + 1) pc pre = (.error e, x) := by
  rw [State.fetchGroup, h]

theorem fetchGroup_undecoded {e : DecodeError} (h : v.fetchWord pc pre.length = (.ok w, x)) (hd : decodeWord w = .error e) :
    v.fetchGroup (m + 1) pc pre = (.error (.trap (.instr cIllegal w) pre.length), x) := by
  rw [State.fetchGroup, h]
  dsimp only
  rw [hd]

variable {i : Instr}

theorem fetchGroup_decoded (h : v.fetchWord pc pre.length = (.ok w, x)) (hd : decodeWord w = .ok i) (hi : isPrefix i = false) :
    v.fetchGroup (m + 1) pc pre =
      if repeats pre then (.error (.trap (x.team.repeated pre i) pre.length), x) else (.ok (pre, i), x) := by
  rw [State.fetchGroup, h]
  dsimp only
  rw [hd]
  dsimp only
  rw [if_neg (by simp [hi])]

end

/-! ## The turn -/

theorem turn_runs {t u : State} (h : t.canIssue t.team = true) (ha : ¬ (t.ready.team.active = 0 ∧ t.ready.team.saved = none))
    (hu : t.ready.injectTiming = (false, u)) : turn t = stepTeam u := by
  rw [turn, if_pos h]
  dsimp only
  rw [if_neg ha, hu]

theorem stepTeam_waits {u x : State} (h : u.fetchGroup groupWords u.team.pc [] = (.error .wait, x)) :
    stepTeam u = .next x.rotate := by
  rw [stepTeam, h]

theorem stepTeam_traps {u x : State} {c : Cause} {n : Nat}
    (h : u.fetchGroup groupWords u.team.pc [] = (.error (.trap c n), x)) : stepTeam u = .next (fetchTrap c n x).rotate := by
  rw [stepTeam, h]
  rfl

theorem stepTeam_next {u x y : State} {pre : List Instr} {i : Instr}
    (h : u.fetchGroup groupWords u.team.pc [] = (.ok (pre, i), x)) (hy : runGroup pre i x = .next y) :
    stepTeam u = .next y.rotate := by
  rw [stepTeam, h]
  dsimp only
  rw [hy]

theorem runGroup_cons {p i : Instr} {ps : List Instr} {x y : State} (h : exec p x = .next y) :
    runGroup (p :: ps) i x = runGroup ps i y := by
  rw [runGroup, h]

/-- A group that repeats a kind raises PREFIX where its registers are in order under the first of each kind, else ILLEGAL (R78,
R98). -/
def Team.repeatCode (t : Team) (pre : List Instr) (i : Instr) : Nat :=
  if ((t.prefixed pre).uses i).all fun x => x.ok t then cPrefix else cIllegal

theorem repeated_eq (t : Team) (pre : List Instr) (i : Instr) : t.repeated pre i = .instr (t.repeatCode pre i) (insnOf i) := rfl

theorem repeatCode_mem (t : Team) (pre : List Instr) (i : Instr) : t.repeatCode pre i ∈ [0x01, 0x02] := by
  unfold Team.repeatCode
  split
  · exact List.mem_cons_of_mem _ List.mem_cons_self
  · exact List.mem_cons_self

theorem repeatCode_imm (t : Team) (p q : Nat) (i : Instr) : t.repeatCode [.imm p, .imm q] i = 0x02 ↔
    ∀ d ∈ ({ t with latch := { t.latch with imm := some p, uni := none } } : Team).uses i, d.ok t = true := by
  have e : t.prefixed [.imm p, .imm q] = { t with latch := { t.latch with imm := some p, uni := none } } := rfl
  rw [Team.repeatCode, e, ← List.all_eq_true]
  split <;> simp [*, cPrefix, cIllegal]

/-- Settles O4: the fetch of a group, by its prefixes and its last word. -/
theorem stepRunsDecoded : Obligations.StepRunsDecoded := by
  intro s t u ha he hc hact hinj isPre alike pre ws v hf hd hp hlen n pc
  have hstep : step s = stepTeam u := (step_turn ha he).trans (turn_runs hc hact hinj)
  have hgroup : u.fetchGroup groupWords u.team.pc [] = v.fetchGroup (63 - pre.length + 1) pc pre := by
    have := fetchGroup_prefixes (acc := []) (m := 63 - pre.length + 1) hf hd fun p hp' => isPrefix_iff.2 (hp p hp')
    rwa [show 63 - pre.length + 1 + pre.length = groupWords by unfold groupWords; omega] at this
  have halike : ∀ i j, ¬ alike i j ↔ ¬ sameKind i j = true := fun i j => not_congr sameKind_iff.symm
  rw [hstep]
  refine ⟨fun w x i hw hi hpre => ?_, fun w x e hw hi => ?_, fun x c k hw => ?_, fun x hw => ?_⟩
  · have hend := hgroup.trans (fetchGroup_decoded hw hi (by simpa using mt isPrefix_iff.1 hpre))
    have runs : repeats pre = false → u.fetchGroup groupWords u.team.pc [] = (.ok (pre, i), x) := fun h => by
      rw [hend, h]; rfl
    refine ⟨?_, ?_, ?_, fun hrep => ?_⟩
    · rintro rfl y hy
      exact stepTeam_next (runs rfl) hy
    · rintro p rfl y z hy hz
      exact stepTeam_next (runs rfl) ((runGroup_cons hy).trans hz)
    · rintro p q rfl hpq y z r hy hz hr
      have : repeats [p, q] = false := repeats_eq_false_iff.2 (by simpa using (halike p q).1 hpq)
      exact stepTeam_next (runs this) ((runGroup_cons hy).trans ((runGroup_cons hz).trans hr))
    · have : repeats pre = true := by
        by_contra h
        exact hrep ((repeats_eq_false_iff.1 (by simpa using h)).imp fun {a b} => (halike a b).2)
      refine ⟨x.team.repeatCode pre i, repeatCode_mem _ _ _, stepTeam_traps (hend.trans (if_pos this)), ?_⟩
      rintro p q rfl
      exact repeatCode_imm _ _ _ _
  · exact stepTeam_traps (hgroup.trans (fetchGroup_undecoded hw hi))
  · exact stepTeam_traps (hgroup.trans (fetchGroup_stops hw))
  · exact stepTeam_waits (hgroup.trans (fetchGroup_stops hw))

end Sys2Proof.Machine
end

section
/-!
Outstanding results that land (R72, R74, R75): what their registers are written with, and what a team keeps.
-/

namespace Sys2Proof.Machine

/-- A destination that is written changes v, q, s and c registers alone. -/
theorem writeDest_registers (t : Team) (d : Dest) : ∃ v q s c, t.writeDest d = { t with v := v, q := q, s := s, c := c } := by
  cases d with
  | v r vals => exact ⟨_, _, _, _, rfl⟩
  | q r vals => exact ⟨_, _, _, _, rfl⟩
  | s r x => cases x <;> exact ⟨_, _, _, _, rfl⟩
  | c r x => cases x <;> exact ⟨_, _, _, _, rfl⟩

theorem foldl_writeDest_registers (ds : List Dest) (t : Team) :
    ∃ v q s c, ds.foldl Team.writeDest t = { t with v := v, q := q, s := s, c := c } := by
  induction ds generalizing t with
  | nil => exact ⟨_, _, _, _, rfl⟩
  | cons d ds ih =>
    obtain ⟨v, q, s, c, e⟩ := writeDest_registers t d
    obtain ⟨v', q', s', c', e'⟩ := ih (t.writeDest d)
    exact ⟨v', q', s', c', by rw [List.foldl_cons, e', e]⟩

/-- A result that lands writes registers, merges flags and is no longer outstanding; nothing else of its team changes. -/
theorem finish_registers (t : Team) (p : Pending) : ∃ v q s c past, t.finish p = { t with
    v := v, q := q, s := s, c := c, past := past, flags := t.flags ||| p.flags,
    pending := t.pending.filter fun x => x.id != p.id } := by
  obtain ⟨v, q, s, c, e⟩ := foldl_writeDest_registers p.landing t
  exact ⟨v, q, s, c, _, by rw [Team.finish, e]⟩

/-- The same of several that land one after another. -/
theorem foldl_finish_registers (ps : List Pending) (t : Team) : ∃ v q s c past, ps.foldl Team.finish t = { t with
    v := v, q := q, s := s, c := c, past := past, flags := ps.foldl (fun w p => w ||| p.flags) t.flags,
    pending := ps.foldl (fun xs p => xs.filter fun x => x.id != p.id) t.pending } := by
  induction ps generalizing t with
  | nil => exact ⟨_, _, _, _, _, rfl⟩
  | cons p ps ih =>
    obtain ⟨v, q, s, c, past, e⟩ := finish_registers t p
    obtain ⟨v', q', s', c', past', e'⟩ := ih (t.finish p)
    exact ⟨v', q', s', c', past', by rw [List.foldl_cons, e', e]; rfl⟩

theorem foldl_filter_eq_nil {ps xs : List Pending} (h : ∀ x ∈ xs, ∃ p ∈ ps, p.id = x.id) :
    ps.foldl (fun xs p => xs.filter fun x => x.id != p.id) xs = [] := by
  induction ps generalizing xs with
  | nil => exact List.eq_nil_iff_forall_not_mem.2 fun x hx => by simpa using h x hx
  | cons p ps ih =>
    refine ih fun x hx => ?_
    obtain ⟨hx, hne⟩ := List.mem_filter.1 hx
    obtain ⟨q, hq, e⟩ := h x hx
    obtain rfl | hq := List.mem_cons.1 hq
    · simp [e] at hne
    · exact ⟨q, hq, e⟩

/-- Where no result waits for anything outside, all land: none is outstanding, and their flags are merged (R75, R85). -/
theorem finishAll_of_landed {t : Team} (h : ∀ p ∈ t.pending, p.waits = []) : ∃ v q s c past, t.finishAll = { t with
    v := v, q := q, s := s, c := c, past := past, flags := t.pending.foldl (fun w p => w ||| p.flags) t.flags,
    pending := [] } := by
  have e : t.finishAll = t.pending.foldl Team.finish t := by
    rw [Team.finishAll, List.filter_eq_self.2 fun p hp => by simp [h p hp]]
  obtain ⟨v, q, s, c, past, e'⟩ := foldl_finish_registers t.pending t
  exact ⟨v, q, s, c, past, by rw [e, e', foldl_filter_eq_nil fun x hx => ⟨x, hx, rfl⟩]⟩

end Sys2Proof.Machine
end

section
/-!
SYSR (R85, R433, R434): the value of each system register.
-/

namespace Sys2Proof.Machine

section
variable {s : State} {d b num j : Nat}

/-- SYSR of a register other than FLAGS, where nothing runs speculatively (R433). -/
theorem sysr_reads (h : s.issues (.sysr d b) = true) (hs : (s.entering (.sysr d b)).speculative = false)
    (hsel : (s.entering (.sysr d b)).team.selector b = num * 4096 + j) (hj : j < 4096) (hnum : num ≠ 0x002) {x : Nat}
    (hx : (s.entering (.sysr d b)).readSys num j = x) :
    exec (.sysr d b) s = .next { s.entering (.sysr d b) with
      team := { (s.entering (.sysr d b)).team.advance with
        s := SMap.put 0 (s.entering (.sysr d b)).team.s d (BitVec.ofNat 64 x) } } := by
  have hn : (num * 4096 + j) / 4096 = num ∧ (num * 4096 + j) % 4096 = j := by omega
  change execSysr d b s = _
  rw [execSysr, issue_of_issues h]
  simp only [hs, hsel, hn, hnum, hx, Bool.false_eq_true, if_false]
  rfl

/-- SYSR of FLAGS, where every result outstanding can land (R85). -/
theorem sysr_flags (h : s.issues (.sysr d b) = true) (hs : (s.entering (.sysr d b)).speculative = false)
    (hsel : (s.entering (.sysr d b)).team.selector b = 0x002 * 4096 + j) (hj : j < 4096)
    (hq : (s.entering (.sysr d b)).queueOf (s.entering (.sysr d b)).team = false)
    (hp : ∀ p ∈ (s.entering (.sysr d b)).team.pending, p.waits = []) :
    ∃ u, exec (.sysr d b) s = .next { s.entering (.sysr d b) with team := u } ∧ u.pending = [] ∧
      u.pc = (s.entering (.sysr d b)).team.advance.pc ∧ u.getS d = BitVec.ofNat 64 u.flags.toNat ∧
      ∀ k, k < 32 → u.flags.getLsbD k = ((s.entering (.sysr d b)).team.flags.getLsbD k ||
        (s.entering (.sysr d b)).team.pending.any fun p => p.flags.getLsbD k) := by
  have hn : (0x002 * 4096 + j) / 4096 = 0x002 := by omega
  have hw : ((s.entering (.sysr d b)).team.pending.any fun p => !p.waits.isEmpty) = false := by
    simpa using hp
  obtain ⟨v, q, s', c, past, e⟩ := finishAll_of_landed hp
  let t := (s.entering (.sysr d b)).team
  refine ⟨(t.finishAll.setS d (BitVec.ofNat 64 t.finishAll.flags.toNat)).advance, ?_, ?_, ?_, ?_, fun k _ => ?_⟩
  · change execSysr d b s = _
    rw [execSysr, issue_of_issues h]
    simp only [hs, hsel, hn, hq, hw, Bool.false_eq_true, if_false, if_true]
    rfl
  · change t.finishAll.pending.map _ = []
    rw [e]
    rfl
  · change t.finishAll.cont.getD (t.finishAll.pc + _) = _
    rw [e]
    rfl
  · exact getS_setS_self _ _ _
  · change t.finishAll.flags.getLsbD k = _
    rw [e, foldl_or_getLsbD]

end

/-- An entry of the divergence stack, counted from its bottom (R62). -/
theorem entry?_eq (t : Team) (n : Nat) : t.entry? n = t.stack.reverse[n]? := by
  unfold Team.entry?
  split
  · rw [List.getElem?_reverse ‹_›]
  · rw [List.getElem?_eq_none (by simpa using ‹¬ n < t.stack.length›)]

/-! ### The registers of the team's context (R434) -/

section
variable {s : State} {c : Ctx} {j : Nat} (h : s.ctx? s.team.ctx = some c)
include h

theorem readSys_revBase : s.readSys 0x040 j = (c.revBase.getD j 0).toNat := by simp [State.readSys, h]
theorem readSys_revCtl : s.readSys 0x041 j = (c.revCtl.getD j 0).toNat := by simp [State.readSys, h]
theorem readSys_capLog2 : s.readSys 0x045 j = c.capLog2 := by simp [State.readSys, h]
theorem readSys_frames : s.readSys 0x056 j = c.quota % 2 ^ 32 * 2 ^ 32 + c.pool.length := by simp [State.readSys, h]
theorem readSys_trapVec : s.readSys 0x093 j = c.trapVec.toNat := by simp [State.readSys, h]

end

/-- A bank as its workgroup reads it (R183). -/
theorem bank_word (x : Bank) (g : WgId) : x.word g =
    (match x.mode with | .cache => 0 | .scratch => 1 | .fifo => 2 | .shadow => 3) +
      (if x.owner = some g then 4 + 8 * (x.slot % 4) else 0) + 2 ^ 29 * (x.result % 4) +
      if x.switching.isSome then 2 ^ 31 else 0 := by
  have hmode : x.mode.code = match x.mode with | .cache => 0 | .scratch => 1 | .fifo => 2 | .shadow => 3 := by
    cases x.mode <;> rfl
  simp only [Bank.word, hmode, beq_iff_eq]
  split <;> split <;> omega

/-- Settles O42: SYSR of each register, by the value the state gives it. -/
theorem systemRegistersRead : Obligations.SystemRegistersRead := by
  intro s d b num j i e h hs hsel hj reads ofCtx entry
  have is {x : Nat} (n : Nat) (hne : n ≠ 0x002) (hx : e.readSys n j = x) (hn : num = n) : reads x := by
    subst hn
    exact sysr_reads h hs hsel hj hne hx
  have isCtx {f : Ctx → Nat} (n : Nat) (hne : n ≠ 0x002) (hx : ∀ c, e.ctx? e.team.ctx = some c → e.readSys n j = f c)
      (hn : num = n) : ofCtx f := fun c hc => is n hne (hx c hc) hn
  have isEntry {f : StackEntry → Nat} {k : Nat} (n : Nat) (hne : n ≠ 0x002)
      (hx : e.readSys n j = (e.team.entry? k).elim 0 f) (hn : num = n) : entry f k := by
    rw [entry?_eq] at hx
    exact is n hne hx hn
  refine ⟨is _ (by decide) rfl, is _ (by decide) rfl, ?flags, is _ (by decide) rfl, is _ (by decide) rfl, is _ (by decide) rfl,
    is _ (by decide) rfl, is _ (by decide) ?depth, isEntry _ (by decide) rfl, isEntry _ (by decide) rfl, isEntry _ (by decide) rfl,
    isEntry _ (by decide) rfl, isCtx _ (by decide) fun c => readSys_revBase,
    isCtx _ (by decide) fun c => readSys_revCtl, is _ (by decide) rfl, is _ (by decide) rfl, is _ (by decide) rfl,
    isCtx _ (by decide) fun c => readSys_capLog2, ⟨is _ (by decide) (bank_word _ _), is _ (by decide) rfl⟩,
    is _ (by decide) ?phase, is _ (by decide) rfl, is _ (by decide) rfl, is _ (by decide) rfl, is _ (by decide) rfl,
    isCtx _ (by decide) fun c => readSys_frames, is _ (by decide) rfl, is _ (by decide) rfl,
    is _ (by decide) rfl, is _ (by decide) rfl, is _ (by decide) rfl, is _ (by decide) rfl,
    fun hn hj0 => is _ (by decide) (by rw [hj0]; rfl) hn, fun hn hj0 => is _ (by decide) (by rw [hj0]; rfl) hn,
    fun hn hj0 => is _ (by decide) (by rw [hj0]; rfl) hn, fun hn hj0 => is _ (by decide) (by rw [hj0]; rfl) hn,
    isCtx _ (by decide) fun c => readSys_trapVec,
    fun hn => hn.elim (is _ (by decide) rfl) (is _ (by decide) rfl), is _ (by decide) rfl, is _ (by decide) rfl,
    is _ (by decide) rfl, is _ (by decide) rfl, is _ (by decide) rfl⟩
  case flags =>
    rintro rfl hq hp
    exact sysr_flags h hs hsel hj hq hp
  case depth =>
    change _ + e.team.spilled * 256 + e.team.why * 65536 = _
    omega
  case phase =>
    change (if e.phaseResult then 8 else 0) + (if e.phaseBusy then 2 else 0) + (if e.phaseAck then 1 else 0) = _
    omega

end Sys2Proof.Machine
end

section
/-!
Long-latency floating instructions (R72, R115, R334 to R352): how one leaves issue, its special values, and its completion.
-/

namespace Sys2Proof.Machine

/-! ## Leaving issue -/

/-- The name of a new outstanding instruction is above those of the others. -/
theorem id_lt_freshId {t : Team} {p : Pending} (h : p ∈ t.pending) : p.id < t.freshId := by
  have grows (xs : List Pending) (m : Nat) :
      m ≤ xs.foldl (fun m p => max m (p.id + 1)) m ∧ ∀ p ∈ xs, p.id < xs.foldl (fun m p => max m (p.id + 1)) m := by
    induction xs generalizing m with
    | nil => simp
    | cons x xs ih =>
      obtain ⟨hm, hxs⟩ := ih (max m (x.id + 1))
      refine ⟨by simp only [List.foldl_cons]; omega, fun p hp => ?_⟩
      obtain rfl | hp := List.mem_cons.1 hp
      · simp only [List.foldl_cons]; omega
      · exact hxs p hp
  exact (grows t.pending 0).2 p h

/-- A function of the results of the selected lanes. -/
theorem map_selected {α β : Type} (t : Team) (g : Nat → α) (h : α → β) (ls : List Nat) :
    (ls.map fun l => if t.selected l then some (g l) else none).map (Option.map h) =
      ls.map fun l => if t.selected l then some (h (g l)) else none := by
  rw [List.map_map]
  refine List.map_congr_left fun l _ => ?_
  simp only [Function.comp_apply]
  split <;> rfl

/-- The flags that the selected lanes raise. -/
theorem flags_selected (t : Team) (g : Nat → Nat × Word) (ls : List Nat) (k : Nat) :
    ((ls.map fun l => if t.selected l then some (g l) else none).foldl
      (fun (w : Word) v => w ||| v.elim 0 Prod.snd) 0).getLsbD k = ls.any fun l => t.selected l && (g l).2.getLsbD k := by
  rw [foldl_or_getLsbD, List.any_map, show (0 : Word).getLsbD k = false from BitVec.getLsbD_zero, Bool.false_or]
  congr 1
  funext l
  simp only [Function.comp_apply]
  cases t.selected l <;> simp

/-- An instruction with something to write is held until it completes. -/
theorem launchPending_of_ne {t : Team} {dests : List Dest} (h : dests ≠ []) (la : Nat) (flags : Word) (insn : Nat) :
    t.launchPending la dests flags [] insn = { t.advance with
      pending := t.advance.pending ++ [⟨t.freshId, la, dests, flags, [], [], t.pc, BitVec.ofNat 32 insn,
        1 + t.latch.words, false, true, t.ownDrops dests, [], t.written false, []⟩] } := by
  simp [Team.launchPending, h]

/-- An operation on one element leaves issue with its values and its flags outstanding. -/
theorem launchesF_of {s : State} {i : Instr} {d la : Nat} {f : Team → FFmt → FCtl → Nat → Nat × Word}
    (hx : exec i s = longFloat i d la f s) : s.LaunchesF i d la fun t l => f t t.ffmt (ctlOf t.mode) l := by
  intro h
  rw [hx, longFloat, issue_of_issues h]
  refine ⟨_, rfl, ?_, readByte_entering s i _⟩
  rw [launchPending_of_ne (by split <;> simp)]
  refine ⟨_, rfl, fun x hx => (id_lt_freshId hx).ne, rfl, rfl, rfl, ?_, fun k _ => flags_selected _ _ _ k⟩
  simp only [map_selected]
  rfl

/-- A form with one operand and a free choice of neighbour (R115). -/
theorem launchesF1_of {s : State} {i : Instr} {op d a la : Nat} {f : FFmt → FCtl → Bool → FVal → Nat × Word}
    (hx : exec i s = longFloat1 i op d a la f s) : s.LaunchesF i d la fun t l =>
      f t.ffmt (ctlOf t.mode) (Config.faithfulUp op (modeEtype t.mode) (t.elem t.ffmt a l)) (t.val a l) :=
  launchesF_of hx

/-- FDIV takes its operands under its prefixes, and raises what reading the divisor raises (R76, R337). -/
theorem launchesF_fdiv (s : State) (d a b la : Nat) : s.LaunchesF (.fdiv d a b la) d la fun t l =>
    let r := fltDiv t.ffmt (ctlOf t.mode) (t.valA a l) (t.valB b l)
    (r.1, r.2 ||| (t.fB b l).2) :=
  launchesF_of (f := fun t F c l =>
    let r := fltDiv F c (F.unpack c.ftz (t.fA a l)) (F.unpack c.ftz (t.fB b l).1)
    (r.1, r.2 ||| (t.fB b l).2)) rfl

/-! ## Completion -/

/-- The team once its result `k` has landed, if that waits for nothing and met no fault. -/
def Team.completed (t : Team) (k : Nat) : Team :=
  match t.pending.find? fun p => p.id == k with
  | some p => if p.waits.isEmpty && p.faults.isEmpty then t.finish p else t
  | none => t

theorem exec_longLatencyComplete (s : State) (i : TeamId) (k : Nat) :
    exec (.longLatencyComplete i k) s = .next (s.modTeam i fun t => t.completed k) := rfl

theorem completed_of_landed {t : Team} {p : Pending} (hf : t.pending.find? (fun x => x.id == p.id) = some p)
    (hw : p.waits = []) (hfaults : p.faults = []) : t.completed p.id = t.finish p := by
  simp [Team.completed, hf, hw, hfaults]

/-- Completion changes the issuing team, and no team of another name. -/
theorem modTeam_issuing (s : State) (f : Team → Team) : ∃ os,
    s.modTeam s.team.id f = { s with team := f s.team, others := os } ∧
      ∀ n : Nat, ∀ o : Team, s.others[n]? = some o → o.id ≠ s.team.id → os[n]? = some o := by
  refine ⟨s.others.map fun t => if t.id = s.team.id then f t else t, ?_, fun n o ho hne => ?_⟩
  · rw [State.modTeam, if_pos rfl]
  · rw [List.getElem?_map, ho, Option.map_some, if_neg hne]

/-! ## Special values -/

section
variable (F : FFmt) (c : FCtl) (up : Bool)

/-- A NaN gives the default NaN; a signalling one raises NV (R113, R348). -/
theorem longFloat_nan (sig : Bool) :
    let r : Nat × Word := (F.nanBits, if sig then fNV else 0)
    fltRcp F c (.nan sig) = r ∧ fltRsq F c (.nan sig) = r ∧ fltSqrt F c (.nan sig) = r ∧ fltExp2 F c up (.nan sig) = r ∧
      fltLog2 F c up (.nan sig) = r ∧ fltTrig false F c up (.nan sig) = r ∧ fltTrig true F c up (.nan sig) = r := by
  refine ⟨?_, rfl, rfl, rfl, rfl, rfl, rfl⟩
  simp [fltRcp, fltDiv, nvOf, FVal.isSignalling]

theorem fltRcp_inf (n : Bool) : fltRcp F c (.inf n) = (F.zeroBits n, 0) := by simp [fltRcp, fltDiv]

theorem fltRcp_zero (n : Bool) (e : Int) : fltRcp F c (.fin n 0 e) = (F.infBits n, fDZ) := by simp [fltRcp, fltDiv]

/-- Roots and the logarithm of a negative number are invalid (R348, R335). -/
theorem longFloat_negative {m : Nat} (e : Int) (hm : m ≠ 0) : fltRsq F c (.fin true m e) = (F.nanBits, fNV) ∧
    fltSqrt F c (.fin true m e) = (F.nanBits, fNV) ∧ fltLog2 F c up (.fin true m e) = (F.nanBits, fNV) := by
  simp [fltRsq, fltSqrt, fltLog2, hm]

end

/-- Settles O26: how each instruction leaves issue, the special values by the functions' cases, and completion. -/
theorem longFloats : Obligations.LongFloats := by
  refine ⟨fun s d a b la => ?issue, fun F c up _ => ?special, fun s p hf hw hfaults => ?complete, fun t d => ?registers⟩
  case issue =>
    exact ⟨launchesF1_of (op := 4) (f := fun F c _ => fltRcp F c) rfl,
      launchesF1_of (op := 5) (f := fun F c _ => fltRsq F c) rfl,
      launchesF1_of (op := 6) (f := fun F c _ => fltSqrt F c) rfl, launchesF_fdiv s d a b la,
      launchesF1_of (f := fltExp2) rfl, launchesF1_of (f := fltLog2) rfl, launchesF1_of (f := fltTrig false) rfl,
      launchesF1_of (f := fltTrig true) rfl⟩
  case special =>
    exact ⟨longFloat_nan F c up, fun n => ⟨fltRcp_inf F c n, fltRcp_zero F c n⟩, rfl, rfl, rfl, rfl, rfl, rfl, rfl, rfl,
      fun n e => ⟨rfl, rfl, rfl, rfl, rfl, rfl⟩, fun m e => longFloat_negative F c up e,
      by decide +kernel, by decide +kernel, by cases up <;> decide +kernel, by cases up <;> decide +kernel⟩
  case complete =>
    obtain ⟨os, hmod, hos⟩ := modTeam_issuing s fun t => t.completed p.id
    rw [exec_longLatencyComplete, hmod, completed_of_landed hf hw hfaults]
    exact ⟨_, rfl, rfl, fun h => by rw [Pending.landing, h], rfl, hos⟩
  case registers =>
    exact ⟨fun vals l => getV_setV_self t d _, fun vals r l h => getV_setV_ne t _ h l, fun _ => rfl,
      fun vals l => getQ_setQ_self t d _, fun vals r l h => getQ_setQ_ne t _ h l, fun _ => rfl,
      fun x => ⟨getS_setS_self t d x, fun r => getS_setS_ne t x, rfl⟩,
      fun x => ⟨getC_setC_self t d x, fun r => getC_setC_ne t x, rfl⟩, rfl, rfl⟩

end Sys2Proof.Machine
end

section
/-!
Writes to host memory (R166, R274), whatever runs speculatively: no speculation reads host memory, so none is discarded (R256).
-/

namespace Sys2Proof.Machine

/-! ## A run of bytes as parts of lines -/

/-- A sum of bytes at distinct places: the byte at each place. -/
theorem foldl_byteRun (p : Nat → Prop) [DecidablePred p] (f : Nat → Byte) (n : Nat) :
    let b := ((List.range n).filter fun i => p i).foldl (fun a i => a + (f i).toNat * 2 ^ (8 * i)) 0
    b < 2 ^ (8 * n) ∧ ∀ i < n, p i → b / 2 ^ (8 * i) % 256 = (f i).toNat := by
  induction n with
  | zero => simp
  | succ n ih =>
    dsimp only at ih ⊢
    obtain ⟨hlt, hbyte⟩ := ih
    rw [List.range_succ, List.filter_append, List.foldl_append]
    generalize ((List.range n).filter fun i => p i).foldl (fun a i => a + (f i).toNat * 2 ^ (8 * i)) 0 = b at hlt hbyte ⊢
    have hp : 2 ^ (8 * (n + 1)) = 256 * 2 ^ (8 * n) := by rw [Nat.mul_succ, Nat.pow_add]; omega
    by_cases hn : p n
    · have hf : (f n).toNat * 2 ^ (8 * n) ≤ 255 * 2 ^ (8 * n) := Nat.mul_le_mul_right _ (by have := (f n).isLt; omega)
      simp only [List.filter_cons, hn, decide_true, if_true, List.filter_nil, List.foldl_cons, List.foldl_nil]
      refine ⟨by omega, fun i hi hpi => ?_⟩
      obtain rfl | hlt' := Nat.lt_succ_iff_lt_or_eq.1 hi |>.symm
      · rw [Nat.add_mul_div_right _ _ (by positivity), Nat.div_eq_of_lt hlt, Nat.zero_add, Nat.mod_eq_of_lt (f i).isLt]
      · rw [← hbyte i hlt' hpi]
        have hd : 2 ^ (8 * n) = 256 * 2 ^ (8 * (n - i - 1)) * 2 ^ (8 * i) := by
          rw [show (256 : Nat) = 2 ^ 8 from rfl, ← Nat.pow_add, ← Nat.pow_add]; congr 1; omega
        rw [hd, ← Nat.mul_assoc, Nat.add_mul_div_right _ _ (by positivity), Nat.add_mod,
          show (f n).toNat * (256 * 2 ^ (8 * (n - i - 1))) = (f n).toNat * 2 ^ (8 * (n - i - 1)) * 256 by ring,
          Nat.mul_mod_left, Nat.add_zero, Nat.mod_mod]
    · simp only [List.filter_cons, hn, decide_false, Bool.false_eq_true, if_false, List.filter_nil, List.foldl_nil]
      refine ⟨by omega, fun i hi hpi => hbyte i ?_ hpi⟩
      exact Nat.lt_of_le_of_ne (Nat.lt_succ_iff.1 hi) fun e => hn (e ▸ hpi)

/-- The bytes of a line that a run covers. -/
theorem lineOfRun_dirty (line key : Nat) (bs : List Byte) {i : Nat} (hi : i < 128) : (lineOfRun line key bs).dirty.getLsbD i = true ↔
    key ≤ line * 128 + i ∧ line * 128 + i < key + bs.length := by
  have h := (foldl_mask (fun i => decide (key ≤ line * 128 + i ∧ line * 128 + i < key + bs.length)) 128).2 i
  simp only [decide_eq_true_eq] at h
  simp only [lineOfRun, List.foldl_filter, BitVec.getLsbD_ofNat, Bool.and_eq_true, decide_eq_true_eq, hi, true_and]
  rw [Bool.decide_and] at h
  rw [h]
  simp [hi]

/-- They are the run's bytes. -/
theorem lineOfRun_byte (line key : Nat) (bs : List Byte) {i : Nat} (hi : i < 128)
    (h : key ≤ line * 128 + i ∧ line * 128 + i < key + bs.length) :
    ((lineOfRun line key bs).data >>> (8 * i)).setWidth 8 = bs.getD (line * 128 + i - key) 0 := by
  have hb := (foldl_byteRun (fun i => key ≤ line * 128 + i ∧ line * 128 + i < key + bs.length)
    (fun i => bs.getD (line * 128 + i - key) 0) 128).2 i hi h
  have hlt := (foldl_byteRun (fun i => key ≤ line * 128 + i ∧ line * 128 + i < key + bs.length)
    (fun i => bs.getD (line * 128 + i - key) 0) 128).1
  apply BitVec.eq_of_toNat_eq
  rw [← hb]
  simp only [lineOfRun, BitVec.toNat_setWidth, BitVec.toNat_ushiftRight, BitVec.toNat_ofNat, Nat.shiftRight_eq_div_pow]
  rw [show 8 * 128 = 1024 from rfl] at hlt
  simp only [Bool.decide_and] at hlt ⊢
  rw [Nat.mod_eq_of_lt hlt]

/-! ## A merge at a line of host memory -/

theorem homeChanged_host {line : Nat} (h : regionSize ≤ line * 128) (s : State) : s.homeChanged line = s.wake line := by
  rw [State.homeChanged, if_neg (Nat.not_lt_of_le h)]

/-- The bytes of a line after a copy's are laid over it. -/
theorem readByte_layBytes (s : State) (line : Nat) (c : Copy) (a : Nat) : (s.layBytes line c).readByte a =
    if a / 128 = line ∧ c.dirty.getLsbD (a % 128) = true then (c.data >>> (8 * (a % 128))).setWidth 8 else s.readByte a := by
  rw [State.layBytes, readByte_foldl_writeByte _ _ _ fun i => (c.data >>> (8 * i)).setWidth 8]
  simp only [mem_offsets]
  by_cases hl : a / 128 = line
  · have : a - line * 128 = a % 128 ∧ line * 128 ≤ a ∧ a % 128 < 128 := by omega
    simp [this, hl]
  · have : ¬ (line * 128 ≤ a ∧ a - line * 128 < 128) := by omega
    simp only [hl, false_and, if_false]
    rw [if_neg fun h => this ⟨h.1, h.2.1⟩]

/-- `t` is `s` but for memory and its marks, the events that become due, and records that contexts are owed. -/
structure State.WritesHost (s t : State) : Prop where
  frame : s.SameButHome t
  owed : ∀ m c, s.ctx? m = some c → ∃ ds, t.ctx? m = some { c with evtDue := ds }

namespace State.WritesHost
variable {s t u : State}

theorem of_ctxs (h : s.SameButHome t) (hc : t.ctxs = s.ctxs) : s.WritesHost t :=
  ⟨h, fun m c hm => ⟨c.evtDue, by rw [State.ctx?, hc]; exact hm⟩⟩
theorem refl (s : State) : s.WritesHost s := of_ctxs rfl rfl
theorem trans (h : s.WritesHost t) (h' : t.WritesHost u) : s.WritesHost u :=
  ⟨h.frame.trans h'.frame, fun m c hm => by
    obtain ⟨ds, ht⟩ := h.owed m c hm
    obtain ⟨ds', hu⟩ := h'.owed m _ ht
    exact ⟨ds', hu⟩⟩
theorem foldl {α : Type} {f : State → α → State} (hf : ∀ (s : State) a, s.WritesHost (f s a)) (xs : List α) (s : State) :
    s.WritesHost (xs.foldl f s) :=
  foldl_keeps (P := s.WritesHost) (fun t a ht => ht.trans (hf t a)) xs (refl s)
theorem modCtx (s : State) (n : Nat) {f : Ctx → Ctx} (hf : ∀ c, ∃ ds, f c = { c with evtDue := ds }) :
    s.WritesHost (s.modCtx n f) := by
  refine ⟨rfl, fun m c hm => ?_⟩
  rw [ctx_modCtx, hm]
  split
  · obtain ⟨ds, e⟩ := hf c
    exact ⟨ds, congrArg some e⟩
  · exact ⟨c.evtDue, rfl⟩
end State.WritesHost

theorem failNotice_writesHost (s : State) (line : Nat) : s.WritesHost (s.failNotice line) := by
  unfold State.failNotice State.notice
  dsimp only
  split
  · exact (State.WritesHost.of_ctxs (t := s.failLine line) rfl rfl).trans (.modCtx _ _ fun c => ⟨_, rfl⟩)
  · exact .of_ctxs rfl rfl

/-- A write by an agent of the device itself is no event of the injector (R283). -/
theorem admitted_writesHost (s : State) (line : Nat) {c : Copy} (hc : c.writers = []) (made : Bool) :
    s.WritesHost (s.admitted line c made) := by
  have events : s.eventsOf line c = s := by
    unfold State.eventsOf
    rw [hc]
    split <;> rfl
  unfold State.admitted
  rw [events]
  dsimp only
  split
  · exact failNotice_writesHost s line
  · exact .refl s

theorem homeMerge_writesHost (s : State) {line : Nat} (h : regionSize ≤ line * 128) {c : Copy} (hc : c.writers = []) (made : Bool) :
    s.WritesHost (s.homeMerge line c made) := by
  have bytes : (s.admitted line c made).WritesHost ((s.admitted line c made).layBytes line c) :=
    .foldl (f := fun s _ => s.writeByte _ _) (fun _ _ => .of_ctxs rfl rfl) _ _
  have tags : ((s.admitted line c made).layBytes line c).WritesHost (((s.admitted line c made).layBytes line c).layTags line c) :=
    .foldl (f := fun s _ => s.setTag _ _) (fun _ _ => .of_ctxs rfl rfl) _ _
  rw [homeMerge_eq, homeChanged_host h]
  refine (((admitted_writesHost s line hc made).trans bytes).trans tags).trans ?_
  unfold State.unpoisoned
  split <;> exact .of_ctxs rfl rfl

theorem readByte_homeMerge_host (s : State) {line : Nat} (h : regionSize ≤ line * 128) (c : Copy) (made : Bool) (a : Nat) :
    (s.homeMerge line c made).readByte a =
      if a / 128 = line ∧ c.dirty.getLsbD (a % 128) = true then (c.data >>> (8 * (a % 128))).setWidth 8 else s.readByte a := by
  have hm : (s.homeMerge line c made).mem = ((s.admitted line c made).layBytes line c).mem := by
    refine Eq.trans ?_ (mem_layTags _ line c)
    rw [homeMerge_eq, homeChanged_host h]
    unfold State.unpoisoned
    split <;> rfl
  have ha : (s.admitted line c made).readByte a = s.readByte a := by
    rw [State.readByte, (admitted_sameBytes s line c made).1]; rfl
  rw [State.readByte, hm, ← ha]
  exact readByte_layBytes _ line c a

/-! ## A run of bytes written to host memory -/

section
variable {key : Nat} (h : regionSize ≤ key) (bs : List Byte)
include h

/-- The lines of a run in host memory lie there. -/
theorem linesOf_host {n line : Nat} (hl : line ∈ linesOf key n) : regionSize ≤ line * 128 := by
  simp only [linesOf, List.mem_map, List.mem_range] at hl
  obtain ⟨i, -, rfl⟩ := hl
  unfold regionSize at *
  omega

theorem homeWrite_writesHost (s : State) : s.WritesHost (s.homeWrite key bs) := by
  have writes (xs : List Nat) (hx : ∀ line ∈ xs, regionSize ≤ line * 128) (s : State) :
      s.WritesHost (xs.foldl (fun s line => s.homeMerge line (lineOfRun line key bs) true) s) := by
    induction xs generalizing s with
    | nil => exact .refl s
    | cons x xs ih =>
      exact (homeMerge_writesHost s (hx x List.mem_cons_self) rfl true).trans (ih (fun l hl => hx l (List.mem_cons_of_mem _ hl)) _)
  exact writes _ (fun _ => linesOf_host h) s

omit h in
theorem readByte_homeMerge_run (s : State) {line : Nat} (h : regionSize ≤ line * 128) (a : Nat) :
    (s.homeMerge line (lineOfRun line key bs) true).readByte a =
      if a / 128 = line ∧ key ≤ a ∧ a < key + bs.length then bs.getD (a - key) 0 else s.readByte a := by
  have e : a / 128 * 128 + a % 128 = a := by omega
  rw [readByte_homeMerge_host s h]
  by_cases ha : a / 128 = line
  · subst ha
    have hd := lineOfRun_dirty (a / 128) key bs (show a % 128 < 128 by omega)
    rw [e] at hd
    by_cases hr : key ≤ a ∧ a < key + bs.length
    · rw [if_pos ⟨rfl, hd.2 hr⟩, if_pos ⟨rfl, hr⟩, lineOfRun_byte _ _ _ (by omega) (by rwa [e]), e]
    · rw [if_neg fun hx => hr (hd.1 hx.2), if_neg fun hx => hr hx.2]
  · rw [if_neg fun hx => ha hx.1, if_neg fun hx => ha hx.1]

theorem readByte_homeWrite_host (s : State) (a : Nat) : (s.homeWrite key bs).readByte a =
    if key ≤ a ∧ a < key + bs.length then bs.getD (a - key) 0 else s.readByte a := by
  have reads (xs : List Nat) (hx : ∀ line ∈ xs, regionSize ≤ line * 128) (s : State) :
      (xs.foldl (fun s line => s.homeMerge line (lineOfRun line key bs) true) s).readByte a =
        if a / 128 ∈ xs ∧ key ≤ a ∧ a < key + bs.length then bs.getD (a - key) 0 else s.readByte a := by
    induction xs generalizing s with
    | nil => simp
    | cons x xs ih =>
      rw [List.foldl_cons, ih (fun l hl => hx l (List.mem_cons_of_mem _ hl)),
        readByte_homeMerge_run bs s (hx x List.mem_cons_self)]
      by_cases hr : key ≤ a ∧ a < key + bs.length
      · by_cases hm : a / 128 ∈ xs <;> simp [hr, hm]
      · simp [hr]
  have hmem : key ≤ a ∧ a < key + bs.length → a / 128 ∈ linesOf key bs.length := fun hr => by
    simp only [linesOf, List.mem_map, List.mem_range]
    exact ⟨a / 128 - key / 128, by omega, by omega⟩
  refine (reads _ (fun _ => linesOf_host h) s).trans ?_
  by_cases hr : key ≤ a ∧ a < key + bs.length
  · rw [if_pos ⟨hmem hr, hr⟩, if_pos hr]
  · rw [if_neg fun hx => hr hx.2, if_neg hr]
end

end Sys2Proof.Machine
end

section
/-!
The event queue (R270): a record that is written, one that is lost, and the report of those lost.
-/

namespace Sys2Proof.Machine

theorem getD_bytesOfNat {n j : Nat} (h : j < n) (x : Nat) : (bytesOfNat n x).getD j 0 = BitVec.ofNat 8 (x / 256 ^ j) := by
  induction n generalizing x j with
  | zero => omega
  | succ n ih =>
    cases j with
    | zero => simp [bytesOfNat]
    | succ j =>
      rw [bytesOfNat, List.getD_cons_succ, ih (by omega), Nat.div_div_eq_div_mul, Nat.pow_succ']

theorem length_eventBytes (r : EventRec) (phase : Bool) : (r.bytes phase).length = 64 := by
  simp [EventRec.bytes, length_bytesOfNat]

/-- A record in its place of the ring, and WRITTEN after it (R270). -/
def State.layEvent (s : State) (c : Ctx) (r : EventRec) : State :=
  (s.homeWrite (hostKey (c.evtRing + 64 * (c.evtWritten % 2 ^ c.evtLog2))) (r.bytes (c.evtWritten / 2 ^ c.evtLog2 % 2 == 0))).homeWrite
    (hostKey c.evtCtl) (bytesOfNat 8 (c.evtWritten + 1))

theorem hostKey_host (a : Nat) : regionSize ≤ hostKey a := Nat.le_add_right _ _

theorem layEvent_writesHost (s : State) (c : Ctx) (r : EventRec) : s.WritesHost (s.layEvent c r) :=
  (homeWrite_writesHost (hostKey_host _) _ s).trans (homeWrite_writesHost (hostKey_host _) _ _)

theorem readByte_layEvent (s : State) (c : Ctx) (r : EventRec) (a : Nat) : (s.layEvent c r).readByte a =
    let ring := hostKey (c.evtRing + 64 * (c.evtWritten % 2 ^ c.evtLog2))
    let ctl := hostKey c.evtCtl
    if ctl ≤ a ∧ a < ctl + 8 then BitVec.ofNat 8 ((c.evtWritten + 1) / 256 ^ (a - ctl))
    else if ring ≤ a ∧ a < ring + 64 then (r.bytes (c.evtWritten / 2 ^ c.evtLog2 % 2 == 0)).getD (a - ring) 0
    else s.readByte a := by
  rw [State.layEvent, readByte_homeWrite_host (hostKey_host _), readByte_homeWrite_host (hostKey_host _), length_bytesOfNat,
    length_eventBytes]
  dsimp only
  split
  · exact getD_bytesOfNat (by omega) _
  · rfl

/-- Where there is room, the record is written, and the interrupt of the context's function goes out. -/
theorem writeEvent_eq {s : State} {n : Nat} {c : Ctx} (hc : s.ctx? n = some c) (hroom : s.eventRoom c = true) (r : EventRec) :
    ∃ v k, s.writeEvent n r = { (s.layEvent c r).modCtx n fun c' => { c' with evtWritten := c.evtWritten + 1 } with
      out := .msix c.function v :: (s.layEvent c r).out, oracle := k } := by
  rw [State.writeEvent, hc]
  simp only [hroom, Bool.not_true, Bool.false_eq_true, if_false]
  exact ⟨_, _, rfl⟩

theorem writeEvent_wrote {s : State} {n : Nat} {c : Ctx} (hc : s.ctx? n = some c) (hroom : s.eventRoom c = true) (r : EventRec) :
    s.Wrote n r (s.writeEvent n r) ∧ (s.writeEvent n r).team = s.team ∧ (s.writeEvent n r).others = s.others ∧
      ∃ ds, (s.writeEvent n r).ctx? n = some { c with evtWritten := c.evtWritten + 1, evtDue := ds } := by
  obtain ⟨v, k, e⟩ := writeEvent_eq hc hroom r
  obtain ⟨hframe, howed⟩ := layEvent_writesHost s c r
  obtain ⟨ds, hds⟩ := howed n c hc
  have hctx : (s.writeEvent n r).ctx? n = some { c with evtWritten := c.evtWritten + 1, evtDue := ds } := by
    have hm := ctx_modCtx_self (s.layEvent c r) n fun c' => { c' with evtWritten := c.evtWritten + 1 }
    rw [hds] at hm
    rw [e]
    exact hm
  have read (a : Nat) : (s.writeEvent n r).readByte a = (s.layEvent c r).readByte a := by rw [e]; rfl
  refine ⟨fun c' hc' => ?_, ?_, ?_, ds, hctx⟩
  · obtain rfl : c = c' := Option.some.inj (hc.symm.trans hc')
    intro ring ctl hdisj
    refine ⟨fun j hj => ?_, fun j hj => ?_, fun a hr hctl => ?_, ⟨_, hctx, rfl⟩, v, ?_⟩
    · rw [read, readByte_layEvent, if_neg (by omega), if_pos (by omega), Nat.add_sub_cancel_left]
    · rw [read, readByte_layEvent, if_pos (by omega), Nat.add_sub_cancel_left]
    · rw [read, readByte_layEvent, if_neg hctl, if_neg hr]
    · rw [e]
      change _ :: (s.layEvent c r).out = _
      rw [hframe]
  · rw [e]
    change (s.layEvent c r).team = _
    rw [hframe]
  · rw [e]
    change (s.layEvent c r).others = _
    rw [hframe]

/-- A record that finds no room is counted. -/
theorem writeEvent_lost {s : State} {n : Nat} {c : Ctx} (hc : s.ctx? n = some c) (hroom : s.eventRoom c = false) (r : EventRec) :
    s.writeEvent n r = s.modCtx n fun c => { c with evtLost := c.evtLost + 1 } := by
  rw [State.writeEvent, hc]
  simp [hroom]

end Sys2Proof.Machine
end

section
/-!
Containment freezes and the records of a context (R269, R270), where none of its speculations runs.
-/

namespace Sys2Proof.Machine

/-- The record stands there also for a state whose context differs in nothing that places it. -/
theorem State.Wrote.of_modCtx {s t : State} {n : Nat} {r : EventRec} {f : Ctx → Ctx}
    (h : (s.modCtx n f).Wrote n r t) (hf : ∀ c, (f c).evtRing = c.evtRing ∧ (f c).evtCtl = c.evtCtl ∧ (f c).evtLog2 = c.evtLog2 ∧
      (f c).evtWritten = c.evtWritten ∧ (f c).function = c.function) : s.Wrote n r t := by
  intro c hc
  obtain ⟨hring, hctl, hlog, hwritten, hfn⟩ := hf c
  have := h (f c) (by rw [ctx_modCtx_self, hc]; rfl)
  rwa [hring, hctl, hlog, hwritten, hfn] at this

theorem State.Wrote.modCtx {s t : State} {n : Nat} {r : EventRec} {f : Ctx → Ctx} (h : s.Wrote n r t)
    (hf : ∀ c, (f c).evtWritten = c.evtWritten) : s.Wrote n r (t.modCtx n f) := by
  intro c hc ring ctl hdisj
  obtain ⟨hring, hctl, helse, ⟨c', hc', hw⟩, hout⟩ := h c hc hdisj
  exact ⟨hring, hctl, helse, ⟨f c', by rw [ctx_modCtx_self, hc']; rfl, (hf c').trans hw⟩, hout⟩

section
variable {s : State} {n : Nat} {c : Ctx} (hc : s.ctx? n = some c)

theorem freeze_of_none (h : ∀ p ∈ s.specs, p.ctx ≠ n) : s.freeze n = s.modCtx n fun c => { c with frozen := true } := by
  have hnil : s.specs.filter (fun p => p.ctx == n) = [] := by simpa using h
  unfold State.freeze State.discardSpecs
  change List.foldl _ _ (s.specs.filter fun p => p.ctx == n) = _
  rw [hnil]
  rfl

include hc

/-- Where no record was lost, those that are owed are written in their order. -/
theorem serveEvents_due (hl : c.evtLost = 0) :
    s.serveEvents n = c.evtDue.foldl (fun s r => s.writeEvent n r) (s.modCtx n fun c => { c with evtDue := [] }) := by
  have hlost : s.writeLost n = s := by simp [State.writeLost, hc, hl]
  rw [State.serveEvents, hc]
  simp only [hlost]

/-- Once there is room, the records lost are reported. -/
theorem serveEvents_lost (hl : c.evtLost ≠ 0) (hd : c.evtDue = []) (hroom : s.eventRoom c = true) :
    s.serveEvents n = ((s.modCtx n fun c => { c with evtLost := 0 }).writeEvent n
      { EventRec.plain 6 n s.domainClock with number := c.evtLost, flags := if c.viral then 8 else 0 }).modCtx n
        fun c => { c with evtDue := [] } := by
  rw [State.serveEvents, hc]
  simp [State.writeLost, hc, hl, hroom, hd]

/-- A freeze of a context that is not viral and runs nothing speculatively marks it, and serves its events. -/
theorem containmentFreeze_eq (hs : ∀ p ∈ s.specs, p.ctx ≠ n) (hv : c.viral = false) :
    exec (.containmentFreeze n) s = .next ((s.modCtx n fun c => { c with frozen := true }).serveEvents n) := by
  change execContainmentFreeze n s = _
  have hany : ((s.modCtx n fun c => { c with frozen := true }).ctx? n).any Ctx.viral = false := by
    rw [ctx_modCtx_self, hc]
    exact hv
  simp only [execContainmentFreeze, freeze_of_none hs, hany, Bool.false_eq_true, if_false]

/-- The freeze of a context without records to write. -/
theorem containmentFreeze_quiet (hs : ∀ p ∈ s.specs, p.ctx ≠ n) (hv : c.viral = false) (hl : c.evtLost = 0) (hd : c.evtDue = []) :
    ∃ t, exec (.containmentFreeze n) s = .next t ∧ t = { s with ctxs := t.ctxs } ∧
      t.ctx? n = some { c with frozen := true } ∧ ∀ m, m ≠ n → t.ctx? m = s.ctx? m := by
  have hc' : (s.modCtx n fun c => { c with frozen := true }).ctx? n = some { c with frozen := true } := by
    rw [ctx_modCtx_self, hc]
    rfl
  refine ⟨_, containmentFreeze_eq hc hs hv, ?_⟩
  rw [serveEvents_due hc' hl, hd]
  refine ⟨rfl, ?_, fun m hm => ?_⟩
  · rw [List.foldl_nil, ctx_modCtx_self, hc', Option.map_some, ← hd]
  · rw [List.foldl_nil, ctx_modCtx, if_neg hm, ctx_modCtx, if_neg hm]

/-- The freeze of a context with one record to write. -/
theorem containmentFreeze_writes (hs : ∀ p ∈ s.specs, p.ctx ≠ n) (hv : c.viral = false) (hl : c.evtLost = 0) {r : EventRec}
    (hd : c.evtDue = [r]) (hroom : s.eventRoom c = true) :
    ∃ t, exec (.containmentFreeze n) s = .next t ∧ s.Wrote n r t ∧ t.team = s.team ∧ t.others = s.others := by
  have hc' : (s.modCtx n fun c => { c with frozen := true }).ctx? n = some { c with frozen := true } := by
    rw [ctx_modCtx_self, hc]
    rfl
  let u := (s.modCtx n fun c => { c with frozen := true }).modCtx n fun c => { c with evtDue := [] }
  have hu : u.ctx? n = some { c with frozen := true, evtDue := [] } := by
    rw [ctx_modCtx_self, hc']
    rfl
  obtain ⟨hwrote, hteam, hothers, -⟩ := writeEvent_wrote hu hroom r
  refine ⟨_, containmentFreeze_eq hc hs hv, ?_⟩
  rw [serveEvents_due hc' hl, hd]
  exact ⟨(hwrote.of_modCtx fun _ => ⟨rfl, rfl, rfl, rfl, rfl⟩).of_modCtx fun _ => ⟨rfl, rfl, rfl, rfl, rfl⟩, hteam, hothers⟩

/-- A record that finds no room is counted, and no other context changes. -/
theorem eventLost_counts (hl : c.evtLost = 0) {r : EventRec} (hd : c.evtDue = [r]) (hroom : s.eventRoom c = false) :
    ∃ t, exec (.eventLost n) s = .next t ∧ t = { s with ctxs := t.ctxs } ∧
      t.ctx? n = some { c with evtDue := [], evtLost := 1 } ∧ ∀ m, m ≠ n → t.ctx? m = s.ctx? m := by
  have hu : (s.modCtx n fun c => { c with evtDue := [] }).ctx? n = some { c with evtDue := [] } := by
    rw [ctx_modCtx_self, hc]
    rfl
  refine ⟨s.serveEvents n, rfl, ?_⟩
  rw [serveEvents_due hc hl, hd, List.foldl_cons, List.foldl_nil, writeEvent_lost hu hroom]
  refine ⟨rfl, ?_, fun m hm => ?_⟩
  · rw [ctx_modCtx_self, hu, Option.map_some, hl]
  · rw [ctx_modCtx, if_neg hm, ctx_modCtx, if_neg hm]

/-- The LOST record, with the number of those lost. -/
theorem eventLost_reports (hl : c.evtLost ≠ 0) (hd : c.evtDue = []) (hroom : s.eventRoom c = true) :
    ∃ t, exec (.eventLost n) s = .next t ∧
      s.Wrote n { EventRec.plain 6 n s.domainClock with number := c.evtLost, flags := if c.viral then 8 else 0 } t ∧
      ∃ c', t.ctx? n = some c' ∧ c'.evtLost = 0 := by
  have hu : (s.modCtx n fun c => { c with evtLost := 0 }).ctx? n = some { c with evtLost := 0 } := by
    rw [ctx_modCtx_self, hc]
    rfl
  obtain ⟨hwrote, -, -, ds, hctx⟩ := writeEvent_wrote hu hroom
    { EventRec.plain 6 n s.domainClock with number := c.evtLost, flags := if c.viral then 8 else 0 }
  refine ⟨s.serveEvents n, rfl, ?_⟩
  rw [serveEvents_lost hc hl hd hroom]
  exact ⟨(hwrote.of_modCtx fun _ => ⟨rfl, rfl, rfl, rfl, rfl⟩).modCtx fun _ => rfl, _,
    by rw [ctx_modCtx_self, hctx]; rfl, rfl⟩

end

end Sys2Proof.Machine
end

section
/-!
What ends or writes, and begins nothing: no speculation, gang, launch or packet is there that was not there before, a queue that
has stopped stays so, and contexts stand as they stood (R269, R272).
-/

namespace Sys2Proof.Machine

/-! ## The relation -/

/-- A context stands as another: frozen, killed or viral where that is. -/
def Ctx.StandsAs (d c : Ctx) : Prop := d.frozen = c.frozen ∧ d.killed = c.killed ∧ d.viral = c.viral

/-- A queue of the same context, stopped and empty where the other is. -/
def Queue.After (q' q : Queue) : Prop :=
  q'.ctx = q.ctx ∧ (q.stopped = true → q'.stopped = true) ∧ (q.packets = [] → q'.packets = [])

theorem Queue.After.refl (q : Queue) : q.After q := ⟨rfl, id, id⟩

/-- Nothing has begun between `s` and `t`. -/
structure State.Ebbs (s t : State) : Prop where
  specs : ∀ p ∈ t.specs, p ∈ s.specs
  gangs : ∀ g ∈ t.gangs, ∃ x ∈ s.gangs, x.ticket = g.ticket ∧ x.ctx = g.ctx
  launches : ∀ l ∈ t.launches, l ∈ s.launches
  engines : t.engines = s.engines
  queues : ∀ slot q', t.queue? slot = some q' → ∃ q, s.queue? slot = some q ∧ q'.After q
  ctxs : ∀ n c, s.ctx? n = some c → ∃ d, t.ctx? n = some d ∧ d.StandsAs c

namespace State.Ebbs
variable {s t u : State}

theorem trans (h : s.Ebbs t) (h' : t.Ebbs u) : s.Ebbs u where
  specs p hp := h.specs p (h'.specs p hp)
  gangs g hg := by
    obtain ⟨x, hx, hk, hc⟩ := h'.gangs g hg
    obtain ⟨y, hy, hk', hc'⟩ := h.gangs x hx
    exact ⟨y, hy, hk'.trans hk, hc'.trans hc⟩
  launches l hl := h.launches l (h'.launches l hl)
  engines := h'.engines.trans h.engines
  queues slot q hq := by
    obtain ⟨q', hq', hc, hs, hp⟩ := h'.queues slot q hq
    obtain ⟨q'', hq'', hc', hs', hp'⟩ := h.queues slot q' hq'
    exact ⟨q'', hq'', hc.trans hc', fun h => hs (hs' h), fun h => hp (hp' h)⟩
  ctxs n c hc := by
    obtain ⟨d, hd, hf, hk, hv⟩ := h.ctxs n c hc
    obtain ⟨e, he, hf', hk', hv'⟩ := h'.ctxs n d hd
    exact ⟨e, he, hf'.trans hf, hk'.trans hk, hv'.trans hv⟩

/-- Some of the speculations, gangs and launches, and everything else the relation names as it was. -/
theorem of_subsets (hs : t.specs ⊆ s.specs) (hg : t.gangs ⊆ s.gangs) (hl : t.launches ⊆ s.launches) (he : t.engines = s.engines)
    (hq : t.queues = s.queues) (hc : t.ctxs = s.ctxs) : s.Ebbs t where
  specs _ hp := hs hp
  gangs g h := ⟨g, hg h, rfl, rfl⟩
  launches _ h := hl h
  engines := he
  queues slot q h := ⟨q, by rw [State.queue?, ← hq]; exact h, .refl q⟩
  ctxs n c h := ⟨c, by rw [State.ctx?, hc]; exact h, rfl, rfl, rfl⟩

theorem of_fields (hs : t.specs = s.specs) (hg : t.gangs = s.gangs) (hl : t.launches = s.launches) (he : t.engines = s.engines)
    (hq : t.queues = s.queues) (hc : t.ctxs = s.ctxs) : s.Ebbs t :=
  of_subsets (fun _ h => hs ▸ h) (fun _ h => hg ▸ h) (fun _ h => hl ▸ h) he hq hc

theorem refl (s : State) : s.Ebbs s := of_fields rfl rfl rfl rfl rfl rfl

theorem foldl {α : Type} {f : State → α → State} (hf : ∀ (s : State) a, s.Ebbs (f s a)) (xs : List α) (s : State) :
    s.Ebbs (xs.foldl f s) :=
  foldl_keeps (P := s.Ebbs) (fun t a ht => ht.trans (hf t a)) xs (refl s)

/-- What each step of a run of them brings about for its item holds for every item at the end, if it lasts. -/
theorem foldl_all {α : Type} {f : State → α → State} {P : α → State → Prop} (hf : ∀ (s : State) a, s.Ebbs (f s a))
    (hp : ∀ (s : State) a, P a (f s a)) (lasts : ∀ {s t : State} {a : α}, s.Ebbs t → P a s → P a t) {xs : List α} {a : α}
    (h : a ∈ xs) (s : State) : P a (xs.foldl f s) := by
  induction xs generalizing s with
  | nil => cases h
  | cons x xs ih =>
    obtain rfl | h := List.mem_cons.1 h
    · exact lasts (foldl hf xs (f s a)) (hp s a)
    · exact ih h (f s x)

theorem modCtx (s : State) (n : Nat) {f : Ctx → Ctx} (hf : ∀ c, (f c).StandsAs c) : s.Ebbs (s.modCtx n f) where
  specs _ h := h
  gangs g h := ⟨g, h, rfl, rfl⟩
  launches _ h := h
  engines := rfl
  queues _ q h := ⟨q, h, .refl q⟩
  ctxs m c hc := by
    rw [ctx_modCtx, hc]
    split
    · exact ⟨f c, rfl, hf c⟩
    · exact ⟨c, rfl, rfl, rfl, rfl⟩

theorem modQueue (s : State) (slot : Nat) {f : Queue → Queue} (hf : ∀ q, (f q).After q) : s.Ebbs (s.modQueue slot f) where
  specs _ h := h
  gangs g h := ⟨g, h, rfl, rfl⟩
  launches _ h := h
  engines := rfl
  queues k q h := by
    rw [State.queue?, State.modQueue, SMap.find_modify] at h
    split at h
    · obtain ⟨q0, hq0, rfl⟩ := Option.map_eq_some_iff.1 h
      exact ⟨q0, hq0, hf q0⟩
    · exact ⟨q, h, .refl q⟩
  ctxs _ c h := ⟨c, h, rfl, rfl, rfl⟩

theorem modGang (s : State) (k : Nat) {f : Gang → Gang} (hf : ∀ g, (f g).ticket = g.ticket ∧ (f g).ctx = g.ctx) :
    s.Ebbs (s.modGang k f) where
  specs _ h := h
  gangs g h := by
    obtain ⟨x, hx, rfl⟩ := List.mem_map.1 h
    refine ⟨x, hx, ?_⟩
    split
    · exact ⟨(hf x).1.symm, (hf x).2.symm⟩
    · exact ⟨rfl, rfl⟩
  launches _ h := h
  engines := rfl
  queues _ q h := ⟨q, h, .refl q⟩
  ctxs _ c h := ⟨c, h, rfl, rfl, rfl⟩

/-- A write to host memory begins nothing. -/
theorem of_writesHost (h : s.WritesHost t) : s.Ebbs t where
  specs p hp := by rwa [h.frame] at hp
  gangs g hg := ⟨g, by rwa [h.frame] at hg, rfl, rfl⟩
  launches l hl := by rwa [h.frame] at hl
  engines := by rw [h.frame]
  queues slot q hq := ⟨q, by rwa [State.queue?, h.frame] at hq, .refl q⟩
  ctxs n c hc := by
    obtain ⟨ds, hd⟩ := h.owed n c hc
    exact ⟨_, hd, rfl, rfl, rfl⟩

end State.Ebbs

/-! ## Discarding -/

theorem dropGang_ebbs (s : State) (k : Nat) : s.Ebbs (s.dropGang k) :=
  .of_subsets (fun _ h => h) (List.filter_subset_self _) (fun _ h => h) rfl rfl rfl

theorem freeArgs_ebbs (s : State) (l : Launch) : s.Ebbs (s.freeArgs l) := by
  have unmapped (n page : Nat) : s.Ebbs (s.unmapPage n page) :=
    (State.Ebbs.modCtx s n (f := fun c => { c with ptes := c.ptes.put 0 page 0 }) fun _ => ⟨rfl, rfl, rfl⟩).trans
      (.of_fields rfl rfl rfl rfl rfl rfl)
  unfold State.freeArgs
  dsimp only
  split
  · exact .refl s
  · refine (unmapped l.ctx (l.args.cur / 65536)).trans ?_
    split
    · exact .refl _
    · split
      · exact .of_fields rfl rfl rfl rfl rfl rfl
      · exact .modCtx _ _ fun _ => ⟨rfl, rfl, rfl⟩
      · exact .modCtx _ _ fun _ => ⟨rfl, rfl, rfl⟩

theorem discardSpec_ebbs (s : State) (id code : Nat) : s.Ebbs (s.discardSpec id code) := by
  unfold State.discardSpec
  split
  case h_1 => exact .refl s
  case h_2 p _ =>
    have gone := (State.Ebbs.foldl dropGang_ebbs ((s.gangs.filter fun g => g.spec = some id).map Gang.ticket) s).trans
      (.foldl freeArgs_ebbs ((s.launches.filter fun (l : Launch) => l.id == p.launch)) _)
    exact gone.trans (.of_subsets (List.filter_subset_self _) (fun _ h => h) (List.filter_subset_self _) rfl rfl rfl)

theorem discardSpecs_ebbs (s : State) (code : Nat) (f : Spec → Bool) : s.Ebbs (s.discardSpecs code f) :=
  .foldl (f := fun s (p : Spec) => s.discardSpec p.id code) (fun s p => discardSpec_ebbs s p.id code) _ s

/-! ## Writes at the homes -/

theorem homeChanged_ebbs (s : State) (line : Nat) : s.Ebbs (s.homeChanged line) := by
  have woken : s.Ebbs (s.wake line) := .of_fields rfl rfl rfl rfl rfl rfl
  unfold State.homeChanged
  dsimp only
  split
  · exact (woken.trans (discardSpecs_ebbs _ _ _)).trans (discardSpecs_ebbs _ _ _)
  · exact woken

theorem injected_ebbs (s : State) (kind ctx : Nat) : s.Ebbs (s.injected kind ctx).2 := by
  unfold State.injected
  dsimp only
  repeat' split
  all_goals exact .of_fields rfl rfl rfl rfl rfl rfl

theorem injectMerge_ebbs (s : State) (ctx line : Nat) : s.Ebbs (s.injectMerge ctx line) := by
  have h := fun kind => injected_ebbs s kind ctx
  unfold State.injectMerge
  split
  · exact h 0
  · dsimp only
    split
    · exact (h 1).trans (.of_fields rfl rfl rfl rfl rfl rfl)
    · exact h 1
  · dsimp only
    split
    · exact (h 2).trans (.of_fields rfl rfl rfl rfl rfl rfl)
    · exact h 2
  · exact .refl s

theorem admitted_ebbs (s : State) (line : Nat) (c : Copy) (made : Bool) : s.Ebbs (s.admitted line c made) := by
  have events : s.Ebbs (s.eventsOf line c) := by
    unfold State.eventsOf
    split
    · exact .foldl (f := fun s (x : Nat × BitVec 128) => s.injectMerge x.1 line) (fun s x => injectMerge_ebbs s x.1 line) _ s
    · exact .refl s
  unfold State.admitted
  dsimp only
  split
  · exact events.trans (.of_writesHost (failNotice_writesHost _ line))
  · exact events

theorem homeMerge_ebbs (s : State) (line : Nat) (c : Copy) (made : Bool) : s.Ebbs (s.homeMerge line c made) := by
  have bytes (s : State) : s.Ebbs (s.layBytes line c) :=
    .foldl (f := fun s _ => s.writeByte _ _) (fun _ _ => .of_fields rfl rfl rfl rfl rfl rfl) _ s
  have tags (s : State) : s.Ebbs (s.layTags line c) :=
    .foldl (f := fun s _ => s.setTag _ _) (fun _ _ => .of_fields rfl rfl rfl rfl rfl rfl) _ s
  have checked (s : State) : s.Ebbs ((s.unpoisoned line c).makeCheck line) := by
    unfold State.unpoisoned
    split <;> exact .of_fields rfl rfl rfl rfl rfl rfl
  rw [homeMerge_eq]
  exact (((admitted_ebbs s line c made).trans (bytes _)).trans (tags _)).trans ((checked _).trans (homeChanged_ebbs _ line))

theorem homeWrite_ebbs (s : State) (key : Nat) (bs : List Byte) : s.Ebbs (s.homeWrite key bs) :=
  .foldl (fun s line => homeMerge_ebbs s line _ true) _ s

/-! ## Cached copies -/

theorem writeBack_ebbs (s : State) (k : Nat) : s.Ebbs (s.writeBack k) := by
  have passed (s : State) (cl line writer : Nat) (c : Copy) : s.Ebbs (s.toCluster cl line writer c) := by
    unfold State.toCluster
    dsimp only
    split
    · exact .of_fields rfl rfl rfl rfl rfl rfl
    · refine State.Ebbs.trans ?_ (homeMerge_ebbs _ line c false)
      exact .of_fields rfl rfl rfl rfl rfl rfl
  have cleaned (m : SMap Copy) : s.Ebbs { s with copies := m } := .of_fields rfl rfl rfl rfl rfl rfl
  unfold State.writeBack
  split
  · exact .refl s
  · split
    · exact .refl s
    · dsimp only
      split
      · exact (cleaned _).trans (passed _ _ _ _ _)
      · exact (cleaned _).trans (homeMerge_ebbs _ _ _ _)

theorem evictAll_ebbs (s : State) (p : Nat → Bool) : s.Ebbs (s.evictAll p) := by
  have one (s : State) (k : Nat) : s.Ebbs (s.evict k) := (writeBack_ebbs s k).trans (.of_fields rfl rfl rfl rfl rfl rfl)
  exact (State.Ebbs.foldl one _ s).trans (.foldl one _ _)

theorem cohWrite_ebbs (s : State) (line : Nat) (c : Copy) (made bad : Bool) : s.Ebbs (s.cohWrite line c made bad) := by
  refine (evictAll_ebbs s fun k => copyLine k == line).trans ?_
  unfold State.cohWrite State.arrive
  dsimp only
  split
  · split
    · exact (homeMerge_ebbs _ line c made).trans (.of_fields rfl rfl rfl rfl rfl rfl)
    · exact homeMerge_ebbs _ line c made
  · refine State.Ebbs.trans ?_ (.foldl (f := fun s h => s.send (.snoop h line)) (fun _ _ => .of_fields rfl rfl rfl rfl rfl rfl) _ _)
    exact .of_fields rfl rfl rfl rfl rfl rfl

end Sys2Proof.Machine
end

section
/-!
What begins nothing, above single writes (R215, R229, R233, R270, R272, R279): events, held reductions, queues that stop, gangs
that end.
-/

namespace Sys2Proof.Machine

/-! ## Events -/

theorem writeEvent_ebbs (s : State) (n : Nat) (r : EventRec) : s.Ebbs (s.writeEvent n r) := by
  cases hc : s.ctx? n with
  | none => rw [State.writeEvent, hc]; exact .refl s
  | some c =>
    cases hroom : s.eventRoom c with
    | false =>
      rw [writeEvent_lost hc hroom]
      exact .modCtx s n fun _ => ⟨rfl, rfl, rfl⟩
    | true =>
      obtain ⟨v, k, e⟩ := writeEvent_eq hc hroom r
      rw [e]
      exact ((State.Ebbs.of_writesHost (layEvent_writesHost s c r)).trans
        (.modCtx _ n (f := fun c' => { c' with evtWritten := c.evtWritten + 1 }) fun _ => ⟨rfl, rfl, rfl⟩)).trans
        (.of_fields rfl rfl rfl rfl rfl rfl)

theorem serveEvents_ebbs (s : State) (n : Nat) : s.Ebbs (s.serveEvents n) := by
  have lost : s.Ebbs (s.writeLost n) := by
    unfold State.writeLost
    split
    · exact .refl s
    · split
      · exact .refl s
      · exact (State.Ebbs.modCtx s n (f := fun c => { c with evtLost := 0 }) fun _ => ⟨rfl, rfl, rfl⟩).trans (writeEvent_ebbs _ n _)
  unfold State.serveEvents
  split
  · exact .refl s
  · exact (lost.trans (.modCtx _ n (f := fun c => { c with evtDue := [] }) fun _ => ⟨rfl, rfl, rfl⟩)).trans
      (.foldl (f := fun s r => s.writeEvent n r) (fun s r => writeEvent_ebbs s n r) _ _)

theorem owe_ebbs (s : State) (r : EventRec) : s.Ebbs (s.owe r) := .modCtx s r.ctx fun _ => ⟨rfl, rfl, rfl⟩

/-! ## Held reductions -/

theorem tick_ebbs (s : State) : s.Ebbs s.tick := .of_fields rfl rfl rfl rfl rfl rfl
theorem withMerges_ebbs (s : State) (ms : List Merge) : s.Ebbs { s with merges := ms } := .of_fields rfl rfl rfl rfl rfl rfl
theorem modTeam_ebbs (s : State) (i : TeamId) (f : Team → Team) : s.Ebbs (s.modTeam i f) := .of_fields rfl rfl rfl rfl rfl rfl

theorem unstall_ebbs (s : State) (i : TeamId) : s.Ebbs (s.unstall i) := by
  unfold State.unstall
  split <;> exact .of_fields rfl rfl rfl rfl rfl rfl

theorem settle_ebbs (s : State) (i : TeamId) (k req : Nat) (f : Pending → Pending) : s.Ebbs (s.settle i k req f) := by
  have base := (modTeam_ebbs s i fun t =>
    { t with
      pending := t.pending.map fun p =>
        if p.id = k then f { p with waits := p.waits.filter fun w => w != req } else p }).trans (unstall_ebbs _ i)
  unfold State.settle
  refine base.trans ?_
  dsimp only
  split
  · exact .refl _
  · split
    · exact .of_fields rfl rfl rfl rfl rfl rfl
    · exact .refl _

theorem injectRead_ebbs (s : State) (ctx line : Nat) (home : Bool) : s.Ebbs (s.injectRead ctx line home) := by
  have h := fun kind => injected_ebbs s kind ctx
  unfold State.injectRead
  split
  · exact .refl s
  · split
    · exact h 0
    · dsimp only
      split
      · exact ((h 1).trans (evictAll_ebbs _ _)).trans (.of_fields rfl rfl rfl rfl rfl rfl)
      · exact h 1
    · split
      · exact .refl s
      · dsimp only
        split
        · exact (h 2).trans (.of_fields rfl rfl rfl rfl rfl rfl)
        · exact h 2
    · exact .refl s

theorem atHome_ebbs (s : State) (cl key n : Nat) (coh : Bool) (f : Nat → Option Nat) (ctx : Option Nat) :
    s.Ebbs (s.atHome cl key n coh f ctx).2 := by
  let read := match ctx with
    | some c => s.injectRead c (key / 128)
    | none => s
  have hread : s.Ebbs read := by
    cases ctx with
    | none => exact .refl s
    | some c => exact injectRead_ebbs s c _ _
  let home := if coh then read.evictAll fun k => copyLine k == key / 128 else read.settleLine cl (key / 128)
  have hhome : s.Ebbs home := by
    refine hread.trans ?_
    cases coh <;> exact evictAll_ebbs read _
  have hverify : home.Ebbs (home.verifyHome (key / 128)).1 := by
    unfold State.verifyHome
    split
    · exact .of_writesHost (failNotice_writesHost home _)
    · split <;> exact .refl home
  change s.Ebbs (match home.verifyHome (key / 128) with
    | (s, some e) => (.error e, s)
    | (s, none) => match f (natOfBytes (s.readBytes key n)) with
      | some x => (.ok (natOfBytes (s.readBytes key n)), if coh then s.cohWrite (key / 128)
          (Copy.empty.write (key % 128) (bytesOfNat n x) false) else s.homeWrite key (bytesOfNat n x))
      | none => (.ok (natOfBytes (s.readBytes key n)), s) : Except Nat Nat × State).2
  generalize home.verifyHome (key / 128) = r at hverify ⊢
  obtain ⟨t, e⟩ := r
  refine (hhome.trans hverify).trans ?_
  cases e with
  | some e => exact .refl t
  | none =>
    dsimp only
    split
    · dsimp only
      split
      · exact cohWrite_ebbs t _ _ _ _
      · exact homeWrite_ebbs t _ _
    · exact .refl t

theorem performMerge_ebbs (s : State) (m : Merge) : s.Ebbs (s.performMerge m) := by
  unfold State.performMerge
  split
  · exact cohWrite_ebbs s _ _ _ _
  · dsimp only
    have home := (withMerges_ebbs s (s.merges.filter fun x => x.id != m.id)).trans (atHome_ebbs _
      ((s.gang? m.team.ticket).elim 0 fun g => clusterOf (g.coreOf m.team.gx m.team.gy)) m.key m.n m.coh (fun old => some (atomNew m.op m.n old m.operand.toNat)) (some m.ctx))
    split
    next h => exact (show s.Ebbs _ by rw [h] at home; exact home).trans (settle_ebbs _ _ _ _ _)
    next h => exact (show s.Ebbs _ by rw [h] at home; exact home).trans (settle_ebbs _ _ _ _ _)

theorem performMerges_ebbs (n : Nat) (s : State) (p : Merge → Bool) : s.Ebbs (State.performMerges n s p) := by
  induction n generalizing s with
  | zero => exact .refl s
  | succ n ih =>
    unfold State.performMerges
    dsimp only
    split
    · exact .refl s
    · split
      · exact ((withMerges_ebbs s _).trans (settle_ebbs _ _ _ _ _)).trans ((tick_ebbs _).trans (ih _))
      · exact (performMerge_ebbs s _).trans ((tick_ebbs _).trans (ih _))

end Sys2Proof.Machine
end

section
/-!
Queues that stop and gangs that end begin nothing, and what they leave behind (R229, R233, R272, R279).
-/

namespace Sys2Proof.Machine

/-! ## Gangs -/

theorem freeArea_ebbs (s : State) (k : Nat) : s.Ebbs (s.freeArea k) := by
  cases hg : s.gang? k with
  | none => rw [State.freeArea, hg]; exact .refl s
  | some g =>
    have owned : s.Ebbs { s with owner := g.area.foldl (fun m f => SMap.put 0 m f (g.ctx + 1)) s.owner } :=
      .of_fields rfl rfl rfl rfl rfl rfl
    rw [freeArea_eq hg]
    exact (owned.trans (.modCtx _ g.ctx (f := fun c => { c with pool := c.pool ++ g.area }) fun _ => ⟨rfl, rfl, rfl⟩)).trans
      (.modGang _ k fun _ => ⟨rfl, rfl⟩)

theorem endGang_ebbs (s : State) (k : Nat) : s.Ebbs (s.endGang k) :=
  ((performMerges_ebbs _ s _).trans (freeArea_ebbs _ k)).trans (dropGang_ebbs _ k)

/-- Discarding a gang leaves none of its ticket. -/
theorem endGang_gone (s : State) (k : Nat) : ∀ g ∈ (s.endGang k).gangs, g.ticket ≠ k := fun g hg => by
  have := (List.mem_filter.1 hg).2
  simpa using this

theorem no_ticket_of_ebbs {s t : State} {k : Nat} (h : s.Ebbs t) (hs : ∀ g ∈ s.gangs, g.ticket ≠ k) : ∀ g ∈ t.gangs, g.ticket ≠ k :=
  fun g hg => by
    obtain ⟨x, hx, e, -⟩ := h.gangs g hg
    exact e ▸ hs x hx

/-! ## Report blocks -/

theorem touch_ebbs (s : State) (n : Nat) (a : Access) (ps : List Part) : s.Ebbs (s.touch (cpWho n) a ps) := by
  have one (s : State) (p : Part) : s.Ebbs ((s.mark (cpWho n) p.page p.pte (p.marks a)).tlbFill (cpWho n) p.page p.pte) := by
    refine (State.Ebbs.modCtx s n (f := fun c => c.markBits p.page p.pte (p.marks a)) fun c => ?_).trans
      (.of_fields rfl rfl rfl rfl rfl rfl)
    unfold Ctx.markBits
    dsimp only
    split <;> exact ⟨rfl, rfl, rfl⟩
  exact .foldl one _ s

theorem storeLine_ebbs (s : State) (core cl line : Nat) (c : Copy) (coh : Bool) : s.Ebbs (s.storeLine core cl line c coh) := by
  have copied (m : SMap Copy) : s.Ebbs { s with copies := m } := .of_fields rfl rfl rfl rfl rfl rfl
  unfold State.storeLine
  split
  · exact homeMerge_ebbs s line c false
  · split
    · exact cohWrite_ebbs s line c _ _
    · dsimp only
      split
      · exact copied _
      · exact (copied _).trans (writeBack_ebbs _ _)

theorem cpWrite_ebbs (s : State) (n va : Nat) (bs : List Byte) : s.Ebbs (s.cpWrite n va bs).2 := by
  have line (s : State) (x : LineWrite) : s.Ebbs (if s.lapsed (cpWho n).spec then s else s.writeLine (cpWho n) x) := by
    split
    · exact .refl s
    · exact storeLine_ebbs s _ _ _ _ _
  unfold State.cpWrite
  split
  · exact .refl s
  · exact (touch_ebbs s n _ _).trans (.foldl line _ _)

theorem report_ebbs (s : State) (slot : Nat) : s.Ebbs (s.report slot).2 := by
  unfold State.report
  split
  · exact .refl s
  · split
    · exact .refl s
    · split
      · exact .refl s
      · split
        · exact .of_fields rfl rfl rfl rfl rfl rfl
        · exact cpWrite_ebbs s _ _ _

theorem reportNow_ebbs (s : State) (slot : Nat) (n : Option Nat) : s.Ebbs (s.reportNow slot n).2 := by
  have owed (t : State) (f : Queue → Option Nat) : t.Ebbs (t.modQueue slot fun q => { q with owed := f q }) :=
    .modQueue t slot fun _ => ⟨rfl, id, id⟩
  have h := report_ebbs s slot
  unfold State.reportNow
  split
  next e => rw [e] at h; exact h.trans (owed _ _)
  next e => rw [e] at h; exact h.trans (owed _ _)
  next e => rw [e] at h; exact h.trans (owed _ _)

/-! ## A queue that stops -/

theorem answerTask_ebbs (s : State) (q : Queue) (p : Packet) (st : Nat) : s.Ebbs (s.answerTask q p st) := by
  unfold State.answerTask
  split <;> exact .of_fields rfl rfl rfl rfl rfl rfl

/-- The queue of a slot, if there is one, has stopped. -/
def State.HaltedAt (slot : Nat) (t : State) : Prop := ∀ q, t.queue? slot = some q → q.stopped = true

/-- The queue of a slot, if there is one, has no packet. -/
def State.EmptyAt (slot : Nat) (t : State) : Prop := ∀ q, t.queue? slot = some q → q.packets = []

section
variable {s t : State} {slot : Nat}

theorem haltedAt_of_ebbs (h : s.Ebbs t) (hs : s.HaltedAt slot) : t.HaltedAt slot := fun q hq => by
  obtain ⟨q0, hq0, -, hst, -⟩ := h.queues slot q hq
  exact hst (hs q0 hq0)

theorem emptyAt_of_ebbs (h : s.Ebbs t) (hs : s.EmptyAt slot) : t.EmptyAt slot := fun q hq => by
  obtain ⟨q0, hq0, -, -, hp⟩ := h.queues slot q hq
  exact hp (hs q0 hq0)

/-- What a change makes of every queue holds for the queue changed. -/
theorem queue_of_modQueue {f : Queue → Queue} {q : Queue} (h : (s.modQueue slot f).queue? slot = some q) :
    ∃ q0, s.queue? slot = some q0 ∧ f q0 = q := by
  rw [State.queue?, State.modQueue, SMap.find_modify_self] at h
  exact Option.map_eq_some_iff.1 h

theorem haltedAt_modQueue (s : State) {f : Queue → Queue} (hf : ∀ q, (f q).stopped = true) : (s.modQueue slot f).HaltedAt slot :=
  fun q hq => by
    obtain ⟨q0, -, rfl⟩ := queue_of_modQueue hq
    exact hf q0

theorem emptyAt_modQueue (s : State) {f : Queue → Queue} (hf : ∀ q, (f q).packets = []) : (s.modQueue slot f).EmptyAt slot :=
  fun q hq => by
    obtain ⟨q0, -, rfl⟩ := queue_of_modQueue hq
    exact hf q0

end

theorem stopQueue_ebbs (s : State) (slot status tag number cause : Nat) : s.Ebbs (s.stopQueue slot status tag number cause) := by
  unfold State.stopQueue
  split
  · exact .refl s
  · split
    · exact owe_ebbs s _
    · dsimp only
      refine State.Ebbs.trans ?_ (discardSpecs_ebbs _ _ _)
      refine State.Ebbs.trans ?_ (owe_ebbs _ _)
      refine State.Ebbs.trans ?_ (reportNow_ebbs _ _ _)
      refine State.Ebbs.trans ?_ (.modQueue _ _ fun q => ⟨rfl, fun _ => rfl, fun h => by simp [h]⟩)
      exact (State.Ebbs.foldl (fun s p => answerTask_ebbs s _ p _) _ s).trans (.foldl (fun s p => answerTask_ebbs s _ p _) _ _)

theorem stopQueue_halts (s : State) (slot status tag number cause : Nat) :
    (s.stopQueue slot status tag number cause).HaltedAt slot := by
  unfold State.stopQueue
  split
  next h => exact fun q hq => by rw [h] at hq; cases hq
  next q h =>
    split
    next hst => exact haltedAt_of_ebbs (owe_ebbs s _) fun q' hq' => Option.some.inj (h.symm.trans hq') ▸ hst
    next =>
      dsimp only
      refine haltedAt_of_ebbs (discardSpecs_ebbs _ _ _) ?_
      refine haltedAt_of_ebbs (owe_ebbs _ _) ?_
      refine haltedAt_of_ebbs (reportNow_ebbs _ _ _) ?_
      exact haltedAt_modQueue _ fun _ => rfl

theorem answerAll_ebbs (s : State) (slot st : Nat) : s.Ebbs (s.answerAll slot st) := by
  unfold State.answerAll
  split
  · exact .refl s
  · dsimp only
    refine State.Ebbs.trans ?_ (.modQueue _ _ fun q => ⟨rfl, id, fun h => by simp [h]⟩)
    exact (State.Ebbs.foldl (fun s p => answerTask_ebbs s _ p _) _ s).trans
      (.foldl (f := fun s (x : List Byte × Option Nat) => s.answerTask _ (newPacket 0 true x.1 x.2 none) _)
        (fun s x => answerTask_ebbs s _ _ _) _ _)

/-! ## Every queue of a context -/

/-- The step of `State.stopViral` for one queue. -/
def State.stopViralAt (s : State) (slot : Nat) : State :=
  match s.queue? slot with
  | some q =>
    if q.stopped then s
    else
      match q.packets.find? Packet.started with
      | some p => s.stopQueue slot stViral p.tag p.num
      | none => s.stopQueue slot stViral 0 0
  | none => s

theorem stopViral_eq (s : State) (n : Nat) : s.stopViral n = (s.queuesOf n).foldl State.stopViralAt s := rfl

theorem stopViralAt_ebbs (s : State) (slot : Nat) : s.Ebbs (s.stopViralAt slot) := by
  unfold State.stopViralAt
  split
  · split
    · exact .refl s
    · split <;> exact stopQueue_ebbs s _ _ _ _ _
  · exact .refl s

theorem stopViralAt_halts (s : State) (slot : Nat) : (s.stopViralAt slot).HaltedAt slot := by
  unfold State.stopViralAt
  split
  next q h =>
    split
    next hst => exact fun q' hq' => Option.some.inj (h.symm.trans hq') ▸ hst
    next => split <;> exact stopQueue_halts s _ _ _ _ _
  next h => exact fun q hq => by rw [h] at hq; cases hq

/-- The step of `State.stopKilled` for one queue. -/
def State.stopKilledAt (s : State) (slot : Nat) : State :=
  match s.queue? slot with
  | some q =>
    let s := s.answerAll slot stDiscarded
    let p := (q.packets.find? Packet.started).getD ⟨0, false, [], .notStarted, none, none, none⟩
    let s := s.modQueue slot fun q => { q with packets := [], retired := q.retired + q.packets.length }
    if q.stopped then s else s.stopQueue slot stDiscarded p.tag p.num
  | none => s

theorem stopKilled_eq (s : State) (n : Nat) : s.stopKilled n = (s.queuesOf n).foldl State.stopKilledAt s := rfl

theorem stopKilledAt_ebbs (s : State) (slot : Nat) : s.Ebbs (s.stopKilledAt slot) := by
  unfold State.stopKilledAt
  split
  · have base := (answerAll_ebbs s slot stDiscarded).trans (.modQueue _ slot
      (f := fun q => { q with packets := [], retired := q.retired + q.packets.length }) fun _ => ⟨rfl, id, fun _ => rfl⟩)
    dsimp only
    split
    · exact base
    · exact base.trans (stopQueue_ebbs _ _ _ _ _ _)
  · exact .refl s

theorem stopKilledAt_ends (s : State) (slot : Nat) : (s.stopKilledAt slot).HaltedAt slot ∧ (s.stopKilledAt slot).EmptyAt slot := by
  unfold State.stopKilledAt
  split
  next q h =>
    have cut := State.Ebbs.modQueue (s.answerAll slot stDiscarded) slot
      (f := fun q => { q with packets := [], retired := q.retired + q.packets.length }) fun _ => ⟨rfl, id, fun _ => rfl⟩
    have empty : ((s.answerAll slot stDiscarded).modQueue slot
      fun q => { q with packets := [], retired := q.retired + q.packets.length }).EmptyAt slot := emptyAt_modQueue _ fun _ => rfl
    dsimp only
    split
    next hst =>
      have halted : s.HaltedAt slot := fun q' hq' => Option.some.inj (h.symm.trans hq') ▸ hst
      exact ⟨haltedAt_of_ebbs ((answerAll_ebbs s slot stDiscarded).trans cut) halted, empty⟩
    next => exact ⟨stopQueue_halts _ _ _ _ _ _, emptyAt_of_ebbs (stopQueue_ebbs _ _ _ _ _ _) empty⟩
  next h => exact ⟨fun q hq => (by rw [h] at hq; cases hq), fun q hq => (by rw [h] at hq; cases hq)⟩

theorem mem_of_find {α : Type} {m : SMap α} {k : Nat} {x : α} (h : m.find? k = some x) : (k, x) ∈ m := by
  induction m with
  | nil => cases h
  | cons hd tl ih =>
    rw [SMap.find_cons] at h
    split at h
    next e => cases h; exact e ▸ List.mem_cons_self
    next => exact List.mem_cons_of_mem _ (ih h)

theorem mem_queuesOf {s : State} {slot n : Nat} {q : Queue} (h : s.queue? slot = some q) (hn : q.ctx = n) : slot ∈ s.queuesOf n :=
  List.mem_map.2 ⟨(slot, q), List.mem_filter.2 ⟨mem_of_find h, by simpa using hn⟩, rfl⟩

theorem stopViral_ebbs (s : State) (n : Nat) : s.Ebbs (s.stopViral n) := .foldl stopViralAt_ebbs _ s
theorem stopKilled_ebbs (s : State) (n : Nat) : s.Ebbs (s.stopKilled n) := .foldl stopKilledAt_ebbs _ s

/-- What stopping each queue of a context brings about holds of every queue of it from then on. -/
theorem queues_of_foldl {s t : State} {n : Nat} {f : State → Nat → State} {P : Nat → State → Prop}
    (hf : ∀ (s : State) a, s.Ebbs (f s a)) (hp : ∀ (s : State) a, P a (f s a)) (lasts : ∀ {s t : State} {a : Nat}, s.Ebbs t → P a s → P a t)
    (ht : ((s.queuesOf n).foldl f s).Ebbs t) {slot : Nat} {q : Queue} (hq : t.queue? slot = some q) (hn : q.ctx = n) : P slot t := by
  obtain ⟨q0, hq0, hctx, -⟩ := ((State.Ebbs.foldl hf (s.queuesOf n) s).trans ht).queues slot q hq
  exact lasts ht (State.Ebbs.foldl_all hf hp lasts (mem_queuesOf hq0 (hctx.symm.trans hn)) s)

theorem stopViral_halts {s t : State} {n : Nat} (ht : (s.stopViral n).Ebbs t) {slot : Nat} {q : Queue} (hq : t.queue? slot = some q)
    (hn : q.ctx = n) : q.stopped = true :=
  queues_of_foldl (P := State.HaltedAt) stopViralAt_ebbs stopViralAt_halts haltedAt_of_ebbs ht hq hn q hq

theorem stopKilled_ends {s t : State} {n : Nat} (ht : (s.stopKilled n).Ebbs t) {slot : Nat} {q : Queue} (hq : t.queue? slot = some q)
    (hn : q.ctx = n) : q.stopped = true ∧ q.packets = [] := by
  obtain ⟨hh, he⟩ := queues_of_foldl (P := fun slot t => t.HaltedAt slot ∧ t.EmptyAt slot) stopKilledAt_ebbs stopKilledAt_ends
    (fun h hs => ⟨haltedAt_of_ebbs h hs.1, emptyAt_of_ebbs h hs.2⟩) ht hq hn
  exact ⟨hh q hq, he q hq⟩

/-! ## Viral mode -/

theorem cutOutbound_ebbs (s : State) (n : Nat) : s.Ebbs (s.cutOutbound n) := by
  have cut (s : State) (x : Nat × Nat) : s.Ebbs (if Config.freeBool s.oracle (8 * x.1 + 5) then s.writeBack x.2
      else ({ s with copies := s.copies.modify x.2 fun c => c.cut n }).modCtx n fun c => { c with dropped := c.dropped + 1 }) := by
    split
    · exact writeBack_ebbs s _
    · have copied : s.Ebbs { s with copies := s.copies.modify x.2 fun c => c.cut n } := .of_fields rfl rfl rfl rfl rfl rfl
      exact copied.trans (.modCtx _ n fun _ => ⟨rfl, rfl, rfl⟩)
  unfold State.cutOutbound
  dsimp only
  have base := State.Ebbs.foldl writeBack_ebbs (s.copyKeys true fun k => leavesLine (copyLine k)) s
  split
  · exact base
  · exact (base.trans (.foldl cut _ _)).trans (tick_ebbs _)

end Sys2Proof.Machine
end

section
/-!
Containment freezes and the choices (R269, R272).
-/

namespace Sys2Proof.Machine

/-! ## Speculations that go -/

theorem discardSpec_gone (s : State) (id code : Nat) : ∀ p ∈ (s.discardSpec id code).specs, p.id ≠ id := by
  unfold State.discardSpec
  split
  next h => exact fun p hp e => by simpa [e] using List.find?_eq_none.1 h p hp
  next => exact fun p hp => by simpa using (List.mem_filter.1 hp).2

/-- Of the speculations that are discarded none is left. -/
theorem discardSpecs_gone (s : State) (code : Nat) (f : Spec → Bool) : ∀ p ∈ (s.discardSpecs code f).specs, f p = false := by
  intro p hp
  by_contra hf
  have hmem : p ∈ s.specs.filter f := List.mem_filter.2 ⟨(discardSpecs_ebbs s code f).specs p hp, by simpa using hf⟩
  exact State.Ebbs.foldl_all (f := fun s (p : Spec) => s.discardSpec p.id code) (P := fun p t => ∀ q ∈ t.specs, q.id ≠ p.id)
    (fun s p => discardSpec_ebbs s p.id code) (fun s p => discardSpec_gone s p.id code)
    (fun h hs q hq => hs q (h.specs q hq)) hmem s p hp rfl

/-! ## The freeze -/

/-- What entering viral mode does beside marking the context begins nothing, and stops its queues (R279). -/
theorem goViral_ebbs (s : State) (n : Nat) : (s.modCtx n fun c => { c with viral := true }).Ebbs (s.goViral n) ∧
    ∃ u : State, (u.stopViral n).Ebbs (s.goViral n) := by
  have gone := discardSpecs_ebbs (s.modCtx n fun c => { c with viral := true }) 10 fun p => p.ctx == n
  have rest (t : State) : t.Ebbs (match (t.ctx? n).elim 0 Ctx.dropped with
      | 0 => t
      | k => (t.modCtx n fun c => { c with dropped := 0 }).owe { EventRec.plain 4 n t.domainClock with number := k }) := by
    split
    · exact .refl t
    · exact (State.Ebbs.modCtx t n (f := fun c => { c with dropped := 0 }) fun _ => ⟨rfl, rfl, rfl⟩).trans (owe_ebbs _ _)
  have cut := cutOutbound_ebbs
    (((s.modCtx n fun c => { c with viral := true }).discardSpecs 10 fun p => p.ctx == n).stopViral n) n
  exact ⟨(gone.trans (stopViral_ebbs _ n)).trans (cut.trans (rest _)), _, cut.trans (rest _)⟩

theorem containmentFreeze_freezes {s : State} {n : Nat} {c : Ctx} (hc : s.ctx? n = some c) :
    ∃ t c', exec (.containmentFreeze n) s = .next t ∧ t.ctx? n = some c' ∧ c'.frozen = true ∧ (∀ p ∈ t.specs, p.ctx ≠ n) ∧
      (c.viral = true → ∀ slot q, t.queue? slot = some q → q.ctx = n → q.stopped = true) := by
  have hmark : (s.modCtx n fun c => { c with frozen := true }).ctx? n = some { c with frozen := true } := by
    rw [ctx_modCtx_self, hc]
    rfl
  have hgone := discardSpecs_gone (s.modCtx n fun c => { c with frozen := true }) 10 fun p => p.ctx == n
  obtain ⟨d, hd, hf, -, hv⟩ := (discardSpecs_ebbs (s.modCtx n fun c => { c with frozen := true }) 10 fun p => p.ctx == n).ctxs n _ hmark
  change ∀ p ∈ (s.freeze n).specs, _ at hgone
  change (s.freeze n).ctx? n = some d at hd
  have served {u : State} (hu : ∃ e, u.ctx? n = some e ∧ e.frozen = true) (hspecs : ∀ p ∈ u.specs, p ∈ (s.freeze n).specs) :
      (∃ e, (u.serveEvents n).ctx? n = some e ∧ e.frozen = true) ∧ ∀ p ∈ (u.serveEvents n).specs, p.ctx ≠ n := by
    obtain ⟨e, he, hfe⟩ := hu
    obtain ⟨e', he', hfe', -⟩ := (serveEvents_ebbs u n).ctxs n e he
    exact ⟨⟨e', he', hfe'.trans hfe⟩, fun p hp => by
      simpa using hgone p (hspecs p ((serveEvents_ebbs u n).specs p hp))⟩
  change ∃ t c', execContainmentFreeze n s = .next t ∧ _
  cases hviral : c.viral with
  | false =>
    have hany : ((s.freeze n).ctx? n).any Ctx.viral = false := by rw [hd]; exact hv.trans hviral
    obtain ⟨⟨e, he, hfe⟩, hspecs⟩ := served ⟨d, hd, hf⟩ fun _ h => h
    refine ⟨(s.freeze n).serveEvents n, e, ?_, he, hfe, hspecs, fun h => by cases h⟩
    simp only [execContainmentFreeze, hany, Bool.false_eq_true, if_false]
  | true =>
    have hany : ((s.freeze n).ctx? n).any Ctx.viral = true := by rw [hd]; exact hv.trans hviral
    obtain ⟨hebbs, w, hstop⟩ := goViral_ebbs (s.freeze n) n
    have hmark' : ((s.freeze n).modCtx n fun c => { c with viral := true }).ctx? n = some { d with viral := true } := by
      rw [ctx_modCtx_self, hd]
      rfl
    obtain ⟨g, hg, hfg, -⟩ := hebbs.ctxs n _ hmark'
    obtain ⟨⟨e, he, hfe⟩, hspecs⟩ := served ⟨g, hg, hfg.trans hf⟩ hebbs.specs
    refine ⟨((s.freeze n).goViral n).serveEvents n, e, ?_, he, hfe, hspecs, fun _ slot q hq hn => ?_⟩
    · simp only [execContainmentFreeze, hany, if_true]
    · exact stopViral_halts (hstop.trans (serveEvents_ebbs _ n)) hq hn

/-! ## KILL (R272) -/

/-- Once the gangs of a context have ended, none is left. -/
theorem endGangs_gone {s : State} {n : Nat} :
    ∀ g ∈ (((s.gangs.filter fun g => g.ctx = n).map Gang.ticket).foldl State.endGang s).gangs, g.ctx ≠ n := by
  intro g hg hn
  obtain ⟨x, hx, hk, hctx⟩ := (State.Ebbs.foldl endGang_ebbs _ s).gangs g hg
  have hmem : x.ticket ∈ (s.gangs.filter fun g => g.ctx = n).map Gang.ticket :=
    List.mem_map_of_mem (List.mem_filter.2 ⟨hx, by simpa using hctx.trans hn⟩)
  exact State.Ebbs.foldl_all (P := fun k t => ∀ g ∈ t.gangs, g.ticket ≠ k) endGang_ebbs endGang_gone no_ticket_of_ebbs hmem s g hg
    hk.symm

/-- The device once a context's speculations and gangs have ended, and its launches have given their argument blocks up. -/
def State.unmanned (s : State) (ctx : Nat) : State :=
  let s := s.discardSpecs 10 fun p => p.ctx == ctx
  let s := ((s.gangs.filter fun g => g.ctx = ctx).map Gang.ticket).foldl State.endGang s
  (s.launches.filter fun (l : Launch) => l.ctx == ctx).foldl State.freeArgs s

/-- A job of a context that had not started is discarded (R272). -/
def Job.dropFor (ctx : Nat) (j : Job) : Job :=
  if j.ctx = ctx ∧ !j.started ∧ j.ended.isNone then { j with ended := some stDiscarded } else j

/-- The same once its launches and its jobs that had not started are gone. -/
def State.withdrawn (s : State) (ctx : Nat) : State :=
  { s.unmanned ctx with
    launches := (s.unmanned ctx).launches.filter fun l => l.ctx != ctx,
    engines := (s.unmanned ctx).engines.map fun (x : Nat × List Job) => (x.1, x.2.map (Job.dropFor ctx)) }

/-- A killed context. -/
def Ctx.kill (c : Ctx) : Ctx := { c with killed := true, frozen := false, viral := false }

theorem killCtx_eq (s : State) (n : Nat) : s.killCtx n = (((s.withdrawn n).stopKilled n).modCtx n Ctx.kill).serveEvents n := rfl

theorem unmanned_ebbs (s : State) (n : Nat) : s.Ebbs (s.unmanned n) :=
  ((discardSpecs_ebbs s 10 fun p => p.ctx == n).trans (.foldl endGang_ebbs _ _)).trans (.foldl freeArgs_ebbs _ _)

theorem unmanned_gangs (s : State) (n : Nat) : ∀ g ∈ (s.unmanned n).gangs, g.ctx ≠ n := fun g hg hn => by
  obtain ⟨x, hx, -, hctx⟩ := (State.Ebbs.foldl freeArgs_ebbs _ _).gangs g hg
  exact endGangs_gone x hx (hctx.trans hn)

theorem dropFor_ended (n : Nat) (j : Job) (hn : (j.dropFor n).ctx = n) :
    (j.dropFor n).started = true ∨ (j.dropFor n).ended.isSome = true := by
  unfold Job.dropFor at hn ⊢
  split
  next => exact .inr rfl
  next h =>
    rw [if_neg h] at hn
    cases hs : j.started <;> cases he : j.ended <;> simp_all

section
variable {s : State} {n : Nat}

theorem killCtx_ctx {c : Ctx} (hc : s.ctx? n = some c) :
    ∃ c', (s.killCtx n).ctx? n = some c' ∧ c'.killed = true ∧ c'.frozen = false ∧ c'.viral = false := by
  obtain ⟨d, hd, -⟩ := (unmanned_ebbs s n).ctxs n c hc
  obtain ⟨e, he, -⟩ := (stopKilled_ebbs (s.withdrawn n) n).ctxs n d hd
  have hk : (((s.withdrawn n).stopKilled n).modCtx n Ctx.kill).ctx? n = some e.kill := by
    rw [ctx_modCtx_self, he]
    rfl
  obtain ⟨c', hc', hf, hkilled, hv⟩ := (serveEvents_ebbs _ n).ctxs n _ hk
  exact ⟨c', hc', hkilled, hf, hv⟩

/-- What follows the withdrawal adds no gang, no launch and no job. -/
theorem killCtx_rest : (∀ g ∈ (s.killCtx n).gangs, ∃ x ∈ (s.unmanned n).gangs, x.ctx = g.ctx) ∧
    (∀ l ∈ (s.killCtx n).launches, l ∈ (s.withdrawn n).launches) ∧ (s.killCtx n).engines = (s.withdrawn n).engines := by
  have h1 := stopKilled_ebbs (s.withdrawn n) n
  have h2 := serveEvents_ebbs (((s.withdrawn n).stopKilled n).modCtx n Ctx.kill) n
  refine ⟨fun g hg => ?_, fun l hl => h1.launches l (h2.launches l hl), h2.engines.trans h1.engines⟩
  obtain ⟨x, hx, -, hxc⟩ := h2.gangs g hg
  obtain ⟨y, hy, -, hyc⟩ := h1.gangs x hx
  exact ⟨y, hy, hyc.trans hxc⟩

theorem killCtx_queues {slot : Nat} {q : Queue} (hq : (s.killCtx n).queue? slot = some q) (hn : q.ctx = n) :
    q.stopped = true ∧ q.packets = [] := by
  obtain ⟨q0, hq0, hctx, hs, hp⟩ := (serveEvents_ebbs (((s.withdrawn n).stopKilled n).modCtx n Ctx.kill) n).queues slot q hq
  obtain ⟨hs0, hp0⟩ := stopKilled_ends (.refl _) hq0 (hctx.symm.trans hn)
  exact ⟨hs hs0, hp hp0⟩

/-- KILL: the context and its gangs, launches, jobs and queues. -/
theorem killCtx_kills {c : Ctx} (hc : s.ctx? n = some c) :
    (∃ c', (s.killCtx n).ctx? n = some c' ∧ c'.killed = true ∧ c'.frozen = false ∧ c'.viral = false) ∧
      (∀ g ∈ (s.killCtx n).gangs, g.ctx ≠ n) ∧ (∀ l ∈ (s.killCtx n).launches, l.ctx ≠ n) ∧
      (∀ x ∈ (s.killCtx n).engines, ∀ j ∈ x.2, j.ctx = n → j.started = true ∨ j.ended.isSome = true) ∧
      ∀ slot q, (s.killCtx n).queue? slot = some q → q.ctx = n → q.stopped = true ∧ q.packets = [] := by
  obtain ⟨hgangs, hlaunches, hengines⟩ := killCtx_rest (s := s) (n := n)
  refine ⟨killCtx_ctx hc, fun g hg hn => ?_, fun l hl => ?_, fun x hx j hj hn => ?_, fun slot q => killCtx_queues⟩
  · obtain ⟨x, hx, hxc⟩ := hgangs g hg
    exact unmanned_gangs s n x hx (hxc.trans hn)
  · simpa using (List.mem_filter.1 (hlaunches l hl)).2
  · rw [hengines] at hx
    obtain ⟨y, -, rfl⟩ := List.mem_map.1 hx
    obtain ⟨i, -, rfl⟩ := List.mem_map.1 hj
    exact dropFor_ended n i hn

end

/-! ## RESUME and SKIP (R272) -/

/-- The team that RESUME and SKIP leave, where a context's only team holds its own trap. -/
theorem resumeCtx_alone {s : State} {n : Nat} (ho : s.others = []) (hn : s.team.ctx = n) (hr : s.team.run = .contained)
    (hi : s.team.inner = none) (hw : s.team.trap.words ≠ 0) (skip : Bool) :
    let r := if skip then s.team.trap.skipped else s.team.trap
    s.resumeCtx n skip =
      { s.modCtx n (fun c => { c with frozen := false }) with team := ({ s.team with trap := r }).resumeAt r } := by
  have hc : s.contained n = [s.team] := by simp [State.contained, State.teams, ho, hn, hr]
  have hres : s.resolveTeam skip s.team = { s with
      team := ({ s.team with trap := if skip then s.team.trap.skipped else s.team.trap }).resumeAt
        (if skip then s.team.trap.skipped else s.team.trap) } := by
    simp only [State.resolveTeam, hi, hw, if_false, State.modTeam, if_true, ho, List.map_nil]
  have hready : (({ s.team with trap := if skip then s.team.trap.skipped else s.team.trap } : Team).resumeAt
      (if skip then s.team.trap.skipped else s.team.trap)).run = .ready := rfl
  intro r
  rw [State.resumeCtx, hc, List.foldl_cons, List.foldl_nil, hres]
  simp [State.postAll, State.modCtx, State.teams, ho, hready, r]

end Sys2Proof.Machine
end

section
/-!
One team among those of the device: what is read of it after a change, where names are distinct.
-/

namespace Sys2Proof.Machine

theorem modTeam_teams (s : State) (i : TeamId) (f : Team → Team) :
    (s.modTeam i f).teams = s.teams.map fun t => if t.id = i then f t else t := rfl

section
variable {s : State} {i : TeamId} {t : Team} (h : s.team? i = some t)
include h

theorem team_id : t.id = i := by simpa using List.find?_some h

theorem team_mem : t ∈ s.teams := List.mem_of_find?_eq_some h

/-- A team after a change that keeps its name. -/
theorem team_modTeam {f : Team → Team} (hf : ∀ u, (f u).id = u.id) : (s.modTeam i f).team? i = some (f t) := by
  have hid : ((fun t : Team => t.id == i) ∘ fun t => if t.id = i then f t else t) = fun t => t.id == i := by
    funext u
    simp only [Function.comp_apply]
    split <;> simp [hf]
  rw [State.team?, modTeam_teams, List.find?_map, hid]
  change (s.team? i).map _ = _
  rw [h, Option.map_some, if_pos (team_id h)]

/-- A name stands for one team. -/
theorem eq_of_team (hn : (s.teams.map Team.id).Nodup) {u : Team} (hu : u ∈ s.teams) (hi : u.id = i) : u = t :=
  List.inj_on_of_nodup_map hn hu (team_mem h) (hi.trans (team_id h).symm)

/-- Changes that do the same to the team itself do the same. -/
theorem modTeam_congr (hn : (s.teams.map Team.id).Nodup) {f g : Team → Team} (hfg : f t = g t) : s.modTeam i f = s.modTeam i g := by
  have same (u : Team) (hu : u ∈ s.teams) : (if u.id = i then f u else u) = if u.id = i then g u else u := by
    split
    next hi => rw [eq_of_team h hn hu hi, hfg]
    next => rfl
  have hothers : (s.others.map fun t => if t.id = i then f t else t) = s.others.map fun t => if t.id = i then g t else t :=
    List.map_congr_left fun u hu => same u (List.mem_cons_of_mem _ hu)
  rw [State.modTeam, State.modTeam, hothers, same s.team List.mem_cons_self]

end

/-- Two changes of a team one after the other. -/
theorem modTeam_modTeam (s : State) (i : TeamId) {f : Team → Team} (hf : ∀ u, (f u).id = u.id) (g : Team → Team) :
    (s.modTeam i f).modTeam i g = s.modTeam i fun t => g (f t) := by
  let on (f : Team → Team) (u : Team) : Team := if u.id = i then f u else u
  have both (u : Team) : on g (on f u) = on (fun t => g (f t)) u := by
    by_cases hi : u.id = i
    · simp [on, hi, hf]
    · simp [on, hi]
  have hothers : (s.others.map (on f)).map (on g) = s.others.map (on fun t => g (f t)) := by
    rw [List.map_map]
    exact List.map_congr_left fun u _ => both u
  change ({ s with team := on g (on f s.team), others := (s.others.map (on f)).map (on g) } : State) = _
  rw [both, hothers]
  rfl

theorem finishAll_of_nil {t : Team} (h : t.pending = []) : t.finishAll = t := by
  rw [Team.finishAll, h]
  rfl

theorem finishAll_id (t : Team) : t.finishAll.id = t.id := by
  obtain ⟨v, q, s, c, past, e⟩ := foldl_finish_registers (t.pending.filter fun p => p.waits.isEmpty) t
  rw [Team.finishAll, e]

end Sys2Proof.Machine
end

section
/-!
TRAP_ENTRY (R75, R266): a trap that waited for outstanding results.
-/

namespace Sys2Proof.Machine

section
variable {s : State} {i : TeamId} {t : Team} (h : s.team? i = some t) (hn : (s.teams.map Team.id).Nodup)
    (hrun : t.run = .trapping) (hp : t.pending = []) (hq : s.queueOf t = false)
include h hn hrun hp hq

/-- Without a trap of its own the team goes on. -/
theorem trapEntry_none (hnext : t.trapNext = none) : exec (.trapEntry i) s = .next (s.modTeam i fun u => { u with run := .ready }) := by
  have hawait : t.awaits = false := by simp [Team.awaits, hrun]
  change execTrapEntry i s = _
  rw [execTrapEntry, State.enterTrap, h]
  simp only [hrun, hp, hq, hawait, hnext, List.any_nil, List.find?_nil, Bool.or_self, Bool.false_eq_true, if_false, if_true,
    reduceCtorEq, or_self]
  rw [modTeam_congr h hn (g := fun u => { u with run := .ready }) (by rw [finishAll_of_nil hp])]

/-- A supervisor trap enters the handler. -/
theorem trapEntry_enters {r : TrapRec} {c : Ctx} (hc : s.ctx? t.ctx = some c) (hnext : t.trapNext = some r)
    (hcode : containCause r.code = false) (hv : c.trapV = true) (hs : t.saved = none)
    (hin : inCode c.supCode c.trapAddr 4 = true) : exec (.trapEntry i) s = .next (s.modTeam i fun u => { u with
      run := .ready, trapNext := none, trap := r, saved := some ⟨u.active, u.mode, u.fmt, u.getC 13, u.codeCap, u.priv⟩,
      mode := 0, fmt := 0, active := if r.replay = 0 then u.active else r.replay, c := u.c.put Cap.null 13 c.supCap,
      codeCap := c.supCode, priv := .super, pc := c.trapAddr, latch := Latch.empty, replay := none, cont := none,
      sleep := none, past := [] }) := by
  have hawait : t.awaits = false := by simp [Team.awaits, hrun]
  have hid (u : Team) : ({ u.finishAll with trapNext := none, run := .ready } : Team).id = u.id := finishAll_id u
  have hteam := team_modTeam h hid
  rw [finishAll_of_nil hp] at hteam
  change execTrapEntry i s = _
  rw [execTrapEntry, State.enterTrap, h]
  simp only [hrun, hp, hq, hawait, hnext, List.any_nil, List.find?_nil, Bool.or_self, Bool.false_eq_true, if_false,
    reduceCtorEq, or_self]
  have hctx : (s.modTeam i fun t => { t.finishAll with trapNext := none, run := .ready }).ctx? t.ctx = some c := hc
  rw [State.deliver, hteam]
  simp only [hctx, hcode, hv, hs, hin, Bool.not_true, Bool.or_self, Option.isSome_none, Bool.false_eq_true, if_false, if_true]
  rw [modTeam_modTeam s i hid, modTeam_congr h hn]
  rw [finishAll_of_nil hp, Team.enter, Team.closeWindows]
  simp only [hp, List.map_nil]
  rfl

end

/-! ## RESTART (R272) -/

/-- Resolving a team's trap keeps the gangs, the launches and which contexts there are. -/
def State.Resolves (s t : State) : Prop :=
  t.gangs = s.gangs ∧ t.launches = s.launches ∧ ∀ m, (s.ctx? m).isSome = true → (t.ctx? m).isSome = true

namespace State.Resolves
variable {s t u : State}

theorem of_fields (hg : t.gangs = s.gangs) (hl : t.launches = s.launches) (hc : t.ctxs = s.ctxs) : s.Resolves t :=
  ⟨hg, hl, fun m h => by rwa [State.ctx?, hc]⟩
theorem refl (s : State) : s.Resolves s := of_fields rfl rfl rfl
theorem trans (h : s.Resolves t) (h' : t.Resolves u) : s.Resolves u :=
  ⟨h'.1.trans h.1, h'.2.1.trans h.2.1, fun m hm => h'.2.2 m (h.2.2 m hm)⟩
theorem modTeam (s : State) (i : TeamId) (f : Team → Team) : s.Resolves (s.modTeam i f) := of_fields rfl rfl rfl
theorem modCtx (s : State) (n : Nat) (f : Ctx → Ctx) : s.Resolves (s.modCtx n f) :=
  ⟨rfl, rfl, fun m h => by
    rw [ctx_modCtx]
    split
    · rwa [Option.isSome_map]
    · exact h⟩
theorem post (s : State) (i : Instr) : s.Resolves (s.post i) := of_fields rfl rfl rfl
theorem postAll (s : State) (is : List Instr) : s.Resolves (s.postAll is) := of_fields rfl rfl rfl

theorem contain (s : State) (i : TeamId) (code flags : Nat) (r : TrapRec) : s.Resolves (s.contain i code flags r) := by
  unfold State.contain
  split
  · exact refl s
  · exact ((modTeam s i _).trans (modCtx _ _ _)).trans (post _ _)

theorem entryFails (s : State) (t : Team) (r : TrapRec) : s.Resolves (s.entryFails t r) :=
  ((modTeam s t.id _).trans (modCtx _ _ _)).trans (post _ _)

theorem deliver (s : State) (i : TeamId) (code flags : Nat) (r : TrapRec) : s.Resolves (s.deliver i code flags r) := by
  unfold State.deliver
  split
  · exact refl s
  · split
    · exact contain s i code flags r
    · split
      · exact contain s i code flags r
      · split
        · exact modTeam s i _
        · exact entryFails s _ r

theorem resolveTeam (s : State) (skip : Bool) (t : Team) : s.Resolves (s.resolveTeam skip t) := by
  unfold State.resolveTeam
  dsimp only
  split
  · split
    · split
      · exact (modTeam s t.id _).trans (modTeam _ _ _)
      · exact ((modTeam s t.id _).trans (modTeam _ _ _)).trans (deliver _ _ _ _ _)
    · split <;> exact (modTeam s t.id _).trans (modTeam _ _ _)
  · split <;> exact modTeam _ _ _

/-- Every team of a context goes on: the context is no longer frozen. -/
theorem resumeCtx (s : State) (n : Nat) (skip : Bool) : s.Resolves (s.resumeCtx n skip) ∧
    ∀ c, (s.resumeCtx n skip).ctx? n = some c → c.frozen = false := by
  have resolved : s.Resolves ((s.contained n).foldl (fun s t => s.resolveTeam skip t) s) :=
    foldl_keeps (P := s.Resolves) (fun u t hu => hu.trans (resolveTeam u skip t)) _ (refl s)
  refine ⟨((resolved.trans (modCtx _ n _)).trans (postAll _ _)).trans (postAll _ _), fun c hc => ?_⟩
  change (((s.contained n).foldl (fun s t => s.resolveTeam skip t) s).modCtx n fun c => { c with frozen := false }).ctx? n = _ at hc
  rw [ctx_modCtx_self] at hc
  obtain ⟨d, -, rfl⟩ := Option.map_eq_some_iff.1 hc
  rfl

end State.Resolves

/-- A gang that is to start again is noted in its launch. -/
def Launch.restart (id index : Nat) (l : Launch) : Launch :=
  if l.id = id then { l with again := (l.again ++ [index]).mergeSort fun a b => decide (a ≤ b) } else l

theorem restart_again (id index : Nat) (l : Launch) (h : (l.restart id index).id = id) : index ∈ (l.restart id index).again := by
  unfold Launch.restart at h ⊢
  split
  · simp
  next hne => rw [if_neg hne] at h; exact absurd h hne

/-- The device once a gang has ended that its launch is to start again. -/
def State.restarted (s : State) (g : Gang) (k : Nat) : State :=
  { s.endGang k with launches := (s.endGang k).launches.map (Launch.restart g.launch g.index) }

/-- RESTART, where one gang holds the teams that failed: it is gone, its launch dispatches it again, and the context goes on. -/
theorem restartCtx_one {s : State} {n k : Nat} {g : Gang} {c : Ctx} (hc : s.ctx? n = some c)
    (hk : (s.contained n).map (fun t => t.id.ticket) = [k]) (hg : s.gang? k = some g) :
    (∀ x ∈ (s.restartCtx n).gangs, x.ticket ≠ k) ∧
      (∀ l ∈ (s.restartCtx n).launches, l.id = g.launch → g.index ∈ l.again) ∧
      ∃ c', (s.restartCtx n).ctx? n = some c' ∧ c'.frozen = false := by
  have e : s.restartCtx n = (s.restarted g k).resumeCtx n false := by
    have hd : ((s.contained n).map fun t => t.id.ticket).dedup = [k] := by rw [hk]; rfl
    unfold State.restartCtx
    rw [hd]
    simp only [List.foldl_cons, List.foldl_nil, hg]
    rfl
  obtain ⟨⟨hgangs, hlaunches, hctxs⟩, hfrozen⟩ := State.Resolves.resumeCtx (s.restarted g k) n false
  obtain ⟨d, hd, -⟩ := (endGang_ebbs s k).ctxs n c hc
  rw [e]
  refine ⟨fun x hx => ?_, fun l hl hid => ?_, ?_⟩
  · rw [hgangs] at hx
    exact endGang_gone s k x hx
  · rw [hlaunches] at hl
    obtain ⟨m, -, rfl⟩ := List.mem_map.1 hl
    exact restart_again _ _ m hid
  · obtain ⟨c', hc'⟩ := Option.isSome_iff_exists.1 (hctxs n (Option.isSome_iff_exists.2 ⟨d, hd⟩))
    exact ⟨c', hc', hfrozen c' hc'⟩

/-- Every choice but KILL waits while the Transit pair stands. -/
theorem choose_waits {s : State} (h : s.transitStopped = true) (n : Nat) {a : Choice} (ha : a ≠ .kill) :
    s.choose n a = { s with chosen := s.chosen ++ [(n, a)] } := by
  unfold State.choose
  rw [h]
  cases a
  case kill => exact absurd rfl ha
  all_goals rfl

/-- Otherwise each is carried out at once. -/
theorem choose_runs {s : State} (h : s.transitStopped = false) (n : Nat) :
    s.choose n .resume = s.resumeCtx n false ∧ s.choose n .skip = s.resumeCtx n true ∧ s.choose n .restart = s.restartCtx n := by
  unfold State.choose
  rw [h]
  exact ⟨rfl, rfl, rfl⟩

/-- Settles O47: trap entry, the freeze, the event records, and the four choices. -/
theorem containmentFreezesAndChoices : Obligations.ContainmentFreezesAndChoices := by
  intro s n c hc
  refine ⟨fun i t h hctx hn hrun hp hq => ?entry, containmentFreeze_freezes hc, fun hs hv hl => ?records,
    fun hl hd hroom => eventLost_reports hc hl hd hroom, fun ho hctx hr hi hw => ?goesOn,
    fun ht a ha => choose_waits ht n ha, fun u hu => hu ▸ killCtx_kills hc⟩
  case entry =>
    subst hctx
    exact ⟨trapEntry_none h hn hrun hp hq, fun r hnext hcode hv hs hin =>
      trapEntry_enters h hn hrun hp hq hc hnext hcode hv hs hin⟩
  case records =>
    exact ⟨containmentFreeze_quiet hc hs hv hl, fun r hd =>
      ⟨containmentFreeze_writes hc hs hv hl hd, eventLost_counts hc hl hd⟩⟩
  case goesOn =>
    intro go ht
    have hone : (s.contained n).map (fun t => t.id.ticket) = [s.team.id.ticket] := by
      simp [State.contained, State.teams, ho, hctx, hr]
    obtain ⟨hresume, hskip, hrestart⟩ := choose_runs ht n
    refine ⟨hresume.trans (resumeCtx_alone ho hctx hr hi hw false), hskip.trans (resumeCtx_alone ho hctx hr hi hw true),
      fun g hg u hu => ?_⟩
    rw [hu, hrestart]
    exact restartCtx_one hc hone hg

end Sys2Proof.Machine
end

section
/-!
Links, flow control and the domain clock (R295, R298), and the timers and refusals of this device's own requests (R199, R217).
-/

namespace Sys2Proof.Machine

/-- A packet leaves at once where no channel is paused. -/
theorem sendPacket_open {s : State} (h : ∀ x ∈ s.ports, x.2.paused = []) (hd : FabHdr) (data : List Byte) :
    s.sendPacket hd data = s.send (.packet hd data) := by
  have unpaused (n : Nat) : ((s.ports.find? n).any fun p => p.paused.contains (hd.flags.toNat % 4)) = false := by
    cases hp : s.ports.find? n with
    | none => rfl
    | some p =>
      have hpaused : p.paused = [] := h (n, p) (mem_of_find hp)
      simp [hpaused]
  unfold State.sendPacket
  split
  · rfl
  · rw [unpaused]
    rfl

/-! ## Links (R295) -/

theorem linkBringup_none (s : State) {port peer : Nat} (h : 128 ≤ port ∨ 8192 ≤ peer) (rt : Nat) :
    exec (.fabricLinkBringup port peer rt) s = .next s := by
  change execFabricLinkBringup port peer rt s = _
  rw [execFabricLinkBringup, if_pos h]

/-- A link comes up: the device at the other end is of the domain, and the port is as new. -/
theorem linkBringup_up {s : State} {port peer : Nat} (rt : Nat) (hport : port < 128) (hpeer : peer < 8192)
    (hw : ∀ p, s.ports.find? port = some p → p.waiting = []) : ∃ t, exec (.fabricLinkBringup port peer rt) s = .next t ∧
      t = { s with ports := t.ports, domain := max s.domain 2, domainRoot := min s.domainRoot peer } ∧
      (∀ k, k ≠ port → t.ports.find? k = s.ports.find? k) ∧ ∃ p, t.ports.find? port = some p ∧ p.up = true ∧
      p.peer = peer ∧ p.roundTrip = rt ∧ (p.reducedRate = true ↔ 300 < rt) ∧ p.keyed = true ∧ p.paused = [] ∧ p.halted = [] := by
  have hnone : (s.ports.find? port).elim [] FabPort.waiting = [] := by
    cases hp : s.ports.find? port with
    | none => rfl
    | some p => exact hw p hp
  refine ⟨{ s with ports := s.ports.insert port (FabPort.trained (s.ports.find? port) peer rt), domain := max s.domain 2,
                   domainRoot := min s.domainRoot peer }, ?_, rfl, fun k hk => SMap.find_insert_of_ne _ _ hk, _,
    SMap.find_insert_self _ _ _, rfl, rfl, rfl, by simp [FabPort.trained], rfl, rfl, rfl⟩
  change execFabricLinkBringup port peer rt s = _
  rw [execFabricLinkBringup, if_neg (by omega)]
  simp only [hnone, List.foldl_nil]

section
variable {t : State} {port vc : Nat} {p : FabPort} (hvc : vc < 4) (hp : t.ports.find? port = some p)
include hp

/-- What becomes of the ports when one is changed. -/
theorem ports_modify (f : FabPort → FabPort) : (∀ k, k ≠ port → (t.ports.modify port f).find? k = t.ports.find? k) ∧
    (t.ports.modify port f).find? port = some (f p) :=
  ⟨fun _ hk => SMap.find_modify_of_ne _ _ hk, by rw [SMap.find_modify_self, hp]; rfl⟩

theorem linkLevelRetry_counts : ∃ u, exec (.linkLevelRetry port) t = .next u ∧
    u = { t with ports := u.ports, out := .linkRetry port :: t.out } ∧
    (∀ k, k ≠ port → u.ports.find? k = t.ports.find? k) ∧ u.ports.find? port = some { p with retries := p.retries + 1 } := by
  obtain ⟨hne, hself⟩ := ports_modify hp fun p => { p with retries := p.retries + 1 }
  exact ⟨_, rfl, rfl, hne, hself⟩

include hvc

theorem fabricPause_pauses : ∃ u, exec (.fabricPause port vc) t = .next u ∧ u = { t with ports := u.ports } ∧
    (∀ k, k ≠ port → u.ports.find? k = t.ports.find? k) ∧ u.ports.find? port =
      some { p with paused := if p.paused.contains vc then p.paused else p.paused ++ [vc] } := by
  obtain ⟨hne, hself⟩ := ports_modify hp fun p =>
    if p.paused.contains (vc % 4) then p else { p with paused := p.paused ++ [vc % 4] }
  refine ⟨_, rfl, rfl, hne, hself.trans ?_⟩
  rw [Nat.mod_eq_of_lt hvc]
  split <;> rfl

/-- RESUME: what waited on the channel leaves in order. -/
theorem fabricResume_sends : ∃ u, exec (.fabricResume port vc) t = .next u ∧ u = { t with ports := u.ports, out := u.out } ∧
    (∀ k, k ≠ port → u.ports.find? k = t.ports.find? k) ∧
    u.ports.find? port = some { p with
      paused := p.paused.filter fun v => v != vc, waiting := p.waiting.filter fun x => x.1.flags.toNat % 4 != vc } ∧
    u.out = ((p.waiting.filter fun x => x.1.flags.toNat % 4 == vc).map fun x => Output.packet x.1 x.2).reverse ++ t.out := by
  have sent (xs : List (FabHdr × List Byte)) (s : State) : xs.foldl (fun s x => s.send (.packet x.1 x.2)) s =
      { s with out := (xs.map fun x => Output.packet x.1 x.2).reverse ++ s.out } := by
    induction xs generalizing s with
    | nil => rfl
    | cons x xs ih => rw [List.foldl_cons, ih]; simp [State.send]
  obtain ⟨hne, hself⟩ := ports_modify hp fun p => { p with
    paused := p.paused.filter fun v => v != vc, waiting := p.waiting.filter fun x => !(x.1.flags.toNat % 4 == vc) }
  refine ⟨{ t with
    ports := t.ports.modify port fun p => { p with
      paused := p.paused.filter fun v => v != vc, waiting := p.waiting.filter fun x => !(x.1.flags.toNat % 4 == vc) },
    out := ((p.waiting.filter fun x => x.1.flags.toNat % 4 == vc).map fun x => Output.packet x.1 x.2).reverse ++ t.out },
    ?_, rfl, hne, hself, rfl⟩
  change execFabricResume port vc t = _
  simp only [execFabricResume, Nat.mod_eq_of_lt hvc, hp, Option.elim_some, sent]

end

/-! ## The domain clock (R298) -/

section
variable {s : State}

theorem clock_unfollowed (h : (s.fabricUp && !s.timeRoot) = false) (ns : Nat) :
    exec (.clockSync ns) s = .next s ∧ exec .syncLost s = .next s := by
  change execClockSync ns s = _ ∧ execSyncLost s = _
  simp only [execClockSync, execSyncLost, h, Bool.false_eq_true, if_false, Bool.false_and, and_self]

theorem clockSync_follows (h : (s.fabricUp && !s.timeRoot) = true) (hr : ∀ r ∈ s.remotes, r.held = false) (ns : Nat) :
    exec (.clockSync ns) s =
      .next { s with lastSync := s.domainClock, syncLost := false, clockBehind := (ns : Int) - s.domainClock } := by
  let now (r : Remote) : Remote :=
    { r with held := false, sent := s.domainClock, hdr := { r.hdr with sent := BitVec.ofNat 64 s.domainClock } }
  have hmap : (s.remotes.map fun r => if r.held && r.got.isNone then now r else r) = s.remotes :=
    (List.map_congr_left fun r hm => by simp [hr r hm]).trans (List.map_id _)
  have hnone : (s.remotes.filter fun r => r.held && r.got.isNone) = [] :=
    List.filter_eq_nil_iff.2 fun r hm => by simp [hr r hm]
  change execClockSync ns s = _
  rw [execClockSync, h, if_pos rfl, State.synchronise, State.releaseHeld]
  simp only [hnone, List.foldl_nil]
  rw [show (s.remotes.map _) = s.remotes from hmap]

theorem syncLost_follows (h : (s.fabricUp && !s.timeRoot) = true) :
    exec .syncLost s = .next (if s.lastSync + 100000000 ≤ s.domainClock then { s with syncLost := true } else s) := by
  change execSyncLost s = _
  simp only [execSyncLost, h, Bool.true_and, decide_eq_true_eq]
  rfl

end

/-! ## Timers (R217) and MOVED (R199) -/

section
variable {s : State} {k : Nat} {r : Remote} (hr : (s.remotes.find? fun r => r.id == k) = some r)
include hr

theorem remote_id : r.id = k := by simpa using List.find?_some hr

theorem retransmit_sends (hports : ∀ x ∈ s.ports, x.2.paused = []) (hg : r.got = none) (ha : r.again = false) (hh : r.held = false)
    (ht : r.sent + 500000 ≤ s.domainClock) : ∃ t, exec (.remoteRetransmit k) s = .next t ∧
      t = { s with remotes := t.remotes, out := .packet r.hdr r.data :: s.out } ∧
      t.remotes = s.remotes.map fun x => if x.id = k then { x with again := true } else x := by
  have hlate : ¬ s.domainClock < r.sent + retransmitAfter := Nat.not_lt_of_le ht
  refine ⟨{ s with
    remotes := s.remotes.map fun x => if x.id = k then { x with again := true } else x,
    out := .packet r.hdr r.data :: s.out }, ?_, rfl, rfl⟩
  change execRemoteRetransmit k s = _
  rw [execRemoteRetransmit, hr]
  simp only [hg, ha, hh, hlate, Option.isSome_none, Bool.or_self, decide_false, Bool.false_eq_true, if_false]
  rw [sendPacket_open (by exact hports)]
  rfl

theorem retransmit_none (h : r.got ≠ none ∨ r.again = true ∨ r.held = true ∨ s.domainClock < r.sent + 500000) :
    exec (.remoteRetransmit k) s = .next s := by
  have hstop : (r.got.isSome || r.again || r.held || decide (s.domainClock < r.sent + retransmitAfter)) = true := by
    simp only [Bool.or_eq_true, decide_eq_true_eq, Option.isSome_iff_ne_none]
    obtain h | h | h | h := h
    · exact .inl (.inl (.inl h))
    · exact .inl (.inl (.inr h))
    · exact .inl (.inr h)
    · exact .inr h
  change execRemoteRetransmit k s = _
  rw [execRemoteRetransmit, hr]
  simp only [hstop, if_true]

theorem atomIndet_none (h : r.got ≠ none ∨ s.domainClock < r.sent + 2000000) : exec (.atomIndet k) s = .next s := by
  have hstop : (r.got.isSome || decide (s.domainClock < r.sent + indetAfter)) = true := by
    simp only [Bool.or_eq_true, decide_eq_true_eq, Option.isSome_iff_ne_none]
    exact h
  change execAtomIndet k s = _
  rw [execAtomIndet, hr]
  simp only [hstop, if_true]

/-- A request without an answer after 2 ms fails. -/
theorem atomIndet_answers (hg : r.got = none) (ht : r.sent + 2000000 ≤ s.domainClock) :
    exec (.atomIndet k) s = .next (s.answer k [0x34]) := by
  have hlate : ¬ s.domainClock < r.sent + indetAfter := Nat.not_lt_of_le ht
  change execAtomIndet k s = _
  rw [execAtomIndet, hr]
  simp only [hg, hlate, Option.isSome_none, Bool.or_self, decide_false, Bool.false_eq_true, if_false]
  rfl

/-- The state in which an answer has come. -/
theorem answer_eq (hg : r.got = none) (got : List Byte) : s.answer k got =
    let r' := { r with got := some got }
    let t := { s with remotes := s.remotes.map fun (x : Remote) => if x.id = k then r' else x }
    if r.form == .pref then ({ t with remotes := t.remotes.filter fun (x : Remote) => x.id != k } : State).keepLine r'
    else if r.collected then t
    else if r.polls then t.counterArrived r'
    else t.settleAnswer r' := by
  rw [State.answer, hr]
  simp only [hg, Option.isSome_none, Bool.false_eq_true, if_false]

/-- A line that a PREF asked for is no longer asked for once its request fails (R410). -/
theorem answer_pref (hg : r.got = none) (hf : r.form = .pref) (b : Byte) :
    s.answer k [b] = { s with remotes := s.remotes.filter fun x => x.id != k } := by
  have hfilter : ((s.remotes.map fun (x : Remote) => if x.id = k then { r with got := some [b] } else x).filter
      fun x => x.id != k) = s.remotes.filter fun x => x.id != k := by
    induction s.remotes with
    | nil => rfl
    | cons x xs ih =>
      rw [List.map_cons, List.filter_cons, List.filter_cons, ih]
      by_cases hx : x.id = k
      · simp [hx, remote_id hr]
      · simp [hx]
  rw [answer_eq hr hg]
  dsimp only
  rw [if_pos (by rw [hf]; rfl), hfilter]
  rfl

theorem answer_collected (hg : r.got = none) (hf : r.form ≠ .pref) (hc : r.collected = true) (got : List Byte) :
    s.answer k got =
      { s with remotes := s.remotes.map fun x => if x.id = k then { r with got := some got } else x } := by
  rw [answer_eq hr hg]
  simp only [beq_eq_false_iff_ne.2 hf, hc, Bool.false_eq_true, if_false, if_true]

theorem movedRefusal_pref (hg : r.got = none) (hf : r.form = .pref) :
    exec (.movedRefusal k) s = .next { s with remotes := s.remotes.filter fun x => x.id != k } := by
  change execMovedRefusal k s = _
  rw [execMovedRefusal, hr]
  simp [hg, hf]

section
variable {c : Ctx} {e : BitVec 128} (hg : r.got = none) (hf : r.form ≠ .gather) (hf' : r.form ≠ .pref)
    (hc : s.ctx? r.ctx = some c) (he : c.walk r.ea.toNat = .ok e)
include hg hf hf' hc he

/-- While its page migrates a refused request waits. -/
theorem movedRefusal_waits (hm : pteMig e = true) : exec (.movedRefusal k) s = .next { s with
    remotes := s.remotes.map fun x => if x.id = k then { x with moved := true } else x } := by
  change execMovedRefusal k s = _
  rw [execMovedRefusal, hr]
  simp only [hg, hf, hf', hc, he, hm, Option.isSome_none, Bool.false_eq_true, if_false, if_true]

/-- Then it goes to the page's new home. -/
theorem movedRefusal_reissues (hports : ∀ x ∈ s.ports, x.2.paused = []) (hm : pteMig e = false) {d : Nat}
    (hd : peerOf (frameKey (pteLoc e) (ptePeer e) (pteFrame e) + r.ea.toNat % 65536 / 128 * 128 + r.hdr.address.toNat % 128) =
      some d) :
    let key := frameKey (pteLoc e) (ptePeer e) (pteFrame e) + r.ea.toNat % 65536 / 128 * 128 + r.hdr.address.toNat % 128
    ∃ t hd, exec (.movedRefusal k) s = .next t ∧ t = { s with remotes := t.remotes, out := .packet hd r.data :: s.out } ∧
      hd.dst = BitVec.ofNat 16 d ∧ hd.address = BitVec.ofNat 64 (key % regionSize) ∧ hd.kind = r.hdr.kind ∧
      hd.reqid = r.hdr.reqid := by
  intro key
  let h : FabHdr := { r.hdr with dst := BitVec.ofNat 16 d, address := BitVec.ofNat 64 (key % regionSize) }
  refine ⟨{ s with
    remotes := s.remotes.map fun (x : Remote) => if x.id = r.id then { x with hdr := h } else x,
    out := .packet h r.data :: s.out }, h, ?_, rfl, rfl, rfl, rfl, rfl⟩
  change execMovedRefusal k s = _
  rw [execMovedRefusal, hr]
  simp only [hg, hf, hf', hc, he, hm, Option.isSome_none, Bool.false_eq_true, if_false]
  rw [State.reissue, hd]
  simp only [Option.isSome_some, if_true, Option.getD_some]
  rw [sendPacket_open (by exact hports)]
  rfl

end

end

end Sys2Proof.Machine
end

section
/-!
Answers of peers to a request that serves one lane (R75, R193, R217): what settles, and in which team.
-/

namespace Sys2Proof.Machine

/-! ## The team that waits -/

section
variable {s : State} {i : TeamId} {u : Team} (h : s.team? i = some u) (hn : (s.teams.map Team.id).Nodup)
include h hn

/-- A team that was waiting for a register waits no longer. -/
theorem unstall_team : ∃ t o, s.unstall i = { s with team := t, others := o } ∧
    (s.unstall i).team? i = some { u with stalled := false } := by
  have keep : (s.modTeam i fun t => { t with stalled := false }).team? i = some { u with stalled := false } :=
    team_modTeam h fun _ => rfl
  unfold State.unstall
  split
  next t hf =>
    have hmem := List.mem_of_find?_eq_some hf
    have hid : t.id = i := by
      have := List.find?_some hf
      simp only [Bool.and_eq_true, beq_iff_eq] at this
      exact this.1
    obtain rfl : t = u := eq_of_team h hn (List.mem_cons_of_mem _ hmem) hid
    have hne : s.team.id ≠ i := fun e => by
      rw [State.teams, List.map_cons, List.nodup_cons] at hn
      exact hn.1 (List.mem_map.2 ⟨t, hmem, hid.trans e.symm⟩)
    have hnone : (s.others.filter fun u => u.id != i).find? (fun t => t.id == i) = none :=
      List.find?_eq_none.2 fun x hx => by simpa using (List.mem_filter.1 hx).2
    refine ⟨_, _, rfl, ?_⟩
    change ((s.team :: ((s.others.filter fun u => u.id != i) ++ [{ t with stalled := false }])).find? fun t => t.id == i) = _
    rw [List.find?_cons_of_neg (by simpa using hne), List.find?_append, hnone]
    simp [hid]
  next => exact ⟨_, _, rfl, keep⟩

end

/-- A team one of whose outstanding instructions awaits a request no longer. -/
def Team.answered (k req : Nat) (f : Pending → Pending) (t : Team) : Team :=
  { t with
    pending := t.pending.map fun p => if p.id = k then f { p with waits := p.waits.filter fun w => w != req } else p }

/-- A settled request at most makes a trap due. -/
theorem settle_cases (s : State) (i : TeamId) (k req : Nat) (f : Pending → Pending) :
    s.settle i k req f = (s.modTeam i (Team.answered k req f)).unstall i ∨
      s.settle i k req f = ((s.modTeam i (Team.answered k req f)).unstall i).post (.trapEntry i) := by
  unfold State.settle
  dsimp only
  split
  · exact .inl rfl
  · split
    · exact .inr rfl
    · exact .inl rfl

theorem modTeam_ids (s : State) (i : TeamId) {f : Team → Team} (hf : ∀ u, (f u).id = u.id) :
    (s.modTeam i f).teams.map Team.id = s.teams.map Team.id := by
  rw [modTeam_teams, List.map_map]
  refine List.map_congr_left fun t _ => ?_
  simp only [Function.comp_apply]
  split
  · exact hf t
  · rfl

theorem settle_team {s : State} {i : TeamId} {u : Team} (h : s.team? i = some u) (hn : (s.teams.map Team.id).Nodup) (k req : Nat)
    (f : Pending → Pending) : ∃ t o a, s.settle i k req f = { s with team := t, others := o, agenda := a } ∧
      (s.settle i k req f).team? i = some { u.answered k req f with stalled := false } := by
  have hg : (s.modTeam i (Team.answered k req f)).team? i = some (u.answered k req f) := team_modTeam h fun _ => rfl
  have hids := modTeam_ids s i (f := Team.answered k req f) fun _ => rfl
  obtain ⟨t, o, e, ht⟩ := unstall_team hg (hids ▸ hn)
  obtain hs | hs := settle_cases s i k req f
  · exact ⟨t, o, s.agenda, hs.trans e, hs ▸ ht⟩
  · exact ⟨t, o, s.agenda ++ [.trapEntry i], hs.trans (by rw [e]; rfl), hs ▸ ht⟩

/-! ## The requests that stay -/

/-- A change of requests that at most bars caches from keeping the answers of those that have none. -/
def Bars (g : Remote → Remote) : Prop := (∀ x, g x = { x with stale := (g x).stale }) ∧ ∀ x, x.got.isSome = true → g x = x

/-- `t` is `s` but for the copies that caches keep, and whether they may keep what is still on its way (R203). -/
def State.Caches (s t : State) : Prop :=
  ∃ g, Bars g ∧ t = { s with copies := t.copies, oracle := t.oracle, remotes := s.remotes.map g }

namespace State.Caches
variable {s t u : State}

theorem of_copies (m : SMap Copy) (k : Nat) : s.Caches { s with copies := m, oracle := k } :=
  ⟨id, ⟨fun _ => rfl, fun _ _ => rfl⟩, by rw [List.map_id]⟩

theorem refl (s : State) : s.Caches s := of_copies s.copies s.oracle

theorem trans (h : s.Caches t) (h' : t.Caches u) : s.Caches u := by
  obtain ⟨g, ⟨hg, hgot⟩, e⟩ := h
  obtain ⟨g', ⟨hg', hgot'⟩, e'⟩ := h'
  refine ⟨g' ∘ g, ⟨fun x => ?_, fun x hx => ?_⟩, ?_⟩
  · rw [Function.comp_apply, hg' (g x), hg x]
  · rw [Function.comp_apply, hgot x hx, hgot' x hx]
  · rw [e', e, List.map_map]

theorem bar (s : State) (p : Nat → Bool) : s.Caches (s.bar p) := by
  let g (r : Remote) : Remote :=
    if r.got.isSome then r else { r with stale := r.stale ++ (s.takers r).filter fun h => p (copyKey h r.line) }
  have hg : Bars g := ⟨fun x => by dsimp only [g]; split <;> rfl, fun x hx => if_pos hx⟩
  unfold State.bar
  split
  · exact refl s
  · exact ⟨g, hg, rfl⟩

end State.Caches

/-- A cache that may still take a line keeps it, or keeps nothing of it (R203). -/
def State.keepCopy (s : State) (r : Remote) (c : Copy) (k j : Nat) : State :=
  if r.stale.contains (copyHolder k) then s
  else if Config.freeBool s.oracle (2 ^ 99 + j) then { s with copies := s.copies.insert k c }
  else { s with copies := s.copies.erase k }

theorem keepCopy_caches (s : State) (r : Remote) (c : Copy) (k j : Nat) : s.Caches (s.keepCopy r c k j) := by
  unfold State.keepCopy
  split
  · exact .refl s
  · split <;> exact .of_copies _ _

/-- The line goes past the L1 of the core and the cluster's cache. -/
theorem keepLine_cases (s : State) (r : Remote) : s.keepLine r = s ∨ ∃ (c : Copy) (k k' : Nat) (b : Bool) (p : Nat → Bool),
    let u := if b then (s.keepCopy r c k 0).keepCopy r c k' 1 else s.keepCopy r c k 0
    s.keepLine r = (if r.stale.isEmpty then u.bar p else u).tick := by
  unfold State.keepLine
  split
  next g _ hg =>
    by_cases h : (!r.isRead || r.shares.isEmpty) = true
    · exact .inl (if_pos h)
    · exact .inr ⟨_, _, _, s.caches (clusterOf (g.coreOf r.team.gx r.team.gy)), _, if_neg h⟩
  next => exact .inl rfl

/-- An answered line is kept or not (R25, R179). -/
theorem keepLine_caches (s : State) (r : Remote) : s.Caches (s.keepLine r) := by
  obtain h | ⟨c, k, k', b, p, h⟩ := keepLine_cases s r
  · rw [h]
    exact .refl s
  · have both : s.Caches (if b then (s.keepCopy r c k 0).keepCopy r c k' 1 else s.keepCopy r c k 0) := by
      split
      · exact (keepCopy_caches s r c k 0).trans (keepCopy_caches _ r c k' 1)
      · exact keepCopy_caches s r c k 0
    have last (u : State) : u.Caches (if r.stale.isEmpty then u.bar p else u) := by
      split
      · exact .bar u p
      · exact .refl u
    rw [h]
    exact both.trans ((last _).trans (.of_copies _ _))

/-! ## A request that serves one lane -/

/-- The request once its answer has come. -/
def Remote.told (r : Remote) (bs : List Byte) : Remote := { r with got := some bs }

/-- The state once a request's answer has come. -/
def State.told (s : State) (r : Remote) (bs : List Byte) : State :=
  { s with remotes := s.remotes.map fun (y : Remote) => if y.id = r.id then r.told bs else y }

/-- What an answer makes of the instruction whose lane it serves: its fault, or its value. -/
def Remote.outcome (r : Remote) (x : Share) (v : Nat × Bool) (p : Pending) : Pending :=
  match r.failure with
  | some e => { p with faults := p.faults ++ [⟨x.lane, e, x.ea, !r.isRead, false, 0⟩] }
  | none => if x.form == .nothing then p else p.fill x.lane v.1 v.2

section
variable (r : Remote) (x : Share) (v : Nat × Bool) (p : Pending)

theorem outcome_keeps : (r.outcome x v p).id = p.id ∧ (r.outcome x v p).waits = p.waits := by
  unfold Remote.outcome
  split
  · exact ⟨rfl, rfl⟩
  · split <;> exact ⟨rfl, rfl⟩

theorem outcome_of_failure {e : Nat} (h : r.failure = some e) :
    r.outcome x v p = { p with faults := p.faults ++ [⟨x.lane, e, x.ea, !r.isRead, false, 0⟩] } := by
  rw [Remote.outcome, h]

theorem outcome_nothing (h : r.failure = none) (hx : x.form = .nothing) : r.outcome x v p = p := by
  rw [Remote.outcome, h, hx]
  rfl

theorem outcome_value (h : r.failure = none) (hx : x.form ≠ .nothing) : r.outcome x v p = p.fill x.lane v.1 v.2 := by
  rw [Remote.outcome, h]
  exact if_neg (by simpa using hx)

end

theorem laneFailure_single (r : Remote) (x : Share) : laneFailure [(r, x)] 0 = r.failure.map fun e => ⟨x.lane, e, x.ea, !r.isRead, false, 0⟩ := by
  unfold laneFailure
  cases r.failure <;> simp [laneFailure]

section
variable {t : State} {r : Remote} {x : Share} (hparts : r.parts = [x])
include hparts

theorem laneAnswers_single : laneAnswers [r] x.lane = [(r, x)] := by
  by_cases h : x.off = 0 <;> simp [laneAnswers, hparts, h]

variable (hgot : r.got.isSome = true)
include hgot

/-- One lane, one answer: the lane's fault or value. -/
theorem settleLane_single (hsib : t.siblings r = [r]) : ∃ v : Nat × Bool, (∃ c, v = t.answerFill c [(r, x)]) ∧
    t.settleLane r x.lane = t.modTeam r.team fun u =>
      { u with pending := u.pending.map fun p => if p.id = r.pendingId then r.outcome x v p else p } := by
  refine ⟨_, ⟨(t.team? r.team).elim 0 Team.ctx, rfl⟩, ?_⟩
  unfold State.settleLane
  rw [hsib, laneAnswers_single hparts]
  dsimp only
  rw [if_neg (by simpa [Option.isSome_iff_ne_none] using hgot)]
  congr 1
  funext u
  congr 2
  funext p
  rw [laneFailure_single]
  by_cases hp : p.id = r.pendingId
  · rw [if_pos hp, if_neg (by simpa using hp), Remote.outcome]
    cases r.failure <;> simp
  · rw [if_neg hp, if_pos (by simpa using hp)]

/-- Then nothing waits for the request. -/
theorem settleAnswer_single (hsib : (t.keepLine r).siblings r = [r]) : ∃ v : Nat × Bool, (∃ u c, v = State.answerFill u c [(r, x)]) ∧
    t.settleAnswer r =
      ({ (t.keepLine r).modTeam r.team fun u =>
          { u with pending := u.pending.map fun p => if p.id = r.pendingId then r.outcome x v p else p } with
        remotes := (t.keepLine r).remotes.filter fun y => y.id != r.id } : State).settle r.team r.pendingId r.id id := by
  obtain ⟨v, ⟨c, hv⟩, hlane⟩ := settleLane_single hparts hgot hsib
  refine ⟨v, ⟨_, c, hv⟩, ?_⟩
  have hsib' (f : Team → Team) : ((t.keepLine r).modTeam r.team f).siblings r = [r] := hsib
  have hlanes : r.parts.map Share.lane = [x.lane] := by rw [hparts]; rfl
  have hfull : ([r].filter fun y => y.got.isSome && y.parts.all fun z => (laneAnswers [r] z.lane).all fun w => w.1.got.isSome) = [r] := by
    simp [hparts, laneAnswers_single hparts, hgot]
  have hids (y : Remote) : (!([r.id].contains y.id)) = (y.id != r.id) := by
    by_cases h : y.id = r.id <;> simp [h]
  unfold State.settleAnswer
  simp only [hlanes, List.foldl_cons, List.foldl_nil, hlane, hsib', hfull, List.map_cons, List.map_nil, hids]
  rfl

end

/-! ## The answer arrives -/

section
variable {s : State} {r : Remote} (hsib : s.siblings r = [r]) (hids : (s.remotes.map Remote.id).Nodup)
include hsib

theorem sibling_mem : r ∈ s.remotes ∧ r.collected = false ∧ r.polls = false := by
  have h : r ∈ s.siblings r := hsib ▸ List.mem_singleton_self r
  simpa [State.siblings] using h

include hids

theorem find_sibling : (s.remotes.find? fun y => y.id == r.id) = some r := by
  obtain ⟨hmem, -⟩ := sibling_mem hsib
  cases h : s.remotes.find? fun y => y.id == r.id with
  | none => exact absurd (List.find?_eq_none.1 h r hmem) (by simp)
  | some y =>
    have hy : y.id = r.id := by simpa using List.find?_some h
    rw [List.inj_on_of_nodup_map hids (List.mem_of_find?_eq_some h) hmem hy]

/-- The other requests wait as before; the caches may keep what this one brought. -/
theorem keepLine_told (got : List Byte) :
    let t := (s.told r got).keepLine (r.told got)
    t.siblings (r.told got) = [r.told got] ∧ (∃ m k g, t = { s with copies := m, oracle := k, remotes := g }) ∧
    (t.remotes.filter fun y => y.id != r.id).map (fun y => { y with stale := [] }) =
      (s.remotes.filter fun y => y.id != r.id).map fun y => { y with stale := [] } := by
  intro t
  obtain ⟨g, ⟨hg, hgot⟩, e⟩ := keepLine_caches (s.told r got) (r.told got)
  let h (y : Remote) : Remote := g (if y.id = r.id then r.told got else y)
  have hrem : t.remotes = s.remotes.map h := by
    dsimp only [t]
    rw [e]
    exact List.map_map ..
  obtain ⟨hmem, -⟩ := sibling_mem hsib
  have hself : h r = r.told got := by
    dsimp only [h]
    rw [if_pos rfl]
    exact hgot _ rfl
  have hother {y : Remote} (hy : y.id ≠ r.id) : h y = { y with stale := (h y).stale } := by
    dsimp only [h]
    rw [if_neg hy]
    exact hg y
  refine ⟨?_, ⟨_, _, _, e⟩, ?_⟩
  · rw [State.siblings, hrem, List.filter_map]
    have hsame : s.remotes.filter ((fun y => y.team == r.team && y.pendingId == r.pendingId && !y.collected && !y.polls) ∘ h) =
        s.siblings r := by
      refine List.filter_congr fun y hy => ?_
      by_cases hid : y.id = r.id
      · obtain rfl : y = r := List.inj_on_of_nodup_map hids hy hmem hid
        rw [Function.comp_apply, hself]
        rfl
      · rw [Function.comp_apply, hother hid]
        rfl
    exact (congrArg _ (hsame.trans hsib)).trans (by rw [List.map_singleton, hself])
  · have hname {y : Remote} : (h y).id = y.id := by
      by_cases hid : y.id = r.id
      · dsimp only [h]
        rw [if_pos hid, hgot _ rfl]
        exact hid.symm
      · rw [hother hid]
    rw [hrem, List.filter_map, List.map_map]
    have hkeep : ((fun y : Remote => y.id != r.id) ∘ h) = fun y => y.id != r.id := by
      funext y
      rw [Function.comp_apply, hname]
    rw [hkeep]
    refine List.map_congr_left fun y hy => ?_
    rw [Function.comp_apply, hother (by simpa using (List.mem_filter.1 hy).2)]

end

/-- The one request of the one outstanding instruction of a team is settled: nothing but the team and what caches may keep has
changed. -/
def State.Settles (s : State) (r : Remote) (u : Team) (o : Out) (q : Pending → Prop) : Prop :=
  ∃ t u' p', o = .next t ∧ t.mem = s.mem ∧ t.remotes.map (fun x => { x with stale := [] }) =
    (s.remotes.filter fun x => x.id != r.id).map (fun x => { x with stale := [] }) ∧ t.team? r.team = some u' ∧
    u' = { u with pending := [p'], stalled := false } ∧ p'.waits = [] ∧ q p'

theorem State.Settles.mono {s : State} {r : Remote} {u : Team} {o : Out} {q q' : Pending → Prop} (h : s.Settles r u o q)
    (hq : ∀ p, q p → q' p) : s.Settles r u o q' := by
  obtain ⟨t, u', p', ho, hmem, hrem, hteam, hu, hw, hp⟩ := h
  exact ⟨t, u', p', ho, hmem, hrem, hteam, hu, hw, hq p' hp⟩

/-- A request that serves one lane of a team's one outstanding instruction, and has no answer yet. -/
structure State.Awaits (s : State) (r : Remote) (x : Share) (u : Team) (p : Pending) : Prop where
  sibling : s.siblings r = [r]
  parts : r.parts = [x]
  unanswered : r.got = none
  form : r.form ≠ .pref
  team : s.team? r.team = some u
  teams : (s.teams.map Team.id).Nodup
  pending : u.pending = [p]
  name : p.id = r.pendingId
  waits : p.waits = [r.id]
  ids : (s.remotes.map Remote.id).Nodup

section
variable {s : State} {r : Remote} {x : Share} {u : Team} {p : Pending} (h : s.Awaits r x u p)
include h

theorem answer_settles (got : List Byte) : ∃ v : Nat × Bool, (∃ t c, v = State.answerFill t c [(r.told got, x)]) ∧
    s.Settles r u (.next (s.answer r.id got)) fun p' => p' = { (r.told got).outcome x v p with waits := [] } := by
  obtain ⟨-, hcol, hpolls⟩ := sibling_mem h.sibling
  obtain ⟨hsib, ⟨m, k, g, hkept⟩, hrem⟩ := keepLine_told h.sibling h.ids got
  obtain ⟨v, hv, hsettle⟩ := settleAnswer_single (t := s.told r got) (r := r.told got) h.parts rfl hsib
  have hans : s.answer r.id got = (s.told r got).settleAnswer (r.told got) := by
    rw [answer_eq (find_sibling h.sibling h.ids) h.unanswered]
    simp only [beq_eq_false_iff_ne.2 h.form, hcol, hpolls, Bool.false_eq_true, if_false]
    rfl
  let f (u : Team) : Team :=
    { u with pending := u.pending.map fun p => if p.id = r.pendingId then (r.told got).outcome x v p else p }
  have hteam : (((s.told r got).keepLine (r.told got)).modTeam r.team f).team? r.team = some (f u) := by
    rw [hkept]
    exact team_modTeam h.team fun _ => rfl
  have hteams : (((s.told r got).keepLine (r.told got)).modTeam r.team f).teams.map Team.id = s.teams.map Team.id := by
    exact (modTeam_ids _ _ (f := f) fun _ => rfl).trans (by rw [hkept]; rfl)
  let after : State := { ((s.told r got).keepLine (r.told got)).modTeam r.team f with
    remotes := ((s.told r got).keepLine (r.told got)).remotes.filter fun y => y.id != r.id }
  obtain ⟨t', o, a, e, ht⟩ := settle_team (s := after) (i := r.team) (u := f u) hteam (hteams ▸ h.teams) r.pendingId r.id id
  refine ⟨v, hv, _, _, { (r.told got).outcome x v p with waits := [] }, rfl, ?_, ?_, ?_, rfl, rfl, rfl⟩
  · rw [hans, hsettle]
    refine (congrArg State.mem e).trans ?_
    change ((s.told r got).keepLine (r.told got)).mem = s.mem
    rw [hkept]
  · rw [hans, hsettle]
    exact (congrArg (List.map _ ∘ State.remotes) e).trans hrem
  · rw [hans, hsettle]
    refine ht.trans (congrArg some ?_)
    obtain ⟨hid, hwaits⟩ := outcome_keeps (r.told got) x v p
    simp [Team.answered, f, h.pending, h.name, hid, hwaits, h.waits]

theorem awaits_failed {b : Byte} (hb : b ≠ 0) : s.Settles r u (.next (s.answer r.id [b])) fun p' =>
    p'.faults = p.faults ++ [⟨x.lane, b.toNat, x.ea, !r.isRead, false, 0⟩] := by
  obtain ⟨v, -, hs⟩ := answer_settles h [b]
  have hfail : (r.told [b]).failure = some b.toNat := if_neg hb
  exact hs.mono fun p' e => by rw [e, outcome_of_failure _ x v p hfail]; rfl

theorem awaits_nothing (hx : x.form = .nothing) : s.Settles r u (.next (s.answer r.id [0])) fun p' =>
    p'.faults = p.faults ∧ p'.dests = p.dests := by
  obtain ⟨v, -, hs⟩ := answer_settles h [0]
  exact hs.mono fun p' e => by rw [e, outcome_nothing _ _ _ _ rfl hx]; exact ⟨rfl, rfl⟩

theorem awaits_lane {n : Nat} {signed : Bool} (hx : x.form = .lane n signed) (hshares : r.shares ≠ []) {got : List Byte}
    (hgot : got.length ≠ 1) : s.Settles r u (.next (s.answer r.id got)) fun p' => p'.faults = p.faults ∧
      p'.dests = (p.fill x.lane (extendBytes n signed ((got.drop x.off).take x.len)) false).dests := by
  obtain ⟨v, ⟨t, c, hv⟩, hs⟩ := answer_settles h got
  have hfail : (r.told got).failure = none := by
    unfold Remote.failure Remote.told
    split
    next b hb => exact absurd (congrArg List.length (Option.some.inj hb)) hgot
    next => rfl
  have hbytes : (r.told got).shareBytes x = (got.drop x.off).take x.len :=
    if_neg (by simpa [Remote.told] using hshares)
  have hval : v = (extendBytes n signed ((got.drop x.off).take x.len), false) := by
    rw [hv, State.answerFill]
    simp only [List.head?_cons, Option.map_some, hx, List.flatMap_cons, List.flatMap_nil, List.append_nil, hbytes]
  exact hs.mono fun p' e => by
    rw [e, outcome_value _ _ _ _ hfail (by rw [hx]; nofun), hval]
    exact ⟨rfl, rfl⟩

end

/-- A value fills its lane of the lowest destination. -/
theorem fill_v (p : Pending) {d : Nat} {vals : List (Option Word)} (hp : p.dests = [.v d vals]) (l n : Nat) (tag : Bool) :
    (p.fill l n tag).dests =
      [.v d ((List.range vals.length).map fun i => if i = l then some (BitVec.ofNat 32 n) else vals.getD i none)] := by
  simp [Pending.fill, hp, List.range_one]

end Sys2Proof.Machine
end

section
/-!
What a packet from a peer says to a request that waits (R75, R199, R296), and obligation O56.
-/

namespace Sys2Proof.Machine

section
variable {s : State} {h : FabHdr} {data : List Byte} (hgood : hdrBad h = false)

section
variable (hnone : (s.remotes.find? fun r => r.id == h.reqid.toNat && r.hdr.dst == h.src) = none)
include hgood hnone

/-- A response to no request is dropped. -/
theorem fabricResponse_unasked (hk : h.kind = 6) : exec (.fabricResponse h data) s = .next s := by
  change execFabricResponse h data s = _
  rw [execFabricResponse, hgood, hk, State.answered, hnone]
  rfl

end

section
include hgood

theorem fabricResponse_answered (hk : h.kind = 6) : exec (.fabricResponse h data) s = .next (s.answered h data) := by
  change execFabricResponse h data s = _
  rw [execFabricResponse, hgood, hk]
  rfl

theorem fabricAcknowledgement_refusal (hk : h.kind = 7) (ho : h.op ≠ 0) :
    exec (.fabricAcknowledgement h) s = .next (s.answered h []) := by
  change execFabricAcknowledgement h s = _
  rw [execFabricAcknowledgement, hgood, hk, bne_iff_ne.2 ho, Bool.or_true, Bool.true_or]
  rfl

variable {r : Remote} (hr : (s.remotes.find? fun r => r.id == h.reqid.toNat && r.hdr.dst == h.src) = some r)
include hr

theorem fabricAcknowledgement_done (hk : h.kind = 7) (hf : r.form = .nothing) :
    exec (.fabricAcknowledgement h) s = .next (s.answered h []) := by
  have hid : r.id = h.reqid.toNat ∧ r.hdr.dst = h.src := by simpa using List.find?_some hr
  have hany : (s.remotes.any fun r => r.id == h.reqid.toNat && r.form == .nothing) = true :=
    List.any_eq_true.2 ⟨r, List.mem_of_find?_eq_some hr, by simp [hid.1, hf]⟩
  change execFabricAcknowledgement h s = _
  rw [execFabricAcknowledgement, hgood, hk, hany, Bool.true_or, Bool.true_or]
  rfl

end

section
variable {r : Remote} (hr : (s.remotes.find? fun r => r.id == h.reqid.toNat && r.hdr.dst == h.src) = some r)
include hr

/-- A page that has moved. -/
theorem answered_moved (ho : h.op = 0x80) : s.answered h data = { s with agenda := s.agenda ++ [.movedRefusal r.id] } := by
  rw [State.answered, hr, ho]
  rfl

variable (hp : hdrPoison h = false)
include hp

theorem answered_refused (ho : h.op ≠ 0) (ho' : h.op ≠ 0x80) : s.answered h data = s.answer r.id [h.op] := by
  have hmoved : h.op.toNat ≠ opMoved := fun e => ho' (BitVec.eq_of_toNat_eq e)
  rw [State.answered, hr]
  simp only [hmoved, hp, bne_iff_ne.2 ho, Bool.false_eq_true, if_false, if_true]

theorem answered_done (ho : h.op = 0) (hk : r.hdr.kind ≠ 0) : s.answered h [] = s.answer r.id [0] := by
  have hread : r.isRead = false := beq_eq_false_iff_ne.2 hk
  rw [State.answered, hr, ho]
  simp [opMoved, hp, hread]

/-- A line arrives with its tags behind it. -/
theorem answered_line (ho : h.op = 0) (hk : r.hdr.kind = 0) (hd : data.length = 128) :
    ∃ b, s.answered h data = s.answer r.id (data ++ [b]) := by
  have hread : r.isRead = true := beq_iff_eq.2 hk
  have hline : (List.range 128).map (fun i => data.getD i 0) = data :=
    List.ext_getElem (by simp [hd]) fun i h1 h2 => by simp [h2]
  have hkept (c : Ctx) (b : Byte) : ∃ b', c.keepLineTags (data ++ [b]) = data ++ [b'] := by
    rw [Ctx.keepLineTags, if_pos (by simp [hd]), List.take_left' hd]
    exact ⟨_, rfl⟩
  have hmoved : BitVec.toNat (0 : Byte) ≠ opMoved := by decide
  rw [State.answered, hr, ho]
  simp only [if_neg hmoved, hp, hread, hline, bne_self_eq_false, Bool.false_eq_true, if_false, if_true]
  split
  · cases s.ctx? r.hdr.sctx.toNat with
    | none => exact ⟨_, rfl⟩
    | some c =>
      obtain ⟨b, hb⟩ := hkept c (if hdrTagged h then h.tags else 0)
      exact ⟨b, congrArg _ hb⟩
  · exact ⟨_, rfl⟩

end

end

/-! ## What becomes of the instruction that waits -/

section
variable {s : State} {h : FabHdr} {data : List Byte} {r : Remote} {x : Share} {u : Team} {p : Pending}
  (ha : s.Awaits r x u p) (hfaults : p.faults = [])
include ha hfaults

/-- 2 ms without an answer (R217). -/
theorem atomIndet_settles (ht : r.sent + 2000000 ≤ s.domainClock) :
    s.Settles r u (exec (.atomIndet r.id) s) fun p' => p'.faults = [⟨x.lane, 0x34, x.ea, !r.isRead, false, 0⟩] := by
  rw [atomIndet_answers (find_sibling ha.sibling ha.ids) ha.unanswered ht]
  exact (awaits_failed ha (by decide)).mono fun _ e => by rw [e, hfaults]; rfl

variable (hgood : hdrBad h = false) (hp : hdrPoison h = false)
  (hr : (s.remotes.find? fun r => r.id == h.reqid.toNat && r.hdr.dst == h.src) = some r)
include hp hr

/-- The peer refuses the request. -/
theorem answered_refusal_settles (ho : h.op ≠ 0) (ho' : h.op ≠ 0x80) : s.Settles r u (.next (s.answered h data)) fun p' =>
    p'.faults = [⟨x.lane, h.op.toNat, x.ea, !r.isRead, false, 0⟩] := by
  rw [answered_refused hr hp ho ho']
  exact (awaits_failed ha ho).mono fun _ e => by rw [e, hfaults]; rfl

include hgood

/-- The peer has done what was asked. -/
theorem acknowledgement_settles (hf : r.form = .nothing) (hx : x.form = .nothing) (hk : h.kind = 7) (ho : h.op = 0)
    (hw : r.hdr.kind ≠ 0) : s.Settles r u (exec (.fabricAcknowledgement h) s) fun p' =>
      p'.faults = [] ∧ p'.dests = p.dests := by
  rw [fabricAcknowledgement_done hgood hr hk hf, answered_done hr hp ho hw]
  exact (awaits_nothing ha hx).mono fun _ ⟨e, hd⟩ => ⟨e.trans hfaults, hd⟩

/-- A load's line arrives: the lane takes its bytes. -/
theorem response_settles {n : Nat} {signed : Bool} (hx : x.form = .lane n signed) (hshares : r.shares ≠ []) (hk : h.kind = 6)
    (ho : h.op = 0) (hread : r.hdr.kind = 0) (hd : data.length = 128) (hoff : x.off + x.len ≤ 128) {d : Nat}
    {vals : List (Option Word)} (hdests : p.dests = [.v d vals]) : s.Settles r u (exec (.fabricResponse h data) s) fun p' =>
      p'.faults = [] ∧ p'.dests = [.v d ((List.range vals.length).map fun i => if i = x.lane then
        some (BitVec.ofNat 32 (extendBytes n signed ((data.drop x.off).take x.len))) else vals.getD i none)] := by
  obtain ⟨b, hb⟩ := answered_line hr hp ho hread hd
  have hbytes : ((data ++ [b]).drop x.off).take x.len = (data.drop x.off).take x.len := by
    rw [List.drop_append_of_le_length (by omega), List.take_append_of_le_length (by simp; omega)]
  rw [fabricResponse_answered hgood hk, hb]
  refine (awaits_lane ha hx hshares (got := data ++ [b]) (by simp [hd])).mono fun _ ⟨e, hv⟩ => ⟨e.trans hfaults, ?_⟩
  rw [hv, fill_v p hdests, hbytes]

end

/-- Settles O56: an answer settles the lane that waits for it, by its value or its fault, and the links and the clock do as they
are told. -/
theorem fabricAnswersLinksAndClock : Obligations.FabricAnswersLinksAndClock := by
  unfold Obligations.FabricAnswersLinksAndClock
  intro s hports
  refine ⟨fun h data hgood => ⟨fun hk hnone => fabricResponse_unasked hgood hnone hk,
      fun r hr => ⟨fun hk ho => ?_, fun hk ho => ?_, ?_⟩⟩,
    fun k r hr => ⟨retransmit_sends hr hports, retransmit_none hr, atomIndet_none hr,
      fun hg hf => ⟨movedRefusal_pref hr hg hf, fun ht => ?_⟩, fun hg hf ht hc => ?_,
      fun c e hg hf hf' hc he => ⟨movedRefusal_waits hr hg hf hf' hc he,
        fun d hm hd => movedRefusal_reissues hr hg hf hf' hc he hports hm hd⟩⟩,
    fun port peer rt => ⟨fun h => linkBringup_none s h rt, linkBringup_up rt⟩,
    fun t port p vc hvc hp _ => ⟨fabricPause_pauses hvc hp, fabricResume_sends hvc hp, linkLevelRetry_counts hp⟩,
    fun ns => ⟨fun h => clock_unfollowed h ns, fun h hh => clockSync_follows h hh ns, syncLost_follows⟩⟩
  · rw [fabricResponse_answered hgood hk, answered_moved hr ho]
  · rw [fabricAcknowledgement_refusal hgood hk (by rw [ho]; decide), answered_moved hr ho]
  · intro u p d vals x hsib hparts hgot hform _ hteam _ hteams _ hpend hname hwaits hfaults hdests _ hids _
    have ha : s.Awaits r x u p := ⟨hsib, hparts, hgot, hform, hteam, hteams, hpend, hname, hwaits, hids⟩
    refine ⟨fun n signed hx hshares hk ho hp hread hd hoff =>
        response_settles ha hfaults hgood hp hr hx hshares hk ho hread hd hoff hdests,
      fun hf hx hk ho hp hw => acknowledgement_settles ha hfaults hgood hp hr hf hx hk ho hw,
      fun _ ho ho' hp => ⟨fun hk => ?_, fun hk => ?_⟩, fun _ ht => atomIndet_settles ha hfaults ht⟩
    · change s.Settles r u (exec (.fabricResponse h data) s) _
      rw [fabricResponse_answered hgood hk]
      exact answered_refusal_settles ha hfaults hp hr ho ho'
    · change s.Settles r u (exec (.fabricAcknowledgement h) s) _
      rw [fabricAcknowledgement_refusal hgood hk ho]
      exact answered_refusal_settles ha hfaults hp hr ho ho'
  · rw [atomIndet_answers hr hg ht, answer_pref hr hg hf]
  · rw [atomIndet_answers hr hg ht, answer_collected hr hg hf hc]

end Sys2Proof.Machine
end

section
/-!
The words that the spec writes out beside their instructions (R101, R110, R144, R163, R210, R217, R312, R363, R385), and those
that it refuses (R92, R101, R103).
-/

namespace Sys2Proof

/-- Settles O1: the decoder, evaluated at each word. -/
theorem decodeSampleWords : Obligations.DecodeSampleWords :=
  ⟨by decide +kernel, by decide +kernel⟩

end Sys2Proof
end

section
/-!
The checks before an instruction takes effect (R98) and privilege among them (R96): what `exec` makes of an instruction that a check
stops, whichever it is.
-/

namespace Sys2Proof.Machine

/-! ## Every instruction goes through the checks -/

/-- Every encoded instruction but IMM and UNI is one call of `issue`: the checks of R98, then an effect of its own. -/
theorem exec_eq_issue (s : State) {i : Instr} (he : i.encoded = true) (himm : ∀ p, i ≠ .imm p) (huni : ∀ r, i ≠ .uni r) :
    ∃ body, exec i s = issue i s body := by
  cases i
  all_goals cases he
  case imm p => exact absurd rfl (himm p)
  case uni r => exact absurd rfl (huni r)
  all_goals simp only [exec]
  case frcp | frsq | fsqrt | fexp2 | flog2 | fsin | fcos =>
    simp only [execFrcp, execFrsq, execFsqrt, execFexp2, execFlog2, execFsin, execFcos, longFloat1, longFloat]
    exact ⟨_, rfl⟩
  case fdiv =>
    simp only [execFdiv, longFloat]
    exact ⟨_, rfl⟩
  case kinc | kset | kbnd | kprm =>
    simp only [execKinc, execKset, execKbnd, execKprm, deriveInt]
    exact ⟨_, rfl⟩
  case kincI | kseal | kopen =>
    simp only [execKincI, execKseal, execKopen, deriveCap]
    exact ⟨_, rfl⟩
  case ldu | ldcu =>
    simp only [execLdu, execLdcu, uniformLoad]
    exact ⟨_, rfl⟩
  case flush | inval =>
    simp only [execFlush, execInval, lineOp]
    exact ⟨_, rfl⟩
  case atom | cas | red =>
    simp only [execAtom, execCas, execRed, atomic]
    exact ⟨_, rfl⟩
  case job | task | launch =>
    simp only [execJob, execTask, execLaunch, submit]
    exact ⟨_, rfl⟩
  case mldt | mlda | msta =>
    simp only [execMldt, execMlda, execMsta, transfer]
    exact ⟨_, rfl⟩
  case tlbinv | tlbinvAll =>
    simp only [execTlbinv, execTlbinvAll, tlbInvalidate]
    exact ⟨_, rfl⟩
  case ksweep | cadd | cwait | mma | mmap | mchk | pgmap =>
    simp only [execKsweep, execCadd, execCwait, execMma, execMmap, execMchk, execPgmap]
    exact ⟨_, rfl⟩
  all_goals exact ⟨_, rfl⟩

/-- An instruction that a check stops raises the check's cause from the state as it stood. -/
theorem exec_of_refuses {s : State} {i : Instr} {c : Nat} (he : i.encoded = true) (himm : ∀ p, i ≠ .imm p)
    (huni : ∀ r, i ≠ .uni r) (hb : s.team.blocked i = false) (hc : s.team.refuses i (s.entering i).team = some c) :
    exec i s = .next (takeTrap (.instr c (insnOf i)) 0 s) := by
  obtain ⟨body, hx⟩ := exec_eq_issue s he himm huni
  rw [hx, issue_of_refuses hb hc]
  rfl

theorem issues_of_refuses_none {s : State} {i : Instr} (hb : s.team.blocked i = false)
    (hc : s.team.refuses i (s.entering i).team = none) : s.issues i = true := by
  simp [State.issues, hb, hc]

/-! ## The first check that fails (R98) -/

section
variable {t u : Team} {i : Instr}

theorem refuses_of_operands (h : ¬ ∀ x ∈ t.uses i, x.ok t = true) : t.refuses i u = some cIllegal := by
  have hall : ((t.uses i).all fun x => x.ok t) = false := by simpa using h
  simp [Team.refuses, hall]

variable (hops : ∀ x ∈ t.uses i, x.ok t = true)
include hops

/-- With its operands in order, the other checks decide. -/
theorem refuses_of_operands_ok : t.refuses i u =
    if (takes i).fits t.latch = true then
      if u.privOk i = true then
        if t.hazard i = true then some cLookahead
        else if kindOf i = .collective ∧ t.active ≠ fullMask t.width then some cConverge else none
      else some cIllegal
    else some cPrefix := by
  have hall : ((t.uses i).all fun x => x.ok t) = true := List.all_eq_true.2 hops
  rw [Team.refuses, hall]
  cases (takes i).fits t.latch <;> cases u.privOk i <;> simp

end

/-- Settles O10: the checks in their order, each with those before it passed. -/
theorem checksStopInOrder : Obligations.ChecksStopInOrder := by
  intro s i he himm huni hb t operands fitting rights free whole
  have stops {c : Nat} (hc : s.team.refuses i (s.entering i).team = some c) := exec_of_refuses he himm huni hb hc
  refine ⟨fun ho => stops (refuses_of_operands ho), fun ho hf => stops ?misprefixed, fun ho hf hr => stops ?privilege,
    fun ho hf hr hh => stops ?lookahead, fun ho hf hr hh hw => stops ?converge,
    fun ho hf hr hh hw => issues_of_refuses_none hb ?passes⟩
  all_goals rw [refuses_of_operands_ok ho]
  case misprefixed => exact if_neg hf
  case privilege => rw [if_pos hf, if_neg hr]; rfl
  case lookahead => rw [if_pos hf, if_pos hr, if_pos (Bool.eq_true_of_not_eq_false hh)]; rfl
  case converge =>
    rw [if_pos hf, if_pos hr, if_neg (Bool.eq_false_iff.1 hh), if_pos (Classical.not_imp.1 hw)]; rfl
  case passes =>
    rw [if_pos hf, if_pos hr, if_neg (Bool.eq_false_iff.1 hh), if_neg fun h => h.2 (hw h.1)]

/-! ## Privilege (R96, R433) -/

/-- What a read inside a window makes of an outstanding result leaves the privilege. -/
theorem peek_priv (o : Nat) (us : List Use) (t : Team) (p : Pending) : (t.peek o us p).priv = t.priv := by
  refine List.foldlRecOn _ _ (motive := fun u : Team => u.priv = t.priv) rfl fun u hu x _ => ?_
  dsimp only
  split
  · obtain ⟨v, q, s, c, e⟩ := writeDest_registers u (x.2.without (maskOf 1024 fun l => !seesNew o p.id x.1 l))
    rw [e]
    exact hu
  · exact hu

theorem settle_priv (o : Nat) (t : Team) (i : Instr) : (t.settle o i).priv = t.priv := by
  have finished (ps : List Pending) : (ps.foldl Team.finish t).priv = t.priv := by
    obtain ⟨v, q, s, c, past, e⟩ := foldl_finish_registers ps t
    rw [e]
  have peeked (ps : List Pending) (us : List Use) (u : Team) : (ps.foldl (Team.peek o us) u).priv = u.priv :=
    List.foldlRecOn _ _ (motive := fun x : Team => x.priv = u.priv) rfl fun x hx p _ => (peek_priv o us x p).trans hx
  have closed (c : Bool) (u : Team) : (if c then u.closeWindows else u).priv = u.priv := by cases c <;> rfl
  rw [Team.settle, closed]
  exact (peeked _ _ _).trans (finished _)

/-- What an instruction settles before it acts (R73, R74) leaves the team's privilege. -/
@[simp] theorem entering_priv (s : State) (i : Instr) : (s.entering i).team.priv = s.team.priv := by
  unfold State.entering
  split
  · rfl
  · exact settle_priv _ _ _

/-- R96: an instruction beyond the privilege of its team, its registers and prefixes in order. -/
theorem exec_of_not_privOk {s : State} {i : Instr} (he : i.encoded = true) (himm : ∀ p, i ≠ .imm p) (huni : ∀ r, i ≠ .uni r)
    (hb : s.team.blocked i = false) (hops : ∀ x ∈ s.team.uses i, x.ok s.team = true) (hf : (takes i).fits s.team.latch = true)
    (hp : (s.entering i).team.privOk i = false) : exec i s = .next (takeTrap (.instr 0x01 (insnOf i)) 0 s) := by
  refine exec_of_refuses he himm huni hb ?_
  rw [refuses_of_operands_ok hops, if_pos hf, if_neg (Bool.eq_false_iff.1 hp)]
  rfl

theorem not_atLeast_of_rank {p need : Priv} (h : p.rank < need.rank) : p.atLeast need = false :=
  decide_eq_false (Nat.not_le.2 h)

theorem privOk_eq_false_of_user {u : Team} {i : Instr} (hi : privOf i = .super) (hu : u.priv = .user) : u.privOk i = false := by
  unfold Team.privOk
  split
  · cases hi
  · cases hi
  · rw [hi, hu]
    rfl

theorem sysReadOk_eq_false {p : Priv} {sel : Nat}
    (h : sysRow sel = none ∨ ∃ r, sysRow sel = some r ∧ p.rank < r.readAt.rank) : sysReadOk p sel = false := by
  unfold sysReadOk
  obtain h | ⟨r, h, hr⟩ := h
  · rw [h]
  · rw [h]
    exact not_atLeast_of_rank hr

theorem sysWriteOk_eq_false {p : Priv} {sel : Nat}
    (h : sysRow sel = none ∨ ∃ r, sysRow sel = some r ∧
      (r.writeAt = none ∨ ∃ w, r.writeAt = some w ∧ p.rank < w.rank)) : sysWriteOk p sel = false := by
  unfold sysWriteOk
  obtain h | ⟨r, h, hw | ⟨w, hw, hr⟩⟩ := h
  · rw [h]
  · simp only [h, hw]
  · simp only [h, hw]
    exact not_atLeast_of_rank hr

/-- Settles O11: the instructions that need SUPER, then SYSR and SYSW by the row that their selector names. -/
theorem privilegeIsChecked : Obligations.PrivilegeIsChecked := by
  refine ⟨fun s i hi hb hu hops hf => ?_, fun s d b => ⟨fun hb hsel hops hf => ?_, fun hb hsel hops hf => ?_⟩⟩
  · have user : (s.entering i).team.priv = .user := (entering_priv s i).trans hu
    obtain rfl | rfl | ⟨a, rfl⟩ | ⟨d, a, rfl⟩ := hi
    all_goals exact exec_of_not_privOk rfl nofun nofun hb hops hf (privOk_eq_false_of_user rfl user)
  · refine exec_of_not_privOk rfl nofun nofun hb hops hf (sysReadOk_eq_false ?_)
    rwa [entering_priv]
  · refine exec_of_not_privOk rfl nofun nofun hb hops hf (sysWriteOk_eq_false ?_)
    rwa [entering_priv]

end Sys2Proof.Machine
end

section
/-!
Floating arithmetic (R113 to R118, R342, R345, R353): the instructions, exact sums and products, and the special operands.
-/

namespace Sys2Proof.Machine

/-- Settles O22: each instruction by its operation on the elements as MODE.FTZ reads them. -/
theorem floatArithmetic : Obligations.FloatArithmetic :=
  fun _ _ _ _ => ⟨writesF_of rfl, writesF_of rfl, writesF_of rfl, writesF_of rfl⟩

end Sys2Proof.Machine
end

section
/-!
Exact values (R113, R114, R116, R342, R345): what a sum and a product of finite operands stand for, and the special operands.
-/

namespace Sys2Proof.Machine

/-! ## The values of terms -/

/-- A finite value over a smaller unit. -/
theorem rat_fin_of_le {e f : Int} (h : e ≤ f) (n : Bool) (m : Nat) :
    (FVal.fin n m f).rat = (if n then -((m * 2 ^ (f - e).toNat : Nat) : ℚ) else (m * 2 ^ (f - e).toNat : Nat)) * 2 ^ e := by
  have hp : (2 : ℚ) ^ f = 2 ^ (f - e).toNat * 2 ^ e := by
    rw [← zpow_natCast, ← zpow_add₀ two_ne_zero]
    congr 1
    omega
  cases n <;> simp [FVal.rat, hp] <;> ring

/-- An integer over a unit, with its sign apart. -/
theorem rat_fin_natAbs (x e : Int) : (FVal.fin (decide (x < 0)) x.natAbs e).rat = x * 2 ^ e := by
  simp only [FVal.rat, decide_eq_true_eq]
  split
  · rw [Nat.cast_natAbs, abs_of_neg ‹_›]
    push_cast
    ring
  · rw [Nat.cast_natAbs, abs_of_nonneg (by omega)]
    ring

theorem rat_fin_eq_zero {n : Bool} {m : Nat} {e : Int} : (FVal.fin n m e).rat = 0 ↔ m = 0 := by
  have h2 : (2 : ℚ) ^ e ≠ 0 := zpow_ne_zero _ two_ne_zero
  cases n <;> simp [FVal.rat, h2]

theorem exists_of_isFin {x : FVal} (h : x.isFin = true) : ∃ n m e, x = .fin n m e := by
  cases x with
  | fin n m e => exact ⟨n, m, e, rfl⟩
  | nan s => cases h
  | inf n => cases h

/-! ## Exact sums -/

/-- The term of a sum as a value. -/
def termVal (t : Bool × Nat × Int) : FVal := .fin t.1 t.2.1 t.2.2

theorem foldl_min_le (ts : List (Bool × Nat × Int)) (a : Int) :
    ts.foldl (fun a t => min a t.2.2) a ≤ a ∧ ∀ t ∈ ts, ts.foldl (fun a t => min a t.2.2) a ≤ t.2.2 := by
  induction ts generalizing a with
  | nil => simp
  | cons t ts ih =>
    obtain ⟨ha, hts⟩ := ih (min a t.2.2)
    simp only [List.foldl_cons, List.forall_mem_cons]
    exact ⟨by omega, by omega, hts⟩

/-- Terms over one unit, added as integers. -/
theorem foldl_terms {e : Int} (ts : List (Bool × Nat × Int)) (he : ∀ t ∈ ts, e ≤ t.2.2) (x : Int) :
    ((ts.foldl (fun a t => if t.1 then a - ((t.2.1 * 2 ^ (t.2.2 - e).toNat : Nat) : Int)
      else a + ((t.2.1 * 2 ^ (t.2.2 - e).toNat : Nat) : Int)) x : Int) : ℚ) * 2 ^ e =
      x * 2 ^ e + (ts.map fun t => (termVal t).rat).sum := by
  induction ts generalizing x with
  | nil => simp
  | cons t ts ih =>
    obtain ⟨ht, hts⟩ := List.forall_mem_cons.1 he
    rw [List.foldl_cons, ih hts, List.map_cons, List.sum_cons, termVal, rat_fin_of_le ht]
    cases t.1 <;> simp <;> ring

/-- The exact sum stands for the sum of its terms; its zero has magnitude 0 (R116). -/
theorem exactSum_rat (rnd : Nat) (ts : List (Bool × Nat × Int)) :
    (termVal (exactSum rnd ts)).rat = (ts.map fun t => (termVal t).rat).sum := by
  have hsum := foldl_terms (e := ts.foldl (fun a t => min a t.2.2) (ts.headD (false, 0, 0)).2.2) ts (foldl_min_le ts _).2 0
  rw [Int.cast_zero, zero_mul, zero_add] at hsum
  rw [← hsum, exactSum]
  dsimp only
  split
  · rename_i h
    rw [h]
    simp [termVal, FVal.rat]
  · exact rat_fin_natAbs _ _

/-- Finite terms are added exactly and rounded once (R115). -/
theorem sum_termVal (F : FFmt) (c : FCtl) (ts : List (Bool × Nat × Int)) :
    F.sum c (ts.map termVal) = F.round c (exactSum c.rnd ts).1 (exactSum c.rnd ts).2.1 (exactSum c.rnd ts).2.2 := by
  simp only [FFmt.sum, List.any_map]
  simp [Function.comp_def, termVal, FVal.isNan]

/-- A sum of two finite operands, rounded once. -/
theorem sum_pair (F : FFmt) (c : FCtl) (x y : Bool × Nat × Int) : ∃ n m e,
    F.sum c [termVal x, termVal y] = F.round c n m e ∧ (FVal.fin n m e).rat = (termVal x).rat + (termVal y).rat := by
  refine ⟨_, _, _, sum_termVal F c [x, y], (exactSum_rat c.rnd [x, y]).trans ?_⟩
  simp

@[simp] theorem round_zero (F : FFmt) (c : FCtl) (n : Bool) (e : Int) : F.round c n 0 e = (F.zeroBits n, 0) := by
  simp [FFmt.round]

/-- The sign of an exact zero sum of two terms (R116). -/
theorem exactSum_sign {rnd : Nat} {x y : Bool × Nat × Int} (h : (exactSum rnd [x, y]).2.1 = 0) :
    (exactSum rnd [x, y]).1 = if x.2.1 = 0 ∧ y.2.1 = 0 then if x.1 = y.1 then x.1 else rnd == 3 else rnd == 3 := by
  revert h
  unfold exactSum
  dsimp only
  split
  · intro _
    have hzeros : ([x, y].all fun t => t.2.1 == 0) = decide (x.2.1 = 0 ∧ y.2.1 = 0) := by simp [beq_eq_decide]
    rw [hzeros]
    by_cases hz : x.2.1 = 0 ∧ y.2.1 = 0
    · simp only [hz, List.all_cons, List.all_nil]
      cases x.1 <;> cases y.1 <;> rfl
    · simp [hz]
  · intro h
    exact absurd (Int.natAbs_eq_zero.1 h) ‹_›

/-- An exact zero sum is a zero of the sign that R116 gives it. -/
theorem sum_pair_zero (F : FFmt) (c : FCtl) {x y : Bool × Nat × Int} (h : (termVal x).rat + (termVal y).rat = 0) :
    F.sum c [termVal x, termVal y] =
      (F.zeroBits (if x.2.1 = 0 ∧ y.2.1 = 0 then if x.1 = y.1 then x.1 else c.rnd == 3 else c.rnd == 3), 0) := by
  have hm : (exactSum c.rnd [x, y]).2.1 = 0 := rat_fin_eq_zero.1 ((exactSum_rat c.rnd [x, y]).trans (by simpa using h))
  rw [show [termVal x, termVal y] = [x, y].map termVal from rfl, sum_termVal, exactSum_sign hm, hm, round_zero]

/-! ## Products -/

theorem mul_rat (n k : Bool) (m m' : Nat) (e f : Int) :
    (FVal.fin (n != k) (m * m') (e + f)).rat = (FVal.fin n m e).rat * (FVal.fin k m' f).rat := by
  simp only [FVal.rat, zpow_add₀ (two_ne_zero (α := ℚ))]
  cases n <;> cases k <;> simp <;> ring

theorem fltMul_fin (F : FFmt) (c : FCtl) (n k : Bool) (m m' : Nat) (e f : Int) :
    fltMul F c (.fin n m e) (.fin k m' f) = F.round c (n != k) (m * m') (e + f) := by
  simp [fltMul, FVal.mul, FFmt.encode]

theorem fltFma_fin (F : FFmt) (c : FCtl) (n k : Bool) (m m' : Nat) (e f : Int) (z : FVal) :
    fltFma F c (.fin n m e) (.fin k m' f) z = F.sum c [.fin (n != k) (m * m') (e + f), z] := by
  simp [fltFma, FVal.mul]

/-! ## Special operands -/

/-- A NaN gives the canonical NaN, with NV for a signalling one (R113). -/
theorem sum_nan (F : FFmt) (c : FCtl) {x y : FVal} (h : (x.isNan || y.isNan) = true) :
    F.sum c [x, y] = (F.nanBits, if x.isSignalling || y.isSignalling then fNV else 0) := by
  have hany : [x, y].any FVal.isNan = true := by simpa using h
  rw [FFmt.sum, if_pos hany]
  simp [nvOf]

/-- ∞ − ∞ is invalid (R114). -/
theorem sum_inf (F : FFmt) (c : FCtl) (n : Bool) :
    F.sum c [.inf n, .inf (!n)] = (F.nanBits, fNV) ∧ F.sum c [.inf n, .inf n] = (F.infBits n, 0) := by
  cases n <;> exact ⟨rfl, rfl⟩

/-- 0 × ∞ is invalid, whatever the addend (R114). -/
theorem invalid_product (F : FFmt) (c : FCtl) (n k : Bool) (e : Int) (z : FVal) :
    fltMul F c (.inf n) (.fin k 0 e) = (F.nanBits, fNV) ∧ fltMul F c (.fin k 0 e) (.inf n) = (F.nanBits, fNV) ∧
      (fltFma F c (.inf n) (.fin k 0 e) z).1 = F.nanBits ∧ (fltFma F c (.inf n) (.fin k 0 e) z).2.getLsbD 0 = true := by
  have hsum := sum_nan F c (x := .nan false) (y := z) rfl
  refine ⟨?_, ?_, ?_, ?_⟩
  · simp [fltMul, FVal.mul, FFmt.encode]
  · simp [fltMul, FVal.mul, FFmt.encode]
  · exact congrArg Prod.fst hsum
  · simp only [fltFma, FVal.mul, if_pos, BitVec.getLsbD_or]
    simp [fNV]

end Sys2Proof.Machine
end

section
/-!
The magnitudes of a binary format (R112): the encodings in order, and what an operand reads as.
-/

namespace Sys2Proof.Machine

namespace FFmt

variable (F : FFmt)

/-- A format that has fractions, and exponents besides the extreme two (R112). -/
def Wide : Prop := 1 ≤ F.fb ∧ 2 ≤ F.eb

variable {F}

theorem wide_of_standard (h : F.standard) : F.Wide := by
  obtain rfl | rfl | rfl | rfl := h <;> exact ⟨by decide, by decide⟩

variable (F)

/-- The value that magnitude bits stand for, the exponent field unbounded above. -/
def mag (w : Nat) : ℚ :=
  (w - (w / 2 ^ F.fb - 1) * 2 ^ F.fb : Nat) * (2 : ℚ) ^ (((w / 2 ^ F.fb - 1 : Nat) : Int) + F.emin - F.fb)

/-- A multiple of the unit of a binade, the next power of two included. -/
theorem mag_add_mul {d k : Nat} (hk : k ≤ 2 * 2 ^ F.fb) (h : d = 0 ∨ 2 ^ F.fb ≤ k) :
    F.mag (k + d * 2 ^ F.fb) = k * (2 : ℚ) ^ ((d : Int) + F.emin - F.fb) := by
  have hP : 0 < 2 ^ F.fb := by positivity
  unfold mag
  rw [Nat.add_mul_div_right _ _ hP]
  obtain rfl | hlt := hk.eq_or_lt
  · rw [Nat.mul_div_cancel _ hP, show 2 + d - 1 = d + 1 by omega, Nat.add_mul, Nat.one_mul,
      show 2 * 2 ^ F.fb + d * 2 ^ F.fb - (d * 2 ^ F.fb + 2 ^ F.fb) = 2 ^ F.fb by omega,
      show ((d + 1 : Nat) : Int) + F.emin - F.fb = ((d : Int) + F.emin - F.fb) + 1 by push_cast; ring,
      zpow_add₀ two_ne_zero]
    push_cast
    ring
  · have hd : k / 2 ^ F.fb + d - 1 = d := by
      obtain rfl | h := h
      · have := Nat.div_lt_of_lt_mul (Nat.mul_comm 2 _ ▸ hlt)
        omega
      · have : k / 2 ^ F.fb = 1 := Nat.div_eq_of_lt_le (by omega) (by omega)
        omega
    rw [hd, Nat.add_sub_cancel]

theorem mag_zero : F.mag 0 = 0 := by simp [mag]

theorem mag_lt_succ (w : Nat) : F.mag w < F.mag (w + 1) := by
  have hP : 0 < 2 ^ F.fb := by positivity
  obtain ⟨d, k, rfl, hk, h⟩ : ∃ d k, w = k + d * 2 ^ F.fb ∧ k + 1 ≤ 2 * 2 ^ F.fb ∧ (d = 0 ∨ 2 ^ F.fb ≤ k) := by
    have hw := Nat.div_add_mod w (2 ^ F.fb)
    have hlt := Nat.mod_lt w hP
    obtain h0 | ⟨q, hq⟩ : w / 2 ^ F.fb = 0 ∨ ∃ q, w / 2 ^ F.fb = q + 1 :=
      (Nat.eq_zero_or_eq_succ_pred _).imp id fun h => ⟨_, h⟩
    · exact ⟨0, w, by omega, by rw [h0] at hw; omega, .inl rfl⟩
    · rw [hq, Nat.mul_add, Nat.mul_comm] at hw
      exact ⟨q, w % 2 ^ F.fb + 2 ^ F.fb, by omega, by omega, .inr (by omega)⟩
  rw [show k + d * 2 ^ F.fb + 1 = k + 1 + d * 2 ^ F.fb by ring, mag_add_mul F (by omega) h,
    mag_add_mul F hk (h.imp id (by omega))]
  have := zpow_pos (two_pos (α := ℚ)) ((d : Int) + F.emin - F.fb)
  push_cast
  nlinarith

theorem mag_strictMono : StrictMono F.mag := strictMono_nat_of_lt_succ F.mag_lt_succ

theorem mag_nonneg (w : Nat) : 0 ≤ F.mag w := F.mag_zero ▸ F.mag_strictMono.monotone w.zero_le

/-- The magnitude bits of an infinity. -/
def infMag : Nat := (2 ^ F.eb - 1) * 2 ^ F.fb

variable {F}

theorem two_pow_eb (h : F.Wide) : 2 ^ F.eb = 2 * (F.bias + 1) := by
  obtain ⟨n, hn⟩ := Nat.exists_eq_add_of_le h.2
  have : 0 < 2 ^ (1 + n) := by positivity
  rw [bias, hn, show 2 + n - 1 = 1 + n by omega, show 2 + n = 1 + n + 1 by omega, pow_succ]
  omega

/-- The infinities stand where the next power of two would. -/
theorem mag_infMag (h : F.Wide) : F.mag F.infMag = 2 ^ (F.bias + 1) := by
  have he := two_pow_eb h
  rw [infMag, show (2 ^ F.eb - 1) * 2 ^ F.fb = 2 ^ F.fb + (2 * F.bias) * 2 ^ F.fb by
      rw [he, show 2 * (F.bias + 1) - 1 = 1 + 2 * F.bias by omega, Nat.add_mul, Nat.one_mul],
    mag_add_mul F (by omega) (.inr le_rfl), Nat.cast_pow, Nat.cast_two, ← zpow_natCast, ← zpow_natCast,
    ← zpow_add₀ two_ne_zero]
  congr 1
  rw [emin]
  push_cast
  ring

/-- The smallest normal. -/
theorem mag_normal : F.mag (2 ^ F.fb) = (2 : ℚ) ^ F.emin := by
  have h := mag_add_mul F (d := 0) (k := 2 ^ F.fb) (by omega) (.inl rfl)
  rw [Nat.zero_mul, Nat.add_zero] at h
  rw [h, Nat.cast_pow, Nat.cast_two, ← zpow_natCast, ← zpow_add₀ two_ne_zero]
  congr 1
  push_cast
  ring

variable (F)

theorem infMag_add : F.infMag + 2 ^ F.fb = 2 ^ (F.fb + F.eb) := by
  have : 0 < 2 ^ F.eb := by positivity
  rw [infMag, Nat.sub_one_mul, Nat.sub_add_cancel (Nat.le_mul_of_pos_left _ this), Nat.pow_add, Nat.mul_comm]

/-! ## Fields -/

theorem expField_eq (w : Nat) : F.expField w = w % 2 ^ (F.fb + F.eb) / 2 ^ F.fb := by
  rw [expField, bitsAt, Nat.pow_add, Nat.mod_mul_right_div_self]

theorem fracField_eq (w : Nat) : F.fracField w = w % 2 ^ (F.fb + F.eb) % 2 ^ F.fb := by
  rw [fracField, Nat.mod_mod_of_dvd _ (pow_dvd_pow 2 (Nat.le_add_right _ _))]

theorem sign_add_mod (n : Bool) {w : Nat} (h : w < 2 ^ (F.fb + F.eb)) : (F.sign n + w) % 2 ^ (F.fb + F.eb) = w := by
  cases n <;> simp [sign, Nat.mod_eq_of_lt h]

@[simp] theorem negOf_sign_add (n : Bool) {w : Nat} (h : w < 2 ^ (F.fb + F.eb)) : F.negOf (F.sign n + w) = n := by
  have hP : 0 < 2 ^ (F.fb + F.eb) := by positivity
  cases n <;> simp [negOf, bitsAt, sign, Nat.div_eq_of_lt h, Nat.add_div_left _ hP]

theorem isSubnormal_iff (w : Nat) :
    F.isSubnormal w = true ↔ 0 < w % 2 ^ (F.fb + F.eb) ∧ w % 2 ^ (F.fb + F.eb) < 2 ^ F.fb := by
  have hP : 0 < 2 ^ F.fb := by positivity
  simp only [isSubnormal, Bool.and_eq_true, beq_iff_eq, bne_iff_ne, expField_eq, fracField_eq]
  constructor
  · rintro ⟨he, hf⟩
    have hlt := (Nat.div_eq_zero_iff_lt hP).1 he
    rw [Nat.mod_eq_of_lt hlt] at hf
    exact ⟨by omega, hlt⟩
  · rintro ⟨hpos, hlt⟩
    exact ⟨Nat.div_eq_of_lt hlt, by rw [Nat.mod_eq_of_lt hlt]; omega⟩

/-- The magnitude by its fields (R112). -/
theorem mag_eq (w : Nat) : F.mag w = if w / 2 ^ F.fb = 0 then ((w % 2 ^ F.fb : Nat) : ℚ) * 2 ^ (F.emin - F.fb)
    else ((2 ^ F.fb + w % 2 ^ F.fb : Nat) : ℚ) * 2 ^ (((w / 2 ^ F.fb : Nat) : Int) - F.bias - F.fb) := by
  have hlt := Nat.mod_lt w (show 0 < 2 ^ F.fb by positivity)
  have hw := Nat.div_add_mod' w (2 ^ F.fb)
  split
  · rename_i h0
    rw [h0, Nat.zero_mul, Nat.zero_add] at hw
    simpa [hw] using mag_add_mul F (d := 0) (k := w) (by omega) (.inl rfl)
  · rename_i h0
    obtain ⟨d, hd⟩ := Nat.exists_eq_succ_of_ne_zero h0
    rw [hd, Nat.succ_mul] at hw
    have h := mag_add_mul F (d := d) (k := 2 ^ F.fb + w % 2 ^ F.fb) (by omega) (.inr (by omega))
    rw [show 2 ^ F.fb + w % 2 ^ F.fb + d * 2 ^ F.fb = w by omega] at h
    rw [h, hd, emin]
    congr 2
    push_cast
    ring

/-- What bits of a finite value read as, and which bits those are (R112). -/
theorem unpack_eq (w : Nat) : ((F.unpack false w).isFin = true ↔ w % 2 ^ (F.fb + F.eb) < F.infMag) ∧
    ((F.unpack false w).isFin = true →
      (F.unpack false w).rat = (if F.negOf w then -1 else 1) * F.mag (w % 2 ^ (F.fb + F.eb))) := by
  have hP : 0 < 2 ^ F.fb := by positivity
  have hlt : w % 2 ^ (F.fb + F.eb) / 2 ^ F.fb < 2 ^ F.eb := Nat.div_lt_of_lt_mul (Nat.pow_add 2 _ _ ▸ Nat.mod_lt _ (by positivity))
  have hinf : w % 2 ^ (F.fb + F.eb) < F.infMag ↔ w % 2 ^ (F.fb + F.eb) / 2 ^ F.fb ≠ 2 ^ F.eb - 1 := by
    rw [infMag, ← Nat.div_lt_iff_lt_mul hP]
    omega
  rw [mag_eq, hinf]
  simp only [unpack, expField_eq, fracField_eq, Bool.false_eq_true, if_false]
  by_cases hx : w % 2 ^ (F.fb + F.eb) / 2 ^ F.fb = 2 ^ F.eb - 1
  · rw [if_pos hx]
    split <;> simp [FVal.isFin, hx]
  · rw [if_neg hx]
    by_cases h0 : w % 2 ^ (F.fb + F.eb) / 2 ^ F.fb = 0
    · simp only [if_pos h0]
      exact ⟨iff_of_true rfl hx, fun _ => mul_assoc _ _ _⟩
    · simp only [if_neg h0]
      exact ⟨iff_of_true rfl hx, fun _ => mul_assoc _ _ _⟩

end FFmt

end Sys2Proof.Machine
end

section
/-!
Rounding (R116): to the neighbours of a value in an ordered grid, and what each direction makes of it.
-/

namespace Sys2Proof.Machine

/-! ## Rounding in a grid -/

/-- Whether a value between points `w` and `w + 1` of a grid goes to the upper one, by direction (R116). -/
def roundsUp (rnd : Nat) (neg : Bool) (g : Nat → ℚ) (a : ℚ) (w : Nat) : Prop :=
  match rnd with
  | 0 => (g w + g (w + 1)) / 2 < a ∨ (g w + g (w + 1)) / 2 = a ∧ w % 2 = 1
  | 1 => False
  | 2 => neg = false ∧ g w ≠ a
  | 3 => neg = true ∧ g w ≠ a
  | _ => (g w + g (w + 1)) / 2 ≤ a

/-- The magnitude `a` rounds to point `W` of the grid. -/
def RoundsTo (rnd : Nat) (neg : Bool) (g : Nat → ℚ) (a : ℚ) (W : Nat) : Prop :=
  ∃ w, g w ≤ a ∧ a < g (w + 1) ∧ (W = w ∧ ¬ roundsUp rnd neg g a w ∨ W = w + 1 ∧ roundsUp rnd neg g a w)

/-- A direction to the nearest, and one away from zero for the sign. -/
def Nearest (rnd : Nat) : Prop := rnd = 0 ∨ rnd = 4
def Outward (rnd : Nat) (neg : Bool) : Prop := (rnd = 2 ∧ neg = false) ∨ (rnd = 3 ∧ neg = true)

section
variable {rnd : Nat} {neg : Bool} {g : Nat → ℚ} {a : ℚ} {w W Z : Nat}

theorem le_of_roundsUp (hn : Nearest rnd) (h : roundsUp rnd neg g a w) : (g w + g (w + 1)) / 2 ≤ a := by
  obtain rfl | rfl := hn
  · obtain h | ⟨h, -⟩ := h
    · exact h.le
    · exact h.le
  · exact h

theorem ge_of_not_roundsUp (hn : Nearest rnd) (h : ¬ roundsUp rnd neg g a w) : a ≤ (g w + g (w + 1)) / 2 := by
  obtain rfl | rfl := hn
  · exact not_lt.1 fun h' => h (.inl h')
  · exact (not_le.1 h).le

theorem roundsUp_outward (ho : Outward rnd neg) : roundsUp rnd neg g a w ↔ g w ≠ a := by
  obtain ⟨rfl, rfl⟩ | ⟨rfl, rfl⟩ := ho <;> simp [roundsUp]

theorem not_roundsUp_inward (hr : rnd ≤ 4) (hn : ¬ Nearest rnd) (ho : ¬ Outward rnd neg) : ¬ roundsUp rnd neg g a w := by
  obtain rfl | rfl | rfl : rnd = 1 ∨ rnd = 2 ∨ rnd = 3 := by unfold Nearest at hn; omega
  · exact id
  · exact fun h => ho (.inl ⟨rfl, h.1⟩)
  · exact fun h => ho (.inr ⟨rfl, h.1⟩)

/-- A tie of the nearest even goes up from an odd point, one of the nearest away from zero goes up always. -/
theorem roundsUp_of_odd (hn : Nearest rnd) (hw : w % 2 = 1) : roundsUp rnd neg g a w ↔ (g w + g (w + 1)) / 2 ≤ a := by
  refine ⟨le_of_roundsUp hn, fun h => ?_⟩
  obtain rfl | rfl := hn
  · exact h.lt_or_eq.imp id fun h => ⟨h, hw⟩
  · exact h

theorem not_roundsUp_self (h : g w < g (w + 1)) : ¬ roundsUp rnd neg g (g w) w := by
  unfold roundsUp
  split
  · rintro (h | ⟨h, -⟩) <;> linarith
  · exact id
  · exact fun h => h.2 rfl
  · exact fun h => h.2 rfl
  · intro h
    linarith

variable (hg : StrictMono g) (h : RoundsTo rnd neg g a W)
include hg h

/-- The two nearest directions give a point at least as near as any other. -/
theorem RoundsTo.dist_le (hn : Nearest rnd) (Z : Nat) : |g W - a| ≤ |g Z - a| := by
  obtain ⟨w, hlo, hhi, h⟩ := h
  have hZ : g Z ≤ g w ∨ g (w + 1) ≤ g Z := (Nat.lt_or_ge w Z).symm.imp hg.monotone.imp hg.monotone.imp
  obtain ⟨rfl, hup⟩ | ⟨rfl, hup⟩ := h
  · have := ge_of_not_roundsUp hn hup
    rw [abs_of_nonpos (by linarith)]
    obtain hZ | hZ := hZ
    · rw [abs_of_nonpos (by linarith)]; linarith
    · rw [abs_of_nonneg (by linarith)]; linarith
  · have := le_of_roundsUp hn hup
    rw [abs_of_nonneg (by linarith)]
    obtain hZ | hZ := hZ
    · rw [abs_of_nonpos (by linarith)]; linarith
    · rw [abs_of_nonneg (by linarith)]; linarith

/-- Of two points as near, the nearest even gives the even one and the other the larger. -/
theorem RoundsTo.tie (hn : Nearest rnd) (hne : g Z ≠ g W) (hd : |g Z - a| = |g W - a|) :
    (rnd = 0 → W % 2 = 0) ∧ (rnd = 4 → g Z < g W) := by
  have hother : g Z + g W = 2 * a := by
    obtain h | h := abs_eq_abs.1 hd
    · exact absurd (by linarith) hne
    · linarith
  obtain ⟨w, hlo, hhi, h⟩ := h
  have hZ : g Z ≤ g w ∨ g (w + 1) ≤ g Z := (Nat.lt_or_ge w Z).symm.imp hg.monotone.imp hg.monotone.imp
  obtain ⟨rfl, hup⟩ | ⟨rfl, hup⟩ := h
  · have hmid := ge_of_not_roundsUp hn hup
    obtain hZ | hZ := hZ
    · exact absurd (by linarith) hne
    · have htie : (g W + g (W + 1)) / 2 = a := by linarith
      refine ⟨?_, ?_⟩
      · rintro rfl
        have : W % 2 ≠ 1 := fun hw => hup (.inr ⟨htie, hw⟩)
        omega
      · rintro rfl
        exact absurd htie.le hup
  · have hmid := le_of_roundsUp hn hup
    obtain hZ | hZ := hZ
    · refine ⟨?_, fun _ => by linarith [hg (Nat.lt_succ_self w)]⟩
      rintro rfl
      obtain hup | ⟨-, hup⟩ := hup
      · linarith
      · omega
    · exact absurd (by linarith) hne

/-- A direction away from zero gives the least point that is not below. -/
theorem RoundsTo.outward (ho : Outward rnd neg) : a ≤ g W ∧ ∀ Z, a ≤ g Z → g W ≤ g Z := by
  obtain ⟨w, hlo, hhi, h⟩ := h
  rw [roundsUp_outward ho, not_not] at h
  obtain ⟨rfl, rfl⟩ | ⟨rfl, hup⟩ := h
  · exact ⟨le_rfl, fun Z h => h⟩
  · exact ⟨hhi.le, fun Z hZ => hg.monotone (hg.lt_iff_lt.1 ((lt_of_le_of_ne hlo hup).trans_le hZ))⟩

/-- A direction toward zero gives the greatest point that is not above. -/
theorem RoundsTo.inward (hr : rnd ≤ 4) (hn : ¬ Nearest rnd) (ho : ¬ Outward rnd neg) : g W ≤ a ∧ ∀ Z, g Z ≤ a → g Z ≤ g W := by
  obtain ⟨w, hlo, hhi, ⟨rfl, -⟩ | ⟨-, hup⟩⟩ := h
  · exact ⟨hlo, fun Z hZ => hg.monotone (Nat.lt_succ_iff.1 (hg.lt_iff_lt.1 (hZ.trans_lt hhi)))⟩
  · exact absurd hup (not_roundsUp_inward hr hn ho)

/-- Where values round to a point above an odd one. -/
theorem RoundsTo.succ_le_iff (hr : rnd ≤ 4) (hw : w % 2 = 1) : w + 1 ≤ W ↔
    (Nearest rnd ∧ (g w + g (w + 1)) / 2 ≤ a) ∨ (Outward rnd neg ∧ g w < a) ∨ g (w + 1) ≤ a := by
  obtain ⟨v, hlo, hhi, h⟩ := h
  have hstep := hg (Nat.lt_succ_self w)
  obtain hlt | rfl | hgt := Nat.lt_trichotomy v w
  · have hv := hg.monotone (Nat.succ_le_of_lt hlt)
    refine iff_of_false (by omega) ?_
    rintro (⟨-, h⟩ | ⟨-, h⟩ | h) <;> linarith
  · have hW : v + 1 ≤ W ↔ roundsUp rnd neg g a v := by
      obtain ⟨rfl, h⟩ | ⟨rfl, h⟩ := h
      · exact iff_of_false (by omega) h
      · exact iff_of_true le_rfl h
    rw [hW, or_iff_left hhi.not_ge |> or_congr_right]
    by_cases hn : Nearest rnd
    · rw [roundsUp_of_odd hn hw, and_iff_right hn, or_iff_left]
      rintro ⟨⟨rfl, -⟩ | ⟨rfl, -⟩, -⟩ <;> simp [Nearest] at hn
    by_cases ho : Outward rnd neg
    · rw [roundsUp_outward ho, and_iff_right ho, or_iff_right fun h => hn h.1]
      exact (lt_iff_le_and_ne.trans (and_iff_right hlo)).symm
    · exact iff_of_false (not_roundsUp_inward hr hn ho) (by rintro (h | h); exacts [hn h.1, ho h.1])
  · have hv := hg.monotone (Nat.succ_le_of_lt hgt)
    exact iff_of_true (by omega) (.inr (.inr (hv.trans hlo)))

omit hg h in
/-- Rounding in a grid that another contains, whose points there have the same parity. -/
theorem RoundsTo.map {g' : Nat → ℚ} {u b : ℚ} {d : Nat} (hu : 0 < u) (hd : d % 2 = 0) (h : RoundsTo rnd neg g b W)
    (hg' : ∀ w, g w ≤ b → b < g (w + 1) → g' (w + d) = g w * u ∧ g' (w + 1 + d) = g (w + 1) * u) :
    RoundsTo rnd neg g' (b * u) (W + d) := by
  obtain ⟨w, hlo, hhi, h⟩ := h
  obtain ⟨hw, hw'⟩ := hg' w hlo hhi
  have hup : roundsUp rnd neg g' (b * u) (w + d) ↔ roundsUp rnd neg g b w := by
    have hmid : (g w * u + g (w + 1) * u) / 2 = (g w + g (w + 1)) / 2 * u := by ring
    simp only [roundsUp, hw, show w + d + 1 = w + 1 + d by omega, hw', hmid, mul_lt_mul_iff_left₀ hu, mul_le_mul_iff_left₀ hu,
      mul_left_inj' hu.ne', ne_eq,
      show (w + d) % 2 = w % 2 by omega]
  refine ⟨w + d, ?_, ?_, ?_⟩
  · rw [hw]; gcongr
  · rw [show w + d + 1 = w + 1 + d by omega, hw']; gcongr
  · rw [hup]
    exact h.imp (And.imp (congrArg (· + d)) id) (And.imp (fun e => by omega) id)

end

/-! ## Rounding to an integer -/

/-- A quotient and its remainder against the half-way point. -/
theorem quotient_cmp {half r : Nat} (n : Nat) (h : 0 < half) :
    (((n : ℚ) + (n + 1 : Nat)) / 2 < n + (r : ℚ) / (2 * half) ↔ half < r) ∧
      (((n : ℚ) + (n + 1 : Nat)) / 2 = n + (r : ℚ) / (2 * half) ↔ r = half) ∧
      (((n : ℚ) + (n + 1 : Nat)) / 2 ≤ n + (r : ℚ) / (2 * half) ↔ half ≤ r) := by
  have hmid : ((n : ℚ) + (n + 1 : Nat)) / 2 = n + (half : ℚ) / (2 * half) := by
    have : (half : ℚ) ≠ 0 := by positivity
    push_cast
    field_simp
    ring
  have h2 : (0 : ℚ) < 2 * half := by positivity
  rw [hmid]
  refine ⟨?_, ?_, ?_⟩
  · rw [add_lt_add_iff_left, div_lt_div_iff_of_pos_right h2, Nat.cast_lt]
  · rw [add_right_inj, div_left_inj' h2.ne', Nat.cast_inj, eq_comm]
  · rw [add_le_add_iff_left, div_le_div_iff_of_pos_right h2, Nat.cast_le]

/-- Whether a quotient `n` with remainder `r` goes up, `half` being half the divisor. -/
def quotientUp (rnd : Nat) (neg : Bool) (half n r : Nat) : Bool :=
  match rnd with
  | 0 => half < r || (r == half && n % 2 == 1)
  | 1 => false
  | 2 => r != 0 && !neg
  | 3 => r != 0 && neg
  | _ => half ≤ r

theorem quotientUp_iff (rnd : Nat) (neg : Bool) {half : Nat} (n r : Nat) (h : 0 < half) :
    quotientUp rnd neg half n r = true ↔ roundsUp rnd neg (fun k => (k : ℚ)) (n + (r : ℚ) / (2 * half)) n := by
  obtain ⟨hlt, heq, hle⟩ := quotient_cmp (r := r) n h
  simp only [roundsUp, hlt, heq, hle, quotientUp]
  split <;> simp [h.ne', and_comm]

theorem shiftRound_of_pos (rnd : Nat) (neg : Bool) (m : Nat) {sh : Int} (h : 0 < sh) : shiftRound rnd neg m sh =
    (if quotientUp rnd neg (2 ^ (sh.toNat - 1)) (m / 2 ^ sh.toNat) (m % 2 ^ sh.toNat) then m / 2 ^ sh.toNat + 1
      else m / 2 ^ sh.toNat, m % 2 ^ sh.toNat != 0) := by
  rw [shiftRound, if_neg (by omega)]
  rfl

/-- Rounding m / 2^sh to an integer, and when that changes the value. -/
theorem shiftRound_roundsTo (rnd : Nat) (neg : Bool) (m : Nat) (sh : Int) :
    RoundsTo rnd neg (fun k => (k : ℚ)) (m * (2 : ℚ) ^ (-sh)) (shiftRound rnd neg m sh).1 ∧
      ((shiftRound rnd neg m sh).2 = true ↔ ((shiftRound rnd neg m sh).1 : ℚ) ≠ m * (2 : ℚ) ^ (-sh)) := by
  have hself (n : Nat) : ¬ roundsUp rnd neg (fun k => (k : ℚ)) n n := not_roundsUp_self (Nat.cast_lt.2 (Nat.lt_succ_self n))
  by_cases hsh : sh ≤ 0
  · have hq : (m : ℚ) * 2 ^ (-sh) = (m * 2 ^ (-sh).toNat : Nat) := by
      rw [Nat.cast_mul, Nat.cast_pow, Nat.cast_two, ← zpow_natCast, Int.toNat_of_nonneg (by omega)]
    rw [shiftRound, if_pos hsh, hq]
    exact ⟨⟨_, le_rfl, Nat.cast_lt.2 (Nat.lt_succ_self _), .inl ⟨rfl, hself _⟩⟩, by simp⟩
  · obtain ⟨half, hpos, hS, hhalf⟩ : ∃ half : Nat, 0 < half ∧ 2 ^ sh.toNat = 2 * half ∧ 2 ^ (sh.toNat - 1) = half :=
      ⟨_, by positivity, by rw [← pow_succ']; congr 1; omega, rfl⟩
    have hpow : (2 : ℚ) ^ (-sh) = (2 * half : ℚ)⁻¹ := by
      rw [zpow_neg, ← Int.toNat_of_nonneg (show 0 ≤ sh by omega), zpow_natCast]
      exact_mod_cast congrArg (fun k : Nat => (k : ℚ)⁻¹) hS
    rw [shiftRound_of_pos rnd neg m (by omega), hS, hhalf]
    have hrlt : m % (2 * half) < 2 * half := Nat.mod_lt _ (by omega)
    have hq : (m : ℚ) * 2 ^ (-sh) = (m / (2 * half) : Nat) + ((m % (2 * half) : Nat) : ℚ) / (2 * half) := by
      rw [hpow]
      conv_lhs => rw [← Nat.div_add_mod m (2 * half)]
      push_cast
      field_simp
    generalize m / (2 * half) = n at hq ⊢
    generalize m % (2 * half) = r at hq hrlt ⊢
    have hup := quotientUp_iff rnd neg n r hpos
    have hfrac : (0 : ℚ) ≤ (r : ℚ) / (2 * half) ∧ (r : ℚ) / (2 * half) < 1 :=
      ⟨by positivity, (div_lt_one (by positivity)).2 (by exact_mod_cast hrlt)⟩
    rw [hq]
    refine ⟨⟨n, by linarith, by push_cast; linarith, ?_⟩, ?_⟩
    · rw [← hup]
      cases quotientUp rnd neg half n r <;> simp
    · obtain rfl | hr := Nat.eq_zero_or_pos r
      · have hdown : quotientUp rnd neg half n 0 = false := by
          rw [Bool.eq_false_iff, Ne, hup]
          simpa using hself n
        simp [hdown]
      · have hr' : (0 : ℚ) < (r : ℚ) / (2 * half) := by positivity
        refine iff_of_true (by simpa using hr.ne') ?_
        dsimp only
        split
        · exact (by push_cast; linarith : ((n + 1 : Nat) : ℚ) > n + (r : ℚ) / (2 * half)).ne'
        · exact (by linarith : (n : ℚ) < n + (r : ℚ) / (2 * half)).ne

end Sys2Proof.Machine
end

section
/-!
Rounding to a format (R115 to R118): the magnitude bits of a rounded value, and the one rounding by them.
-/

namespace Sys2Proof.Machine.FFmt

variable (F : FFmt) (rnd : Nat) (neg : Bool) (m : Nat) (e : Int)

/-- The exponent of the unit that `m`·2^`e` is rounded to (R116, R118). -/
def unitExp : Int := max (e + m.log2) F.emin - F.fb

/-- The rounded magnitude in that unit, and whether rounding changes it. -/
def rounded : Nat × Bool := shiftRound rnd neg m (F.unitExp m e - e)

/-- The magnitude bits of the rounded value, before an overflow. -/
def roundMag : Nat := (F.rounded rnd neg m e).1 + (F.unitExp m e - (F.emin - F.fb)).toNat * 2 ^ F.fb

/-- Whether the result is tiny with its exponent unbounded (R118). -/
def tinyRound : Bool := e + m.log2 < F.emin && !(e + m.log2 + 1 == F.emin &&
  (shiftRound rnd neg m (e + m.log2 - F.fb - e)).1 == 2 ^ (F.fb + 1))

variable {m}

/-- A value by the place of its leading bit. -/
theorem value_bounds (hm : m ≠ 0) : (2 : ℚ) ^ (e + m.log2) ≤ m * 2 ^ e ∧ (m : ℚ) * 2 ^ e < 2 ^ (e + m.log2 + 1) := by
  have hlo : ((2 : ℚ) ^ m.log2) ≤ m := by exact_mod_cast Nat.log2_self_le hm
  have hhi : (m : ℚ) < 2 ^ m.log2 * 2 := by
    rw [← pow_succ]
    exact_mod_cast Nat.lt_log2_self
  have hpos : (0 : ℚ) < 2 ^ e := zpow_pos two_pos _
  have hpow : (2 : ℚ) ^ (e + m.log2) = 2 ^ m.log2 * 2 ^ e := by rw [zpow_add₀ two_ne_zero, zpow_natCast, mul_comm]
  rw [zpow_add_one₀ two_ne_zero, hpow, mul_right_comm]
  exact ⟨by gcongr, by gcongr⟩

/-- The value in its unit: below two binades, and a whole binade's where the unit is above the smallest. -/
theorem unit_bounds (hm : m ≠ 0) : (m : ℚ) * 2 ^ (-(F.unitExp m e - e)) < 2 * 2 ^ F.fb ∧
    (F.emin ≤ e + m.log2 → (2 : ℚ) ^ F.fb ≤ m * 2 ^ (-(F.unitExp m e - e))) := by
  obtain ⟨hlo, hhi⟩ := value_bounds (-(F.unitExp m e - e)) hm
  refine ⟨hhi.trans_le ?_, fun h => le_trans ?_ hlo⟩
  · rw [← pow_succ', ← zpow_natCast]
    exact zpow_le_zpow_right₀ one_le_two (by unfold unitExp; push_cast; omega)
  · rw [← zpow_natCast]
    exact zpow_le_zpow_right₀ one_le_two (by unfold unitExp; omega)

/-- The points around the value in its unit are those of its binade. -/
theorem unit_point (hm : m ≠ 0) {w : Nat} (hw : (w : ℚ) ≤ m * 2 ^ (-(F.unitExp m e - e)))
    (hw' : (m : ℚ) * 2 ^ (-(F.unitExp m e - e)) < (w + 1 : Nat)) :
    w < 2 * 2 ^ F.fb ∧ ((F.unitExp m e - (F.emin - F.fb)).toNat = 0 ∨ 2 ^ F.fb ≤ w) := by
  obtain ⟨hhi, hlo⟩ := F.unit_bounds e hm
  refine ⟨by exact_mod_cast hw.trans_lt hhi, ?_⟩
  by_cases h : F.emin ≤ e + m.log2
  · have : 2 ^ F.fb < w + 1 := by exact_mod_cast (hlo h).trans_lt hw'
    exact .inr (by omega)
  · exact .inl (by unfold unitExp; omega)

/-- A magnitude of the value's binade, in its unit. -/
theorem mag_unit {w : Nat} (hw : w ≤ 2 * 2 ^ F.fb) (h : (F.unitExp m e - (F.emin - F.fb)).toNat = 0 ∨ 2 ^ F.fb ≤ w) :
    F.mag (w + (F.unitExp m e - (F.emin - F.fb)).toNat * 2 ^ F.fb) = w * 2 ^ F.unitExp m e := by
  rw [mag_add_mul F hw h]
  congr 2
  unfold unitExp
  omega

theorem value_unit : (m : ℚ) * 2 ^ e = m * 2 ^ (-(F.unitExp m e - e)) * 2 ^ F.unitExp m e := by
  rw [mul_assoc, ← zpow_add₀ two_ne_zero]
  congr 2
  ring

theorem rounded_bounds (hm : m ≠ 0) : (F.rounded rnd neg m e).1 ≤ 2 * 2 ^ F.fb ∧
    ((F.unitExp m e - (F.emin - F.fb)).toNat = 0 ∨ 2 ^ F.fb ≤ (F.rounded rnd neg m e).1) := by
  obtain ⟨w, hw, hw', h⟩ := (shiftRound_roundsTo rnd neg m (F.unitExp m e - e)).1
  obtain ⟨hlt, hd⟩ := F.unit_point e hm hw hw'
  have : (F.rounded rnd neg m e).1 = w ∨ (F.rounded rnd neg m e).1 = w + 1 := h.imp And.left And.left
  omega

/-- The value rounds to the magnitude bits, in the format's own order. -/
theorem roundMag_roundsTo (hF : F.Wide) (hm : m ≠ 0) : RoundsTo rnd neg F.mag (m * (2 : ℚ) ^ e) (F.roundMag rnd neg m e) := by
  rw [F.value_unit e]
  refine (shiftRound_roundsTo rnd neg m (F.unitExp m e - e)).1.map (zpow_pos two_pos _) ?_ fun w hw hw' => ?_
  · have : 2 ^ F.fb % 2 = 0 := Nat.mod_eq_zero_of_dvd (dvd_pow_self 2 (by have := hF.1; omega))
    rw [Nat.mul_mod, this, Nat.mul_zero, Nat.zero_mod]
  · obtain ⟨hlt, hd⟩ := F.unit_point e hm hw hw'
    exact ⟨F.mag_unit e hlt.le hd, F.mag_unit e hlt (hd.imp id (by omega))⟩

/-- Rounding is inexact where the rounded magnitude differs. -/
theorem rounded_snd (hm : m ≠ 0) :
    (F.rounded rnd neg m e).2 = true ↔ F.mag (F.roundMag rnd neg m e) ≠ m * (2 : ℚ) ^ e := by
  obtain ⟨hle, hd⟩ := F.rounded_bounds rnd neg e hm
  rw [roundMag, F.mag_unit e hle hd, F.value_unit e, (mul_left_inj' (zpow_ne_zero _ two_ne_zero)).ne]
  exact (shiftRound_roundsTo rnd neg m (F.unitExp m e - e)).2

/-! ## The one rounding by its magnitude bits -/

/-- A carry out of the rounded magnitude moves it to the next binade. -/
theorem carry {n d : Nat} (hn : n ≤ 2 * 2 ^ F.fb) (hd : d = 0 ∨ 2 ^ F.fb ≤ n) : ∃ k j : Nat,
    (if n = 2 ^ (F.fb + 1) then (2 ^ F.fb, (d : Int) + F.emin - F.fb + 1) else (n, (d : Int) + F.emin - F.fb)) =
      (k, (j : Int) + F.emin - F.fb) ∧ k + j * 2 ^ F.fb = n + d * 2 ^ F.fb ∧ k < 2 * 2 ^ F.fb ∧ (j = 0 ∨ 2 ^ F.fb ≤ k) := by
  have hpos : 0 < 2 ^ F.fb := by positivity
  rw [pow_succ']
  split
  · exact ⟨2 ^ F.fb, d + 1, by push_cast; congr 1; ring, by rw [Nat.succ_mul]; omega, by omega, .inr le_rfl⟩
  · exact ⟨n, d, rfl, rfl, by omega, hd⟩

/-- The encoding of a rounded value by its magnitude bits: subnormal, overflowing, or normal. -/
theorem round_eq (c : FCtl) (hm : m ≠ 0) : F.round c neg m e =
    if F.roundMag c.rnd neg m e < 2 ^ F.fb then
      if c.ftz && F.roundMag c.rnd neg m e != 0 then (F.zeroBits neg, fUF ||| fNX)
      else (F.sign neg + F.roundMag c.rnd neg m e, if (F.rounded c.rnd neg m e).2 then fUF ||| fNX else 0)
    else if F.infMag ≤ F.roundMag c.rnd neg m e then F.overflow c neg
    else (F.sign neg + F.roundMag c.rnd neg m e, (if (F.rounded c.rnd neg m e).2 then fNX else 0) |||
      if (F.rounded c.rnd neg m e).2 && F.tinyRound c.rnd neg m e && !c.ftz then fUF else 0) := by
  obtain ⟨hle, hd⟩ := F.rounded_bounds c.rnd neg e hm
  obtain ⟨n, ix, hn⟩ : ∃ n ix, F.rounded c.rnd neg m e = (n, ix) := ⟨_, _, rfl⟩
  obtain ⟨d, hdef⟩ : ∃ d, (F.unitExp m e - (F.emin - F.fb)).toNat = d := ⟨_, rfl⟩
  have hunit : max (e + (m.log2 : Int)) F.emin - F.fb = d + F.emin - F.fb := by rw [← hdef]; unfold unitExp; omega
  have hW : F.roundMag c.rnd neg m e = n + d * 2 ^ F.fb := by rw [roundMag, hn, hdef]
  have hbias : F.emin = 1 - F.bias := rfl
  rw [hdef, hn] at hd
  rw [hn] at hle
  have hround : shiftRound c.rnd neg m (max (e + (m.log2 : Int)) F.emin - F.fb - e) = (n, ix) := hn
  simp only [round, if_neg hm, hround, hn, hW]
  rw [hunit]
  obtain ⟨k, j, hcarry, hkj, hk, hj⟩ := F.carry hle hd
  rw [hcarry, ← hkj]
  dsimp only
  have hex : (j : Int) + F.emin - F.fb + F.fb + F.bias = (j + 1 : Nat) := by push_cast; omega
  rw [hex, Int.toNat_natCast]
  by_cases hsub : k < 2 ^ F.fb
  · obtain rfl : j = 0 := hj.resolve_right (by omega)
    simp only [Nat.zero_mul, Nat.add_zero]
    rw [if_pos hsub, if_pos hsub]
  · have hinf : ((2 ^ F.eb - 1 : Int) ≤ (j + 1 : Nat)) ↔ F.infMag ≤ k + j * 2 ^ F.fb := by
      have hpos : 0 < 2 ^ F.eb := by positivity
      rw [show (2 ^ F.eb - 1 : Int) = (2 ^ F.eb - 1 : Nat) by push_cast [hpos]; rfl, Int.ofNat_le, infMag,
        ← Nat.le_div_iff_mul_le (by positivity), Nat.add_mul_div_right _ _ (by positivity),
        show k / 2 ^ F.fb = 1 from Nat.div_eq_of_lt_le (by omega) (by omega), Nat.add_comm]
    simp only [if_neg hsub, if_neg (show ¬ k + j * 2 ^ F.fb < 2 ^ F.fb by omega), hinf, Nat.succ_mul,
      show F.sign neg + (j * 2 ^ F.fb + 2 ^ F.fb) + (k - 2 ^ F.fb) = F.sign neg + (k + j * 2 ^ F.fb) by omega]
    rfl


end Sys2Proof.Machine.FFmt
end

section
/-!
What the one rounding of an exact value gives (R116 to R118): its bounds, its flags and its neighbours.
-/

namespace Sys2Proof.Machine.FFmt

/-! ## The encoding -/

section
variable (F : FFmt) (c : FCtl) (n : Bool) {m : Nat} (e : Int)

theorem two_pow_fb_le_infMag (hF : F.Wide) : 2 ^ F.fb ≤ F.infMag := by
  have := two_pow_eb hF
  exact Nat.le_mul_of_pos_left _ (by omega)

theorem lt_of_lt_infMag {F : FFmt} {W : Nat} (h : W < F.infMag) : W < 2 ^ (F.fb + F.eb) := by
  exact h.trans_le (F.infMag_add ▸ Nat.le_add_right _ _)

theorem round_of_overflow (hF : F.Wide) (hm : m ≠ 0) (h : F.infMag ≤ F.roundMag c.rnd n m e) :
    F.round c n m e = F.overflow c n := by
  have := F.two_pow_fb_le_infMag hF
  rw [round_eq F n e c hm, if_neg (by omega), if_pos h]

/-- A result that stays finite without FTZ has its magnitude bits and its sign, and two flags (R116, R118). -/
theorem round_of_finite (hm : m ≠ 0) (hf : c.ftz = false) (h : F.roundMag c.rnd n m e < F.infMag) :
    F.round c n m e = (F.sign n + F.roundMag c.rnd n m e, (if (F.rounded c.rnd n m e).2 then fNX else 0) |||
      if (F.rounded c.rnd n m e).2 && (F.roundMag c.rnd n m e < 2 ^ F.fb || F.tinyRound c.rnd n m e) then fUF else 0) := by
  rw [round_eq F n e c hm, hf, if_neg h.not_ge]
  split
  · rename_i hlt
    simp only [Bool.false_and, Bool.false_eq_true, if_false, hlt, decide_true, Bool.true_or, Bool.and_true]
    cases (F.rounded c.rnd n m e).2 <;> rfl
  · rename_i hge
    simp only [hge, decide_false, Bool.false_or, Bool.not_false, Bool.and_true]

/-- Under FTZ a subnormal result is a zero that underflows; another has the same bits (R118). -/
theorem round_of_ftz (hm : m ≠ 0) (hf : c.ftz = true) (h : F.roundMag c.rnd n m e < F.infMag) :
    F.round c n m e = if 0 < F.roundMag c.rnd n m e ∧ F.roundMag c.rnd n m e < 2 ^ F.fb then (F.zeroBits n, fUF ||| fNX)
      else (F.sign n + F.roundMag c.rnd n m e, (if (F.rounded c.rnd n m e).2 then fNX else 0) |||
        if (F.rounded c.rnd n m e).2 && (F.roundMag c.rnd n m e < 2 ^ F.fb) then fUF else 0) := by
  rw [round_eq F n e c hm, hf, if_neg h.not_ge]
  by_cases hlt : F.roundMag c.rnd n m e < 2 ^ F.fb
  · by_cases h0 : F.roundMag c.rnd n m e = 0
    · simp [h0]
      cases (F.rounded c.rnd n m e).2 <;> rfl
    · simp [hlt, h0, Nat.pos_of_ne_zero h0]
  · simp [hlt]

/-- An overflowing result by its direction (R117). -/
theorem overflow_eq (hr : c.rnd ≤ 4) (n : Bool) :
    (c.sat = true → F.overflow c n = (F.maxBits n, fOF ||| fNX ||| fSATD)) ∧
    (c.sat = false → (F.overflow c n).2 = fOF ||| fNX ∧ (Nearest c.rnd ∨ Outward c.rnd n → (F.overflow c n).1 = F.infBits n) ∧
      (¬ Nearest c.rnd → ¬ Outward c.rnd n → (F.overflow c n).1 = F.maxBits n)) := by
  obtain ⟨rnd, sat, ftz⟩ := c
  dsimp only at hr ⊢
  refine ⟨fun h => by simp [overflow, h], fun h => ⟨by simp [overflow, h], ?_, ?_⟩⟩
  all_goals
    interval_cases rnd <;> cases n <;> simp [overflow, h, Nearest, Outward]

/-- The results of an overflow are normal or infinite, with the sign of the value. -/
theorem overflow_bits (hF : F.Wide) : ∃ V, 2 ^ F.fb ≤ V ∧ V < 2 ^ (F.fb + F.eb) ∧ (F.overflow c n).1 = F.sign n + V := by
  have hadd := F.infMag_add
  have hpos : 0 < 2 ^ F.fb := by positivity
  have hle : 3 * 2 ^ F.fb ≤ F.infMag := by
    have : 2 ^ 2 ≤ 2 ^ F.eb := Nat.pow_le_pow_right two_pos hF.2
    exact Nat.mul_le_mul_right _ (by omega)
  have hmax : F.maxBits n = F.sign n + (F.infMag - 1) := Nat.add_sub_assoc (by show 1 ≤ F.infMag; omega) _
  have h : (F.overflow c n).1 = F.maxBits n ∨ (F.overflow c n).1 = F.infBits n := by
    unfold overflow
    split
    · exact .inl rfl
    · exact ite_eq_or_eq _ _ _
  obtain h | h := h
  · exact ⟨F.infMag - 1, by omega, by omega, h.trans hmax⟩
  · exact ⟨F.infMag, by omega, by omega, h⟩

theorem overflow_flag : (F.overflow c n).2.getLsbD 2 = true := by
  unfold overflow
  split <;> dsimp only <;> decide

/-- OF is set exactly where the rounded magnitude passes the finite ones (R117). -/
theorem round_overflow_iff (hF : F.Wide) (hm : m ≠ 0) :
    (F.round c n m e).2.getLsbD 2 = true ↔ F.infMag ≤ F.roundMag c.rnd n m e := by
  by_cases h : F.infMag ≤ F.roundMag c.rnd n m e
  · rw [F.round_of_overflow c n e hF hm h]
    exact iff_of_true (F.overflow_flag c n) h
  · refine iff_of_false ?_ h
    cases hf : c.ftz with
    | false =>
      rw [F.round_of_finite c n e hm hf (not_le.1 h)]
      dsimp only
      split <;> split <;> decide
    | true =>
      rw [F.round_of_ftz c n e hm hf (not_le.1 h)]
      split
      · dsimp only
        decide
      · dsimp only
        split <;> split <;> decide

/-- The result keeps the sign of the value (R116). -/
theorem negOf_round (hF : F.Wide) (hm : m ≠ 0) : F.negOf (F.round c n m e).1 = n := by
  by_cases h : F.infMag ≤ F.roundMag c.rnd n m e
  · obtain ⟨V, -, hV, hbits⟩ := F.overflow_bits c n hF
    rw [F.round_of_overflow c n e hF hm h, hbits, negOf_sign_add _ _ hV]
  · have hlt := lt_of_lt_infMag (not_le.1 h)
    cases hf : c.ftz with
    | false => rw [F.round_of_finite c n e hm hf (not_le.1 h), negOf_sign_add _ _ hlt]
    | true =>
      rw [F.round_of_ftz c n e hm hf (not_le.1 h)]
      split
      · exact F.negOf_sign_add n (w := 0) (by positivity)
      · exact negOf_sign_add _ _ hlt

end

/-! ## Where values overflow and where they are tiny -/

section
variable (F : FFmt) (rnd : Nat) (n : Bool) {m : Nat} (e : Int)

theorem infMag_odd (hF : F.Wide) : F.infMag - 1 + 1 = F.infMag ∧ (F.infMag - 1) % 2 = 1 := by
  have h2 : 2 ^ F.fb % 2 = 0 := Nat.mod_eq_zero_of_dvd (dvd_pow_self 2 (by have := hF.1; omega))
  have hle := F.two_pow_fb_le_infMag hF
  have heven : F.infMag % 2 = 0 := by rw [infMag, Nat.mul_mod, h2, Nat.mul_zero, Nat.zero_mod]
  have hpos : 0 < 2 ^ F.fb := by positivity
  omega

/-- The largest finite value (R112). -/
theorem maxBits_rat (hF : F.Wide) : (F.unpack false (F.maxBits false)).rat = F.mag (F.infMag - 1) := by
  have hpos := (F.infMag_odd hF).1
  have hmax : F.maxBits false = F.sign false + (F.infMag - 1) := Nat.add_sub_assoc (by show 1 ≤ F.infMag; omega) _
  have hlt : F.infMag - 1 < 2 ^ (F.fb + F.eb) := lt_of_lt_infMag (by omega)
  obtain ⟨hfin, hrat⟩ := F.unpack_eq (F.maxBits false)
  rw [hmax] at hfin hrat ⊢
  rw [sign_add_mod F false hlt] at hfin hrat
  rw [hrat (hfin.2 (by omega)), negOf_sign_add F false hlt]
  simp

/-- The values that round past the finite ones (R117). -/
def Large (a : ℚ) : Prop := (Nearest rnd ∧ ((F.unpack false (F.maxBits false)).rat + 2 ^ (F.bias + 1)) / 2 ≤ a) ∨
  (Outward rnd n ∧ (F.unpack false (F.maxBits false)).rat < a) ∨ 2 ^ (F.bias + 1) ≤ a

theorem large_iff (hF : F.Wide) (hm : m ≠ 0) (hr : rnd ≤ 4) :
    F.infMag ≤ F.roundMag rnd n m e ↔ F.Large rnd n (m * (2 : ℚ) ^ e) := by
  obtain ⟨hsucc, hodd⟩ := F.infMag_odd hF
  have h := (F.roundMag_roundsTo rnd n e hF hm).succ_le_iff F.mag_strictMono hr hodd
  rwa [hsucc, mag_infMag hF, ← F.maxBits_rat hF] at h

/-- The values that, rounded with their exponent unbounded, are below the smallest normal (R118). -/
def Tiny (a : ℚ) : Prop := (Nearest rnd → a < (2 : ℚ) ^ F.emin - (2 : ℚ) ^ (F.emin - F.fb - 2)) ∧
  (Outward rnd n → a ≤ (2 : ℚ) ^ F.emin - (2 : ℚ) ^ (F.emin - F.fb - 1)) ∧ a < (2 : ℚ) ^ F.emin

/-- The point below the smallest normal. -/
theorem mag_pred_normal : F.mag (2 ^ F.fb - 1) = (2 : ℚ) ^ F.emin - (2 : ℚ) ^ (F.emin - F.fb) := by
  have hpos : 0 < 2 ^ F.fb := by positivity
  have h := mag_add_mul F (d := 0) (k := 2 ^ F.fb - 1) (by omega) (.inl rfl)
  rw [Nat.zero_mul, Nat.add_zero] at h
  rw [h, Nat.cast_sub hpos, Nat.cast_pow, Nat.cast_two, Nat.cast_zero, zero_add, sub_mul, ← zpow_natCast,
    ← zpow_add₀ two_ne_zero, Nat.cast_one, one_mul]
  congr 2
  ring

theorem two_pow_fb_odd (hF : F.Wide) : 2 ^ F.fb - 1 + 1 = 2 ^ F.fb ∧ (2 ^ F.fb - 1) % 2 = 1 := by
  have h2 : 2 ^ F.fb % 2 = 0 := Nat.mod_eq_zero_of_dvd (dvd_pow_self 2 (by have := hF.1; omega))
  have hpos : 0 < 2 ^ F.fb := by positivity
  omega

/-- A result below the smallest normal is tiny. -/
theorem tiny_of_lt (hF : F.Wide) (hm : m ≠ 0) (hr : rnd ≤ 4) (h : F.roundMag rnd n m e < 2 ^ F.fb) :
    F.Tiny rnd n (m * (2 : ℚ) ^ e) := by
  obtain ⟨hsucc, hodd⟩ := F.two_pow_fb_odd hF
  have hiff := (F.roundMag_roundsTo rnd n e hF hm).succ_le_iff F.mag_strictMono hr hodd
  rw [hsucc, mag_normal, mag_pred_normal] at hiff
  have hnot := hiff.not.1 (not_le.2 h)
  push Not at hnot
  obtain ⟨hnear, hout, hlt⟩ := hnot
  have h1 : (2 : ℚ) ^ (F.emin - F.fb) = 2 * 2 ^ (F.emin - F.fb - 1) := by
    rw [← zpow_one_add₀ two_ne_zero]; congr 1; ring
  have h2 : (2 : ℚ) ^ (F.emin - F.fb - 1) = 2 * 2 ^ (F.emin - F.fb - 2) := by
    rw [← zpow_one_add₀ two_ne_zero]; congr 1; ring
  have hpos : (0 : ℚ) < 2 ^ (F.emin - F.fb - 2) := zpow_pos two_pos _
  exact ⟨fun hn => by linarith [hnear hn], fun ho => by linarith [hout ho], hlt⟩

/-- Where a value of the binade below the smallest normal rounds up to it, its exponent unbounded. -/
theorem carries_iff (hm : m ≠ 0) (hr : rnd ≤ 4) (hx : e + m.log2 + 1 = F.emin) :
    (shiftRound rnd n m (e + m.log2 - F.fb - e)).1 = 2 ^ (F.fb + 1) ↔
      (Nearest rnd ∧ (2 : ℚ) ^ F.emin - (2 : ℚ) ^ (F.emin - F.fb - 2) ≤ m * 2 ^ e) ∨
      (Outward rnd n ∧ (2 : ℚ) ^ F.emin - (2 : ℚ) ^ (F.emin - F.fb - 1) < m * 2 ^ e) := by
  obtain ⟨u, hu⟩ : ∃ u : Int, u = F.emin - F.fb - 1 := ⟨_, rfl⟩
  rw [show e + m.log2 - F.fb - e = u - e by omega]
  have h := (shiftRound_roundsTo rnd n m (u - e)).1
  have hval : (m : ℚ) * 2 ^ e = m * 2 ^ (-(u - e)) * 2 ^ u := by
    rw [mul_assoc, ← zpow_add₀ two_ne_zero]; congr 2; ring
  have hlt : (m : ℚ) * 2 ^ (-(u - e)) < (2 ^ (F.fb + 1) : Nat) := by
    have := (value_bounds (-(u - e)) hm).2
    rwa [show -(u - e) + m.log2 + 1 = (F.fb + 1 : Nat) by push_cast; omega, zpow_natCast, ← Nat.cast_ofNat, ← Nat.cast_pow] at this
  have hpos : (0 : ℚ) < 2 ^ u := zpow_pos two_pos _
  have hle : (shiftRound rnd n m (u - e)).1 ≤ 2 ^ (F.fb + 1) := by
    obtain ⟨w, hw, hw', h⟩ := h
    have : w < 2 ^ (F.fb + 1) := Nat.cast_lt.1 (hw.trans_lt hlt)
    omega
  have hodd : 2 ^ (F.fb + 1) - 1 + 1 = 2 ^ (F.fb + 1) ∧ (2 ^ (F.fb + 1) - 1) % 2 = 1 := by
    have : 0 < 2 ^ F.fb := by positivity
    rw [pow_succ]; omega
  have hiff := h.succ_le_iff Nat.strictMono_cast hr hodd.2
  rw [hodd.1, Nat.cast_sub Nat.one_le_two_pow, Nat.cast_one] at hiff
  have hsmall : (2 : ℚ) ^ F.emin = (2 ^ (F.fb + 1) : Nat) * 2 ^ u := by
    rw [Nat.cast_pow, Nat.cast_ofNat, ← zpow_natCast, ← zpow_add₀ two_ne_zero]; congr 1; push_cast; omega
  have hhalf : (2 : ℚ) ^ (F.emin - F.fb - 2) = 1 / 2 * 2 ^ u := by
    rw [show F.emin - F.fb - 2 = u - 1 by omega, zpow_sub_one₀ two_ne_zero]; ring
  have hnear : (2 : ℚ) ^ F.emin - 2 ^ (F.emin - F.fb - 2) ≤ m * 2 ^ e ↔
      (((2 ^ (F.fb + 1) : Nat) : ℚ) - 1 + (2 ^ (F.fb + 1) : Nat)) / 2 ≤ m * 2 ^ (-(u - e)) := by
    rw [hsmall, hhalf, hval, ← sub_mul, mul_le_mul_iff_left₀ hpos]
    constructor <;> intro h <;> linarith
  have hout : (2 : ℚ) ^ F.emin - 2 ^ (F.emin - F.fb - 1) < m * 2 ^ e ↔
      ((2 ^ (F.fb + 1) : Nat) : ℚ) - 1 < m * 2 ^ (-(u - e)) := by
    rw [hsmall, ← hu, hval, ← sub_one_mul, mul_lt_mul_iff_left₀ hpos]
  rw [← or_assoc, or_iff_left hlt.not_ge] at hiff
  rw [hnear, hout, ← hiff]
  exact ⟨fun h => h.ge, fun h => le_antisymm hle h⟩

/-- The model's test for tininess (R118). -/
theorem tinyRound_iff (hm : m ≠ 0) (hr : rnd ≤ 4) :
    F.tinyRound rnd n m e = true ↔ F.Tiny rnd n (m * (2 : ℚ) ^ e) := by
  obtain ⟨hlo, hhi⟩ := value_bounds e hm
  by_cases hx : e + m.log2 < F.emin
  · have hsmall : (m : ℚ) * 2 ^ e < 2 ^ F.emin := hhi.trans_le (zpow_le_zpow_right₀ one_le_two (by omega))
    by_cases hx1 : e + m.log2 + 1 = F.emin
    · have hcarry := F.carries_iff rnd n e hm hr hx1
      simp only [tinyRound, hx, hx1, decide_true, beq_self_eq_true, Bool.true_and, Bool.not_eq_true', beq_eq_false_iff_ne, ne_eq,
        hcarry, Tiny]
      push Not
      exact ⟨fun ⟨hnear, hout⟩ => ⟨hnear, hout, hsmall⟩, fun ⟨hnear, hout, _⟩ => ⟨hnear, hout⟩⟩
    · have hhalf : (m : ℚ) * 2 ^ e < 2 ^ (F.emin - 1) := hhi.trans_le (zpow_le_zpow_right₀ one_le_two (by omega))
      have h1 : (2 : ℚ) ^ F.emin = 2 * 2 ^ (F.emin - 1) := by rw [← zpow_one_add₀ two_ne_zero]; congr 1; ring
      have h2 : (2 : ℚ) ^ (F.emin - F.fb - 2) ≤ 2 ^ (F.emin - 1) := zpow_le_zpow_right₀ one_le_two (by omega)
      have h3 : (2 : ℚ) ^ (F.emin - F.fb - 1) ≤ 2 ^ (F.emin - 1) := zpow_le_zpow_right₀ one_le_two (by omega)
      refine iff_of_true (by simp [tinyRound, hx, hx1]) ⟨fun _ => by linarith, fun _ => by linarith, hsmall⟩
  · refine iff_of_false (by simp [tinyRound, hx]) fun h => ?_
    exact absurd h.2.2 (not_lt.2 (le_trans (zpow_le_zpow_right₀ one_le_two (by omega)) hlo))

end

/-! ## The neighbours of the value -/

section
variable {F : FFmt} {rnd : Nat} {n : Bool} {m : Nat} {e : Int} {t : ℚ}

/-- A finite value of the format, as a magnitude with either sign. -/
def Point (F : FFmt) (t : ℚ) : Prop := ∃ Z, t = F.mag Z ∨ t = -F.mag Z

theorem Point.le_zero_or (h : F.Point t) : t ≤ 0 ∧ (∃ Z, |t| = F.mag Z) ∨ ∃ Z, t = F.mag Z := by
  obtain ⟨Z, rfl | rfl⟩ := h
  · exact .inr ⟨Z, rfl⟩
  · have := F.mag_nonneg Z
    exact .inl ⟨by linarith, Z, by rw [abs_neg, abs_of_nonneg this]⟩

variable (hF : F.Wide) (hm : m ≠ 0)
include hF hm

/-- The two nearest directions give a value at least as near as any other (R116). -/
theorem roundMag_dist_le (hn : Nearest rnd) (ht : F.Point t) :
    |F.mag (F.roundMag rnd n m e) - m * (2 : ℚ) ^ e| ≤ |t - m * (2 : ℚ) ^ e| := by
  have h := F.roundMag_roundsTo rnd n e hF hm
  have ha : (0 : ℚ) ≤ m * 2 ^ e := by positivity
  obtain ⟨ht, -⟩ | ⟨Z, rfl⟩ := ht.le_zero_or
  · refine (h.dist_le F.mag_strictMono hn 0).trans ?_
    rw [mag_zero, abs_of_nonpos (by linarith), abs_of_nonpos (by linarith)]
    linarith
  · exact h.dist_le F.mag_strictMono hn Z

/-- Of two values as near, the even one or the larger in magnitude (R116). -/
theorem roundMag_tie (hn : Nearest rnd) (ht : F.Point t) (hne : t ≠ F.mag (F.roundMag rnd n m e))
    (hd : |t - m * (2 : ℚ) ^ e| = |F.mag (F.roundMag rnd n m e) - m * (2 : ℚ) ^ e|) :
    (rnd = 0 → F.roundMag rnd n m e % 2 = 0) ∧ (rnd = 4 → |t| < F.mag (F.roundMag rnd n m e)) := by
  have h := F.roundMag_roundsTo rnd n e hF hm
  have ha : (0 : ℚ) ≤ m * 2 ^ e := by positivity
  obtain ⟨Z, rfl⟩ : ∃ Z, t = F.mag Z := by
    obtain ⟨ht, -⟩ | ht := ht.le_zero_or
    · have hz := h.dist_le F.mag_strictMono hn 0
      rw [mag_zero, ← hd, abs_of_nonpos (by linarith), abs_of_nonpos (by linarith)] at hz
      exact ⟨0, by rw [mag_zero]; linarith⟩
    · exact ht
  rw [abs_of_nonneg (F.mag_nonneg Z)]
  exact h.tie F.mag_strictMono hn hne hd

/-- A direction away from zero gives the least value that is not below (R116). -/
theorem roundMag_outward (ho : Outward rnd n) : m * (2 : ℚ) ^ e ≤ F.mag (F.roundMag rnd n m e) ∧
    ∀ t, F.Point t → m * (2 : ℚ) ^ e ≤ t → F.mag (F.roundMag rnd n m e) ≤ t := by
  obtain ⟨hle, hleast⟩ := (F.roundMag_roundsTo rnd n e hF hm).outward F.mag_strictMono ho
  have ha : (0 : ℚ) < m * 2 ^ e := by positivity
  refine ⟨hle, fun t ht hat => ?_⟩
  obtain ⟨ht, -⟩ | ⟨Z, rfl⟩ := ht.le_zero_or
  · linarith
  · exact hleast Z hat

/-- A direction toward zero gives the greatest value that is not above (R116). -/
theorem roundMag_inward (hr : rnd ≤ 4) (hn : ¬ Nearest rnd) (ho : ¬ Outward rnd n) :
    F.mag (F.roundMag rnd n m e) ≤ m * (2 : ℚ) ^ e ∧
      ∀ t, F.Point t → t ≤ m * (2 : ℚ) ^ e → t ≤ F.mag (F.roundMag rnd n m e) := by
  obtain ⟨hle, hmost⟩ := (F.roundMag_roundsTo rnd n e hF hm).inward F.mag_strictMono hr hn ho
  refine ⟨hle, fun t ht hat => ?_⟩
  obtain ⟨ht, -⟩ | ⟨Z, rfl⟩ := ht.le_zero_or
  · exact ht.trans (F.mag_nonneg _)
  · exact hmost Z hat

end

end Sys2Proof.Machine.FFmt
end

section
/-!
Sums, products and the one rounding (R113 to R118), as statements about the format's values.
-/

namespace Sys2Proof.Machine

namespace FFmt

variable {F : FFmt} {c : FCtl} {n : Bool} {m : Nat} {e : Int}

theorem Point.abs {t : ℚ} (h : F.Point t) : F.Point |t| := by
  obtain ⟨Z, rfl | rfl⟩ := h
  · exact ⟨Z, .inl (abs_of_nonneg (F.mag_nonneg Z))⟩
  · exact ⟨Z, .inl (by rw [abs_neg, abs_of_nonneg (F.mag_nonneg Z)])⟩

/-- A finite operand is a magnitude with a sign, whichever sign one asks for. -/
theorem point_of_isFin (n : Bool) {w : Nat} (h : (F.unpack false w).isFin = true) :
    ∃ t, F.Point t ∧ (F.unpack false w).rat = (if n then -1 else 1) * t := by
  obtain ⟨-, hrat⟩ := F.unpack_eq w
  refine ⟨(if n then -1 else 1) * (F.unpack false w).rat, ⟨w % 2 ^ (F.fb + F.eb), ?_⟩, ?_⟩
  · rw [hrat h]
    cases n <;> cases F.negOf w <;> simp
  · cases n <;> simp

theorem rat_fin (n : Bool) (m : Nat) (e : Int) : (FVal.fin n m e).rat = (if n then -1 else 1) * (m * (2 : ℚ) ^ e) :=
  mul_assoc _ _ _

theorem abs_rat_fin (n : Bool) (m : Nat) (e : Int) : |(FVal.fin n m e).rat| = m * (2 : ℚ) ^ e := by
  have h : (0 : ℚ) ≤ m * 2 ^ e := by positivity
  rw [rat_fin]
  cases n <;> simp [abs_of_nonneg h]

/-- A result that stays finite reads back as its rounded magnitude with the sign of the value. -/
theorem unpack_round (hm : m ≠ 0) (hf : c.ftz = false) (h : F.roundMag c.rnd n m e < F.infMag) :
    (F.unpack false (F.round c n m e).1).isFin = true ∧
      (F.unpack false (F.round c n m e).1).rat = (if n then -1 else 1) * F.mag (F.roundMag c.rnd n m e) := by
  have hlt := lt_of_lt_infMag h
  obtain ⟨hfin, hrat⟩ := F.unpack_eq (F.sign n + F.roundMag c.rnd n m e)
  rw [sign_add_mod F n hlt] at hfin hrat
  rw [negOf_sign_add F n hlt] at hrat
  rw [F.round_of_finite c n e hm hf h]
  exact ⟨hfin.2 h, hrat (hfin.2 h)⟩

/-- NX is set exactly where the rounded magnitude differs from the value (R116). -/
theorem round_inexact_iff (hm : m ≠ 0) (hf : c.ftz = false) (h : F.roundMag c.rnd n m e < F.infMag) :
    (F.round c n m e).2.getLsbD 4 = true ↔ F.mag (F.roundMag c.rnd n m e) ≠ m * (2 : ℚ) ^ e := by
  rw [F.round_of_finite c n e hm hf h, ← F.rounded_snd c.rnd n e hm]
  generalize (decide (F.roundMag c.rnd n m e < 2 ^ F.fb) || F.tinyRound c.rnd n m e) = u
  cases (F.rounded c.rnd n m e).2 <;> cases u <;> dsimp only <;> decide

/-- UF is set exactly where an inexact value is tiny (R118). -/
theorem round_underflow_iff (hF : F.Wide) (hm : m ≠ 0) (hr : c.rnd ≤ 4) (hf : c.ftz = false)
    (h : F.roundMag c.rnd n m e < F.infMag) :
    (F.round c n m e).2.getLsbD 3 = true ↔
      (F.round c n m e).2.getLsbD 4 = true ∧ F.Tiny c.rnd n (m * (2 : ℚ) ^ e) := by
  have htiny : (decide (F.roundMag c.rnd n m e < 2 ^ F.fb) || F.tinyRound c.rnd n m e) = true ↔
      F.Tiny c.rnd n (m * (2 : ℚ) ^ e) := by
    rw [Bool.or_eq_true, decide_eq_true_eq, F.tinyRound_iff c.rnd n e hm hr, or_iff_right_iff_imp]
    exact F.tiny_of_lt c.rnd n e hF hm hr
  rw [F.round_of_finite c n e hm hf h, ← htiny]
  generalize (decide (F.roundMag c.rnd n m e < 2 ^ F.fb) || F.tinyRound c.rnd n m e) = u
  cases (F.rounded c.rnd n m e).2 <;> cases u <;> dsimp only <;> decide

theorem sign_mod_two (hF : F.Wide) (n : Bool) : F.sign n % 2 = 0 := by
  cases n
  · rfl
  · exact Nat.mod_eq_zero_of_dvd (dvd_pow_self 2 (by have := hF.1; omega))

/-- The directions of R116 for a value with its sign: `X` the rounded magnitude, `a` the exact one and `t` another of the format. -/
theorem directions_of_magnitudes {rnd : Nat} {n : Bool} {X a t : ℚ} {even : Prop} (hr : rnd ≤ 4) (hX : 0 ≤ X) (ha : 0 ≤ a)
    (hnear : Nearest rnd → |X - a| ≤ |t - a|)
    (htie : Nearest rnd → t ≠ X → |t - a| = |X - a| → (rnd = 0 → even) ∧ (rnd = 4 → |t| < X))
    (hout : Outward rnd n → a ≤ X ∧ (a ≤ t → X ≤ t))
    (hin : ¬ Nearest rnd → ¬ Outward rnd n → X ≤ a ∧ (t ≤ a → t ≤ X) ∧ (|t| ≤ a → |t| ≤ X)) :
    let x : ℚ := (if n then -1 else 1) * X
    let v : ℚ := (if n then -1 else 1) * a
    let y : ℚ := (if n then -1 else 1) * t
    (rnd = 0 ∨ rnd = 4 → |x - v| ≤ |y - v|) ∧ (rnd = 1 → |x| ≤ |v| ∧ (|y| ≤ |v| → |y| ≤ |x|)) ∧
    (rnd = 2 → v ≤ x ∧ (v ≤ y → x ≤ y)) ∧ (rnd = 3 → x ≤ v ∧ (y ≤ v → y ≤ x)) ∧
    (y ≠ x → |y - v| = |x - v| → (rnd = 0 → even) ∧ (rnd = 4 → |y| < |x|)) := by
  have habs (u : ℚ) : |(if n then -1 else 1) * u| = |u| := by cases n <;> simp
  have hsub (u w : ℚ) : |(if n then -1 else 1) * u - (if n then -1 else 1) * w| = |u - w| := by rw [← mul_sub, habs]
  dsimp only
  simp only [hsub, habs, abs_of_nonneg hX, abs_of_nonneg ha]
  refine ⟨hnear, ?_, ?_, ?_, fun hne hd => ?_⟩
  · rintro rfl
    obtain ⟨h, -, h'⟩ := hin (by simp [Nearest]) (by simp [Outward])
    exact ⟨h, h'⟩
  · rintro rfl
    cases n
    · simpa using hout (.inl ⟨rfl, rfl⟩)
    · obtain ⟨h, h', -⟩ := hin (by simp [Nearest]) (by simp [Outward])
      simpa using And.intro h h'
  · rintro rfl
    cases n
    · obtain ⟨h, h', -⟩ := hin (by simp [Nearest]) (by simp [Outward])
      simpa using And.intro h h'
    · simpa using hout (.inr ⟨rfl, rfl⟩)
  · have hne' : t ≠ X := fun h => hne (by rw [h])
    exact ⟨fun h => (htie (.inl h) hne' hd).1 h, fun h => (htie (.inr h) hne' hd).2 h⟩

end FFmt

open FFmt

/-- The one rounding of a value that stays finite (R116, R118). -/
theorem round_directions {F : FFmt} {c : FCtl} {n : Bool} {m : Nat} {e : Int} (hF : F.Wide) (hf : c.ftz = false) (hr : c.rnd ≤ 4)
    (hm : m ≠ 0) :
    let x := F.unpack false (F.round c n m e).1
    let v := (FVal.fin n m e).rat
    (F.round c n m e).2.getLsbD 2 = false →
    x.isFin = true ∧ ((F.round c n m e).2.getLsbD 4 = true ↔ x.rat ≠ v) ∧
    ∀ w, w < 2 ^ (F.fb + F.eb + 1) → (F.unpack false w).isFin = true →
      let y := (F.unpack false w).rat
      (c.rnd = 0 ∨ c.rnd = 4 → |x.rat - v| ≤ |y - v|) ∧
      (c.rnd = 1 → |x.rat| ≤ |v| ∧ (|y| ≤ |v| → |y| ≤ |x.rat|)) ∧
      (c.rnd = 2 → v ≤ x.rat ∧ (v ≤ y → x.rat ≤ y)) ∧
      (c.rnd = 3 → x.rat ≤ v ∧ (y ≤ v → y ≤ x.rat)) ∧
      (y ≠ x.rat → |y - v| = |x.rat - v| → (c.rnd = 0 → (F.round c n m e).1 % 2 = 0) ∧ (c.rnd = 4 → |y| < |x.rat|)) := by
  intro x v hov
  have hW : F.roundMag c.rnd n m e < F.infMag :=
    not_le.1 ((F.round_overflow_iff c n e hF hm).not.1 (by rw [hov]; exact Bool.false_ne_true))
  obtain ⟨hfin, hx⟩ := unpack_round (F := F) (c := c) (e := e) hm hf hW
  have hbits : (F.round c n m e).1 % 2 = F.roundMag c.rnd n m e % 2 := by
    have := sign_mod_two hF n
    rw [F.round_of_finite c n e hm hf hW]
    dsimp only
    omega
  refine ⟨hfin, ?_, fun w _ hw => ?_⟩
  · rw [round_inexact_iff hm hf hW, hx, show v = _ from rat_fin n m e]
    cases n <;> simp
  · obtain ⟨t, ht, hy⟩ := point_of_isFin n hw
    dsimp only
    rw [hbits, hx, hy, show v = _ from rat_fin n m e]
    refine directions_of_magnitudes hr (F.mag_nonneg _) (by positivity) (fun h => roundMag_dist_le hF hm h ht)
      (fun h => roundMag_tie hF hm h ht) (fun h => ?_) fun h h' => ?_
    · obtain ⟨hle, hall⟩ := roundMag_outward (m := m) (e := e) hF hm h
      exact ⟨hle, hall t ht⟩
    · obtain ⟨hle, hall⟩ := roundMag_inward (m := m) (e := e) hF hm hr h h'
      exact ⟨hle, hall t ht, hall |t| ht.abs⟩

/-- FTZ makes a subnormal result zero and leaves the others (R118). -/
theorem round_ftz {F : FFmt} {c : FCtl} {n : Bool} {m : Nat} {e : Int} (hF : F.Wide) (hm : m ≠ 0) (hf : c.ftz = true) :
    let q := F.round { c with ftz := false } n m e
    (F.isSubnormal q.1 = true → F.round c n m e = (F.zeroBits n, fUF ||| fNX)) ∧
      (F.isSubnormal q.1 = false → (F.round c n m e).1 = q.1 ∧ (F.round c n m e).2.getLsbD 4 = q.2.getLsbD 4) := by
  intro q
  by_cases h : F.infMag ≤ F.roundMag c.rnd n m e
  · obtain ⟨V, hV, hlt, hbits⟩ := F.overflow_bits c n hF
    have hq : q = F.overflow c n := F.round_of_overflow { c with ftz := false } n e hF hm h
    rw [F.round_of_overflow c n e hF hm h, hq]
    refine ⟨fun hs => ?_, fun _ => ⟨rfl, rfl⟩⟩
    rw [hbits, isSubnormal_iff, sign_add_mod F n hlt] at hs
    omega
  · have hq : q = _ := F.round_of_finite { c with ftz := false } n e hm rfl (not_le.1 h)
    have hs : F.isSubnormal q.1 = true ↔ 0 < F.roundMag c.rnd n m e ∧ F.roundMag c.rnd n m e < 2 ^ F.fb := by
      rw [hq, isSubnormal_iff, sign_add_mod F n (lt_of_lt_infMag (not_le.1 h))]
    rw [F.round_of_ftz c n e hm hf (not_le.1 h)]
    refine ⟨fun h => if_pos (hs.1 h), fun h => ?_⟩
    rw [if_neg (hs.not.1 (by rw [h]; exact Bool.false_ne_true)), hq]
    refine ⟨rfl, ?_⟩
    generalize (decide (F.roundMag c.rnd n m e < 2 ^ F.fb)) = u
    generalize F.tinyRound c.rnd n m e = v
    cases (F.rounded c.rnd n m e).2 <;> cases u <;> cases v <;> dsimp only <;> decide

/-- The sign, the overflow, the underflow and FTZ of the one rounding (R116 to R118). -/
theorem round_extremes {F : FFmt} {c : FCtl} {n : Bool} {m : Nat} {e : Int} (hF : F.Wide) (hr : c.rnd ≤ 4) (hm : m ≠ 0) :
    let r := F.round c n m e
    let a : ℚ := |(FVal.fin n m e).rat|
    F.negOf r.1 = n ∧ (r.2.getLsbD 2 = true ↔ F.Large c.rnd n a) ∧
    (F.Large c.rnd n a → c.sat = true → r = (F.maxBits n, fOF ||| fNX ||| fSATD)) ∧
    (F.Large c.rnd n a → c.sat = false → r.2 = fOF ||| fNX ∧ (Nearest c.rnd ∨ Outward c.rnd n → r.1 = F.infBits n) ∧
      (¬ Nearest c.rnd → ¬ Outward c.rnd n → r.1 = F.maxBits n)) ∧
    (c.ftz = false → ¬ F.Large c.rnd n a → (r.2.getLsbD 3 = true ↔ r.2.getLsbD 4 = true ∧ F.Tiny c.rnd n a)) ∧
    (c.ftz = true →
      let q := F.round { c with ftz := false } n m e
      (F.isSubnormal q.1 = true → r = (F.zeroBits n, fUF ||| fNX)) ∧
      (F.isSubnormal q.1 = false → r.1 = q.1 ∧ r.2.getLsbD 4 = q.2.getLsbD 4)) := by
  intro r a
  have hlarge : F.infMag ≤ F.roundMag c.rnd n m e ↔ F.Large c.rnd n a := by
    rw [show a = _ from abs_rat_fin n m e]
    exact F.large_iff c.rnd n e hF hm hr
  rw [← hlarge]
  refine ⟨F.negOf_round c n e hF hm, F.round_overflow_iff c n e hF hm, fun h => ?_, fun h => ?_, fun hf h => ?_, fun hf => ?_⟩
  · rw [show r = _ from F.round_of_overflow c n e hF hm h]
    exact (F.overflow_eq c hr n).1
  · rw [show r = _ from F.round_of_overflow c n e hF hm h]
    exact (F.overflow_eq c hr n).2
  · rw [show a = _ from abs_rat_fin n m e]
    exact round_underflow_iff hF hm hr hf (not_le.1 h)
  · exact round_ftz hF hm hf

/-- Settles O23: exact sums and products by their terms, and the one rounding by the magnitude bits on either side of the value. -/
theorem sumsProductsAndRounding : Obligations.SumsProductsAndRounding := by
  refine ⟨fun F c x y z => ?operands, fun F c n m e hF hf hr hm => round_directions (wide_of_standard hF) hf hr hm,
    fun F c n k e e' => ?zeros, fun F w hs hF => ?subnormal, fun F c n m e hF hr hm => round_extremes (wide_of_standard hF) hr hm⟩
  case operands =>
    refine ⟨fun hx hy _ => ?_, fun hx hy h0 hx0 => ?_, fun hx hy _ => ?_, fun hx hy hz _ => ?_, sum_nan F c, sum_inf F c,
      fun n k e => invalid_product F c n k e z⟩
    · obtain ⟨n, m, e, rfl⟩ := exists_of_isFin hx
      obtain ⟨k, m', f, rfl⟩ := exists_of_isFin hy
      exact sum_pair F c (n, m, e) (k, m', f)
    · obtain ⟨n, m, e, rfl⟩ := exists_of_isFin hx
      obtain ⟨k, m', f, rfl⟩ := exists_of_isFin hy
      have hm : m ≠ 0 := fun h => hx0 (rat_fin_eq_zero.2 h)
      exact (sum_pair_zero F c (x := (n, m, e)) (y := (k, m', f)) h0).trans (by rw [if_neg fun h => hm h.1])
    · obtain ⟨n, m, e, rfl⟩ := exists_of_isFin hx
      obtain ⟨k, m', f, rfl⟩ := exists_of_isFin hy
      exact ⟨_, _, _, fltMul_fin F c n k m m' e f, mul_rat n k m m' e f⟩
    · obtain ⟨n, m, e, rfl⟩ := exists_of_isFin hx
      obtain ⟨k, m', f, rfl⟩ := exists_of_isFin hy
      obtain ⟨j, m'', g, rfl⟩ := exists_of_isFin hz
      rw [fltFma_fin, ← mul_rat]
      exact sum_pair F c (n != k, m * m', e + f) (j, m'', g)
  case zeros =>
    exact (sum_pair_zero F c (x := (n, 0, e)) (y := (k, 0, e')) (by simp [termVal, FVal.rat])).trans (by simp)
  case subnormal =>
    have hpos := two_pow_eb (wide_of_standard hF)
    simp only [FFmt.isSubnormal, Bool.and_eq_true, beq_iff_eq] at hs
    simp only [FFmt.unpack, hs.1, if_true]
    rw [if_neg (by omega)]

end Sys2Proof.Machine
end

section
/-!
Conversions (R119, R123, R124, R329, R336, R354): integers from floating values and back, and the order of the DM8 bodies.
-/

namespace Sys2Proof.Machine

/-! ## Integers -/

theorem shiftRound_zero (rnd : Nat) (n : Bool) (m : Nat) : shiftRound rnd n m (-0) = (m, false) := by simp [shiftRound]

theorem ityMin_le_ityMax (k : ITy) : ityMin k ≤ ityMax k := by cases k <;> decide

/-- The result of F2I lies in the type's range (R329). -/
theorem fltToInt_bounds (k : ITy) (c : FCtl) (n : Bool) (m : Nat) (e : Int) :
    ityMin k ≤ (fltToInt k c (.fin n m e)).1 ∧ (fltToInt k c (.fin n m e)).1 ≤ ityMax k := by
  have h := ityMin_le_ityMax k
  unfold fltToInt
  dsimp only
  generalize (if n = true then -((shiftRound c.rnd n m (-e)).1 : Int) else (shiftRound c.rnd n m (-e)).1) = v
  split
  · exact ⟨le_rfl, h⟩
  split
  · exact ⟨h, le_rfl⟩
  · exact ⟨by omega, by omega⟩

/-- An integer of the type converts to itself without a flag. -/
theorem fltToInt_integer {k : ITy} (c : FCtl) {j : Int} (hlo : ityMin k ≤ j) (hhi : j ≤ ityMax k) :
    fltToInt k c (.fin (j < 0) j.natAbs 0) = (j, 0) := by
  have hj : (if decide (j < 0) = true then -(j.natAbs : Int) else j.natAbs) = j := by
    simp only [decide_eq_true_eq]
    split <;> omega
  unfold fltToInt
  simp only [shiftRound_zero, hj, if_neg hlo.not_gt, if_neg hhi.not_gt]
  rfl

/-! ## Comparison -/

/-- Finite values compare as the numbers they stand for. -/
theorem cmp_fin (s t : Bool) (m n : Nat) (e f : Int) :
    ((FVal.fin s m e).cmp (.fin t n f) ≤ 0 ↔ (FVal.fin s m e).rat ≤ (FVal.fin t n f).rat) ∧
      ((FVal.fin s m e).cmp (.fin t n f) < 0 ↔ (FVal.fin s m e).rat < (FVal.fin t n f).rat) := by
  have hpos : (0 : ℚ) < 2 ^ min e f := zpow_pos two_pos _
  have hint (b : Bool) (x : Nat) : (if b then -(x : ℚ) else (x : ℚ)) = ((if b then -(x : Int) else x : Int) : ℚ) := by
    cases b <;> simp
  rw [rat_fin_of_le (min_le_left e f), rat_fin_of_le (min_le_right e f), mul_lt_mul_iff_left₀ hpos, mul_le_mul_iff_left₀ hpos,
    hint, hint, Int.cast_lt, Int.cast_le]
  simp only [FVal.cmp]
  generalize (if s then -((m * 2 ^ (e - min e f).toNat : Nat) : Int) else (m * 2 ^ (e - min e f).toNat : Nat)) = x
  generalize (if t then -((n * 2 ^ (f - min e f).toNat : Nat) : Int) else (n * 2 ^ (f - min e f).toNat : Nat)) = y
  constructor
  all_goals
    split
    · omega
    · split <;> omega

/-! ## DM8 -/

/-- Each body is a positive magnitude above that of the body before (R119). -/
def dm8Rises (b : Nat) : Bool :=
  (dm8Mag b).isFin && (dm8Mag b).cmp (dm8Mag (b + 1)) < 0 &&
    match dm8Mag (b + 1) with
    | .fin false m _ => m != 0
    | _ => false

theorem dm8Rises_all : (List.range 127).all dm8Rises = true := by decide +kernel

theorem dm8Mag_succ {b : Nat} (h : b < 127) : (∃ m e, m ≠ 0 ∧ dm8Mag (b + 1) = .fin false m e) ∧
    (dm8Mag b).rat < (dm8Mag (b + 1)).rat := by
  have hrise := List.all_eq_true.1 dm8Rises_all b (List.mem_range.2 h)
  simp only [dm8Rises, Bool.and_eq_true, decide_eq_true_eq] at hrise
  obtain ⟨⟨hfin, hlt⟩, hpos⟩ := hrise
  obtain ⟨s, m, e, hb⟩ := exists_of_isFin hfin
  cases hb' : dm8Mag (b + 1) with
  | fin t n f =>
    rw [hb'] at hpos hlt
    cases t with
    | false =>
      rw [hb] at hlt ⊢
      exact ⟨⟨n, f, by simpa using hpos, rfl⟩, (cmp_fin ..).2.1 hlt⟩
    | true => cases hpos
  | nan s => rw [hb'] at hpos; cases hpos
  | inf s => rw [hb'] at hpos; cases hpos

/-- A body's magnitude is finite, and zero for the body 0 alone. -/
theorem dm8Mag_fin {b : Nat} (h : b < 128) : ∃ m e, dm8Mag b = .fin false m e ∧ (m = 0 ↔ b = 0) := by
  cases b with
  | zero => exact ⟨0, 0, rfl, by simp⟩
  | succ b =>
    obtain ⟨m, e, hm, hb⟩ := (dm8Mag_succ (show b < 127 by omega)).1
    exact ⟨m, e, hb, by simp [hm]⟩

theorem dm8Mag_lt {a b : Nat} (hab : a < b) (hb : b < 128) : (dm8Mag a).rat < (dm8Mag b).rat := by
  induction b, hab using Nat.le_induction with
  | base => exact (dm8Mag_succ (by omega)).2
  | succ b hab ih => exact (ih (by omega)).trans (dm8Mag_succ (by omega)).2

/-- Bodies compare as their magnitudes do. -/
theorem dm8Mag_cmp {a b : Nat} (ha : a < 128) (hb : b < 128) : (dm8Mag a).cmp (dm8Mag b) ≤ 0 ↔ a ≤ b := by
  obtain ⟨m, e, hm, -⟩ := dm8Mag_fin ha
  obtain ⟨n, f, hn, -⟩ := dm8Mag_fin hb
  have hcmp := (cmp_fin false false m n e f).1
  rw [← hm, ← hn] at hcmp
  rw [hcmp]
  refine ⟨fun h => ?_, fun h => ?_⟩
  · by_contra hlt
    exact absurd h (not_le.2 (dm8Mag_lt (not_le.1 hlt) ha))
  · obtain rfl | hlt := h.eq_or_lt
    · exact le_rfl
    · exact (dm8Mag_lt hlt hb).le

theorem dm8Mag_cmp_top {b : Nat} (hb : b < 128) : (dm8Mag b).cmp (dm8Mag 127) ≤ 0 := by
  obtain ⟨top, htop⟩ : ∃ top, top = 127 := ⟨_, rfl⟩
  rw [← htop, dm8Mag_cmp hb (by omega)]
  omega

/-- The last index not above `b`. -/
theorem foldl_last_le (b n : Nat) :
    (List.range n).foldl (fun best x => if x ≤ b then x else best) 0 = min (n - 1) b := by
  induction n with
  | zero => simp
  | succ n ih =>
    rw [List.range_succ, List.foldl_append, ih]
    simp only [List.foldl_cons, List.foldl_nil]
    split <;> omega

/-- The body of a magnitude is found again (R124). -/
theorem dm8Floor_mag {b : Nat} (h : b < 128) : dm8Floor (dm8Mag b) = b := by
  have hstep : dm8Floor (dm8Mag b) = (List.range 128).foldl (fun best x => if x ≤ b then x else best) 0 :=
    List.foldl_ext _ _ _ fun best x hx => by simp only [dm8Mag_cmp (List.mem_range.1 hx) h]
  rw [hstep, foldl_last_le]
  omega

/-- A finite magnitude that its floor reaches exactly encodes to that body (R124). -/
theorem encodeDm8_exact (c : FCtl) (neg : Bool) {m : Nat} {s e : Int} (hm : m ≠ 0) {a : FVal} (ha : .fin false m (e - s) = a)
    (htop : ¬ 0 < a.cmp (dm8Mag 127)) (hfloor : (dm8Mag (dm8Floor a)).cmp a = 0) :
    encodeDm8 c (.fin neg m e) s = (dm8Code neg (dm8Floor a), 0) := by
  subst ha
  exact (if_neg hm).trans ((if_neg htop).trans (if_pos hfloor))

/-- The magnitude of a body, with either sign, encodes to that body (R124). -/
theorem encodeDm8_mag (c : FCtl) (neg : Bool) {b m : Nat} {e : Int} (hb : b < 128) (hb0 : b ≠ 0) (h : dm8Mag b = .fin false m e) :
    encodeDm8 c (.fin neg m e) 0 = (dm8Code neg b, 0) := by
  have hm : m ≠ 0 := by
    obtain ⟨m', e', h', hm'⟩ := dm8Mag_fin hb
    rw [h] at h'
    cases h'
    exact fun h => hb0 (hm'.1 h)
  have hself : (dm8Mag b).cmp (dm8Mag b) = 0 := by simp [h, FVal.cmp]
  have henc := encodeDm8_exact c neg (s := 0) hm (a := dm8Mag b) (by rw [h, sub_zero]) (not_lt.2 (dm8Mag_cmp_top hb))
    (by rw [dm8Floor_mag hb, hself])
  rwa [dm8Floor_mag hb] at henc

/-- Every code but NaR encodes back to itself (R119, R124). -/
theorem encodeDm8_value (c : FCtl) {code : Nat} (hlt : code < 256) (hne : code ≠ 0x80) :
    encodeDm8 c (dm8Value code) 0 = (code, 0) := by
  have hb : code % 128 < 128 := Nat.mod_lt _ (by omega)
  by_cases h0 : code % 128 = 0
  · obtain rfl : code = 0 := by omega
    rfl
  · obtain ⟨m, e, hmag, -⟩ := dm8Mag_fin hb
    have hval : dm8Value code = .fin (code / 128 % 2 == 1) m e := by simp only [dm8Value, if_neg h0, hmag]
    rw [hval, encodeDm8_mag c _ hb h0 hmag]
    simp only [dm8Code, if_neg h0, beq_iff_eq]
    congr 1
    split <;> omega

/-- Settles O25: each conversion by its operation, and DM8 by the order of its bodies. -/
theorem floatConversions : Obligations.FloatConversions := by
  refine ⟨fun s d a x y k => ⟨writesF_of rfl, writesF_of rfl, writesF_of rfl, fun c v => ⟨fun h => ?_, fun n => rfl, fun h => ?_,
    fun j => fltToInt_integer c⟩⟩, fun c => ⟨fun code => encodeDm8_value c, rfl, rfl⟩⟩
  · cases v with
    | nan s => rfl
    | inf n => cases h
    | fin n m e => cases h
  · obtain ⟨n, m, e, rfl⟩ := exists_of_isFin h
    exact fltToInt_bounds k c n m e

end Sys2Proof.Machine
end

section
/-!
A step taken for a team that is not the issuing one (R133): the state it runs on, and what stands after it.
-/

namespace Sys2Proof.Machine

section
variable {s : State} {i : TeamId} {u : Team} (h : s.team? i = some u)
include h

/-- The state as the team `i` sees it while it is the issuing one. -/
theorem asTeam_fields (f : State → State) : ∃ os, ∃ tm os', s.asTeam i f =
    { f { s with team := u, others := os } with team := tm, others := os' } := by
  unfold State.asTeam
  rw [State.team?, State.teams, List.find?_cons] at h
  by_cases hi : s.team.id = i
  · rw [if_pos hi]
    rw [show (s.team.id == i) = true by simpa using hi] at h
    cases h
    exact ⟨s.others, (f s).team, (f s).others, rfl⟩
  · rw [if_neg hi]
    rw [show (s.team.id == i) = false by simpa using hi] at h
    simp only [h]
    refine ⟨s.others.map fun v => if v.id = i then s.team else v, ?_⟩
    split
    · exact ⟨_, _, rfl⟩
    · exact ⟨(f _).team, (f _).others, rfl⟩

/-- A step that changes the issuing team and keeps the names of the others leaves its team where it belongs. -/
theorem asTeam_team (hn : (s.teams.map Team.id).Nodup) {f : State → State}
    (hf : ∀ os, (∀ v ∈ os, v.id ≠ i) → (f { s with team := u, others := os }).team.id = i ∧
      (f { s with team := u, others := os }).others.map Team.id = os.map Team.id) :
    ∃ os, (∀ v ∈ os, v.id ≠ i) ∧ (∃ tm os', s.asTeam i f = { f { s with team := u, others := os } with
      team := tm, others := os' }) ∧ (s.asTeam i f).team? i = some (f { s with team := u, others := os }).team := by
  have hu : u.id = i := team_id h
  unfold State.asTeam
  rw [State.team?, State.teams, List.find?_cons] at h
  by_cases hi : s.team.id = i
  · rw [if_pos hi]
    rw [show (s.team.id == i) = true by simpa using hi] at h
    cases h
    have hos : ∀ v ∈ s.others, v.id ≠ i := fun v hv e => by
      rw [State.teams, List.map_cons, List.nodup_cons] at hn
      exact hn.1 (List.mem_map.2 ⟨v, hv, e.trans hi.symm⟩)
    refine ⟨s.others, hos, ⟨(f s).team, (f s).others, rfl⟩, ?_⟩
    rw [State.team?, State.teams, List.find?_cons_of_pos (by simpa using (hf s.others hos).1)]
  · rw [if_neg hi]
    rw [show (s.team.id == i) = false by simpa using hi] at h
    simp only [h]
    obtain ⟨os, hosdef⟩ : ∃ os, os = s.others.map fun v => if v.id = i then s.team else v := ⟨_, rfl⟩
    have hos : ∀ v ∈ os, v.id ≠ i := fun v hv => by
      rw [hosdef] at hv
      obtain ⟨w, -, rfl⟩ := List.mem_map.1 hv
      split
      · exact hi
      · assumption
    have hme : s.team.id ∈ os.map Team.id := by
      refine List.mem_map.2 ⟨s.team, ?_, rfl⟩
      rw [hosdef]
      exact List.mem_map.2 ⟨u, List.mem_of_find?_eq_some h, if_pos hu⟩
    rw [← hosdef]
    refine ⟨os, hos, ?_⟩
    obtain ⟨hteam, hids⟩ := hf os hos
    generalize f { s with team := u, others := os } = t at hteam hids ⊢
    rw [← hids] at hme
    obtain ⟨v, hv, hvme⟩ := List.mem_map.1 hme
    obtain ⟨old, hold⟩ : ∃ old, t.others.find? (fun u => u.id == s.team.id) = some old :=
      Option.isSome_iff_exists.1 (List.find?_isSome.2 ⟨v, hv, by simpa using hvme⟩)
    simp only [hold]
    refine ⟨⟨old, _, rfl⟩, ?_⟩
    have holdid : (old.id == s.team.id) = true := List.find?_some (p := fun u : Team => u.id == s.team.id) hold
    have hne : old.id ≠ i := fun e => hi ((beq_iff_eq.1 holdid).symm.trans e)
    rw [State.team?, State.teams, List.find?_cons_of_neg (by simpa using hne)]
    obtain ⟨x, hx⟩ : ∃ x, (t.others.map fun w => if w.id = s.team.id then t.team else w).find? (fun w => w.id == i) = some x :=
      Option.isSome_iff_exists.1 (List.find?_isSome.2 ⟨t.team, List.mem_map.2 ⟨v, hv, if_pos hvme⟩, by simpa using hteam⟩)
    rw [hx]
    obtain ⟨w, hw, rfl⟩ := List.mem_map.1 (List.mem_of_find?_eq_some hx)
    have hxi := List.find?_some hx
    split
    · rfl
    · rename_i hwme
      rw [if_neg hwme] at hxi
      obtain ⟨w', hw', e⟩ := List.mem_map.1 (hids ▸ List.mem_map_of_mem (f := Team.id) hw)
      exact absurd (e.trans (by simpa using hxi)) (hos w' hw')

end

/-- A settled request of the issuing team leaves the other teams. -/
theorem settle_issuing {s : State} {i : TeamId} (hi : s.team.id = i) (hos : ∀ v ∈ s.others, v.id ≠ i) (k req : Nat)
    (f : Pending → Pending) : ∃ a, s.settle i k req f =
      { s with team := { s.team.answered k req f with stalled := false }, agenda := a } := by
  have hmap {g : Team → Team} : (s.others.map fun t => if t.id = i then g t else t) = s.others := by
    conv_rhs => rw [← List.map_id s.others]
    exact List.map_congr_left fun v hv => if_neg (hos v hv)
  have hmod (g : Team → Team) : s.modTeam i g = { s with team := g s.team } := by
    rw [State.modTeam, if_pos hi, hmap]
  have hunstall : (s.modTeam i (Team.answered k req f)).unstall i =
      { s with team := { s.team.answered k req f with stalled := false } } := by
    have hnone : s.others.find? (fun t => t.id == i && t.stalled) = none :=
      List.find?_eq_none.2 fun v hv => by simp [hos v hv]
    rw [hmod, State.unstall]
    simp only [hnone]
    rw [State.modTeam, if_pos (by exact hi), hmap]
  obtain h | h := settle_cases s i k req f
  · exact ⟨s.agenda, h.trans hunstall⟩
  · exact ⟨s.agenda ++ [.trapEntry i], h.trans (by rw [hunstall]; rfl)⟩

end Sys2Proof.Machine
end

section
/-!
Bytes: of numbers, of tiles and accumulators (R137), and of the copies that caches hold (R25).
-/

namespace Sys2Proof.Machine

/-! ## Numbers and bytes -/

/-- A byte of a little-endian number. -/
theorem ofNat_natOfBytes_div (bs : List Byte) (j : Nat) : BitVec.ofNat 8 (natOfBytes bs / 256 ^ j) = bs.getD j 0 := by
  induction bs generalizing j with
  | nil => simp [natOfBytes]
  | cons b bs ih =>
    have hb := b.isLt
    cases j with
    | zero =>
      refine BitVec.eq_of_toNat_eq ?_
      simp only [natOfBytes, Nat.pow_zero, Nat.div_one, BitVec.toNat_ofNat, List.getD_cons_zero]
      omega
    | succ j =>
      rw [natOfBytes, Nat.pow_succ', ← Nat.div_div_eq_div_mul, show (b.toNat + 256 * natOfBytes bs) / 256 = natOfBytes bs by omega, ih,
        List.getD_cons_succ]

theorem natOfBytes_lt (bs : List Byte) : natOfBytes bs < 256 ^ bs.length := by
  induction bs with
  | nil => simp [natOfBytes]
  | cons b bs ih =>
    have hb := b.isLt
    rw [natOfBytes, List.length_cons, Nat.pow_succ]
    omega

/-- Bytes written from an offset, and those around them. -/
theorem getD_putBytes (bs : List Byte) (m : SMap Byte) (o a : Nat) :
    (putBytes m o bs).getD a 0 = if o ≤ a ∧ a < o + bs.length then bs.getD (a - o) 0 else m.getD a 0 := by
  induction bs generalizing m o with
  | nil => simp [putBytes]
  | cons b bs ih =>
    rw [putBytes, ih, List.length_cons]
    obtain hlt | rfl | hgt := Nat.lt_trichotomy a o
    · rw [if_neg (by omega), if_neg (by omega), SMap.getD_put_of_ne _ _ _ _ (by omega)]
    · rw [if_neg (by omega), if_pos (by omega), SMap.getD_put_self, Nat.sub_self, List.getD_cons_zero]
    · have hsub : a - o = a - (o + 1) + 1 := by omega
      rw [SMap.getD_put_of_ne _ _ _ _ (by omega), hsub, List.getD_cons_succ]
      by_cases h : a < o + (bs.length + 1)
      · rw [if_pos (by omega), if_pos (by omega)]
      · rw [if_neg (by omega), if_neg (by omega)]

theorem getD_putBytes_at {bs : List Byte} {j : Nat} (h : j < bs.length) (m : SMap Byte) (o : Nat) :
    (putBytes m o bs).getD (o + j) 0 = bs.getD j 0 := by
  rw [getD_putBytes, if_pos (by omega), Nat.add_sub_cancel_left]

theorem getD_putBytes_outside {bs : List Byte} {a : Nat} (m : SMap Byte) (o : Nat) (h : a < o ∨ o + bs.length ≤ a) :
    (putBytes m o bs).getD a 0 = m.getD a 0 := by
  rw [getD_putBytes, if_neg (by omega)]

@[simp] theorem length_mapBytes (m : SMap Byte) (o n : Nat) : (mapBytes m o n).length = n := by simp [mapBytes]

theorem getD_mapBytes (m : SMap Byte) (o : Nat) {n j : Nat} (h : j < n) : (mapBytes m o n).getD j 0 = m.getD (o + j) 0 := by
  simp [mapBytes, List.getD_eq_getElem?_getD, h]

/-! ## Bytes of a copy -/

/-- Byte `i` of the line a copy stands for. -/
def Copy.byte (c : Copy) (i : Nat) : Byte := (c.data >>> (8 * i)).setWidth 8

theorem getLsbD_copy_byte (c : Copy) (i : Nat) {b : Nat} (hb : b < 8) : (c.byte i).getLsbD b = c.data.getLsbD (8 * i + b) := by
  simp [Copy.byte, hb]

/-- Written bytes laid over a line, byte by byte. -/
theorem getLsbD_mix (x y : BitVec 1024) (m : BitVec 128) {i b : Nat} (hi : i < 128) (hb : b < 8) :
    ((x &&& ~~~byteBits m) ||| (y &&& byteBits m)).getLsbD (8 * i + b) =
      if m.getLsbD i then y.getLsbD (8 * i + b) else x.getLsbD (8 * i + b) := by
  have hj : 8 * i + b < 1024 := by omega
  rw [BitVec.getLsbD_or, BitVec.getLsbD_and, BitVec.getLsbD_and, BitVec.getLsbD_not, getLsbD_byteBits m hj,
    show (8 * i + b) / 8 = i by omega]
  cases m.getLsbD i <;> simp [hj]

theorem over_byte (c x : Copy) {i : Nat} (hi : i < 128) :
    (c.over x).byte i = if x.dirty.getLsbD i then x.byte i else c.byte i := by
  refine BitVec.eq_of_getLsbD_eq fun b hb => ?_
  rw [getLsbD_copy_byte _ _ hb, Copy.over]
  dsimp only
  rw [getLsbD_mix _ _ _ hi hb]
  split <;> rw [getLsbD_copy_byte _ _ hb]

theorem under_byte (c x : Copy) {i : Nat} (hi : i < 128) :
    (c.under x).byte i = if x.dirty.getLsbD i then x.byte i else c.byte i := by
  refine BitVec.eq_of_getLsbD_eq fun b hb => ?_
  rw [getLsbD_copy_byte _ _ hb, Copy.under]
  dsimp only
  rw [getLsbD_mix _ _ _ hi hb]
  split <;> rw [getLsbD_copy_byte _ _ hb]

theorem copy_byte_ofNat {x i : Nat} (hi : i < 128) :
    ((BitVec.ofNat 1024 x) >>> (8 * i)).setWidth 8 = BitVec.ofNat 8 (x / 256 ^ i) := by
  refine BitVec.eq_of_getLsbD_eq fun b hb => ?_
  rw [BitVec.getLsbD_setWidth, BitVec.getLsbD_ushiftRight, BitVec.getLsbD_ofNat, BitVec.getLsbD_ofNat,
    show (256 : Nat) ^ i = 2 ^ (8 * i) by rw [Nat.pow_mul], Nat.testBit_div_two_pow, Nat.add_comm b]
  have hj : 8 * i + b < 1024 := by omega
  simp [hb, hj]

/-- A line as its home holds it. -/
theorem homeCopy_byte (s : State) (line : Nat) {i : Nat} (hi : i < 128) : (s.homeCopy line).byte i = s.readByte (line * 128 + i) := by
  rw [Copy.byte, State.homeCopy, copy_byte_ofNat hi, ofNat_natOfBytes_div]
  simp [State.readBytes, List.getD_eq_getElem?_getD, hi]

/-- What a store writes of a line. -/
theorem write_empty_dirty (bs : List Byte) (tag : Bool) (lo i : Nat) : (Copy.empty.write lo bs tag).dirty.getLsbD i =
    (decide (i < 128) && decide (lo ≤ i ∧ i < lo + bs.length)) := by
  have h : (Copy.empty.write lo bs tag).dirty = BitVec.ofNat 128 ((2 ^ bs.length - 1) * 2 ^ lo) := BitVec.zero_or
  rw [h, BitVec.getLsbD_ofNat, Nat.mul_comm, Nat.testBit_two_pow_mul, Nat.testBit_two_pow_sub_one]
  by_cases h : lo ≤ i
  · have : i - lo < bs.length ↔ i < lo + bs.length := by omega
    simp [h, this]
  · simp [h]

theorem write_empty_byte (bs : List Byte) (tag : Bool) {lo j : Nat} (hj : j < bs.length) (h : lo + j < 128) :
    (Copy.empty.write lo bs tag).byte (lo + j) = bs.getD j 0 := by
  have hd := write_empty_dirty bs tag lo (lo + j)
  have hover := over_byte Copy.empty (x := ⟨BitVec.ofNat 1024 (natOfBytes bs * 2 ^ (8 * lo)), BitVec.ofNat 128 ((2 ^ bs.length - 1) * 2 ^ lo),
    BitVec.ofNat 128 ((2 ^ bs.length - 1) * 2 ^ lo), if tag then 0xFF else 0, []⟩) h
  have hm : (BitVec.ofNat 128 ((2 ^ bs.length - 1) * 2 ^ lo)).getLsbD (lo + j) = true := by
    have e : (Copy.empty.write lo bs tag).dirty = BitVec.ofNat 128 ((2 ^ bs.length - 1) * 2 ^ lo) := BitVec.zero_or
    rw [← e, hd]
    simp
    omega
  rw [if_pos hm] at hover
  refine hover.trans ?_
  rw [Copy.byte, copy_byte_ofNat h, Nat.pow_add, Nat.pow_mul, Nat.mul_comm (natOfBytes bs), show (2 ^ 8 : Nat) = 256 from rfl,
    Nat.mul_div_mul_left _ _ (by positivity), ofNat_natOfBytes_div]

end Sys2Proof.Machine
end

section
/-!
The lines of a transfer (R138, R202): its bytes in order, one line after another.
-/

namespace Sys2Proof.Machine

/-! ## A run of bytes by its lines -/

theorem linePieces_within {key n : Nat} (hn : 0 < n) (h : key % 128 + n ≤ 128) : linePieces key n = [(key, n)] := by
  have hcount : (key + n - 1) / 128 - key / 128 + 1 = 1 := by omega
  have hlo : max key (key / 128 * 128) = key := by omega
  have hlen : min (key + n) ((key / 128 + 1) * 128) - key = n := by omega
  simp [linePieces, linesOf, hcount, hlo, hlen]

theorem linePieces_across {key n : Nat} (h : 128 < key % 128 + n) :
    linePieces key n = (key, 128 - key % 128) :: linePieces (key + (128 - key % 128)) (n - (128 - key % 128)) := by
  obtain ⟨k', hk'⟩ : ∃ k', k' = key + (128 - key % 128) := ⟨_, rfl⟩
  obtain ⟨n', hn'⟩ : ∃ n', n' = n - (128 - key % 128) := ⟨_, rfl⟩
  rw [← hk', ← hn']
  have hcount : (key + n - 1) / 128 - key / 128 + 1 = (k' + n' - 1) / 128 - k' / 128 + 1 + 1 := by omega
  have hlo : max key (key / 128 * 128) = key := by omega
  have hlen : min (key + n) ((key / 128 + 1) * 128) - key = 128 - key % 128 := by omega
  have hrest (i : Nat) : max key ((key / 128 + (i + 1)) * 128) = max k' ((k' / 128 + i) * 128) ∧
      min (key + n) ((key / 128 + (i + 1) + 1) * 128) = min (k' + n') ((k' / 128 + i + 1) * 128) := by omega
  rw [linePieces, linesOf, hcount, List.range_succ_eq_map]
  simp only [List.map_cons, List.map_map, Nat.add_zero, hlo, hlen]
  rw [linePieces, linesOf, List.map_map]
  refine congrArg _ (List.map_congr_left fun i _ => ?_)
  simp only [Function.comp_apply, Nat.succ_eq_add_one, hrest i]

/-- The bytes of one line's share of a transfer. -/
def TLine.run (q : TLine) : List Nat := (List.range q.len).map fun i => q.key + i

/-- The bytes `ks` of a transfer from offset `off` on are those of its lines in order, each within one line of memory. -/
inductive Tiled : Nat → List TLine → List Nat → Prop
  | nil (off : Nat) : Tiled off [] []
  | cons {off : Nat} {q : TLine} {ls : List TLine} {ks : List Nat} (hoff : q.off = off) (hpos : 0 < q.len)
      (hline : q.key % 128 + q.len ≤ 128) (h : Tiled (off + q.len) ls ks) : Tiled off (q :: ls) (q.run ++ ks)

@[simp] theorem TLine.length_run (q : TLine) : q.run.length = q.len := by simp [TLine.run]

theorem Tiled.append {off : Nat} {ls ls' : List TLine} {ks ks' : List Nat} (h : Tiled off ls ks)
    (h' : Tiled (off + ks.length) ls' ks') : Tiled off (ls ++ ls') (ks ++ ks') := by
  induction h with
  | nil off => simpa using h'
  | cons hoff hpos hline _ ih =>
    rw [List.cons_append, List.append_assoc]
    refine .cons hoff hpos hline (ih ?_)
    rwa [Nat.add_assoc, ← TLine.length_run, ← List.length_append]

/-- The lines of one piece of a transfer, which starts at `base`. -/
theorem tiled_linePieces (coh : Bool) {off base key n : Nat} (hb : base ≤ key) (hn : 0 < n) :
    Tiled (off + (key - base)) ((linePieces key n).map fun q => ⟨off + (q.1 - base), q.1, q.2, coh⟩)
      ((List.range n).map fun i => key + i) := by
  induction n using Nat.strong_induction_on generalizing key with
  | h n ih =>
    by_cases h : key % 128 + n ≤ 128
    · rw [linePieces_within hn h, ← List.append_nil (List.map _ (List.range n))]
      exact .cons rfl hn h (.nil _)
    · rw [linePieces_across (by omega), List.map_cons]
      obtain ⟨d, hd⟩ : ∃ d, d = 128 - key % 128 := ⟨_, rfl⟩
      rw [← hd]
      have hrest := ih (n - d) (by omega) (key := key + d) (by omega) (by omega)
      rw [show off + (key + d - base) = off + (key - base) + d by omega] at hrest
      have hsplit : ((List.range n).map fun i => key + i) =
          ((List.range d).map fun i => key + i) ++ (List.range (n - d)).map fun i => key + d + i := by
        conv_lhs => rw [show n = d + (n - d) by omega, List.range_add, List.map_append, List.map_map]
        simp [Function.comp_def, Nat.add_assoc]
      rw [hsplit]
      exact .cons (q := ⟨off + (key - base), key, d, coh⟩) rfl (show 0 < d by omega) (show key % 128 + d ≤ 128 by omega) hrest

/-- Where the bytes of a transfer stand, in order. -/
def pieceKeys (ps : List Piece) : List Nat := ps.flatMap fun p => (List.range p.len).map fun i => p.key + i

/-- The lines of a transfer from offset `off` on. -/
def linesFrom (off : Nat) : List Piece → List TLine
  | [] => []
  | p :: ps => ((linePieces p.key p.len).map fun q => ⟨off + (q.1 - p.key), q.1, q.2, p.coh⟩) ++ linesFrom (off + p.len) ps

theorem transferLines_eq (ps : List Piece) : transferLines ps = linesFrom 0 ps := by
  have h (ps : List Piece) (acc : List TLine) (off : Nat) : (ps.foldl (fun (r : List TLine × Nat) p =>
      (r.1 ++ (linePieces p.key p.len).map fun q => ⟨r.2 + (q.1 - p.key), q.1, q.2, p.coh⟩, r.2 + p.len)) (acc, off)).1 =
        acc ++ linesFrom off ps := by
    induction ps generalizing acc off with
    | nil => simp [linesFrom]
    | cons p ps ih => rw [List.foldl_cons, ih, linesFrom, List.append_assoc]
  exact (h ps [] 0).trans (List.nil_append _)

/-- A transfer's bytes are those of its lines in order. -/
theorem tiled_transferLines {ps : List Piece} (h : ∀ p ∈ ps, 0 < p.len) : Tiled 0 (transferLines ps) (pieceKeys ps) := by
  have from_ (ps : List Piece) (off : Nat) (h : ∀ p ∈ ps, 0 < p.len) : Tiled off (linesFrom off ps) (pieceKeys ps) := by
    induction ps generalizing off with
    | nil => exact .nil off
    | cons p ps ih =>
      obtain ⟨hp, hps⟩ := List.forall_mem_cons.1 h
      have hpiece := tiled_linePieces p.coh (off := off) (base := p.key) le_rfl hp
      rw [Nat.sub_self, Nat.add_zero] at hpiece
      refine hpiece.append ?_
      rw [List.length_map, List.length_range]
      exact ih (off + p.len) hps
  rw [transferLines_eq]
  exact from_ ps 0 h

/-- A line of a transfer is shared-coherent where its piece is (R222). -/
theorem coh_of_mem_transferLines {ps : List Piece} {q : TLine} (h : q ∈ transferLines ps) : ∃ p ∈ ps, q.coh = p.coh := by
  rw [transferLines_eq] at h
  generalize 0 = off at h
  induction ps generalizing off with
  | nil => cases h
  | cons p ps ih =>
    obtain h | h := List.mem_append.1 h
    · obtain ⟨x, -, rfl⟩ := List.mem_map.1 h
      exact ⟨p, List.mem_cons_self, rfl⟩
    · obtain ⟨p', hp', hq⟩ := ih (off + p.len) h
      exact ⟨p', List.mem_cons_of_mem _ hp', hq⟩

end Sys2Proof.Machine
end

section
/-!
Loads of a transfer (R138, R179, R395): reads by a core that leave every copy as its home has it.
-/

namespace Sys2Proof.Machine

/-- A copy that holds nothing but what the home of its line holds. -/
def State.Mirrors (s : State) (line : Nat) (c : Copy) : Prop :=
  c.dirty = 0 ∧ ∀ i, i < 128 → c.valid.getLsbD i = true → c.byte i = s.readByte (line * 128 + i)

/-- `t` is `s` but for copies that hold what the homes hold. -/
def State.Mirrored (s t : State) : Prop :=
  t = { s with copies := t.copies } ∧ ∀ x c, t.copies.find? x = some c → s.Mirrors (copyLine x) c

theorem mirrored_refl {s : State} (h : s.copies = []) : s.Mirrored s :=
  ⟨rfl, fun x c hx => by rw [h] at hx; cases hx⟩

theorem mirrors_empty (s : State) (line : Nat) : s.Mirrors line Copy.empty := ⟨rfl, fun i _ h => by simp [Copy.empty] at h⟩

theorem mirrors_homeCopy (s : State) (line : Nat) : s.Mirrors line (s.homeCopy line) := ⟨rfl, fun _ hi _ => homeCopy_byte s line hi⟩

/-- A copy brought up to another keeps to the home. -/
theorem mirrors_under {s : State} {line : Nat} {c x : Copy} (hc : s.Mirrors line c) (hx : s.Mirrors line x) :
    s.Mirrors line (c.under x) := by
  have hd : (c.under x).dirty = 0 := hx.1
  have hv : (c.under x).valid = c.valid := by simp [Copy.under, hx.1]
  refine ⟨hd, fun i hi h => ?_⟩
  rw [hv] at h
  rw [under_byte c x hi, hx.1, if_neg (by simp)]
  exact hc.2 i hi h

theorem valid_homeCopy (s : State) (line : Nat) {i : Nat} (hi : i < 128) : (s.homeCopy line).valid.getLsbD i = true :=
  BitVec.getLsbD_allOnes.trans (decide_eq_true hi)

theorem valid_under (c x : Copy) {i : Nat} (h : c.valid.getLsbD i = true) : (c.under x).valid.getLsbD i = true := by
  simp only [Copy.under, BitVec.getLsbD_or, h, Bool.true_or]

section
variable {s t : State} (ht : s.Mirrored t)
include ht

theorem State.Mirrored.copy {holder line : Nat} (hl : line < 2 ^ 128) :
    s.Mirrors line ((t.copies.find? (copyKey holder line)).getD Copy.empty) := by
  cases h : t.copies.find? (copyKey holder line) with
  | none => exact mirrors_empty s line
  | some c => exact copyLine_copyKey (cl := holder) hl ▸ ht.2 _ c h

theorem State.Mirrored.insert {holder line : Nat} {c : Copy} (hl : line < 2 ^ 128) (hc : s.Mirrors line c) :
    s.Mirrored { t with copies := t.copies.insert (copyKey holder line) c } := by
  obtain ⟨hts, hcopies⟩ := ht
  refine ⟨by rw [hts], fun x c' hx => ?_⟩
  by_cases h : x = copyKey holder line
  · subst h
    rw [SMap.find_insert_self] at hx
    cases hx
    rwa [copyLine_copyKey hl]
  · rw [SMap.find_insert_of_ne _ _ h] at hx
    exact hcopies x c' hx

theorem State.Mirrored.readByte (k : Nat) : t.readByte k = s.readByte k := by rw [ht.1]; rfl

theorem State.Mirrored.readBytes (k n : Nat) : t.readBytes k n = s.readBytes k n := by rw [ht.1]; rfl

theorem State.Mirrored.homeCopy (line : Nat) : t.homeCopy line = s.homeCopy line := by rw [ht.1]; rfl

theorem State.Mirrored.verify {line : Nat} (hc : s.checkBad line = false) (hp : s.poisoned line = false) : t.verify line = (t, none) := by
  have hc' : t.checkBad line = false := by rw [ht.1]; exact hc
  have hp' : t.poisoned line = false := by rw [ht.1]; exact hp
  rw [State.verify, hc', hp']
  rfl

/-- A fill of a cluster's cache from a sound home. -/
theorem State.Mirrored.fill {line : Nat} (hl : line < 2 ^ 128) (hc : s.checkBad line = false) (hp : s.poisoned line = false) (cl : Nat) :
    ∃ c t', t.fill cl line = (.ok c, t') ∧ s.Mirrored t' ∧ s.Mirrors line c ∧ ∀ i, i < 128 → c.valid.getLsbD i = true := by
  have hm : s.Mirrors line ((t.homeCopy line).under ((t.copy? cl line).getD Copy.empty)) := by
    rw [ht.homeCopy]
    exact mirrors_under (mirrors_homeCopy s line) (ht.copy hl)
  refine ⟨_, _, by rw [State.fill, ht.verify hc hp], ht.insert hl hm, hm, fun i hi => valid_under _ _ (valid_homeCopy t line hi)⟩

/-- What the cluster's level serves of a sound line is the home's. -/
theorem State.Mirrored.clusterLine {line : Nat} (hl : line < 2 ^ 128) (hc : s.checkBad line = false) (hp : s.poisoned line = false)
    (cl lo n : Nat) : ∃ c t', t.clusterLine cl line lo n = (.ok c, t') ∧ s.Mirrored t' ∧ s.Mirrors line c ∧
      ∀ i, i < n → lo + n ≤ 128 → c.valid.getLsbD (lo + i) = true := by
  obtain ⟨c', t', hfill, ht', hc', hv⟩ := ht.fill hl hc hp cl
  have filled : ∃ c t', t.fill cl line = (.ok c, t') ∧ s.Mirrored t' ∧ s.Mirrors line c ∧
      ∀ i, i < n → lo + n ≤ 128 → c.valid.getLsbD (lo + i) = true :=
    ⟨c', t', hfill, ht', hc', fun i hi h => hv _ (by omega)⟩
  unfold State.clusterLine
  cases hcopy : t.copy? cl line with
  | some c =>
    dsimp only
    split
    · rename_i hcov
      refine ⟨c, t, rfl, ht, ?_, fun i hi _ => List.all_eq_true.1 hcov i (List.mem_range.2 hi)⟩
      have := ht.copy (holder := cl) hl
      rwa [show t.copies.find? (copyKey cl line) = some c from hcopy] at this
    · exact filled
  | none =>
    dsimp only
    split
    · exact filled
    · rw [ht.verify hc hp]
      refine ⟨_, t, rfl, ht, ?_, fun i hi h => ?_⟩
      · rw [ht.homeCopy]
        exact mirrors_homeCopy s line
      · exact valid_homeCopy t line (by omega)

omit ht in
/-- What an L1 serves of a copy is of that copy. -/
theorem served_facts (t : State) (key n : Nat) (c : Copy) : (t.served key n c).byte = c.byte ∧
    ∀ i, (t.served key n c).valid.getLsbD i = true → c.valid.getLsbD i = true := by
  unfold State.served
  split
  · exact ⟨rfl, fun _ h => h⟩
  · exact ⟨rfl, fun i h => by simp only [BitVec.getLsbD_and, Bool.and_eq_true] at h; exact h.1⟩

omit ht in
/-- A slice of a copy that keeps to the home, where it holds the bytes. -/
theorem slice_eq_readBytes {c : Copy} {key n : Nat}
    (hc : ∀ i, i < 128 → c.valid.getLsbD i = true → c.byte i = s.readByte (key / 128 * 128 + i))
    (hline : key % 128 + n ≤ 128) (hv : ∀ i, i < n → c.valid.getLsbD (key % 128 + i) = true) :
    c.slice (key % 128) n = s.readBytes key n := by
  refine List.map_congr_left fun i hi => ?_
  have hi := List.mem_range.1 hi
  have h := hc (key % 128 + i) (by omega) (hv i hi)
  rw [show key / 128 * 128 + (key % 128 + i) = key + i by omega] at h
  exact h

/-- A read within one sound line gives what the home holds, and keeps copies so. -/
theorem State.Mirrored.loadLine {key n : Nat} (hc : s.checkBad (key / 128) = false) (hp : s.poisoned (key / 128) = false)
    (hline : key % 128 + n ≤ 128) (core cl : Nat) :
    ∃ tags t', t.loadLine core cl key n = (.ok (s.readBytes key n, tags), t') ∧ s.Mirrored t' := by
  unfold State.loadLine
  dsimp only
  split
  · refine ⟨t.lineTags (key / 128), t, ?_, ht⟩
    rw [State.homeLine, ht.verify hc hp]
    dsimp only
    rw [ht.readBytes]
  · rename_i hdirect
    have hl : key / 128 < 2 ^ 128 := by
      simp only [Bool.or_eq_true, decide_eq_true_eq, not_or, not_le] at hdirect
      have : key / 18446744073709551616 < 10000 + 0 := hdirect.1
      omega
    have hold := ht.copy (holder := 100 + core) hl
    change s.Mirrors (key / 128) ((t.copies.find? (l1Key core (key / 128))).getD Copy.empty) at hold
    generalize (t.copies.find? (l1Key core (key / 128))).getD Copy.empty = old at hold ⊢
    obtain ⟨hbyte, hvalid⟩ := served_facts t key n old
    have hmine (i : Nat) (hi : i < 128) (h : (t.served key n old).valid.getLsbD i = true) :
        (t.served key n old).byte i = s.readByte (key / 128 * 128 + i) := by
      rw [hbyte]
      exact hold.2 i hi (hvalid i h)
    split
    · rename_i hcov
      have hcov := fun i hi => List.all_eq_true.1 hcov i (List.mem_range.2 hi)
      refine ⟨old.tags.toNat, t, ?_, ht⟩
      rw [slice_eq_readBytes hold.2 hline fun i hi => hvalid _ (hcov i hi)]
    · obtain ⟨c, t', hcl, ht', hmc, hvc⟩ := ht.clusterLine hl hc hp cl (key % 128) n
      have hunder := mirrors_under hmc hold
      have hvu (i : Nat) (hi : i < n) : (c.under old).valid.getLsbD (key % 128 + i) = true := valid_under _ _ (hvc i hi hline)
      rw [hcl]
      refine ⟨(c.under old).tags.toNat, _, ?_, ht'.insert (holder := 100 + core) hl hunder⟩
      dsimp only
      congr 3
      split
      · exact slice_eq_readBytes hunder.2 hline hvu
      · refine slice_eq_readBytes (fun i hi h => ?_) hline fun i hi => ?_
        · rw [under_byte _ _ hi]
          split
          · exact hmine i hi ‹_›
          · rename_i hm
            refine hunder.2 i hi ?_
            simpa [Copy.under, hm] using h
        · exact valid_under _ _ (hvu i hi)

/-! ## A transfer's lines -/

/-- A line of a transfer, read by a core that is in no speculation while the injector is off. -/
theorem State.Mirrored.fetchLine (hi : injEn s.injCtl = false) {w : Who} (hw : w.spec = none) (team : TeamId) {q : TLine}
    (hpos : 0 < q.len) (hline : q.key % 128 + q.len ≤ 128) (hr : s.refuses w.ctx false q.key = none) (hpeer : peerOf q.key = none)
    (hc : s.checkBad (q.key / 128) = false) (hp : s.poisoned (q.key / 128) = false) :
    ∃ t', t.fetchLine w team q = (.ok (q.run.map s.readByte), t') ∧ s.Mirrored t' := by
  obtain ⟨tags, t', hload, ht'⟩ := ht.loadLine hc hp hline w.core w.cluster
  refine ⟨t', ?_, ht'⟩
  have hr' : t.refuses w.ctx false q.key = none := by rw [ht.1]; exact hr
  have hi' : injEn t.injCtl = false := by rw [ht.1]; exact hi
  have hinj (home : Bool) : t.injectRead w.ctx (q.key / 128) home = t := by simp [State.injectRead, hi']
  have hrun : t.readRun w q.key q.len = (.ok (s.readBytes q.key q.len, [tags]), t') := by
    simp [State.readRun, linePieces_within hpos hline, hinj, hw, hload]
  rw [State.fetchLine, hr']
  dsimp only
  rw [hpeer, hrun]
  simp [State.readBytes, TLine.run, Function.comp_def]

/-- What a transfer has brought, and its next line. -/
def fetchStep (w : Who) (team : TeamId) (r : Except (Nat × Nat) (List Byte) × State) (q : TLine) :
    Except (Nat × Nat) (List Byte) × State :=
  match r with
  | (.error _, _) => r
  | (.ok bs, s) =>
    match s.fetchLine w team q with
    | (.ok b, s') => (.ok (bs ++ b), s')
    | (.error code, s') => (.error (q.off, code), s')

/-- The lines of a transfer one after another. -/
theorem State.Mirrored.fetchLines (hi : injEn s.injCtl = false) {w : Who} (hw : w.spec = none) (team : TeamId) {off : Nat}
    {ls : List TLine} {ks : List Nat} (htile : Tiled off ls ks)
    (hreach : ∀ q ∈ ls, s.refuses w.ctx false q.key = none ∧ peerOf q.key = none)
    (hsound : ∀ k ∈ ks, s.checkBad (k / 128) = false ∧ s.poisoned (k / 128) = false) (bs : List Byte) :
    ∃ t', ls.foldl (fetchStep w team) (.ok bs, t) = (.ok (bs ++ ks.map s.readByte), t') ∧ s.Mirrored t' := by
  induction htile generalizing t bs with
  | nil off => exact ⟨t, by simp, ht⟩
  | @cons off q ls ks hoff hpos hline _ ih =>
    obtain ⟨⟨hr, hpeer⟩, hreach⟩ := List.forall_mem_cons.1 hreach
    obtain ⟨hc, hp⟩ := hsound q.key (List.mem_append_left _ (List.mem_map.2 ⟨0, List.mem_range.2 hpos, rfl⟩))
    obtain ⟨t', hfetch, ht'⟩ := ht.fetchLine hi hw team hpos hline hr hpeer hc hp
    obtain ⟨t'', hfold, ht''⟩ := ih ht' hreach (fun k hk => hsound k (List.mem_append_right _ hk)) (bs ++ q.run.map s.readByte)
    refine ⟨t'', ?_, ht''⟩
    rw [List.foldl_cons, fetchStep, hfetch]
    dsimp only
    rw [hfold, List.map_append, List.append_assoc]

end

/-- A transfer whose lines this device reaches, sound and of no peer, brings their bytes as the homes hold them. -/
theorem fetchTransfer_reached {s : State} (hcopies : s.copies = []) (hi : injEn s.injCtl = false) (hw : s.who.spec = none) {e : MEntry}
    (hlen : ∀ p ∈ e.pieces, 0 < p.len)
    (hreach : ∀ q ∈ transferLines e.pieces, s.refuses s.who.ctx false q.key = none ∧ peerOf q.key = none)
    (hsound : ∀ k ∈ pieceKeys e.pieces, s.checkBad (k / 128) = false ∧ s.poisoned (k / 128) = false) :
    ∃ t, s.fetchTransfer e = (.ok (some ((pieceKeys e.pieces).map s.readByte)), t) ∧ s.Mirrored t := by
  obtain ⟨t, hfold, ht⟩ := (mirrored_refl hcopies).fetchLines hi hw e.team (tiled_transferLines hlen) hreach hsound []
  have hfar : ((transferLines e.pieces).filter fun q => (peerOf q.key).isSome && (s.refuses s.who.ctx false q.key).isNone) = [] :=
    List.filter_eq_nil_iff.2 fun q hq => by simp [(hreach q hq).2]
  refine ⟨t, ?_, ht⟩
  unfold State.fetchTransfer
  dsimp only
  rw [hfar]
  generalize hr : List.foldl _ (Except.ok [], s) (transferLines e.pieces) = r
  have hrt : r = (.ok ((pieceKeys e.pieces).map s.readByte), t) := hr.symm.trans hfold
  subst hrt
  simp

end Sys2Proof.Machine
end

section
/-!
Stores of a transfer (R138, R25, R179): what the core that makes them then sees, and what the homes keep.
-/

namespace Sys2Proof.Machine

/-! ## A merge at a sound home -/

/-- A line whose check stands is written without an event while the injector is off (R275, R283). -/
theorem admitted_of_sound {s : State} {line : Nat} (hi : injEn s.injCtl = false) (hc : s.checkBad line = false) (c : Copy) (made : Bool) :
    s.admitted line c made = s := by
  simp [State.admitted, State.eventsOf, hi, hc]

/-- `t` is `s` but for memory with its marks, copies, and events that became due. -/
def State.SameButStored (s t : State) : Prop :=
  t = { s with agenda := t.agenda, mem := t.mem, tags := t.tags, poison := t.poison, checkErr := t.checkErr, copies := t.copies }

theorem State.SameButStored.trans {s t u : State} (h : s.SameButStored t) (h' : t.SameButStored u) : s.SameButStored u := by
  unfold State.SameButStored at *
  calc u = _ := h'
    _ = _ := by rw [h]

theorem sameButStored_foldl {α : Type} {f : State → α → State} (hf : ∀ (s : State) a, s.SameButStored (f s a)) (xs : List α)
    (s : State) : s.SameButStored (xs.foldl f s) :=
  foldl_keeps (P := s.SameButStored) (fun t a ht => ht.trans (hf t a)) xs rfl

/-- A merge at a sound home, while nothing runs speculatively and the injector is off. -/
theorem homeMerge_of_sound {s : State} {line : Nat} (hs : s.specs = []) (hi : injEn s.injCtl = false) (hc : s.checkBad line = false)
    (c : Copy) : s.SameButStored (s.homeMerge line c) ∧ ∀ l, s.checkBad l = false → (s.homeMerge line c).checkBad l = false := by
  have hl : s.SameButStored (((s.layBytes line c).layTags line c).unpoisoned line c) := by
    have bytes : s.SameButStored (s.layBytes line c) :=
      sameButStored_foldl (f := fun s i => s.writeByte (line * 128 + i) ((c.data >>> (8 * i)).setWidth 8)) (fun _ _ => rfl) c.offsets s
    have tags : (s.layBytes line c).SameButStored ((s.layBytes line c).layTags line c) :=
      sameButStored_foldl (f := fun s g => s.setTag (line * 128 + 16 * g) (c.tags.getLsbD g)) (fun _ _ => rfl) c.granules _
    refine (bytes.trans tags).trans ?_
    unfold State.unpoisoned
    split <;> rfl
  have hchecks : (((s.layBytes line c).layTags line c).unpoisoned line c).checkErr = s.checkErr := by
    have hb : ((s.layBytes line c).layTags line c).checkErr = s.checkErr :=
      (foldl_keeps (P := fun (t : State) => t.checkErr = (s.layBytes line c).checkErr) (f := fun t _ => t.setTag _ _)
        (fun _ _ h => h) _ rfl).trans
        (foldl_keeps (P := fun (t : State) => t.checkErr = s.checkErr) (f := fun t _ => t.writeByte _ _) (fun _ _ h => h) _ rfl)
    unfold State.unpoisoned
    split <;> exact hb
  rw [homeMerge_eq, admitted_of_sound hi hc]
  generalize ((s.layBytes line c).layTags line c).unpoisoned line c = t at hl hchecks
  have ht : t.specs = [] := by rw [hl]; exact hs
  rw [homeChanged_of_nil (by exact ht)]
  refine ⟨hl.trans rfl, fun l h => ?_⟩
  change ((t.checkErr.put 0 line 0).getD l 0 != 0) = false
  by_cases e : l = line
  · rw [e, SMap.getD_put_self]
    rfl
  · rw [SMap.getD_put_of_ne _ _ _ _ e, hchecks]
    exact h

/-! ## What a core sees -/

/-- The keys whose writes go straight to the home (R26). -/
def direct (core line : Nat) : Prop := winRegion 0 ≤ line * 128 / regionSize ∨ noCore ≤ core

/-- What stores of a core have left since `s`: they wrote no byte outside `W`. -/
structure State.Storing (s : State) (core : Nat) (W : Nat → Prop) (t : State) : Prop where
  frame : s.SameButStored t
  checks : ∀ l, s.checkBad l = false → t.checkBad l = false
  home : ∀ k, ¬ W k → t.readByte k = s.readByte k
  bareL1 : ∀ line, line < 2 ^ 128 → direct core line → t.copies.find? (l1Key core line) = none
  bareCluster : ∀ line, line < 2 ^ 128 → direct core line ∨ s.caches (clusterOf core) = false →
    t.copies.find? (copyKey (clusterOf core) line) = none
  own : ∀ line c, line < 2 ^ 128 → t.copies.find? (l1Key core line) = some c → ∀ i, i < 128 → c.dirty.getLsbD i = true →
    c.valid.getLsbD i = true ∧ W (line * 128 + i)

/-- A byte as a copy holds it, else what the next level has. -/
def Copy.level (c : Option Copy) (i : Nat) (below : Byte) : Byte :=
  match c with
  | some c => if c.valid.getLsbD i then c.byte i else below
  | none => below

theorem seen_eq (s : State) (core k : Nat) : s.seen core k = Copy.level (s.copies.find? (l1Key core (k / 128))) (k % 128)
    (Copy.level (s.copies.find? (copyKey (clusterOf core) (k / 128))) (k % 128) (s.readByte k)) := rfl

theorem storing_refl {s : State} (h : s.copies = []) (core : Nat) (W : Nat → Prop) : s.Storing core W s where
  frame := rfl
  checks _ h := h
  home _ _ := rfl
  bareL1 _ _ _ := by rw [h]; rfl
  bareCluster _ _ _ := by rw [h]; rfl
  own _ _ _ hc := by rw [h] at hc; cases hc

theorem seen_of_nil {s : State} (h : s.copies = []) (core k : Nat) : s.seen core k = s.readByte k := by
  rw [seen_eq, h]; rfl

theorem copyKey_inj {a b l m : Nat} (hl : l < 2 ^ 128) (hm : m < 2 ^ 128) : copyKey a l = copyKey b m ↔ a = b ∧ l = m := by
  unfold copyKey
  omega

theorem l1Key_inj {core l m : Nat} (hl : l < 2 ^ 128) (hm : m < 2 ^ 128) : l1Key core l = l1Key core m ↔ l = m := by
  simp [l1Key, copyKey_inj hl hm]

/-- A core's L1 is not its cluster's cache. -/
theorem l1Key_ne_copyKey {core l m : Nat} (hl : l < 2 ^ 128) (hm : m < 2 ^ 128) : l1Key core l ≠ copyKey (clusterOf core) m := by
  unfold l1Key
  rw [ne_eq, copyKey_inj hl hm]
  unfold clusterOf
  omega

theorem isL1_l1Key {core l : Nat} (hl : l < 2 ^ 128) : isL1 (l1Key core l) = true := by
  simp [isL1, l1Key, copyHolder_copyKey hl]

theorem copyCluster_l1Key {core l : Nat} (hl : l < 2 ^ 128) : copyCluster (l1Key core l) = clusterOf core := by
  rw [copyCluster, isL1_l1Key hl, if_pos rfl, l1Key, copyHolder_copyKey hl, Nat.add_sub_cancel_left]

theorem copyLine_l1Key {core l : Nat} (hl : l < 2 ^ 128) : copyLine (l1Key core l) = l := copyLine_copyKey hl

/-- A copy that does not hear of a write stays as it was (R27). -/
theorem find_heard_of_not (s : State) (cl line writer : Nat) (m : BitVec 128) {x : Nat}
    (h : (isL1 x && x != writer && copyLine x == line && copyCluster x == cl) = false) :
    (s.heard cl line writer m).find? x = s.copies.find? x := by
  unfold State.heard
  generalize s.copies = m'
  induction m' with
  | nil => rfl
  | cons hd tl ih =>
    obtain ⟨j, y⟩ := hd
    rw [List.map_cons]
    by_cases hj : x = j
    · subst hj
      rw [if_neg (by simp [h]), SMap.find_cons, SMap.find_cons, if_pos rfl, if_pos rfl]
    · split <;> rw [SMap.find_cons, SMap.find_cons, if_neg hj, if_neg hj, ih]

theorem level_over {c x : Copy} {i : Nat} (hi : i < 128) (below : Byte) :
    Copy.level (some (c.over x)) i below = if x.dirty.getLsbD i then x.byte i else Copy.level (some c) i below := by
  have hv : (c.over x).valid.getLsbD i = (c.valid.getLsbD i || x.dirty.getLsbD i) := BitVec.getLsbD_or ..
  rw [Copy.level, hv, over_byte _ _ hi, Copy.level]
  cases x.dirty.getLsbD i <;> simp

theorem level_getD (c : Option Copy) (i : Nat) (below : Byte) : Copy.level (some (c.getD Copy.empty)) i below = Copy.level c i below := by
  cases c with
  | some c => rfl
  | none => simp [Copy.level, Copy.empty]

section
variable {s t : State} {core : Nat} {W : Nat → Prop} (ht : s.Storing core W t)
include ht

/-- Bytes that reach a sound home. -/
theorem State.Storing.homeMerge (hs : s.specs = []) (hi : injEn s.injCtl = false) {line : Nat} (hc : s.checkBad line = false) {c : Copy}
    (hW : ∀ i, i < 128 → c.dirty.getLsbD i = true → W (line * 128 + i)) :
    s.Storing core W (t.homeMerge line c) ∧ (t.homeMerge line c).copies = t.copies ∧ ∀ k, (t.homeMerge line c).readByte k =
      if k / 128 = line ∧ c.dirty.getLsbD (k % 128) = true then c.byte (k % 128) else t.readByte k := by
  have hts : t.specs = [] := by rw [ht.frame]; exact hs
  obtain ⟨hframe, hchecks⟩ := homeMerge_of_sound hts (by rw [ht.frame]; exact hi) (ht.checks line hc) c
  have hcopies : (t.homeMerge line c).copies = t.copies := (homeMerge_merged t line c false).copies_eq
  have hbytes := readByte_homeMerge hts line c false
  refine ⟨⟨ht.frame.trans hframe, fun l h => hchecks l (ht.checks l h), fun k hk => ?_, ?_, ?_, ?_⟩, hcopies, hbytes⟩
  · rw [hbytes, if_neg, ht.home k hk]
    rintro ⟨rfl, hd⟩
    have := hW (k % 128) (Nat.mod_lt _ (by decide)) hd
    rw [Nat.div_add_mod' k 128] at this
    exact hk this
  · rw [hcopies]
    exact ht.bareL1
  · rw [hcopies]
    exact ht.bareCluster
  · rw [hcopies]
    exact ht.own

/-- A copy put into the L1 of the core. -/
theorem State.Storing.insertL1 {line : Nat} (hl : line < 2 ^ 128) (hd : ¬ direct core line) {c : Copy}
    (hW : ∀ i, i < 128 → c.dirty.getLsbD i = true → c.valid.getLsbD i = true ∧ W (line * 128 + i)) :
    s.Storing core W { t with copies := t.copies.insert (l1Key core line) c } where
  frame := ht.frame.trans rfl
  checks := ht.checks
  home := ht.home
  bareL1 l h hdir := by
    rw [SMap.find_insert_of_ne _ _ fun e => hd ((l1Key_inj h hl).1 e ▸ hdir)]
    exact ht.bareL1 l h hdir
  bareCluster l h hdir := by
    rw [SMap.find_insert_of_ne _ _ (l1Key_ne_copyKey hl h).symm]
    exact ht.bareCluster l h hdir
  own l x h hx := by
    by_cases e : l = line
    · subst e
      rw [SMap.find_insert_self] at hx
      cases hx
      exact hW
    · rw [SMap.find_insert_of_ne _ _ fun he => e ((l1Key_inj h hl).1 he)] at hx
      exact ht.own l x h hx

omit ht in
/-- What the core sees once its L1 has another copy of a line. -/
theorem seen_insertL1 {line : Nat} (hl : line < 2 ^ 128) (c : Copy) {k : Nat} (hk : k < 2 ^ 128) :
    ({ t with copies := t.copies.insert (l1Key core line) c } : State).seen core k =
      if k / 128 = line then Copy.level (some c) (k % 128) (t.clusterByte (clusterOf core) k) else t.seen core k := by
  have hkl : k / 128 < 2 ^ 128 := by omega
  rw [seen_eq, SMap.find_insert_of_ne _ _ (l1Key_ne_copyKey hl hkl).symm]
  by_cases e : k / 128 = line
  · subst e
    rw [SMap.find_insert_self, if_pos rfl]
    rfl
  · rw [SMap.find_insert_of_ne _ _ fun he => e ((l1Key_inj hkl hl).1 he), if_neg e]
    rfl

omit ht in
theorem caches_lt {cl : Nat} (h : t.caches cl = true) : cl < 80 := by
  simp only [State.caches, Bool.and_eq_true, decide_eq_true_eq] at h
  exact h.1

omit ht in
theorem toCluster_eq (t : State) (cl line writer : Nat) (c : Copy) : t.toCluster cl line writer c =
    if t.caches cl then
      { t with copies := (t.heard cl line writer c.dirty).insert (copyKey cl line)
                (((t.heard cl line writer c.dirty).find? (copyKey cl line)).getD Copy.empty |>.over c) }
    else ({ t with copies := t.heard cl line writer c.dirty } : State).homeMerge line c := rfl

/-- Bytes that reach the cluster's level from the L1 of the core. -/
theorem State.Storing.toCluster (hs : s.specs = []) (hi : injEn s.injCtl = false) {line : Nat} (hl : line < 2 ^ 128)
    (hd : ¬ direct core line) (hc : s.checkBad line = false) {c : Copy}
    (hW : ∀ i, i < 128 → c.dirty.getLsbD i = true → W (line * 128 + i)) :
    s.Storing core W (t.toCluster (clusterOf core) line (l1Key core line) c) ∧
    (∀ l, l < 2 ^ 128 → (t.toCluster (clusterOf core) line (l1Key core line) c).copies.find? (l1Key core l) =
      t.copies.find? (l1Key core l)) ∧
    ∀ k, k < 2 ^ 128 → (t.toCluster (clusterOf core) line (l1Key core line) c).clusterByte (clusterOf core) k =
      if k / 128 = line ∧ c.dirty.getLsbD (k % 128) = true then c.byte (k % 128) else t.clusterByte (clusterOf core) k := by
  have hL1 (l : Nat) (h : l < 2 ^ 128) : (t.heard (clusterOf core) line (l1Key core line) c.dirty).find? (l1Key core l) =
      t.copies.find? (l1Key core l) := by
    refine find_heard_of_not t _ _ _ _ ?_
    rw [copyLine_l1Key h]
    by_cases e : l = line <;> simp [e]
  have hCl (l : Nat) (h : l < 2 ^ 128) : (t.heard (clusterOf core) line (l1Key core line) c.dirty).find? (copyKey (clusterOf core) l) =
      t.copies.find? (copyKey (clusterOf core) l) := by
    cases hcache : s.caches (clusterOf core) with
    | true =>
      refine find_heard_of_not t _ _ _ _ ?_
      rw [isL1_copyKey (caches_lt hcache) h]
      rfl
    | false =>
      rw [ht.bareCluster l h (.inr hcache)]
      cases hx : (t.heard (clusterOf core) line (l1Key core line) c.dirty).find? (copyKey (clusterOf core) l) with
      | none => rfl
      | some x =>
        obtain ⟨y, hy, -⟩ := find_heard t _ _ _ _ hx
        rw [ht.bareCluster l h (.inr hcache)] at hy
        cases hy
  obtain ⟨m, hm⟩ : ∃ m, m = t.heard (clusterOf core) line (l1Key core line) c.dirty := ⟨_, rfl⟩
  rw [← hm] at hL1 hCl
  have hheard : s.Storing core W { t with copies := m } := {
    frame := ht.frame.trans rfl
    checks := ht.checks
    home := ht.home
    bareL1 := fun l h hdir => (hL1 l h).trans (ht.bareL1 l h hdir)
    bareCluster := fun l h hdir => (hCl l h).trans (ht.bareCluster l h hdir)
    own := fun l x h hx => ht.own l x h ((hL1 l h).symm.trans hx) }
  rw [toCluster_eq, ← hm]
  have hlevel (k : Nat) (hk : k < 2 ^ 128) : ({ t with copies := m } : State).clusterByte (clusterOf core) k =
      t.clusterByte (clusterOf core) k := congrArg (Copy.level · (k % 128) (t.readByte k)) (hCl (k / 128) (by omega))
  have hcaches : t.caches (clusterOf core) = s.caches (clusterOf core) := by rw [ht.frame]; rfl
  rw [hcaches]
  cases hcache : s.caches (clusterOf core) with
  | true =>
    rw [if_pos rfl]
    refine ⟨⟨hheard.frame.trans rfl, hheard.checks, hheard.home, fun l h hdir => ?_, fun l h hdir => ?_, fun l x h hx => ?_⟩,
      fun l h => ?_, fun k hk => ?_⟩
    · rw [SMap.find_insert_of_ne _ _ (l1Key_ne_copyKey h hl)]
      exact hheard.bareL1 l h hdir
    · rw [SMap.find_insert_of_ne _ _ fun e => ?_]
      · exact hheard.bareCluster l h hdir
      · obtain ⟨-, rfl⟩ := (copyKey_inj h hl).1 e
        exact hdir.elim hd fun h => by simp [hcache] at h
    · rw [SMap.find_insert_of_ne _ _ (l1Key_ne_copyKey h hl)] at hx
      exact hheard.own l x h hx
    · rw [SMap.find_insert_of_ne _ _ (l1Key_ne_copyKey h hl), hL1 l h]
    · rw [← hlevel k hk]
      change Copy.level ((m.insert _ _).find? (copyKey (clusterOf core) (k / 128))) (k % 128) (t.readByte k) =
        if _ then _ else Copy.level (m.find? (copyKey (clusterOf core) (k / 128))) (k % 128) (t.readByte k)
      have hkl : k / 128 < 2 ^ 128 := by omega
      by_cases e : k / 128 = line
      · rw [e, SMap.find_insert_self, level_over (Nat.mod_lt _ (by decide)), level_getD]
        simp
      · rw [SMap.find_insert_of_ne _ _ fun he => e ((copyKey_inj hkl hl).1 he).2, if_neg fun h => e h.1]
  | false =>
    rw [if_neg (by decide)]
    obtain ⟨hmerged, hcopies, hbytes⟩ := hheard.homeMerge hs hi hc hW
    refine ⟨hmerged, fun l h => by rw [hcopies]; exact hL1 l h, fun k hk => ?_⟩
    rw [← hlevel k hk]
    have hnone : m.find? (copyKey (clusterOf core) (k / 128)) = none := hheard.bareCluster _ (by omega) (.inr hcache)
    change Copy.level ((({ t with copies := m } : State).homeMerge line c).copies.find? _) _ _ = if _ then _ else Copy.level (m.find? _) _ _
    rw [hcopies, hbytes, hnone]
    rfl

/-- A core's L1 passes on what it has written of a sound line; the core sees no other byte than before. -/
theorem State.Storing.writeBack (hs : s.specs = []) (hi : injEn s.injCtl = false) {line : Nat} (hl : line < 2 ^ 128)
    (hd : ¬ direct core line) (hc : s.checkBad line = false) : s.Storing core W (t.writeBack (l1Key core line)) ∧
      ∀ k, k < 2 ^ 128 → (t.writeBack (l1Key core line)).seen core k = t.seen core k := by
  unfold State.writeBack
  cases hx : t.copies.find? (l1Key core line) with
  | none => exact ⟨ht, fun _ _ => rfl⟩
  | some c =>
    dsimp only
    split
    · exact ⟨ht, fun _ _ => rfl⟩
    · rw [isL1_l1Key hl, if_pos rfl, copyCluster_l1Key hl, copyLine_l1Key hl]
      have hown := ht.own line c hl hx
      have hclean := ht.insertL1 hl hd (c := { c with dirty := 0, writers := [] }) fun i _ h => by simp at h
      obtain ⟨hpassed, hL1, hbytes⟩ := hclean.toCluster hs hi hl hd hc fun i hi h => (hown i hi h).2
      refine ⟨hpassed, fun k hk => ?_⟩
      have hkl : k / 128 < 2 ^ 128 := by omega
      have hbelow : ({ t with copies := t.copies.insert (l1Key core line) { c with dirty := 0, writers := [] } } : State).clusterByte
          (clusterOf core) k = t.clusterByte (clusterOf core) k := by
        refine congrArg (Copy.level · (k % 128) (t.readByte k)) (?_ : SMap.find? _ (copyKey (clusterOf core) (k / 128)) = _)
        exact SMap.find_insert_of_ne _ _ (l1Key_ne_copyKey hl hkl).symm
      change Copy.level (State.copies _ |>.find? (l1Key core (k / 128))) (k % 128) (State.clusterByte _ (clusterOf core) k) =
        Copy.level (t.copies.find? (l1Key core (k / 128))) (k % 128) (t.clusterByte (clusterOf core) k)
      rw [hL1 _ hkl, hbytes k hk, hbelow]
      by_cases e : k / 128 = line
      · rw [e, SMap.find_insert_self, hx]
        unfold Copy.level
        dsimp only
        split
        · rfl
        · rename_i hv
          rw [if_neg fun h => hv (hown _ (Nat.mod_lt _ (by decide)) h.2).1]
      · rw [SMap.find_insert_of_ne _ _ fun he => e ((l1Key_inj hkl hl).1 he), if_neg fun h => e h.1]

/-- A store of part of a sound line: the core sees the bytes it wrote, and the others as it saw them. -/
theorem State.Storing.storeLine (hs : s.specs = []) (hi : injEn s.injCtl = false) {line : Nat} (hl : line < 2 ^ 128)
    (hc : s.checkBad line = false) (cl : Nat) {c : Copy} (hW : ∀ i, i < 128 → c.dirty.getLsbD i = true → W (line * 128 + i)) :
    s.Storing core W (t.storeLine core cl line c false) ∧ ∀ k, k < 2 ^ 128 → (t.storeLine core cl line c false).seen core k =
      if k / 128 = line ∧ c.dirty.getLsbD (k % 128) = true then c.byte (k % 128) else t.seen core k := by
  unfold State.storeLine
  by_cases hd : direct core line
  · rw [if_pos (by simpa [direct] using hd)]
    obtain ⟨hmerged, hcopies, hbytes⟩ := ht.homeMerge hs hi hc hW
    refine ⟨hmerged, fun k hk => ?_⟩
    have hkl : k / 128 < 2 ^ 128 := by omega
    rw [seen_eq, seen_eq, hcopies, hbytes]
    by_cases e : k / 128 = line
    · rw [e, ht.bareL1 line hl hd, ht.bareCluster line hl (.inl hd)]
      rfl
    · rw [if_neg fun h => e h.1, if_neg fun h => e h.1]
  · rw [if_neg (by simpa [direct] using hd), if_neg (by decide)]
    dsimp only
    obtain ⟨old, hold⟩ : ∃ old, old = (t.copies.find? (l1Key core line)).getD Copy.empty := ⟨_, rfl⟩
    have hown (i : Nat) (hi : i < 128) (h : old.dirty.getLsbD i = true) : old.valid.getLsbD i = true ∧ W (line * 128 + i) := by
      cases hx : t.copies.find? (l1Key core line) with
      | some x =>
        have e : old = x := by rw [hold, hx]; rfl
        exact ht.own line old hl (e ▸ hx) i hi h
      | none =>
        rw [hx] at hold
        subst hold
        simp [Copy.empty] at h
    rw [← hold]
    have hover (i : Nat) (hi : i < 128) (h : (old.over c).dirty.getLsbD i = true) :
        (old.over c).valid.getLsbD i = true ∧ W (line * 128 + i) := by
      simp only [Copy.over, BitVec.getLsbD_or, Bool.or_eq_true] at h ⊢
      exact h.elim (fun h => ⟨.inl (hown i hi h).1, (hown i hi h).2⟩) fun h => ⟨.inr h, hW i hi h⟩
    have hput := ht.insertL1 hl hd hover
    have hseen (k : Nat) (hk : k < 2 ^ 128) :
        ({ t with copies := t.copies.insert (l1Key core line) (old.over c) } : State).seen core k =
          if k / 128 = line ∧ c.dirty.getLsbD (k % 128) = true then c.byte (k % 128) else t.seen core k := by
      rw [seen_insertL1 hl _ hk]
      by_cases e : k / 128 = line
      · rw [if_pos e, level_over (Nat.mod_lt _ (by decide)), hold, level_getD, ← e]
        simp only [true_and]
        rfl
      · rw [if_neg e, if_neg fun h => e h.1]
    split
    · exact ⟨hput, hseen⟩
    · obtain ⟨hback, hsame⟩ := hput.writeBack hs hi hl hd hc
      exact ⟨hback, fun k hk => (hsame k hk).trans (hseen k hk)⟩

end

end Sys2Proof.Machine
end

section
/-!
A stored transfer (R138, R202): line after line, until the core sees all of its bytes.
-/

namespace Sys2Proof.Machine

section
variable {s t : State} {core : Nat} {W : Nat → Prop} (ht : s.Storing core W t) (hs : s.specs = []) (hi : injEn s.injCtl = false)
include ht hs hi

/-- A run of bytes within one sound line. -/
theorem State.Storing.writeRun {w : Who} (hw : w.spec = none) (hcore : w.core = core) {key : Nat} {bs : List Byte}
    (hpos : 0 < bs.length) (hline : key % 128 + bs.length ≤ 128) (hkey : key < 2 ^ 128) (hc : s.checkBad (key / 128) = false)
    (hW : ∀ i, i < bs.length → W (key + i)) : s.Storing core W (t.writeRun w key bs false false) ∧
      ∀ k, k < 2 ^ 128 → (t.writeRun w key bs false false).seen core k =
        if key ≤ k ∧ k < key + bs.length then bs.getD (k - key) 0 else t.seen core k := by
  obtain ⟨c, hcdef⟩ : ∃ c : Copy, c = Copy.empty.write (key % 128) bs false := ⟨_, rfl⟩
  have hrun : t.writeRun w key bs false false =
      t.storeLine core w.cluster (key / 128) { c with writers := [(w.ctx, c.dirty)] } false := by
    have hlapsed : t.lapsed none = false := rfl
    simp [State.writeRun, State.writeLines, addRun, linePieces_within hpos hline, hw, State.writeLine, hcore, hcdef, hlapsed]
  have hdirty (i : Nat) : c.dirty.getLsbD i = true ↔ i < 128 ∧ key % 128 ≤ i ∧ i < key % 128 + bs.length := by
    rw [hcdef, write_empty_dirty, Bool.and_eq_true, decide_eq_true_eq, decide_eq_true_eq]
  rw [hrun]
  obtain ⟨hstored, hseen⟩ := ht.storeLine hs hi (line := key / 128) (by omega) hc w.cluster
    (c := { c with writers := [(w.ctx, c.dirty)] }) fun i hi hd => by
      replace hd : c.dirty.getLsbD i = true := hd
      obtain ⟨-, hlo, hhi⟩ := (hdirty i).1 hd
      have := hW (i - key % 128) (by omega)
      rwa [show key + (i - key % 128) = key / 128 * 128 + i by omega] at this
  refine ⟨hstored, fun k hk => (hseen k hk).trans ?_⟩
  have hiff : (k / 128 = key / 128 ∧ c.dirty.getLsbD (k % 128) = true) ↔ key ≤ k ∧ k < key + bs.length := by
    rw [hdirty]
    omega
  by_cases h : key ≤ k ∧ k < key + bs.length
  · rw [if_pos h, if_pos (hiff.2 h)]
    have hbyte := write_empty_byte bs false (lo := key % 128) (j := k - key) (by omega) (by omega)
    rw [← hcdef, show key % 128 + (k - key) = k % 128 by omega] at hbyte
    exact hbyte
  · rw [if_neg h, if_neg fun h' => h (hiff.1 h')]

/-- The lines of a transfer stored one after another. -/
theorem State.Storing.storeLines {w : Who} (hw : w.spec = none) (hcore : w.core = core) {bs : List Byte} {f : State → Nat × TLine → State}
    {off : Nat} {ls : List TLine} {ks : List Nat} (htile : Tiled off ls ks)
    (hf : ∀ t i q, s.Storing core W t → q ∈ ls → f t (i, q) = t.writeRun w q.key ((bs.drop q.off).take q.len) false false)
    (hlen : off + ks.length ≤ bs.length) (hnodup : ks.Nodup)
    (hks : ∀ k ∈ ks, k < 2 ^ 128 ∧ s.checkBad (k / 128) = false ∧ W k) {is : List Nat} (his : is.length = ls.length) :
    s.Storing core W ((is.zip ls).foldl f t) ∧ (∀ j k, ks[j]? = some k → ((is.zip ls).foldl f t).seen core k = bs.getD (off + j) 0) ∧
      ∀ k, k ∉ ks → k < 2 ^ 128 → ((is.zip ls).foldl f t).seen core k = t.seen core k := by
  induction htile generalizing t is with
  | nil off =>
    rw [List.length_nil, List.length_eq_zero_iff] at his
    subst his
    exact ⟨ht, fun j k h => by simp at h, fun k _ _ => rfl⟩
  | @cons off q ls ks hoff hpos hline _ ih =>
    obtain ⟨i, is, rfl⟩ := List.exists_cons_of_length_eq_add_one his
    rw [List.length_append, TLine.length_run] at hlen
    obtain ⟨-, hnodup', hdisjoint⟩ := List.nodup_append.1 hnodup
    have hrun (j : Nat) (hj : j < q.len) : q.key + j ∈ q.run := List.mem_map.2 ⟨j, List.mem_range.2 hj, rfl⟩
    obtain ⟨part, hpart⟩ : ∃ part, part = (bs.drop q.off).take q.len := ⟨_, rfl⟩
    have hplen : part.length = q.len := by
      rw [hpart, List.length_take, List.length_drop]
      omega
    have hkey := hks q.key (List.mem_append_left _ (hrun 0 hpos))
    obtain ⟨hstored, hseen⟩ := ht.writeRun hs hi hw hcore (bs := part) (by omega) (by omega) hkey.1 hkey.2.1
      fun j hj => (hks _ (List.mem_append_left _ (hrun j (by omega)))).2.2
    rw [List.zip_cons_cons, List.foldl_cons, hf t i q ht List.mem_cons_self, ← hpart]
    obtain ⟨hall, hlater, hothers⟩ := ih hstored (fun t i q ht hq => hf t i q ht (List.mem_cons_of_mem _ hq)) (by omega) hnodup'
      (fun k hk => hks k (List.mem_append_right _ hk)) (by simpa using his)
    refine ⟨hall, fun j k hjk => ?_, fun k hk hlt => ?_⟩
    · by_cases hj : j < q.len
      · rw [List.getElem?_append_left (by simpa using hj)] at hjk
        obtain rfl : q.key + j = k := by simpa [TLine.run, hj] using hjk
        rw [hothers _ (fun h => hdisjoint _ (hrun j hj) _ h rfl) (hks _ (List.mem_append_left _ (hrun j hj))).1,
          hseen _ (hks _ (List.mem_append_left _ (hrun j hj))).1, if_pos (by omega), Nat.add_sub_cancel_left, hpart, hoff]
        simp [List.getD_eq_getElem?_getD, hj]
      · rw [List.getElem?_append_right (by simpa using hj), TLine.length_run] at hjk
        rw [hlater _ _ hjk, show off + q.len + (j - q.len) = off + j by omega]
    · rw [List.mem_append, not_or] at hk
      rw [hothers k hk.2 hlt, hseen k hlt, if_neg]
      rintro ⟨h1, h2⟩
      have := hrun (k - q.key) (by omega)
      rw [Nat.add_sub_cancel' h1] at this
      exact hk.1 this

end

/-- A transfer whose lines this device reaches, sound and of no peer, is stored whole. -/
theorem storeTransfer_reached {s : State} (hcopies : s.copies = []) (hs : s.specs = []) (hi : injEn s.injCtl = false)
    (hw : s.who.spec = none) {e : MEntry} (hlen : ∀ p ∈ e.pieces, 0 < p.len) (hcoh : ∀ p ∈ e.pieces, p.coh = false)
    (hreach : ∀ q ∈ transferLines e.pieces, s.refuses s.who.ctx true q.key = none ∧ peerOf q.key = none)
    (hsound : ∀ k ∈ pieceKeys e.pieces, s.checkBad (k / 128) = false) (hnodup : (pieceKeys e.pieces).Nodup)
    (hks : ∀ k ∈ pieceKeys e.pieces, k < 2 ^ 128) {bs : List Byte} (hbs : bs.length = (pieceKeys e.pieces).length) :
    s.SameButStored (s.storeTransfer s.who e bs) ∧
      (∀ j k, (pieceKeys e.pieces)[j]? = some k → (s.storeTransfer s.who e bs).seen s.who.core k = bs.getD j 0) ∧
      ∀ k, k ∉ pieceKeys e.pieces → k < 2 ^ 128 → (s.storeTransfer s.who e bs).readByte k = s.readByte k ∧
        (s.storeTransfer s.who e bs).seen s.who.core k = s.readByte k := by
  have hnone : (transferLines e.pieces).any (fun q => (s.refuses s.who.ctx true q.key).isSome) = false :=
    List.any_eq_false.2 fun q hq => by simp [(hreach q hq).1]
  unfold State.storeTransfer
  dsimp only
  rw [hnone]
  generalize hfdef : (fun (t : State) (x : Nat × TLine) => _) = f
  have hf (t : State) (i : Nat) (q : TLine) (ht : s.Storing s.who.core (· ∈ pieceKeys e.pieces) t) (hq : q ∈ transferLines e.pieces) :
      f t (i, q) = t.writeRun s.who q.key ((bs.drop q.off).take q.len) false false := by
    obtain ⟨p, hp, hq'⟩ := coh_of_mem_transferLines hq
    have hr : t.refuses s.who.ctx true q.key = none := by rw [ht.frame]; exact (hreach q hq).1
    subst hfdef
    simp [hw, State.lapsed, hr, (hreach q hq).2, hq', hcoh p hp]
  obtain ⟨hstored, hseen, hothers⟩ := (storing_refl hcopies s.who.core (· ∈ pieceKeys e.pieces)).storeLines hs hi hw rfl
    (tiled_transferLines hlen) hf (by omega) hnodup (fun k hk => ⟨hks k hk, hsound k hk, hk⟩)
    (is := List.range (transferLines e.pieces).length) List.length_range
  refine ⟨hstored.frame, fun j k h => ?_, fun k hk hlt => ⟨hstored.home k hk, ?_⟩⟩
  · rw [hseen j k h, Nat.zero_add]
  · rw [hothers k hk hlt, seen_of_nil hcopies]

end Sys2Proof.Machine
end

section
/-!
Elements of tiles and accumulators (R137), and what stands once the engine has executed the head of a queue (R133).
-/

namespace Sys2Proof.Machine

/-! ## Arrays of elements -/

theorem length_flatMap_range {α : Type} {f : Nat → List α} {c n : Nat} (hf : ∀ i, i < n → (f i).length = c) :
    ((List.range n).flatMap f).length = c * n := by
  induction n with
  | zero => simp
  | succ n ih =>
    rw [List.range_succ, List.flatMap_append, List.length_append, ih fun i h => hf i (by omega)]
    simp [hf n (by omega), Nat.mul_succ]

/-- An item of lists of one length laid end to end. -/
theorem getD_flatMap_range {α : Type} {f : Nat → List α} {c n : Nat} (hf : ∀ i, i < n → (f i).length = c) {i b : Nat} (hi : i < n)
    (hb : b < c) (d : α) : ((List.range n).flatMap f).getD (c * i + b) d = (f i).getD b d := by
  induction n with
  | zero => omega
  | succ n ih =>
    have hfn (i : Nat) (h : i < n) := hf i (Nat.lt_succ_of_lt h)
    have hlen := length_flatMap_range hfn
    rw [List.range_succ, List.flatMap_append, List.getD_eq_getElem?_getD, List.getD_eq_getElem?_getD]
    by_cases h : i < n
    · have := Nat.mul_le_mul_left c (show i + 1 ≤ n by omega)
      rw [Nat.mul_succ] at this
      rw [List.getElem?_append_left (by omega), ← List.getD_eq_getElem?_getD, ih hfn h, List.getD_eq_getElem?_getD]
    · obtain rfl : i = n := by omega
      rw [List.getElem?_append_right (by omega), hlen, Nat.add_sub_cancel_left]
      simp

/-- An element of `x` bytes at row `i` and column `n` lies within its array. -/
theorem place_within (x : Nat) {N M i n : Nat} (hi : i < M) (hn : n < N) : x * (N * i + n) + x ≤ x * (N * M) := by
  have hrow : N * i + n + 1 ≤ N * M :=
    calc N * i + n + 1 ≤ N * (i + 1) := by rw [Nat.mul_succ]; omega
      _ ≤ N * M := Nat.mul_le_mul_left N hi
  exact Nat.mul_le_mul_left x hrow

/-- An element of stored bytes. -/
theorem elemAt_mapBytes (m : SMap Byte) (o : Nat) {N n k : Nat} (h : n * k + n ≤ N) :
    elemAt (mapBytes m o N) n k = natOfBytes ((List.range n).map fun b => m.getD (o + n * k + b) 0) := by
  refine congrArg natOfBytes (List.ext_getElem (by simp; omega) fun b hb _ => ?_)
  simp [mapBytes, Nat.add_assoc]

/-- The bytes of elements laid end to end. -/
theorem getD_flatMap_bytesOfNat {n sz : Nat} (r : Nat → Nat) {i b : Nat} (hi : i < n) (hb : b < sz) :
    ((List.range n).flatMap fun i => bytesOfNat sz (r i)).getD (sz * i + b) 0 = BitVec.ofNat 8 (r i / 256 ^ b) := by
  rw [getD_flatMap_range (c := sz) (fun i _ => length_bytesOfNat sz (r i)) hi hb, getD_bytesOfNat hb]

/-! ## What stands once an entry has executed -/

theorem wg_modWg_popQueue {s : State} {g : WgId} {w : Workgroup} (h : s.wg? g = some w) {f : Workgroup → Workgroup}
    (hf : ∀ w, (f w).id = w.id) : ((s.modWg g f).popQueue g).wg? g = some { f w with queue := (f w).queue.drop 1 } := by
  rw [State.popQueue, wg_modWg _ g g (by intro; rfl), wg_modWg _ g g hf, h]
  simp

section
variable {s : State} {g : WgId} {w : Workgroup} {e : MEntry} {q : List MEntry} {u : Team} (hw : s.wg? g = some w)
  (hq : w.queue = e :: q) (hu : s.team? e.team = some u)
include hw hq hu

omit hu in
theorem exec_matrixQueueExecute (hr : s.engineRuns w = true) :
    exec (.matrixQueueExecute g) s = .next (s.asTeam e.team fun s => s.runEntry w e) := by
  change execMatrixQueueExecute g s = _
  rw [execMatrixQueueExecute, hw]
  dsimp only
  rw [hr, hq]
  rfl

omit hw hq in
/-- What an entry leaves of workgroups and memory stands once its step is over. -/
theorem asTeam_leaves {P : State → Prop} (hP : ∀ os, P (State.runEntry { s with team := u, others := os } w e))
    (hteams : ∀ t tm os, P t → P { t with team := tm, others := os }) : P (s.asTeam e.team fun s => s.runEntry w e) := by
  obtain ⟨os, tm, os', h⟩ := asTeam_fields hu fun s => s.runEntry w e
  rw [h]
  exact hteams _ _ _ (hP os)

theorem mza_executes {acc : Nat} (hop : e.op = .mza acc) : ∃ w', (s.asTeam e.team fun s => s.runEntry w e).wg? g = some w' ∧
    w'.queue = q ∧ (∀ k, (s.asTeam e.team fun s => s.runEntry w e).readByte k = s.readByte k) ∧
    ∀ o, w'.accs.getD o 0 = if o / 4096 = acc then 0 else w.accs.getD o 0 := by
  refine asTeam_leaves hu (P := fun t => ∃ w', t.wg? g = some w' ∧ w'.queue = q ∧ (∀ k, t.readByte k = s.readByte k) ∧
    ∀ o, w'.accs.getD o 0 = if o / 4096 = acc then 0 else w.accs.getD o 0) (fun os => ?_) fun _ _ _ h => h
  rw [State.runEntry, hop]
  dsimp only
  rw [wg_id hw]
  refine ⟨_, wg_modWg_popQueue (by exact hw) fun _ => by rfl, by simp [hq], fun _ => rfl, fun o => ?_⟩
  change (SMap.find? (w.accs.filter fun x => x.1 / accBytes != acc) o).getD 0 = _
  rw [SMap.find_filter_key w.accs fun n => n / accBytes != acc]
  by_cases h : o / 4096 = acc <;> simp [accBytes, h, SMap.getD]

theorem mmap_executes {m : Nat} {d : BitVec 128} (hop : e.op = .mmap m d) : ∃ w',
    (s.asTeam e.team fun s => s.runEntry w e).wg? g = some w' ∧ w'.queue = q ∧
    (∀ k, (s.asTeam e.team fun s => s.runEntry w e).readByte k = s.readByte k) ∧
    ∀ n, w'.maps.getD n 0 = if n = m then d else w.maps.getD n 0 := by
  refine asTeam_leaves hu (P := fun t => ∃ w', t.wg? g = some w' ∧ w'.queue = q ∧ (∀ k, t.readByte k = s.readByte k) ∧
    ∀ n, w'.maps.getD n 0 = if n = m then d else w.maps.getD n 0) (fun os => ?_) fun _ _ _ h => h
  rw [State.runEntry, hop]
  dsimp only
  rw [wg_id hw]
  exact ⟨_, wg_modWg_popQueue (by exact hw) fun _ => by rfl, by simp [hq], fun _ => rfl, fun n => SMap.getD_put _ _ _ _ _⟩

omit hw hq hu in
/-- A filled destination of one scalar (R73). -/
theorem fill_scalar {p : Pending} {r : Nat} {x : Option Dword} (h : p.dests = [.s r x]) (v : Dword) :
    p.fill 0 v.toNat false = { p with dests := [.s r (some v)] } := by
  simp [Pending.fill, h]

omit hw hq hu in
/-- What MCHK does in its team (R151). -/
theorem runEntry_mchk {k : Nat} (hop : e.op = .mchk k) (hu : u.id = e.team) {os : List Team} (hos : ∀ v ∈ os, v.id ≠ e.team) :
    ∃ a, State.runEntry { s with team := u, others := os } w e =
      { (({ s with team := u, others := os } : State).modWg w.id fun w => { w with mchk := w.mchk &&& 0x0000FFFFFFFFFFFF }).popQueue
        w.id with
        team := { u.answered k mchkReq (fun p => p.fill 0 w.mchk.toNat false) with stalled := false }, agenda := a } := by
  rw [State.runEntry, hop]
  exact settle_issuing (s := (({ s with team := u, others := os } : State).modWg w.id fun w =>
    { w with mchk := w.mchk &&& 0x0000FFFFFFFFFFFF }).popQueue w.id) hu hos k mchkReq fun p => p.fill 0 w.mchk.toNat false

theorem mchk_executes {k : Nat} (hop : e.op = .mchk k) (hn : (s.teams.map Team.id).Nodup) : ∃ w',
    (s.asTeam e.team fun s => s.runEntry w e).wg? g = some w' ∧ w'.queue = q ∧ w'.mchk = w.mchk &&& 0x0000FFFFFFFFFFFF ∧
    ∃ u', (s.asTeam e.team fun s => s.runEntry w e).team? e.team = some u' ∧
      ∀ p ∈ u.pending, p.id = k → ∀ r x, p.dests = [.s r x] → ∃ p' ∈ u'.pending, p'.id = k ∧
        p'.dests = [.s r (some w.mchk)] ∧ p'.waits = p.waits.filter fun n => n != mchkReq := by
  have huid : u.id = e.team := team_id hu
  obtain ⟨os, hos, ⟨tm, os', ht⟩, hteam⟩ := asTeam_team hu hn (f := fun s => s.runEntry w e) fun os hos => by
    obtain ⟨a, h⟩ := runEntry_mchk (s := s) (w := w) hop huid hos
    rw [h]
    exact ⟨huid, rfl⟩
  obtain ⟨a, h⟩ := runEntry_mchk (s := s) (w := w) hop huid hos
  rw [h, wg_id hw] at ht
  rw [h] at hteam
  refine ⟨{ w with mchk := w.mchk &&& 0x0000FFFFFFFFFFFF, queue := w.queue.drop 1 }, ?_, by simp [hq], rfl, _, hteam, ?_⟩
  · rw [ht]
    exact wg_modWg_popQueue (s := { s with team := u, others := os }) hw
      (f := fun w => { w with mchk := w.mchk &&& 0x0000FFFFFFFFFFFF }) fun _ => rfl
  · intro p hp hpk r x hd
    refine ⟨_, List.mem_map.2 ⟨p, hp, if_pos hpk⟩, ?_⟩
    dsimp only
    rw [fill_scalar (p := { p with waits := p.waits.filter fun n => n != mchkReq }) hd]
    exact ⟨hpk, rfl, rfl⟩

/-! ## Loads -/

section
variable (hi : injEn s.injCtl = false) (hcopies : s.copies = []) (hspec : s.specOf u = none) (hlen : ∀ p ∈ e.pieces, 0 < p.len)
  (hsound : ∀ k ∈ pieceKeys e.pieces, s.checkBad (k / 128) = false ∧ s.poisoned (k / 128) = false)
include hi hcopies hspec hlen hsound

omit hw hq hu in
/-- The bytes of a transfer that brings memory in. -/
theorem fetchTransfer_brings (hreach : ∀ l ∈ transferLines e.pieces, s.refuses u.ctx false l.key = none ∧ peerOf l.key = none)
    (os : List Team) : ∃ t, State.fetchTransfer { s with team := u, others := os } e =
      (.ok (some ((pieceKeys e.pieces).map s.readByte)), t) ∧ t.wgs = s.wgs ∧ ∀ k, t.readByte k = s.readByte k := by
  obtain ⟨t, hfetch, ht⟩ := fetchTransfer_reached (s := { s with team := u, others := os }) hcopies hi hspec hlen hreach hsound
  exact ⟨t, hfetch, by rw [ht.1], fun k => ht.readByte k⟩

theorem mldt_executes {tile : Nat} {colMajor : Bool} (hop : e.op = .mldt tile colMajor)
    (hreach : ∀ l ∈ transferLines e.pieces, s.refuses u.ctx false l.key = none ∧ peerOf l.key = none) :
    (s.asTeam e.team fun s => s.runEntry w e).wg? g = some { w with
      tiles := putBytes w.tiles (2048 * tile) (tileImage e.fmt colMajor ((pieceKeys e.pieces).map s.readByte)),
      reuse := if w.reuse = some tile then none else w.reuse, queue := q } ∧
    ∀ k, (s.asTeam e.team fun s => s.runEntry w e).readByte k = s.readByte k := by
  refine asTeam_leaves hu (P := fun t => t.wg? g = some _ ∧ ∀ k, t.readByte k = s.readByte k) (fun os => ?_) fun _ _ _ h => h
  obtain ⟨t, hfetch, hwgs, hbytes⟩ := fetchTransfer_brings hi hcopies hspec hlen hsound hreach os
  rw [State.runEntry, hop]
  dsimp only
  rw [hfetch, wg_id hw]
  have hwt : t.wg? g = some w := by rw [State.wg?, hwgs]; exact hw
  refine ⟨(wg_modWg_popQueue hwt (f := fun w => { w with
    tiles := putBytes w.tiles (tileBytes * tile) (tileImage e.fmt colMajor ((pieceKeys e.pieces).map s.readByte)),
    reuse := if w.reuse = some tile then none else w.reuse }) fun _ => rfl).trans ?_, hbytes⟩
  simp [hq, tileBytes, wg_id hw]

theorem mlda_executes {acc : Nat} (hop : e.op = .mlda acc)
    (hreach : ∀ l ∈ transferLines e.pieces, s.refuses u.ctx false l.key = none ∧ peerOf l.key = none) :
    (s.asTeam e.team fun s => s.runEntry w e).wg? g = some { w with
      accs := putBytes w.accs (4096 * acc) ((pieceKeys e.pieces).map s.readByte), queue := q } ∧
    ∀ k, (s.asTeam e.team fun s => s.runEntry w e).readByte k = s.readByte k := by
  refine asTeam_leaves hu (P := fun t => t.wg? g = some _ ∧ ∀ k, t.readByte k = s.readByte k) (fun os => ?_) fun _ _ _ h => h
  obtain ⟨t, hfetch, hwgs, hbytes⟩ := fetchTransfer_brings hi hcopies hspec hlen hsound hreach os
  rw [State.runEntry, hop]
  dsimp only
  rw [hfetch, wg_id hw]
  have hwt : t.wg? g = some w := by rw [State.wg?, hwgs]; exact hw
  refine ⟨(wg_modWg_popQueue hwt (f := fun w => { w with
    accs := putBytes w.accs (accBytes * acc) ((pieceKeys e.pieces).map s.readByte) }) fun _ => rfl).trans ?_, hbytes⟩
  simp [hq, accBytes, wg_id hw]

end

end

/-- Bytes put in order, and what they leave. -/
theorem getD_putBytes_map (m : SMap Byte) (o : Nat) (f : Nat → Byte) (ks : List Nat) :
    (∀ j k, ks[j]? = some k → (putBytes m o (ks.map f)).getD (o + j) 0 = f k) ∧
      ∀ a, (a < o ∨ o + ks.length ≤ a) → (putBytes m o (ks.map f)).getD a 0 = m.getD a 0 := by
  refine ⟨fun j k h => ?_, fun a h => getD_putBytes_outside m o (by simpa using h)⟩
  obtain ⟨hj, rfl⟩ := List.getElem?_eq_some_iff.1 h
  rw [getD_putBytes_at (by simpa using hj)]
  simp [List.getD_eq_getElem?_getD, hj]

/-- The shapes' tiles fill 2,048 bytes (R137). -/
theorem mshape_tile {ty : Nat} (h : ty ≤ 5) : (mshape ty).size * (mshape ty).k * (mshape ty).m = 2048 := by
  interval_cases ty <;> rfl

/-- A tile brought in transposed (R138). -/
theorem getD_tileImage_transposed {fmt : Word} (h : fmtAtype fmt ≤ 5) {bs : List Byte} (hbs : bs.length = 2048) :
    (tileImage fmt true bs).length = 2048 ∧ ∀ i j b, i < (mshape (fmtAtype fmt)).m → j < (mshape (fmtAtype fmt)).k →
      b < (mshape (fmtAtype fmt)).size →
      (tileImage fmt true bs).getD ((i * (mshape (fmtAtype fmt)).k + j) * (mshape (fmtAtype fmt)).size + b) 0 =
        bs.getD ((j * (mshape (fmtAtype fmt)).m + i) * (mshape (fmtAtype fmt)).size + b) 0 := by
  have hfull := mshape_tile h
  unfold tileImage
  rw [if_pos rfl]
  dsimp only
  generalize mshape (fmtAtype fmt) = sh at hfull ⊢
  have hplace {i j : Nat} (hi : i < sh.m) (hj : j < sh.k) : (j * sh.m + i) * sh.size + sh.size ≤ 2048 := by
    have := place_within sh.size hj hi
    rwa [Nat.mul_comm sh.m j, Nat.mul_comm sh.size, Nat.mul_comm sh.m, ← Nat.mul_assoc sh.size, hfull] at this
  have hitem (i : Nat) (hi : i < sh.m) (j : Nat) (hj : j < sh.k) : ((bs.drop ((j * sh.m + i) * sh.size)).take sh.size).length = sh.size := by
    have := hplace hi hj
    rw [List.length_take, List.length_drop]
    omega
  have hrow (i : Nat) (hi : i < sh.m) : ((List.range sh.k).flatMap fun j => (bs.drop ((j * sh.m + i) * sh.size)).take sh.size).length =
      sh.size * sh.k := length_flatMap_range (hitem i hi)
  refine ⟨(length_flatMap_range hrow).trans hfull, fun i j b hi hj hb => ?_⟩
  have hwithin : sh.size * j + b < sh.size * sh.k := by
    have := Nat.mul_le_mul_left sh.size (show j + 1 ≤ sh.k from hj)
    rw [Nat.mul_succ] at this
    omega
  have hsplit : (i * sh.k + j) * sh.size + b = sh.size * sh.k * i + (sh.size * j + b) := by ring
  rw [hsplit, getD_flatMap_range hrow hi hwithin, getD_flatMap_range (hitem i hi) hj hb]
  simp [List.getD_eq_getElem?_getD, hb]

/-- The bytes of a transfer put into a tile transposed, and what they leave. -/
theorem getD_putBytes_transposed {fmt : Word} (h : fmtAtype fmt ≤ 5) {ks : List Nat} (hks : ks.length = 2048) (m : SMap Byte) (o : Nat)
    (f : Nat → Byte) :
    (∀ i j b k, i < (mshape (fmtAtype fmt)).m → j < (mshape (fmtAtype fmt)).k → b < (mshape (fmtAtype fmt)).size →
      ks[(j * (mshape (fmtAtype fmt)).m + i) * (mshape (fmtAtype fmt)).size + b]? = some k →
      (putBytes m o (tileImage fmt true (ks.map f))).getD
        (o + (i * (mshape (fmtAtype fmt)).k + j) * (mshape (fmtAtype fmt)).size + b) 0 = f k) ∧
      ∀ a, (a < o ∨ o + 2048 ≤ a) → (putBytes m o (tileImage fmt true (ks.map f))).getD a 0 = m.getD a 0 := by
  obtain ⟨hlength, hitem⟩ := getD_tileImage_transposed h (bs := ks.map f) (by simpa using hks)
  refine ⟨fun i j b k hi hj hb hk => ?_, fun a ha => getD_putBytes_outside m o (by rwa [hlength])⟩
  have hplace : (i * (mshape (fmtAtype fmt)).k + j) * (mshape (fmtAtype fmt)).size + b < 2048 := by
    have := place_within (mshape (fmtAtype fmt)).size hi hj
    rw [← Nat.mul_assoc _ _ (mshape (fmtAtype fmt)).m, mshape_tile h, Nat.mul_comm, Nat.mul_comm _ i] at this
    omega
  rw [Nat.add_assoc, getD_putBytes_at (by rwa [hlength]), hitem i j b hi hj hb, List.getD_eq_getElem?_getD, List.getElem?_map, hk]
  rfl

end Sys2Proof.Machine
end

section
/-!
What MSTA stores (R127, R138, R139).
-/

namespace Sys2Proof.Machine

/-! ## Integers of a width -/

/-- The integer a field holds in two's complement. -/
theorem signOf_eq_toInt {n x : Nat} (hn : 0 < n) (hx : x < 2 ^ n) : signOf n x = (BitVec.ofNat n x).toInt := by
  have hpow : 2 ^ n = 2 * 2 ^ (n - 1) := by rw [← Nat.pow_succ', Nat.succ_eq_add_one, Nat.sub_add_cancel hn]
  rw [signOf, BitVec.toInt_eq_toNat_cond, BitVec.toNat_ofNat, Nat.mod_eq_of_lt hx]
  by_cases h : x < 2 ^ (n - 1)
  · rw [if_pos h, if_pos (by omega)]
  · rw [if_neg h, if_neg (by omega)]
    push_cast
    rfl

theorem fieldOf_eq_ofInt (n : Nat) (x : Int) : fieldOf n x = (BitVec.ofInt n x).toNat := by
  rw [fieldOf, BitVec.toNat_ofInt]
  push_cast
  rfl

/-- A quotient by a power of two, up where the rest is more than half, or half and the quotient odd (R116). -/
theorem shiftRound_ties (neg : Bool) (m j : Nat) (sh : Int) (hsh : sh.toNat = j + 1) : (shiftRound 0 neg m sh).1 =
    if 2 ^ j < m % 2 ^ (j + 1) ∨ m % 2 ^ (j + 1) = 2 ^ j ∧ m / 2 ^ (j + 1) % 2 = 1 then m / 2 ^ (j + 1) + 1 else m / 2 ^ (j + 1) := by
  rw [shiftRound, if_neg (by omega), hsh, Nat.add_sub_cancel]
  simp

/-- Division by a power of two, rounded to the nearest, ties to even (R116, R127). -/
theorem shiftRound_nearest (neg : Bool) (m : Nat) {sh : Int} (h : 0 ≤ sh) :
    2 * |((shiftRound 0 neg m sh).1 : Int) * 2 ^ sh.toNat - m| ≤ 2 ^ sh.toNat ∧
      (2 * |((shiftRound 0 neg m sh).1 : Int) * 2 ^ sh.toNat - m| = 2 ^ sh.toNat → (shiftRound 0 neg m sh).1 % 2 = 0) := by
  cases hj : sh.toNat with
  | zero =>
    obtain rfl : sh = 0 := by omega
    simp [shiftRound]
  | succ j =>
    rw [shiftRound_ties neg m j sh hj]
    have hu : (2 : Nat) ^ (j + 1) = 2 * 2 ^ j := Nat.pow_succ'
    have hcast : (2 : Int) ^ (j + 1) = ((2 ^ (j + 1) : Nat) : Int) := by push_cast; rfl
    have hmod : m % 2 ^ (j + 1) < 2 ^ (j + 1) := Nat.mod_lt _ (by positivity)
    have hdiv := Nat.div_add_mod' m (2 ^ (j + 1))
    rw [hcast]
    generalize m / 2 ^ (j + 1) = n at hdiv ⊢
    generalize m % 2 ^ (j + 1) = r at hdiv hmod ⊢
    rw [hu] at hdiv hmod ⊢
    generalize 2 ^ j = half at hdiv hmod ⊢
    subst hdiv
    split
    next hup =>
      have hdiff : ((n + 1 : Nat) : Int) * (2 * half : Nat) - (n * (2 * half) + r : Nat) = 2 * half - r := by push_cast; ring
      rw [hdiff, abs_of_nonneg (by omega)]
      omega
    next hup =>
      have hdiff : (n : Int) * (2 * half : Nat) - (n * (2 * half) + r : Nat) = -r := by push_cast; ring
      rw [hdiff, abs_neg, abs_of_nonneg (by omega)]
      omega

/-! ## Converted elements -/

/-- A converted integer (R127): rounded to the nearest and clamped. -/
theorem mstaElem_int {mode fmt : Word} (hacc : fmtAcct fmt = 2) (hrnd : modeRnd mode = 0) (hos : 0 ≤ fmtOscale fmt) {x : Nat}
    (hx : x < 2 ^ 32) : ∃ n : Int, 2 * |n * 2 ^ (fmtOscale fmt).toNat - (BitVec.ofNat 32 x).toInt| ≤ 2 ^ (fmtOscale fmt).toNat ∧
      (2 * |n * 2 ^ (fmtOscale fmt).toNat - (BitVec.ofNat 32 x).toInt| = 2 ^ (fmtOscale fmt).toNat → n % 2 = 0) ∧
      (mstaElem mode fmt x).1 = (BitVec.ofInt 8 (max (-128) (min 127 n))).toNat := by
  rw [← signOf_eq_toInt (by decide) hx]
  obtain ⟨y, hy⟩ : ∃ y, y = signOf 32 x := ⟨_, rfl⟩
  obtain ⟨hnear, heven⟩ := shiftRound_nearest (decide (y < 0)) y.natAbs hos
  obtain ⟨k, hk⟩ : ∃ k, k = (shiftRound 0 (decide (y < 0)) y.natAbs (fmtOscale fmt)).1 := ⟨_, rfl⟩
  obtain ⟨n, hn⟩ : ∃ n : Int, n = if y < 0 then -(k : Int) else k := ⟨_, rfl⟩
  have habs : |n * 2 ^ (fmtOscale fmt).toNat - y| = |(k : Int) * 2 ^ (fmtOscale fmt).toNat - y.natAbs| := by
    by_cases h : y < 0
    · rw [hn, if_pos h, Int.ofNat_natAbs_of_nonpos (by omega), ← abs_neg]
      congr 1
      ring
    · rw [hn, if_neg h, Int.natAbs_of_nonneg (by omega)]
  rw [← hy]
  rw [← hk] at hnear heven
  refine ⟨n, by rw [habs]; exact hnear, fun h => ?_, ?_⟩
  · have := heven (habs ▸ h)
    split at hn <;> omega
  · simp only [mstaElem, hacc, ctlOf, hrnd, ← hy, ← hk, ← hn, if_true, fieldOf_eq_ofInt]

theorem mstaElem_float {mode fmt : Word} (hacc : fmtAcct fmt ≠ 2) (hty : fmtAtype fmt ≠ 0) (x : Nat) : (mstaElem mode fmt x).1 =
    ((elemFmt (fmtAtype fmt)).encode (ctlOf mode) (((acctFmt (fmtAcct fmt)).unpack (ctlOf mode).ftz x).scale (-(fmtOscale fmt)))).1 := by
  simp [mstaElem, hacc, hty]

theorem mstaElem_dm8 {mode fmt : Word} (hacc : fmtAcct fmt ≠ 2) (hty : fmtAtype fmt = 0) (x : Nat) : (mstaElem mode fmt x).1 =
    (encodeDm8 (ctlOf mode) ((acctFmt (fmtAcct fmt)).unpack (ctlOf mode).ftz x) (fmtOscale fmt)).1 := by
  simp [mstaElem, hacc, hty]

/-! ## The bytes stored -/

theorem mstaImage_plain (mode fmt : Word) (m : SMap Byte) (o : Nat) : (mstaImage mode fmt false (mapBytes m o accBytes)).1.length =
    acctSize (fmtAcct fmt) ∧ ∀ j, j < acctSize (fmtAcct fmt) →
      (mstaImage mode fmt false (mapBytes m o accBytes)).1.getD j 0 = m.getD (o + j) 0 := by
  have hsize : acctSize (fmtAcct fmt) ≤ accBytes := by
    unfold acctSize accBytes
    split <;> omega
  refine ⟨by simp [mstaImage, hsize], fun j hj => ?_⟩
  rw [← getD_mapBytes m o (Nat.lt_of_lt_of_le hj hsize)]
  simp [mstaImage, List.getD_eq_getElem?_getD, hj]

theorem acctSide_fits (acct : Nat) : acctBytes acct * (acctSide acct * acctSide acct) ≤ accBytes := by
  unfold acctBytes acctSide accBytes
  split <;> omega

theorem mstaImage_converted (mode fmt : Word) (m : SMap Byte) (o : Nat) : (mstaImage mode fmt true (mapBytes m o accBytes)).1.length =
      acctSide (fmtAcct fmt) * acctSide (fmtAcct fmt) * (mshape (fmtAtype fmt)).size ∧
    ∀ i b, i < acctSide (fmtAcct fmt) * acctSide (fmtAcct fmt) → b < (mshape (fmtAtype fmt)).size →
      (mstaImage mode fmt true (mapBytes m o accBytes)).1.getD ((mshape (fmtAtype fmt)).size * i + b) 0 =
        BitVec.ofNat 8 ((mstaElem mode fmt (natOfBytes ((List.range (acctBytes (fmtAcct fmt))).map fun b =>
          m.getD (o + acctBytes (fmtAcct fmt) * i + b) 0))).1 / 256 ^ b) := by
  have himage : (mstaImage mode fmt true (mapBytes m o accBytes)).1 =
      (List.range (acctSide (fmtAcct fmt) * acctSide (fmtAcct fmt))).flatMap fun i => bytesOfNat (mshape (fmtAtype fmt)).size
        (mstaElem mode fmt (elemAt (mapBytes m o accBytes) (acctBytes (fmtAcct fmt)) i)).1 := by
    simp [mstaImage, List.flatMap_map]
  rw [himage]
  refine ⟨(length_flatMap_range fun _ _ => length_bytesOfNat _ _).trans (Nat.mul_comm _ _), fun i b hi hb => ?_⟩
  rw [getD_flatMap_bytesOfNat (fun i => (mstaElem mode fmt (elemAt (mapBytes m o accBytes) (acctBytes (fmtAcct fmt)) i)).1) hi hb,
    elemAt_mapBytes]
  have hfits := acctSide_fits (fmtAcct fmt)
  have := Nat.mul_le_mul_left (acctBytes (fmtAcct fmt)) (show i + 1 ≤ _ from hi)
  rw [Nat.mul_succ] at this
  omega

/-! ## The store -/

/-- A transfer that asked no peer is done as soon as its lines are written (R138). -/
theorem transferDone_of_unsent {s : State} {e : MEntry} (h : s.transferSent e = false) : s.transferDone e = some none := by
  have hnone : s.transferRemotes e = [] := by simpa [State.transferSent] using h
  simp [State.transferDone, hnone]

section
variable {s : State} {g : WgId} {w : Workgroup} {e : MEntry} {q : List MEntry} {u : Team} (hw : s.wg? g = some w)
  (hq : w.queue = e :: q) (hu : s.team? e.team = some u) (hi : injEn s.injCtl = false) (hspecs : s.specs = []) (hcopies : s.copies = [])
  (hspec : s.specOf u = none) (hlen : ∀ p ∈ e.pieces, 0 < p.len)
  (hsound : ∀ k ∈ pieceKeys e.pieces, s.checkBad (k / 128) = false ∧ s.poisoned (k / 128) = false)
  (hreach : ∀ l ∈ transferLines e.pieces, s.refuses u.ctx true l.key = none ∧ peerOf l.key = none)
  (hnodup : (pieceKeys e.pieces).Nodup) (hcoh : ∀ p ∈ e.pieces, p.coh = false) (hks : ∀ k ∈ pieceKeys e.pieces, k < 2 ^ 128)
  (hsent : s.transferSent e = false)
include hw hq hu hi hspecs hcopies hspec hlen hsound hreach hnodup hcoh hks hsent

theorem msta_executes {acc : Nat} {toAtype : Bool} (hop : e.op = .msta acc toAtype) {bs : List Byte}
    (himage : (mstaImage e.mode e.fmt toAtype (mapBytes w.accs (4096 * acc) 4096)).1 = bs)
    (hbs : bs.length = (pieceKeys e.pieces).length) :
    (s.asTeam e.team fun s => s.runEntry w e).wg? g = some { w with queue := q } ∧
    (∀ j k, (pieceKeys e.pieces)[j]? = some k →
      (s.asTeam e.team fun s => s.runEntry w e).seen (State.who { s with team := u }).core k = bs.getD j 0) ∧
    ∀ k, k ∉ pieceKeys e.pieces → k < 2 ^ 128 → (s.asTeam e.team fun s => s.runEntry w e).readByte k = s.readByte k ∧
      (s.asTeam e.team fun s => s.runEntry w e).seen (State.who { s with team := u }).core k = s.readByte k := by
  refine asTeam_leaves hu (P := fun t => t.wg? g = some { w with queue := q } ∧
    (∀ j k, (pieceKeys e.pieces)[j]? = some k → t.seen (State.who { s with team := u }).core k = bs.getD j 0) ∧
    ∀ k, k ∉ pieceKeys e.pieces → k < 2 ^ 128 → t.readByte k = s.readByte k ∧
      t.seen (State.who { s with team := u }).core k = s.readByte k) (fun os => ?_) fun _ _ _ h => h
  obtain ⟨r, hr⟩ : ∃ r : State, r = { s with team := u, others := os } := ⟨_, rfl⟩
  rw [← hr]
  obtain ⟨hframe, hseen, hothers⟩ := storeTransfer_reached (s := r) (e := e) (bs := bs) (by subst hr; exact hcopies)
    (by subst hr; exact hspecs) (by subst hr; exact hi) (by subst hr; exact hspec) hlen hcoh (by subst hr; exact hreach)
    (by subst hr; exact fun k hk => (hsound k hk).1) hnodup hks hbs
  have hcore : r.who.core = (State.who { s with team := u }).core := by subst hr; rfl
  rw [hcore] at hseen hothers
  have hunsent : r.transferSent e = false := by subst hr; exact hsent
  have hspecr : r.who.spec = none := by subst hr; exact hspec
  have hread (k : Nat) : r.readByte k = s.readByte k := by subst hr; rfl
  have hwr : r.wg? g = some w := by subst hr; exact hw
  generalize (State.who { s with team := u }).core = core at hseen hothers ⊢
  rw [State.runEntry, hop]
  dsimp only
  rw [show mapBytes w.accs (accBytes * acc) accBytes = mapBytes w.accs (4096 * acc) 4096 from rfl, himage, hunsent, hspecr]
  generalize (mstaImage e.mode e.fmt toAtype (mapBytes w.accs (4096 * acc) 4096)).2 = fl
  clear himage
  generalize r.storeTransfer r.who e bs = t at hframe hseen hothers ⊢
  have hdone : t.tick.transferDone e = some none := transferDone_of_unsent (by rw [hframe]; exact hunsent)
  have hwt : t.wg? g = some w := by rw [hframe]; exact hwr
  have hlapsed : t.tick.lapsed none = false := rfl
  simp only [Bool.false_eq_true, if_false, hlapsed, hdone]
  refine ⟨?_, hseen, fun k hk hlt => ?_⟩
  · have hpop := wg_modWg (t.tick.dropTransfer e) g g (f := fun w => { w with queue := w.queue.drop 1 }) fun _ => rfl
    rw [show (t.tick.dropTransfer e).wg? g = some w from hwt, Option.map_some, if_pos rfl, hq] at hpop
    obtain rfl := wg_id hw
    exact hpop
  · rw [← hread k]
    exact hothers k hk hlt

end

end Sys2Proof.Machine
end

section
/-!
The sums of an MMA (R126, R128): block by block of a balanced tree, and modulo 2^32 for integers.
-/

namespace Sys2Proof.Machine

/-! ## Sums of present terms -/

/-- The sum of the terms that are present, rounded once; none where all are absent (R128). -/
def sumOf (F : FFmt) (c : FCtl) (xs : List (Option FVal)) : Option Nat :=
  match xs.filterMap id with
  | [] => none
  | xs => some (F.sum c xs).1

/-- The value at a node, its flags left out. -/
def nodeValue (x : MNode) : Option FVal := x.map Prod.fst

section
variable (F : FFmt) (c : FCtl)

theorem blockRoot_eq (p : Nat → Option FVal) (n b : Nat) :
    blockRoot F c p n b = sumOf F c [treeNode F c p n (2 * b), treeNode F c p n (2 * b + 1)] := rfl

theorem treeNode_succ (p : Nat → Option FVal) (n i : Nat) : treeNode F c p (n + 1) i =
    (sumOf F c [treeNode F c p n (2 * i), treeNode F c p n (2 * i + 1)]).map (F.unpack c.ftz) := by
  rw [treeNode, sumOf]
  generalize [treeNode F c p n (2 * i), treeNode F c p n (2 * i + 1)].filterMap id = xs
  cases xs <;> rfl

theorem sumPresent_fst (xs : List MNode) : (sumPresent F c xs).map Prod.fst = sumOf F c (xs.map nodeValue) := by
  have hvalues : (xs.map nodeValue).filterMap id = (xs.filterMap id).map Prod.fst := by
    rw [List.filterMap_map, List.map_filterMap]
    rfl
  rw [sumPresent, sumOf, hvalues]
  cases xs.filterMap id <;> rfl

theorem nodeValue_matNode (x y : MNode) :
    nodeValue (matNode F c x y) = (sumOf F c [nodeValue x, nodeValue y]).map (F.unpack c.ftz) := by
  have h := sumPresent_fst F c [x, y]
  simp only [List.map_cons, List.map_nil] at h
  rw [← h, nodeValue, matNode, Option.map_map, Option.map_map]
  rfl

/-! ## The balanced tree -/

/-- Node `i` of level `n` with its flags. -/
def matTree (f : Nat → MNode) : Nat → Nat → MNode
  | 0, i => f i
  | n + 1, i => matNode F c (matTree f n (2 * i)) (matTree f n (2 * i + 1))

theorem nodeValue_matTree (f : Nat → MNode) (n i : Nat) :
    nodeValue (matTree F c f n i) = treeNode F c (fun j => nodeValue (f j)) n i := by
  induction n generalizing i with
  | zero => rfl
  | succ n ih => rw [matTree, nodeValue_matNode, ih, ih, treeNode_succ]

/-- The tree of a later block is a part of the whole one. -/
theorem treeNode_shift (p : Nat → Option FVal) (n m i : Nat) :
    treeNode F c (fun j => p (2 ^ n * m + j)) n i = treeNode F c p n (m + i) := by
  induction n generalizing m i with
  | zero => simp [treeNode]
  | succ n ih =>
    have hshift : (fun j => p (2 ^ (n + 1) * m + j)) = fun j => p (2 ^ n * (2 * m) + j) := by
      funext j
      rw [Nat.pow_succ, Nat.mul_assoc]
    rw [treeNode_succ, treeNode_succ, hshift, ih, ih, show 2 * (m + i) = 2 * m + 2 * i by ring, Nat.add_assoc (2 * m)]

theorem matPairs_range (f : Nat → MNode) (m : Nat) : matPairs F c ((List.range (2 * m)).map f) =
    (List.range m).map fun i => matNode F c (f (2 * i)) (f (2 * i + 1)) := by
  induction m generalizing f with
  | zero => rfl
  | succ m ih =>
    rw [show 2 * (m + 1) = 2 * m + 1 + 1 by ring, List.range_succ_eq_map, List.range_succ_eq_map]
    simp only [List.map_cons, List.map_map, matPairs]
    rw [show (f ∘ Nat.succ ∘ Nat.succ) = fun i => f (i + 2) from rfl, ih, List.range_succ_eq_map, List.map_cons, List.map_map]
    rfl

/-- The two nodes below a block's root. -/
theorem matLevels_range (f : Nat → MNode) {l fuel : Nat} (h : l ≤ fuel) (n : Nat) :
    matLevels F c fuel ((List.range (2 ^ (l + 1))).map (matTree F c f n)) = [matTree F c f (n + l) 0, matTree F c f (n + l) 1] := by
  induction l generalizing fuel n with
  | zero => cases fuel <;> rfl
  | succ l ih =>
    obtain ⟨fuel, rfl⟩ : ∃ k, fuel = k + 1 := ⟨fuel - 1, by omega⟩
    have hpos : 0 < 2 ^ l := by positivity
    rw [matLevels, List.length_map, List.length_range, if_neg (by rw [Nat.pow_succ, Nat.pow_succ]; omega), Nat.pow_succ, Nat.mul_comm,
      matPairs_range]
    exact (ih (by omega) (n + 1)).trans (by rw [Nat.add_right_comm, Nat.add_assoc])

/-! ## Blocks -/

theorem chunks_nil {α : Type} (n fuel : Nat) : chunks n fuel ([] : List α) = [] := by
  cases fuel <;> rfl

theorem chunks_append {α : Type} {n : Nat} {xs : List α} (hn : xs.length = n) (hpos : 0 < n) (fuel : Nat) (ys : List α) :
    chunks n (fuel + 1) (xs ++ ys) = xs :: chunks n fuel ys := by
  have hne : (xs ++ ys).isEmpty = false := by
    cases xs with
    | nil => simp at hn; omega
    | cons x xs => rfl
  rw [chunks, hne, if_neg (by decide), ← hn, List.take_left, List.drop_left]

/-- What a block makes of the accumulation so far (R128). -/
def dotStep (acc0 : Option Nat) (st : Option (Nat × Word)) (b : Nat) (block : List MNode) : Option (Nat × Word) :=
  let level := matLevels F c 8 block
  let x := level.getD 0 none
  let y := level.getD 1 none
  let old : Option Nat := if b = 0 then acc0 else st.map Prod.fst
  let fl := (st.map Prod.snd).getD 0
  if b = 0 then
    match x, y, old with
    | none, none, some cb => some (cb, 0)
    | _, _, some cb => sumPresent F c [x, y, some (F.unpack c.ftz cb, 0)]
    | _, _, none => sumPresent F c [x, y]
  else
    match sumPresent F c [x, y] with
    | none => st
    | some (r, f) =>
      match old with
      | none => some (r, f ||| fl)
      | some ab => (sumPresent F c [some (F.unpack c.ftz ab, 0), some (F.unpack c.ftz r, 0)]).map fun z =>
          (z.1, z.2 ||| f ||| fl)

theorem dotAccumulate_eq (blk : Nat) (acc0 : Option Nat) (ps : List MNode) : dotAccumulate F c blk acc0 ps =
    (((List.range (chunks blk ps.length ps).length).zip (chunks blk ps.length ps)).foldl
      (fun st x => dotStep F c acc0 st x.1 x.2) none).getD (0, 0) := rfl

/-- The first block's root, C being its third term where it is read (R128). -/
def firstOf (acc0 : Option Nat) (p : Nat → Option FVal) (n : Nat) : Option Nat :=
  match acc0 with
  | none => blockRoot F c p n 0
  | some C => some (firstRoot F c p n C)

theorem dotStep_first {acc0 : Option Nat} {block : List MNode} {x y : MNode} (h : matLevels F c 8 block = [x, y]) {p : Nat → Option FVal}
    {n : Nat} (hx : nodeValue x = treeNode F c p n 0) (hy : nodeValue y = treeNode F c p n 1) :
    (dotStep F c acc0 none 0 block).map Prod.fst = firstOf F c acc0 p n := by
  unfold dotStep firstOf
  rw [h]
  simp only [List.getD_cons_zero, List.getD_cons_succ, if_true]
  cases acc0 with
  | none =>
    dsimp only
    rw [blockRoot_eq, ← hx, ← hy]
    cases x <;> cases y <;> exact sumPresent_fst F c _
  | some C =>
    dsimp only
    rw [firstRoot, ← hx, ← hy]
    cases x <;> cases y <;> rfl

theorem dotStep_later {acc0 : Option Nat} {st : Option (Nat × Word)} {b : Nat} {block : List MNode} {x y : MNode}
    (h : matLevels F c 8 block = [x, y]) : (dotStep F c acc0 st (b + 1) block).map Prod.fst =
      addRoot F c (st.map Prod.fst) (sumOf F c [nodeValue x, nodeValue y]) := by
  have hsum := sumPresent_fst F c [x, y]
  simp only [List.map_cons, List.map_nil] at hsum
  unfold dotStep
  rw [h, ← hsum]
  simp only [List.getD_cons_zero, List.getD_cons_succ, Nat.succ_ne_zero, if_false]
  cases sumPresent F c [x, y] with
  | none => cases st <;> rfl
  | some r => cases st <;> rfl

theorem fst_getD (o : Option (Nat × Word)) : (o.getD (0, 0)).1 = (o.map Prod.fst).getD 0 := by cases o <;> rfl

/-- The two nodes below the root of a first block. -/
theorem matLevels_first (f : Nat → MNode) {l : Nat} (hl : l ≤ 8) : matLevels F c 8 ((List.range (2 ^ (l + 1))).map f) =
    [matTree F c f l 0, matTree F c f l 1] := by
  have h := matLevels_range F c f hl 0
  rwa [Nat.zero_add] at h

/-- An accumulation over one block. -/
theorem dotAccumulate_one (acc0 : Option Nat) (f : Nat → MNode) {l : Nat} (hl : l ≤ 8) :
    (dotAccumulate F c (2 ^ (l + 1)) acc0 ((List.range (2 ^ (l + 1))).map f)).1 =
      (firstOf F c acc0 (fun j => nodeValue (f j)) l).getD 0 := by
  have hpos : 0 < 2 ^ (l + 1) := by positivity
  have hchunks : chunks (2 ^ (l + 1)) (2 ^ (l + 1)) ((List.range (2 ^ (l + 1))).map f) = [(List.range (2 ^ (l + 1))).map f] := by
    have h := chunks_append (xs := (List.range (2 ^ (l + 1))).map f) (by simp) hpos (2 ^ (l + 1) - 1) []
    rwa [List.append_nil, Nat.sub_add_cancel hpos, chunks_nil] at h
  rw [dotAccumulate_eq, List.length_map, List.length_range, hchunks, fst_getD,
    ← dotStep_first F c (matLevels_first F c f hl) (nodeValue_matTree F c f l 0) (nodeValue_matTree F c f l 1)]
  rfl

/-- An accumulation over two blocks. -/
theorem dotAccumulate_two (acc0 : Option Nat) (f : Nat → MNode) {l : Nat} (hl : l ≤ 8) :
    (dotAccumulate F c (2 ^ (l + 1)) acc0 ((List.range (2 ^ (l + 1) + 2 ^ (l + 1))).map f)).1 =
      (addRoot F c (firstOf F c acc0 (fun j => nodeValue (f j)) l) (blockRoot F c (fun j => nodeValue (f j)) l 1)).getD 0 := by
  have hpos : 0 < 2 ^ (l + 1) := by positivity
  have hchunks : chunks (2 ^ (l + 1)) (2 ^ (l + 1) + 2 ^ (l + 1)) ((List.range (2 ^ (l + 1) + 2 ^ (l + 1))).map f) =
      [(List.range (2 ^ (l + 1))).map f, (List.range (2 ^ (l + 1))).map fun j => f (2 ^ (l + 1) + j)] := by
    rw [List.range_add, List.map_append, List.map_map]
    generalize hn : 2 ^ (l + 1) = n at hpos
    obtain ⟨n, rfl⟩ : ∃ k, n = k + 1 := ⟨n - 1, by omega⟩
    have hlast := chunks_append (xs := (List.range (n + 1)).map fun j => f (n + 1 + j)) (by simp) hpos (n + n) []
    rw [List.append_nil, chunks_nil] at hlast
    rw [← Nat.add_assoc, chunks_append (by simp) hpos, Nat.add_right_comm]
    exact congrArg (_ :: ·) hlast
  have hlater := dotStep_later F c (acc0 := acc0) (st := dotStep F c acc0 none 0 ((List.range (2 ^ (l + 1))).map f)) (b := 0)
    (matLevels_first F c (fun j => f (2 ^ (l + 1) + j)) hl)
  have hsecond (i : Nat) : nodeValue (matTree F c (fun j => f (2 ^ (l + 1) + j)) l i) =
      treeNode F c (fun j => nodeValue (f j)) l (2 * 1 + i) := by
    rw [nodeValue_matTree, ← treeNode_shift F c (fun j => nodeValue (f j)), Nat.pow_succ]
  rw [hsecond, hsecond, dotStep_first F c (matLevels_first F c f hl) (nodeValue_matTree F c f l 0) (nodeValue_matTree F c f l 1)] at hlater
  rw [dotAccumulate_eq, List.length_map, List.length_range, hchunks, fst_getD, blockRoot_eq]
  exact congrArg (Option.getD · 0) hlater

end

/-! ## Integers -/

/-- A field of the integer it holds. -/
theorem ofInt_signOf {n : Nat} (hn : 0 < n) {x : Nat} (hx : x < 2 ^ n) : BitVec.ofInt n (signOf n x) = BitVec.ofNat n x := by
  rw [signOf_eq_toInt hn hx, BitVec.ofInt_toInt]

theorem sum_present (K : Nat) (f : Nat → Option Int) : (((List.range K).map f).filterMap id).foldl (· + ·) 0 =
    ((List.range K).map fun j => (f j).getD 0).sum := by
  rw [← List.sum_eq_foldl]
  induction K with
  | zero => rfl
  | succ K ih =>
    rw [List.range_succ]
    simp only [List.map_append, List.filterMap_append, List.sum_append, ih]
    cases h : f K <;> simp [h]

/-- An integer MMA adds the products modulo 2^32 (R126). -/
theorem dotInt_eq {x : Nat} (hx : x < 2 ^ 32) (K : Nat) (f : Nat → Option Int) :
    BitVec.ofNat 32 (dotInt x ((List.range K).map f)) =
      BitVec.ofNat 32 x + BitVec.ofInt 32 ((List.range K).map fun j => (f j).getD 0).sum := by
  rw [dotInt, sum_present, fieldOf_eq_ofInt, BitVec.ofNat_toNat, BitVec.setWidth_eq, BitVec.ofInt_add, ofInt_signOf (by decide) hx]

end Sys2Proof.Machine
end

section
/-!
MMA (R126, R128, R144): what the engine does with the head of a queue, and the elements of the accumulator it leaves.
-/

namespace Sys2Proof.Machine

/-! ## The entry -/

section
variable {s : State} {g : WgId} {w : Workgroup} {e : MEntry} {q : List MEntry} {u : Team} (hw : s.wg? g = some w)
  (hq : w.queue = e :: q) (hu : s.team? e.team = some u) (hi : injEn s.injCtl = false)
include hw hq hu hi

omit hw hq hu in
/-- With the injector off no check of a product fails (R149). -/
theorem checksum_of_off (g : WgId) (ctx acc tile map : Nat) (sh : MShape) : s.checksum g ctx acc tile map sh = (none, s) := by
  simp [State.checksum, State.checkHalf, State.injected, hi]

theorem mma_executes {acc tile map : Nat} {reuse overwrite : Bool} (hop : e.op = .mma acc tile map reuse false overwrite)
    (hB : s.badB g.ticket (w.maps.getD map 0) (mshape (fmtAtype e.fmt)) = none) :
    (s.asTeam e.team fun s => s.runEntry w e).wg? g = some { w with
      reuse := latchAfter tile reuse, queue := q,
      accs := putBytes w.accs (4096 * acc) ((s.mmaCompute w e (mapBytes w.tiles (2048 * tile) 2048) acc map (!overwrite)).flatMap
        fun r => bytesOfNat (acctBytes (fmtAcct e.fmt)) r.1) } ∧
    ∀ k, (s.asTeam e.team fun s => s.runEntry w e).readByte k = s.readByte k := by
  obtain rfl := wg_id hw
  refine asTeam_leaves hu (P := fun t => t.wg? w.id = some _ ∧ ∀ k, t.readByte k = s.readByte k) (fun os => ?_) fun _ _ _ h => h
  obtain ⟨r, hr⟩ : ∃ r : State, r = (({ s with team := u, others := os } : State).modWg w.id fun w =>
    { w with reuse := latchAfter tile reuse }).popQueue w.id := ⟨_, rfl⟩
  have hri : injEn r.injCtl = false := by rw [hr]; exact hi
  have hinject : r.injectB w.ctx w.id.ticket (w.maps.getD map 0) (mshape (fmtAtype e.fmt)) = r := by simp [State.injectB, hri]
  have hrB : r.badB w.id.ticket (w.maps.getD map 0) (mshape (fmtAtype e.fmt)) = none := by rw [hr]; exact hB
  have hcompute : r.mmaCompute w e (mapBytes w.tiles (tileBytes * tile) tileBytes) acc map (!overwrite) =
      s.mmaCompute w e (mapBytes w.tiles (2048 * tile) 2048) acc map (!overwrite) := by rw [hr]; rfl
  have hwr : r.wg? w.id = some { w with reuse := latchAfter tile reuse, queue := w.queue.drop 1 } := by
    rw [hr]
    exact wg_modWg_popQueue (s := { s with team := u, others := os }) hw (f := fun w => { w with reuse := latchAfter tile reuse })
      fun _ => rfl
  have hbytes (k : Nat) : r.readByte k = s.readByte k := by rw [hr]; rfl
  have hrun : State.runEntry { s with team := u, others := os } w e = r.mmaWrite w.id e acc
      (s.mmaCompute w e (mapBytes w.tiles (2048 * tile) 2048) acc map (!overwrite)) := by
    rw [State.runEntry, hop]
    dsimp only
    rw [if_neg (by decide), State.mmaAlone, ← hr]
    dsimp only
    rw [hinject, hrB]
    dsimp only
    rw [checksum_of_off hri]
    dsimp only
    rw [hcompute]
  rw [hrun]
  have hput := wg_modWg r w.id w.id (f := fun x => { x with
    accs := putBytes x.accs (accBytes * acc) ((s.mmaCompute w e (mapBytes w.tiles (2048 * tile) 2048) acc map (!overwrite)).flatMap
      fun r => bytesOfNat (acctBytes (fmtAcct e.fmt)) r.1) }) fun _ => rfl
  rw [hwr, Option.map_some, if_pos rfl, hq] at hput
  exact ⟨hput, hbytes⟩

end

/-! ## Its elements -/

/-- The element at row `i` and column `n` of an MMA's results. -/
def mmaElem (mode fmt : Word) (withC : Bool) (a acc : List Byte) (b : Nat → Nat → Option Nat) (i n : Nat) : Nat × Word :=
  let c := ctlOf mode
  let ty := fmtAtype fmt
  let sh := mshape ty
  let eb := acctBytes (fmtAcct fmt)
  let old := elemAt acc eb (i * sh.n + n)
  if ty = 5 then
    (dotInt (if withC then old else 0) ((List.range sh.k).map fun j =>
      (b j n).map fun y => signOf 8 (elemAt a 1 (i * sh.k + j)) * signOf 8 y), 0)
  else
    let ps : List MNode := (List.range sh.k).map fun j => (b j n).map fun y =>
      (matOperand c ty (fmtAscale fmt) (elemAt a sh.size (i * sh.k + j))).mul
        (matOperand c (fmtBtype fmt) (fmtBscale fmt) y)
    dotAccumulate (acctFmt (fmtAcct fmt)) c sh.blk (if withC then some old else none) ps

theorem mmaResult_eq (mode fmt : Word) (withC : Bool) (a acc : List Byte) (b : Nat → Nat → Option Nat) :
    mmaResult mode fmt withC a acc b = (List.range (mshape (fmtAtype fmt)).m).flatMap fun i =>
      (List.range (mshape (fmtAtype fmt)).n).map (mmaElem mode fmt withC a acc b i) := rfl

/-- A row's elements, laid end to end. -/
theorem length_row (r : Nat → Nat × Word) (N eb : Nat) : ((List.range N).flatMap fun n => bytesOfNat eb (r n).1).length = eb * N :=
  length_flatMap_range fun _ _ => length_bytesOfNat _ _

/-- The bytes of an array of elements in row order (R137). -/
theorem getD_rows (E : Nat → Nat → Nat × Word) {M N eb i n b : Nat} (hi : i < M) (hn : n < N) (hb : b < eb) :
    (((List.range M).flatMap fun i => (List.range N).map (E i)).flatMap fun r => bytesOfNat eb r.1).getD (eb * (N * i + n) + b) 0 =
      BitVec.ofNat 8 ((E i n).1 / 256 ^ b) := by
  have hrows : ((List.range M).flatMap fun i => (List.range N).map (E i)).flatMap (fun r => bytesOfNat eb r.1) =
      (List.range M).flatMap fun i => (List.range N).flatMap fun n => bytesOfNat eb (E i n).1 := by
    rw [List.flatMap_assoc]
    refine congrArg (List.flatMap · _) (funext fun i => ?_)
    rw [List.flatMap_map]
  have hwithin : eb * n + b < eb * N := by
    have := Nat.mul_le_mul_left eb (show n + 1 ≤ N from hn)
    rw [Nat.mul_succ] at this
    omega
  rw [hrows, show eb * (N * i + n) + b = eb * N * i + (eb * n + b) by ring,
    getD_flatMap_range (fun i _ => length_row (E i) N eb) hi hwithin,
    getD_flatMap_range (fun n _ => length_bytesOfNat eb (E i n).1) hn hb, getD_bytesOfNat hb]

theorem length_rows (E : Nat → Nat → Nat × Word) (M N eb : Nat) :
    (((List.range M).flatMap fun i => (List.range N).map (E i)).flatMap fun r => bytesOfNat eb r.1).length = eb * N * M := by
  rw [List.flatMap_assoc]
  exact length_flatMap_range fun i _ => by rw [List.flatMap_map]; exact length_row (E i) N eb

/-- A number from its bytes. -/
theorem natOfBytes_range (n x : Nat) : natOfBytes ((List.range n).map fun b => BitVec.ofNat 8 (x / 256 ^ b)) = x % 256 ^ n := by
  rw [← natOfBytes_bytesOfNat]
  refine congrArg natOfBytes (List.ext_getElem (by simp [length_bytesOfNat]) fun b hb hb' => ?_)
  have hbn : b < n := by simpa using hb
  have h := getD_bytesOfNat hbn x
  rw [List.getD_eq_getElem?_getD, List.getElem?_eq_getElem hb', Option.getD_some] at h
  rw [h]
  simp

/-- An element of stored results. -/
theorem natOfBytes_putBytes_rows (m : SMap Byte) (o : Nat) (E : Nat → Nat → Nat × Word) {M N i n : Nat} (eb : Nat) (hi : i < M)
    (hn : n < N) : natOfBytes ((List.range eb).map fun b => (putBytes m o
      (((List.range M).flatMap fun i => (List.range N).map (E i)).flatMap fun r => bytesOfNat eb r.1)).getD (o + eb * (N * i + n) + b) 0) =
      (E i n).1 % 256 ^ eb := by
  rw [← natOfBytes_range]
  refine congrArg natOfBytes (List.map_congr_left fun b hb => ?_)
  have hb := List.mem_range.1 hb
  have hplace : eb * (N * i + n) + b < eb * N * M := by
    have := place_within eb hi hn
    rw [← Nat.mul_assoc] at this
    omega
  rw [Nat.add_assoc, getD_putBytes_at (by rw [length_rows]; exact hplace), getD_rows E hi hn hb]

end Sys2Proof.Machine
end

section
/-!
The elements an MMA leaves, as sums of the products of a tile and the mapped matrix, and what the engine does with each head of a
queue.
-/

namespace Sys2Proof.Machine

/-- What an element comes to in a floating type (R128): one block, or for dm8 two. -/
def treeSum (F : FFmt) (c : FCtl) (ty : Nat) (acc0 : Option Nat) (p : Nat → Option FVal) : Option Nat :=
  let l := if ty = 3 ∨ ty = 4 then 3 else 4
  if ty = 0 then addRoot F c (firstOf F c acc0 p l) (blockRoot F c p l 1) else firstOf F c acc0 p l

/-- The first root, with C where the MMA reads it. -/
theorem firstOf_overwrite (F : FFmt) (c : FCtl) (overwrite : Bool) (C : Nat) (p : Nat → Option FVal) (l : Nat) :
    firstOf F c (if (!overwrite) = true then some C else none) p l =
      if overwrite then blockRoot F c p l 0 else some (firstRoot F c p l C) := by
  cases overwrite <;> rfl

theorem dotAccumulate_shape (F : FFmt) (c : FCtl) {ty : Nat} (h : ty < 5) (acc0 : Option Nat) (f : Nat → MNode) :
    (dotAccumulate F c (mshape ty).blk acc0 ((List.range (mshape ty).k).map f)).1 =
      (treeSum F c ty acc0 fun j => nodeValue (f j)).getD 0 := by
  interval_cases ty
  · exact dotAccumulate_two F c acc0 f (l := 4) (by decide)
  · exact dotAccumulate_one F c acc0 f (l := 4) (by decide)
  · exact dotAccumulate_one F c acc0 f (l := 4) (by decide)
  · exact dotAccumulate_one F c acc0 f (l := 3) (by decide)
  · exact dotAccumulate_one F c acc0 f (l := 3) (by decide)

section
variable {mode fmt : Word} {withC : Bool} {a acc : List Byte} {b : Nat → Nat → Option Nat} {i n : Nat}

/-- An element in a floating type. -/
theorem mmaElem_float (hty : fmtAtype fmt < 5) {A B : Nat → Nat} {pad : Nat → Bool} {old : Nat}
    (hA : ∀ j, j < (mshape (fmtAtype fmt)).k → elemAt a (mshape (fmtAtype fmt)).size (i * (mshape (fmtAtype fmt)).k + j) = A j)
    (hB : ∀ j, b j n = if pad j then none else some (B j))
    (hold : elemAt acc (acctBytes (fmtAcct fmt)) (i * (mshape (fmtAtype fmt)).n + n) = old) :
    (mmaElem mode fmt withC a acc b i n).1 =
      (treeSum (acctFmt (fmtAcct fmt)) (ctlOf mode) (fmtAtype fmt) (if withC then some old else none) fun j =>
        if pad j then none else some ((matOperand (ctlOf mode) (fmtAtype fmt) (fmtAscale fmt) (A j)).mul
          (matOperand (ctlOf mode) (fmtBtype fmt) (fmtBscale fmt) (B j))).1).getD 0 := by
  obtain ⟨f, hf⟩ : ∃ f : Nat → MNode, f = fun j => if pad j then none else
    some ((matOperand (ctlOf mode) (fmtAtype fmt) (fmtAscale fmt) (A j)).mul (matOperand (ctlOf mode) (fmtBtype fmt) (fmtBscale fmt) (B j))) :=
    ⟨_, rfl⟩
  have hproducts : ((List.range (mshape (fmtAtype fmt)).k).map fun j => (b j n).map fun y =>
      (matOperand (ctlOf mode) (fmtAtype fmt) (fmtAscale fmt) (elemAt a (mshape (fmtAtype fmt)).size (i * (mshape (fmtAtype fmt)).k + j))).mul
        (matOperand (ctlOf mode) (fmtBtype fmt) (fmtBscale fmt) y)) = (List.range (mshape (fmtAtype fmt)).k).map f := by
    refine List.map_congr_left fun j hj => ?_
    rw [hA j (List.mem_range.1 hj), hB, hf]
    cases h : pad j <;> simp [h]
  have hvalues : (fun j => nodeValue (f j)) = fun j => if pad j then none else
      some ((matOperand (ctlOf mode) (fmtAtype fmt) (fmtAscale fmt) (A j)).mul
        (matOperand (ctlOf mode) (fmtBtype fmt) (fmtBscale fmt) (B j))).1 := by
    funext j
    rw [hf]
    cases h : pad j <;> simp [h, nodeValue]
  unfold mmaElem
  dsimp only
  rw [if_neg (by omega), hold, hproducts, dotAccumulate_shape _ _ hty, hvalues]

/-- An element in int8. -/
theorem mmaElem_int (hty : fmtAtype fmt = 5) {A B : Nat → Int}
    (hA : ∀ j, j < 64 → signOf 8 (elemAt a 1 (i * 64 + j)) = A j) (hB : ∀ j, ((b j n).map (signOf 8)).getD 0 = B j) {old : Nat}
    (hold : elemAt acc (acctBytes (fmtAcct fmt)) (i * 32 + n) = old) (hlt : old < 2 ^ 32) :
    BitVec.ofNat 32 (mmaElem mode fmt withC a acc b i n).1 =
      (if withC then BitVec.ofNat 32 old else 0) + BitVec.ofInt 32 ((List.range 64).map fun j => A j * B j).sum := by
  have hsum : ((List.range 64).map fun j => ((b j n).map fun y => signOf 8 (elemAt a 1 (i * 64 + j)) * signOf 8 y).getD 0) =
      (List.range 64).map fun j => A j * B j := by
    refine List.map_congr_left fun j hj => ?_
    rw [hA j (List.mem_range.1 hj), ← hB]
    cases b j n <;> simp
  have hacc : (if withC = true then old else 0) < 2 ^ 32 := by
    split <;> omega
  unfold mmaElem
  dsimp only
  rw [if_pos hty, hty, show mshape 5 = ⟨32, 32, 64, 1, 32⟩ from rfl]
  dsimp only
  rw [hold, dotInt_eq hacc, hsum]
  cases withC <;> rfl

end

/-! ## Elements of an MMA at the head of a queue -/

section
variable (s : State) (w : Workgroup) (e : MEntry) (tile acc map : Nat) (withC : Bool)

/-- The bytes of an MMA's results. -/
def mmaImage : List Byte := (s.mmaCompute w e (mapBytes w.tiles (2048 * tile) 2048) acc map withC).flatMap fun r =>
  bytesOfNat (acctBytes (fmtAcct e.fmt)) r.1

/-- The number an accumulator's element holds. -/
def accElem (m : SMap Byte) (eb k : Nat) : Nat := natOfBytes ((List.range eb).map fun b => m.getD (4096 * acc + eb * k + b) 0)

variable {s w e tile acc map withC} {i n : Nat} (hi : i < (mshape (fmtAtype e.fmt)).m) (hn : n < (mshape (fmtAtype e.fmt)).n)
include hi hn

/-- An element after its MMA. -/
theorem accElem_mmaImage : accElem acc (putBytes w.accs (4096 * acc) (mmaImage s w e tile acc map withC)) (acctBytes (fmtAcct e.fmt))
      ((mshape (fmtAtype e.fmt)).n * i + n) =
    (mmaElem e.mode e.fmt withC (mapBytes w.tiles (2048 * tile) 2048) (mapBytes w.accs (4096 * acc) 4096)
      (s.readB w.id.ticket (w.maps.getD map 0) (mshape (fmtAtype e.fmt))) i n).1 % 256 ^ acctBytes (fmtAcct e.fmt) := by
  unfold mmaImage State.mmaCompute
  dsimp only
  rw [mmaResult_eq]
  exact natOfBytes_putBytes_rows w.accs (4096 * acc) (mmaElem e.mode e.fmt withC _ _ _) _ hi hn

/-- Every element of a shape lies in its accumulator. -/
theorem acc_place (hfit : acctBytes (fmtAcct e.fmt) * ((mshape (fmtAtype e.fmt)).n * (mshape (fmtAtype e.fmt)).m) ≤ 4096) :
    elemAt (mapBytes w.accs (4096 * acc) 4096) (acctBytes (fmtAcct e.fmt)) (i * (mshape (fmtAtype e.fmt)).n + n) =
      accElem acc w.accs (acctBytes (fmtAcct e.fmt)) ((mshape (fmtAtype e.fmt)).n * i + n) := by
  rw [Nat.mul_comm i]
  exact elemAt_mapBytes _ _ (Nat.le_trans (place_within _ hi hn) hfit)

omit hn in
/-- Every element of a row lies in its tile. -/
theorem tile_place (hty : fmtAtype e.fmt ≤ 5) {j : Nat} (hj : j < (mshape (fmtAtype e.fmt)).k) :
    elemAt (mapBytes w.tiles (2048 * tile) 2048) (mshape (fmtAtype e.fmt)).size (i * (mshape (fmtAtype e.fmt)).k + j) =
      natOfBytes ((List.range (mshape (fmtAtype e.fmt)).size).map fun b =>
        w.tiles.getD (2048 * tile + (i * (mshape (fmtAtype e.fmt)).k + j) * (mshape (fmtAtype e.fmt)).size + b) 0) := by
  have hfull := mshape_tile hty
  generalize mshape (fmtAtype e.fmt) = sh at hi hj hfull ⊢
  rw [Nat.mul_comm (i * sh.k + j) sh.size, Nat.mul_comm i]
  refine elemAt_mapBytes _ _ (Nat.le_trans (place_within _ hi hj) ?_)
  rw [← Nat.mul_assoc, hfull]

theorem mma_float (hty : fmtAtype e.fmt < 5) (hacct : fmtAcct e.fmt = if fmtAtype e.fmt = 4 then 1 else 0) :
    accElem acc (putBytes w.accs (4096 * acc) (mmaImage s w e tile acc map withC)) (acctBytes (fmtAcct e.fmt))
      ((mshape (fmtAtype e.fmt)).n * i + n) =
    (treeSum (acctFmt (fmtAcct e.fmt)) (ctlOf e.mode) (fmtAtype e.fmt)
      (if withC then some (accElem acc w.accs (acctBytes (fmtAcct e.fmt)) ((mshape (fmtAtype e.fmt)).n * i + n)) else none) fun j =>
        if mapPadding (w.maps.getD map 0) j n then none
        else some ((matOperand (ctlOf e.mode) (fmtAtype e.fmt) (fmtAscale e.fmt)
            (natOfBytes ((List.range (mshape (fmtAtype e.fmt)).size).map fun b =>
              w.tiles.getD (2048 * tile + (i * (mshape (fmtAtype e.fmt)).k + j) * (mshape (fmtAtype e.fmt)).size + b) 0))).mul
          (matOperand (ctlOf e.mode) (fmtBtype e.fmt) (fmtBscale e.fmt)
            (natOfBytes (s.readBytes (windowKey w.id.ticket (mapOffset (w.maps.getD map 0) j n)) (mshape (fmtAtype e.fmt)).size)))).1).getD 0
      % 256 ^ acctBytes (fmtAcct e.fmt) := by
  have hfit : acctBytes (fmtAcct e.fmt) * ((mshape (fmtAtype e.fmt)).n * (mshape (fmtAtype e.fmt)).m) ≤ 4096 := by
    rw [hacct]
    clear hacct hi hn
    generalize fmtAtype e.fmt = ty at hty
    interval_cases ty <;> decide
  rw [accElem_mmaImage hi hn, mmaElem_float hty (fun j hj => tile_place hi hty.le hj) (fun j => rfl) (acc_place hi hn hfit)]

omit hi hn in
theorem mma_int {i n : Nat} (hi : i < 32) (hn : n < 32) (hty : fmtAtype e.fmt = 5) (hacct : fmtAcct e.fmt = 2) :
    BitVec.ofNat 32 (accElem acc (putBytes w.accs (4096 * acc) (mmaImage s w e tile acc map withC)) 4 (32 * i + n)) =
      (if withC then BitVec.ofNat 32 (accElem acc w.accs 4 (32 * i + n)) else 0) +
        BitVec.ofInt 32 ((List.range 64).map fun j => (w.tiles.getD (2048 * tile + 64 * i + j) 0 : Byte).toInt *
          if mapPadding (w.maps.getD map 0) j n then 0
          else (s.readByte (windowKey w.id.ticket (mapOffset (w.maps.getD map 0) j n)) : Byte).toInt).sum := by
  have hsh : mshape (fmtAtype e.fmt) = ⟨32, 32, 64, 1, 32⟩ := by rw [hty]; rfl
  have heb : acctBytes (fmtAcct e.fmt) = 4 := by rw [hacct]; rfl
  have hbyte (x : Byte) : signOf 8 (natOfBytes [x]) = x.toInt := by
    rw [natOfBytes, natOfBytes, Nat.mul_zero, Nat.add_zero, signOf_eq_toInt (by decide) x.isLt, BitVec.ofNat_toNat, BitVec.setWidth_eq]
  have hA (j : Nat) (hj : j < 64) : signOf 8 (elemAt (mapBytes w.tiles (2048 * tile) 2048) 1 (i * 64 + j)) =
      (w.tiles.getD (2048 * tile + 64 * i + j) 0 : Byte).toInt := by
    rw [elemAt_mapBytes _ _ (by omega), ← hbyte]
    simp [Nat.mul_comm i 64, Nat.add_assoc]
  have hB (j : Nat) : ((s.readB w.id.ticket (w.maps.getD map 0) ⟨32, 32, 64, 1, 32⟩ j n).map (signOf 8)).getD 0 =
      if mapPadding (w.maps.getD map 0) j n then 0
      else (s.readByte (windowKey w.id.ticket (mapOffset (w.maps.getD map 0) j n)) : Byte).toInt := by
    unfold State.readB
    split
    · rfl
    · exact hbyte _
  have helem := accElem_mmaImage (s := s) (w := w) (e := e) (tile := tile) (acc := acc) (map := map) (withC := withC)
    (i := i) (n := n) (by rw [hsh]; exact hi) (by rw [hsh]; exact hn)
  have hold : elemAt (mapBytes w.accs (4096 * acc) 4096) (acctBytes (fmtAcct e.fmt)) (i * 32 + n) = accElem acc w.accs 4 (32 * i + n) := by
    rw [heb, Nat.mul_comm i]
    exact elemAt_mapBytes _ _ (by omega)
  have hlt : accElem acc w.accs 4 (32 * i + n) < 2 ^ 32 :=
    (natOfBytes_lt _).trans_eq (by simp)
  rw [hsh, heb] at helem
  have hmod (x : Nat) : BitVec.ofNat 32 (x % 256 ^ 4) = BitVec.ofNat 32 x := BitVec.eq_of_toNat_eq (by simp)
  rw [helem, hmod, mmaElem_int hty hA hB hold hlt]

end

end Sys2Proof.Machine
end

section
/-!
What the engine does with the head of a queue (O40).
-/

namespace Sys2Proof.Machine

/-- Settles O40: each clause is the lemma about the entry's operation; for a transfer its bytes are followed line by line. -/
theorem matrixQueueExecutes : Obligations.MatrixQueueExecutes := by
  unfold Obligations.MatrixQueueExecutes
  intro s g w e q u hw hq hr hu hn hi hspecs hcopies hspec v keys hlen sound reached
  refine ⟨_, exec_matrixQueueExecute hw hq hr, fun acc hop => mza_executes hw hq hu hop, fun m d hop => mmap_executes hw hq hu hop,
    fun k hop => mchk_executes hw hq hu hop hn, fun tile hop hsound hreach => ?_, fun tile hop hsound hreach hty hkeys => ?_,
    fun acc hop hsound hreach => ?_, fun acc hop hsound hreach hnodup hkeys hcoh hks hsent => ?_,
    fun acc hop hsound hreach hnodup hcoh hks hsent => ?_, fun acc tile map reuse overwrite hop => ?_⟩
  · obtain ⟨hwg, hbytes⟩ := mldt_executes hw hq hu hi hcopies hspec hlen hsound hop hreach.2
    obtain ⟨hput, houtside⟩ := getD_putBytes_map w.tiles (2048 * tile) s.readByte keys
    exact ⟨_, hwg, rfl, hbytes, rfl, rfl, hput, houtside⟩
  · obtain ⟨hwg, hbytes⟩ := mldt_executes hw hq hu hi hcopies hspec hlen hsound hop hreach.2
    obtain ⟨hput, houtside⟩ := getD_putBytes_transposed hty hkeys w.tiles (2048 * tile) s.readByte
    exact ⟨_, hwg, rfl, hbytes, rfl, hput, houtside⟩
  · obtain ⟨hwg, hbytes⟩ := mlda_executes hw hq hu hi hcopies hspec hlen hsound hop hreach.2
    obtain ⟨hput, houtside⟩ := getD_putBytes_map w.accs (4096 * acc) s.readByte keys
    exact ⟨_, hwg, rfl, hbytes, rfl, hput, houtside⟩
  · obtain ⟨hlength, hbyte⟩ := mstaImage_plain e.mode e.fmt w.accs (4096 * acc)
    obtain ⟨hwg, hseen, hothers⟩ := msta_executes hw hq hu hi hspecs hcopies hspec hlen hsound hreach.2 hnodup hcoh hks hsent hop rfl
      (hlength.trans hkeys.symm)
    refine ⟨_, hwg, rfl, rfl, rfl, fun j k hjk => (hseen j k hjk).trans (hbyte j ?_), hothers⟩
    exact hkeys ▸ (List.getElem?_eq_some_iff.1 hjk).1
  · intro side eb sz hkeys c x lands
    obtain ⟨hlength, hbyte⟩ := mstaImage_converted e.mode e.fmt w.accs (4096 * acc)
    obtain ⟨hwg, hseen, -⟩ := msta_executes hw hq hu hi hspecs hcopies hspec hlen hsound hreach.2 hnodup hcoh hks hsent hop rfl
      (hlength.trans hkeys.symm)
    have hlands (i : Nat) (hi : i < side * side) : lands i (mstaElem e.mode e.fmt (x i)).1 :=
      fun b k hb hk => (hseen _ k hk).trans (hbyte i b hi hb)
    refine ⟨⟨_, hwg, rfl, rfl⟩, fun i hi => ⟨fun hacc hty => ?_, fun hacc hty => ?_, fun hacc hrnd hos => ?_⟩⟩
    · exact mstaElem_float hacc hty (x i) ▸ hlands i hi
    · exact mstaElem_dm8 hacc hty (x i) ▸ hlands i hi
    · have hx : x i < 2 ^ 32 := by
        have heb : eb = 4 := if_neg (by omega)
        exact (natOfBytes_lt _).trans_eq (by simp [heb])
      obtain ⟨n, hnear, heven, helem⟩ := mstaElem_int hacc hrnd hos hx
      exact ⟨n, hnear, heven, helem ▸ hlands i hi⟩
  · intro f d sh hB bytes
    obtain ⟨hwg, hbytes⟩ := mma_executes hw hq hu hi hop hB
    refine ⟨⟨_, hwg, rfl, rfl, rfl, hbytes, fun j hj => getD_putBytes_at hj _ _, fun o ho => getD_putBytes_outside _ _ ho⟩,
      fun hty hacct i n hi hn => ?_, fun hty hacct i n hi hn => ?_⟩
    · intro c F eb tileElem p old levels first sum
      refine ⟨_, hwg, ?_⟩
      have htree : treeSum F c (fmtAtype f) (if (!overwrite) = true then some (old w.accs) else none) p = sum := by
        unfold treeSum
        dsimp only
        rw [firstOf_overwrite]
      obtain rfl := wg_id hw
      calc old _ = (treeSum F c (fmtAtype f) (if (!overwrite) = true then some (old w.accs) else none) p).getD 0 % 256 ^ eb :=
            mma_float (s := s) hi hn hty hacct
        _ = sum.getD 0 % 2 ^ (8 * eb) := by rw [htree, Nat.pow_mul]
    · intro A B at'
      refine ⟨_, hwg, ?_⟩
      obtain rfl := wg_id hw
      have hsum := mma_int (s := s) (w := w) (e := e) (tile := tile) (acc := acc) (map := map) (withC := !overwrite) hi hn hty hacct
      cases overwrite <;> exact hsum

end Sys2Proof.Machine
end
